-- ==== Sys2Proof/Word.lean ====
section
/-! DEFINITION. The word types of the HX9 (R1, R25, R77, R108). -/

namespace Sys2Proof

/-- One byte of memory (R1). -/
abbrev Byte := BitVec 8
/-- A 32-bit word: a scalar word, a literal, a lane value of a vector register (R25, R108). -/
abbrev W32 := BitVec 32
/-- A 64-bit word: a scalar register, a program counter, a virtual address (R26, R108, R183). -/
abbrev W64 := BitVec 64
/-- A 96-bit lane slot: a lane word or a trailing literal (R25, R42). -/
abbrev Slot := BitVec 96
/-- A 128-bit accumulator element (R68) or operand of `.add128` (R254). -/
abbrev W128 := BitVec 128
/-- A mask over the 1,024 lanes a team may have (R77, R108). -/
abbrev Mask := BitVec 1024

end Sys2Proof
end

