-- ==== Sys2Proof/Syntax.lean ====
section
/-! DEFINITION. The instruction set as syntax: one constructor of `Instr` for every row of
spec/opcode_table.json. The first 177 constructors are the words a crew runs (R50, R51); the others are the
steps of the device's other agents and of the host, each named by the rule in its comment. -/

namespace Sys2Proof

/-- The type codes 0 to 14 of R39; code 15 is no type. -/
inductive Ty where
  | i32 | n32 | i64 | n64 | f32 | f64 | f16 | bf16
  | f8e4 | f8e5 | i16x2 | n16x2 | b32 | i8x4 | n8x4
  deriving DecidableEq, Repr

/-- Source b of a scalar word: a register, or the literal word that follows (R32). -/
inductive SSrc where
  | reg (r : BitVec 6)
  | lit (w : W32)
  deriving DecidableEq, Repr

/-- The switch marker and the mask register field that every lane word has (R36, R38). -/
structure Hdr where
  sw   : Bool
  mask : BitVec 4
  deriving DecidableEq, Repr

/-- The layout A modifiers other than sb and ib (R40). -/
structure Mods where
  rnd : BitVec 2
  alt : Bool
  na  : Bool
  aa  : Bool
  nb  : Bool
  ab  : Bool
  nc  : Bool
  ac  : Bool
  ftz : Bool
  deriving DecidableEq, Repr

/-- Source b of a layout A word: a vector register (or the mask register a cross-lane word names), a scalar
register (sb), the constant of bits 31–0 (ib), or a trailing literal of three constants (R40, R42). -/
inductive SrcB where
  | reg  (r : BitVec 8)
  | sreg (r : BitVec 6)
  | imm  (k : W32)
  | lit  (l0 l1 l2 : W32)
  deriving DecidableEq, Repr

/-- A layout A lane word without its opcode (R36, R40). `x` holds bits 31–0 when they are no ib constant. -/
structure LaneA where
  h  : Hdr
  ty : Ty
  d  : BitVec 8
  a  : BitVec 8
  b  : SrcB
  c  : BitVec 8
  m  : Mods
  x  : W32
  deriving DecidableEq, Repr

/-- The base of a memory word's address: a scalar register (sb) or the vector field b (R196, R228). -/
inductive Base where
  | sreg (r : BitVec 6)
  | vreg (r : BitVec 8)
  deriving DecidableEq, Repr

/-- A layout M lane word without its opcode (R36, R41, R196). `mem` is bits 31–30 and `off` bits 29–0. -/
structure LaneM where
  h     : Hdr
  ty    : Ty
  d     : BitVec 8
  a     : BitVec 8
  base  : Base
  c     : BitVec 8
  scope : BitVec 3
  order : BitVec 2
  inv   : Bool
  nt    : Bool
  x     : BitVec 2
  y     : BitVec 2
  mem   : BitVec 2
  off   : BitVec 30
  deriving DecidableEq, Repr

/-- An atomic word without its opcode (R253): as `LaneM`, with the op in bits 31–28. -/
structure LaneAt where
  h     : Hdr
  ty    : Ty
  d     : BitVec 8
  a     : BitVec 8
  base  : Base
  c     : BitVec 8
  scope : BitVec 3
  order : BitVec 2
  x     : BitVec 2
  y     : BitVec 2
  op    : BitVec 4
  off   : BitVec 28
  deriving DecidableEq, Repr

/-- The handle of ESTADD: in a scalar register or constant (R336). -/
inductive HandleSrc where
  | sreg (r : BitVec 6)
  | imm  (h : BitVec 16)
  deriving DecidableEq, Repr

/-- The slab number of MMA: constant, or in a scalar register (R299). -/
inductive SlabSrc where
  | imm  (n : BitVec 6)
  | sreg (r : BitVec 6)
  deriving DecidableEq, Repr

/-- A path named from outside: the core it is resident on, its crew slot and its path-table index (R396). -/
structure PathRef where
  core : Nat
  slot : Nat
  path : Nat
  deriving DecidableEq, Repr

/-- A team of a launch of a partition (R396, R411). -/
structure TeamRef where
  part   : Nat
  launch : Nat
  team   : Nat
  deriving DecidableEq, Repr

/-- A launch of a partition (R316). -/
structure LaunchRef where
  part   : Nat
  launch : Nat
  deriving DecidableEq, Repr

/-- Every instruction word and every machine step of spec/opcode_table.json. -/
inductive Instr where
  | nop  -- NOP (R93)
  | issue (n : BitVec 7) (rep : BitVec 12)  -- ISSUE (R91)
  | issueReg (rs : BitVec 6) (n : BitVec 7)  -- ISSUE_REG (R91)
  | lpc (lo : BitVec 12)  -- LPC (R92)
  | split (a : BitVec 4) (so lo : BitVec 16)  -- SPLIT (R98)
  | splitReg (a : BitVec 4) (b : BitVec 6)  -- SPLIT_REG (R98)
  | join (a : BitVec 4)  -- JOIN (R99)
  | br (so : BitVec 13) (lo : BitVec 12)  -- BR (R94)
  | brLong (so lo : BitVec 16)  -- BR_LONG (R94)
  | call (so : BitVec 13) (lo : BitVec 12)  -- CALL (R96)
  | callLong (so lo : BitVec 16)  -- CALL_LONG (R96)
  | ret  -- RET (R96)
  | loop (so : BitVec 13) (lo : BitVec 12)  -- LOOP (R95)
  | brm (a : BitVec 4) (test : BitVec 2) (so lo : BitVec 16)  -- BRM (R94)
  | exit  -- EXIT (R101)
  | brc (c : BitVec 3) (so : BitVec 13) (lo : BitVec 12)  -- BRC (R94)
  | bar (b m : BitVec 4)  -- BAR (R103)
  | arrive (d : BitVec 6) (b m : BitVec 4)  -- ARRIVE (R103)
  | bwait (b : BitVec 4) (r : BitVec 6)  -- BWAIT (R103)
  | rolesigPost (crew : BitVec 2) (b : BitVec 6)  -- ROLESIG_POST (R106)
  | rolesigTake (b : BitVec 6)  -- ROLESIG_TAKE (R106)
  | trap (code : BitVec 13)  -- TRAP (R381)
  | tret  -- TRET (R382)
  | tretSkip  -- TRET_SKIP (R382)
  | haltd (tag : BitVec 6)  -- HALTD (R393)
  | yield  -- YIELD (R394)
  | sadd (d a : BitVec 6) (b : SSrc)  -- SADD (R150)
  | ssub (d a : BitVec 6) (b : SSrc)  -- SSUB (R150)
  | smul (d a : BitVec 6) (b : SSrc)  -- SMUL (R150)
  | smulh (d a : BitVec 6) (b : SSrc)  -- SMULH (R150)
  | smulhn (d a : BitVec 6) (b : SSrc)  -- SMULHN (R150)
  | sdiv (d a : BitVec 6) (b : SSrc)  -- SDIV (R151)
  | sdivn (d a : BitVec 6) (b : SSrc)  -- SDIVN (R151)
  | srem (n : Bool) (d a : BitVec 6) (b : SSrc)  -- SREM (R151)
  | sand (d a : BitVec 6) (b : SSrc)  -- SAND (R150)
  | sor (d a : BitVec 6) (b : SSrc)  -- SOR (R150)
  | sxor (d a : BitVec 6) (b : SSrc)  -- SXOR (R150)
  | sshl (d a : BitVec 6) (b : SSrc)  -- SSHL (R150)
  | sshr (d a : BitVec 6) (b : SSrc)  -- SSHR (R150)
  | ssar (d a : BitVec 6) (b : SSrc)  -- SSAR (R150)
  | smin (d a : BitVec 6) (b : SSrc)  -- SMIN (R150)
  | smax (d a : BitVec 6) (b : SSrc)  -- SMAX (R150)
  | sminn (d a : BitVec 6) (b : SSrc)  -- SMINN (R150)
  | smaxn (d a : BitVec 6) (b : SSrc)  -- SMAXN (R150)
  | scmp (cc : BitVec 4) (d : BitVec 3) (a : BitVec 6) (b : SSrc)  -- SCMP (R152)
  | ssel (d a : BitVec 6) (b : SSrc) (k : BitVec 3)  -- SSEL (R153)
  | sbfe (sgn : Bool) (d a : BitVec 6) (b : SSrc)  -- SBFE (R154)
  | spopc (d a : BitVec 6)  -- SPOPC (R155)
  | sclz (d a : BitVec 6)  -- SCLZ (R155)
  | slit (d : BitVec 6) (lit : W32)  -- SLIT (R157)
  | slitHi (d a : BitVec 6) (lit : W32)  -- SLIT_HI (R157)
  | sli (d : BitVec 6) (imm : BitVec 19)  -- SLI (R157)
  | saddi (d a : BitVec 6) (imm : BitVec 13)  -- SADDI (R156)
  | sandi (d a : BitVec 6) (imm : BitVec 13)  -- SANDI (R156)
  | sori (d a : BitVec 6) (imm : BitVec 13)  -- SORI (R156)
  | sxori (d a : BitVec 6) (imm : BitVec 13)  -- SXORI (R156)
  | sshli (d a : BitVec 6) (k : BitVec 6)  -- SSHLI (R156)
  | sshri (d a : BitVec 6) (k : BitVec 6)  -- SSHRI (R156)
  | srd (d : BitVec 6) (addr : BitVec 12)  -- SRD (R158)
  | swr (addr : BitVec 12) (r : BitVec 6)  -- SWR (R158)
  | time (d : BitVec 6)  -- TIME (R160)
  | timeCyc (d : BitVec 6)  -- TIME_CYC (R160)
  | tagof (d a : BitVec 6) (v : BitVec 8)  -- TAGOF (R120)
  | reggrow (d : BitVec 6) (wait : Bool) (target : BitVec 9)  -- REGGROW (R117)
  | regshrink (d : BitVec 6) (target : BitVec 9)  -- REGSHRINK (R119)
  | rotset (size : BitVec 7)  -- ROTSET (R123)
  | propose (base : BitVec 8) (len : BitVec 4)  -- PROPOSE (R136)
  | abandon  -- ABANDON (R140)
  | pstat (d : BitVec 6) (sel : BitVec 2)  -- PSTAT (R141)
  | mand (d a b : BitVec 4)  -- MAND (R161)
  | mor (d a b : BitVec 4)  -- MOR (R161)
  | mxor (d a b : BitVec 4)  -- MXOR (R161)
  | mnot (d a : BitVec 4)  -- MNOT (R161)
  | mpop (d : BitVec 6) (a : BitVec 4)  -- MPOP (R161)
  | mexec (a : BitVec 4)  -- MEXEC (R161)
  | sld (d a : BitVec 6) (w : BitVec 3) (off : BitVec 10)  -- SLD (R204)
  | sst (d a : BitVec 6) (w : BitVec 3) (off : BitVec 10)  -- SST (R204)
  | sldk (d a : BitVec 6) (k : BitVec 13)  -- SLDK (R204)
  | handoverIn (a b : BitVec 6)  -- HANDOVER_IN (R214)
  | handoverOut (a b : BitVec 6)  -- HANDOVER_OUT (R214)
  | wait (a : BitVec 6) (path : BitVec 3)  -- WAIT (R236)
  | bankset (d a : BitVec 6) (mode : BitVec 2)  -- BANKSET (R221)
  | fence (order : BitVec 2) (scope : BitVec 3)  -- FENCE (R251)
  | cwait (d a b : BitVec 6) (eq : Bool) (scope : BitVec 3)  -- CWAIT (R252)
  | yjob (d a : BitVec 6)  -- YJOB (R278)
  | ystat (d a : BitVec 6) (wait : Bool)  -- YSTAT (R279)
  | deckFence  -- DECK_FENCE (R281)
  | deckQuery (d : BitVec 6)  -- DECK_QUERY (R281)
  | obres (d a : BitVec 6) (wait : Bool) (res : BitVec 3)  -- OBRES (R293)
  | obrel (res : BitVec 3)  -- OBREL (R294)
  | gang (a : BitVec 6)  -- GANG (R297)
  | accz (tile : BitVec 2) (res : BitVec 3)  -- ACCZ (R307)
  | acczFree (tile : BitVec 2)  -- ACCZ_FREE (R307)
  | launch (d a : BitVec 6)  -- LAUNCH (R329)
  | cidx (d a : BitVec 6)  -- CIDX (R330)
  | cidxRank (d a : BitVec 6)  -- CIDX_RANK (R330)
  | estrd (d a : BitVec 6)  -- ESTRD (R347)
  | estrdCpl (d : BitVec 6)  -- ESTRD_CPL (R347)
  | estwait (d a : BitVec 6) (test : BitVec 2)  -- ESTWAIT (R348)
  | eststat (d a : BitVec 6)  -- ESTSTAT (R349)
  | eststatReset (d a : BitVec 6) (conf : BitVec 2)  -- ESTSTAT_RESET (R349)
  | blaze (k : BitVec 3) (so : BitVec 13) (lo : BitVec 12)  -- BLAZE (R53)
  | blazeTrap (k : BitVec 3)  -- BLAZE_TRAP (R53)
  | vmov (w : LaneA)  -- VMOV (R171)
  | vadd (w : LaneA)  -- VADD (R166)
  | vsub (w : LaneA)  -- VSUB (R166)
  | vmul (w : LaneA)  -- VMUL (R166)
  | vmulh (w : LaneA)  -- VMULH (R166)
  | vmad (w : LaneA)  -- VMAD (R166)
  | vabsd (w : LaneA)  -- VABSD (R166)
  | vmin (w : LaneA)  -- VMIN (R166)
  | vmax (w : LaneA)  -- VMAX (R166)
  | vand (w : LaneA)  -- VAND (R166)
  | vor (w : LaneA)  -- VOR (R166)
  | vxor (w : LaneA)  -- VXOR (R166)
  | vtri (w : LaneA)  -- VTRI (R167)
  | vsel (w : LaneA)  -- VSEL (R171)
  | vcmp (w : LaneA)  -- VCMP (R172)
  | vshl (w : LaneA)  -- VSHL (R168)
  | vshr (w : LaneA)  -- VSHR (R168)
  | vsar (w : LaneA)  -- VSAR (R168)
  | vfshl (w : LaneA)  -- VFSHL (R169)
  | vfshr (w : LaneA)  -- VFSHR (R169)
  | vpopc (w : LaneA)  -- VPOPC (R170)
  | vclz (w : LaneA)  -- VCLZ (R170)
  | vbrev (w : LaneA)  -- VBREV (R170)
  | vbfe (w : LaneA)  -- VBFE (R170)
  | vbfi (w : LaneA)  -- VBFI (R170)
  | vlane (w : LaneA)  -- VLANE (R173)
  | fadd (w : LaneA)  -- FADD (R174)
  | fsub (w : LaneA)  -- FSUB (R174)
  | fmul (w : LaneA)  -- FMUL (R174)
  | ffma (w : LaneA)  -- FFMA (R174)
  | fmin (w : LaneA)  -- FMIN (R174)
  | fmax (w : LaneA)  -- FMAX (R174)
  | fcmp (w : LaneA)  -- FCMP (R175)
  | fclass (w : LaneA)  -- FCLASS (R176)
  | frcp (w : LaneA)  -- FRCP (R177)
  | frsq (w : LaneA)  -- FRSQ (R177)
  | fsqrt (w : LaneA)  -- FSQRT (R177)
  | fdiv (w : LaneA)  -- FDIV (R177)
  | fexp2 (w : LaneA)  -- FEXP2 (R177)
  | flog2 (w : LaneA)  -- FLOG2 (R177)
  | fcvt (w : LaneA)  -- FCVT (R178)
  | frnd (w : LaneA)  -- FRND (R179)
  | vshuf (w : LaneA)  -- VSHUF (R180)
  | vbcast (w : LaneA)  -- VBCAST (R180)
  | vrot (w : LaneA)  -- VROT (R180)
  | vscan (w : LaneA)  -- VSCAN (R181)
  | vred (w : LaneA)  -- VRED (R181)
  | msave (w : LaneA)  -- MSAVE (R182)
  | mload (w : LaneA)  -- MLOAD (R182)
  | accept (h : Hdr) (d : BitVec 4) (a : BitVec 8) (b : Option (BitVec 8))  -- ACCEPT (R139)
  | qpush (h : Hdr) (ty : Ty) (c : BitVec 8) (q : BitVec 4)  -- QPUSH (R284)
  | qpop (h : Hdr) (ty : Ty) (d : BitVec 8) (q : BitVec 4)  -- QPOP (R284)
  | rand (h : Hdr) (ty : Ty) (d : BitVec 8)  -- RAND (R353)
  | randf (h : Hdr) (ty : Ty) (d : BitVec 8)  -- RANDF (R353)
  | randn (h : Hdr) (ty : Ty) (d : BitVec 8)  -- RANDN (R353)
  | estadd (h : Hdr) (ty : Ty) (a : BitVec 8) (hs : HandleSrc)  -- ESTADD (R337)
  | vld (w : LaneM)  -- VLD (R199)
  | vst (w : LaneM)  -- VST (R199)
  | vstSlc (w : LaneM)  -- VST_SLC (R201)
  | vpfx (w : LaneM)  -- VPFX (R202)
  | vat (w : LaneAt)  -- VAT (R255)
  | vatr (w : LaneAt)  -- VATR (R255)
  | vlds (w : LaneM)  -- VLDS (R229)
  | vsts (w : LaneM)  -- VSTS (R229)
  | fpush (h : Hdr) (ty : Ty) (c : BitVec 8) (rel : Bool) (f : BitVec 3)  -- FPUSH (R234)
  | fpop (h : Hdr) (ty : Ty) (d : BitVec 8) (acq : Bool) (f : BitVec 3)  -- FPOP (R234)
  | obld (w : LaneM)  -- OBLD (R295)
  | mma (h : Hdr) (b : BitVec 8) (tile : BitVec 2) (res : BitVec 3) (slab : SlabSrc) (fmt : BitVec 4)  -- MMA (R300)
  | accrd (h : Hdr) (ty : Ty) (d a : BitVec 8) (rnd : BitVec 2) (alt ftz : Bool) (tile : BitVec 2) (z : Bool)  -- ACCRD (R308)
  | accxRd (h : Hdr) (tile : BitVec 2) (d a : BitVec 8)  -- ACCX_RD (R309)
  | accxWr (h : Hdr) (tile : BitVec 2) (a c : BitVec 8)  -- ACCX_WR (R309)
  | accxAdd (h : Hdr) (tile : BitVec 2) (a c : BitVec 8)  -- ACCX_ADD (R309)
  | accxFlg (h : Hdr) (tile : BitVec 2) (d : BitVec 8)  -- ACCX_FLG (R309)
  | accxOrf (h : Hdr) (tile : BitVec 2) (c : BitVec 8)  -- ACCX_ORF (R309)
  | trapDispatch (p : PathRef)  -- TRAP_DISPATCH (R376)
  | deferralHoldExpiry (p : PathRef)  -- DEFERRAL_HOLD_EXPIRY (R376)
  | switchMarkerWaitEnd (p : PathRef)  -- SWITCH_MARKER_WAIT_END (R45)
  | longLatencyWriteback (core slot wid : Nat)  -- LONG_LATENCY_WRITEBACK (R43)
  | forwardProgressEviction (core : Nat)  -- FORWARD_PROGRESS_EVICTION (R90)
  | allotmentDeadlockEviction (core : Nat)  -- ALLOTMENT_DEADLOCK_EVICTION (R90)
  | reggrowGrant (p : PathRef)  -- REGGROW_GRANT (R117)
  | writeReservationGrant (p : PathRef)  -- WRITE_RESERVATION_GRANT (R118)
  | tileAllotment (p : PathRef)  -- TILE_ALLOTMENT (R231)
  | obresGrant (p : PathRef)  -- OBRES_GRANT (R293)
  | scratchRefillDone (p : PathRef)  -- SCRATCH_REFILL_DONE (R226)
  | bankDrainDone (stand bank : Nat)  -- BANK_DRAIN_DONE (R221)
  | loadTakesEffect (p : PathRef) (id : Nat)  -- LOAD_TAKES_EFFECT (R241)
  | storeTakesEffect (p : PathRef) (id : Nat)  -- STORE_TAKES_EFFECT (R241)
  | returningAtomic (p : PathRef) (id : Nat)  -- RETURNING_ATOMIC (R255)
  | commutativeMerge (stand k : Nat)  -- COMMUTATIVE_MERGE (R246)
  | stagingLogRelease (l : LaunchRef)  -- STAGING_LOG_RELEASE (R261)
  | ticketPass (l : LaunchRef)  -- TICKET_PASS (R261)
  | translationWalkDone (p : PathRef)  -- TRANSLATION_WALK_DONE (R193)
  | wordReplay (p : PathRef)  -- WORD_REPLAY (R206)
  | invalidationComplete (part : Nat)  -- INVALIDATION_COMPLETE (R194)
  | scrubComplete (frame : Nat)  -- SCRUB_COMPLETE (R213)
  | migration (part leaf : Nat)  -- MIGRATION (R211)
  | migrationComplete (part leaf : Nat)  -- MIGRATION_COMPLETE (R211)
  | jobDispatch (part : Nat)  -- JOB_DISPATCH (R265)
  | jobRemoteDispatch (part : Nat)  -- JOB_REMOTE_DISPATCH (R265)
  | jobComplete (part job : Nat)  -- JOB_COMPLETE (R275)
  | jointForm (t : TeamRef)  -- JOINT_FORM (R300)
  | jointComplete (core : Nat)  -- JOINT_COMPLETE (R302)
  | admission (part : Nat)  -- ADMISSION (R316)
  | placement (part : Nat)  -- PLACEMENT (R317)
  | priorityPreempt (part : Nat)  -- PRIORITY_PREEMPT (R318)
  | sliceExpiry (t : TeamRef)  -- SLICE_EXPIRY (R326)
  | timeLimit (l : LaunchRef)  -- TIME_LIMIT (R327)
  | teamSave (t : TeamRef)  -- TEAM_SAVE (R385)
  | commitStep (l : LaunchRef)  -- COMMIT_STEP (R339)
  | stopRuleFire (l : LaunchRef)  -- STOP_RULE_FIRE (R342)
  | launchCompletion (l : LaunchRef)  -- LAUNCH_COMPLETION (R414)
  | sensorSample  -- SENSOR_SAMPLE (R357)
  | refreshClassFall (pair : Nat)  -- REFRESH_CLASS_FALL (R358)
  | classChangeDone (part : Nat)  -- CLASS_CHANGE_DONE (R366)
  | haltLine (part : Nat)  -- HALT_LINE (R383)
  | stepComplete (p : PathRef)  -- STEP_COMPLETE (R405)
  | debugWriteVreg (part : Nat) (cmd : W64)  -- DEBUG_WRITE_VREG (R401)
  | debugWriteSreg (part : Nat) (cmd : W64)  -- DEBUG_WRITE_SREG (R401)
  | profileSample (core : Nat)  -- PROFILE_SAMPLE (R407)
  | partitionResetDone (part : Nat)  -- PARTITION_RESET_DONE (R415)
  | kickComplete (part : Nat)  -- KICK_COMPLETE (R413)
  | firmwareVerify  -- FIRMWARE_VERIFY (R419)
  | microcodeSwitch (unit : Nat)  -- MICROCODE_SWITCH (R420)
  | vaultRecalDone (vault : Nat)  -- VAULT_RECAL_DONE (R421)
  | handoverComplete (p : PathRef)  -- HANDOVER_COMPLETE (R214)
  | gatherQueueEntry (part job : Nat)  -- GATHER_QUEUE_ENTRY (R282)
  | storeBufferLeave (p : PathRef) (id : Nat)  -- STORE_BUFFER_LEAVE (R246)
  | coreClock (core : Nat)  -- CORE_CLOCK (R402)
  -- Steps that only the outside of the machine takes: the model never builds one.
  | faultAnswer (part : Nat) (v : W64)  -- FAULT_ANSWER (R207)
  | faultQueueBase (part : Nat) (v : W64)  -- FAULT_QUEUE_BASE (R208)
  | faultQueueHead (part : Nat) (v : W64)  -- FAULT_QUEUE_HEAD (R208)
  | invalidationGo (part : Nat) (v : W64)  -- INVALIDATION_GO (R215)
  | frameFree (part : Nat) (v : W64)  -- FRAME_FREE (R213)
  | nearRingSet (part : Nat) (v : W64)  -- NEAR_RING_SET (R216)
  | releasedRingSet (part : Nat) (v : W64)  -- RELEASED_RING_SET (R216)
  | collectiveTimeout (part job : Nat)  -- COLLECTIVE_TIMEOUT (R274)
  | teamRestore (t : TeamRef) (core : Nat)  -- TEAM_RESTORE (R390)
  | dramRefresh (vault bank : Nat)  -- DRAM_REFRESH (R358)
  | slopeEpisode (part : Nat) (on : Bool)  -- SLOPE_EPISODE (R369)
  | powerCapSet (part : Nat) (v : W64)  -- POWER_CAP_SET (R367)
  | powerShareSet (part : Nat) (v : W64)  -- POWER_SHARE_SET (R367)
  | vaultFloorSet (part : Nat) (v : W64)  -- VAULT_FLOOR_SET (R371)
  | classChange (part : Nat) (v : W64)  -- CLASS_CHANGE (R366)
  | powerStatusRead (part : Nat)  -- POWER_STATUS_READ (R371)
  | uncorrectable (part kind pa : Nat)  -- UNCORRECTABLE (R373)
  | debugHold (part : Nat) (cmd : W64)  -- DEBUG_HOLD (R401)
  | debugRelease (part : Nat) (cmd : W64)  -- DEBUG_RELEASE (R401)
  | debugStep (part : Nat) (cmd : W64)  -- DEBUG_STEP (R405)
  | debugDump (part : Nat) (cmd : W64)  -- DEBUG_DUMP (R406)
  | breakpointHit (p : PathRef)  -- BREAKPOINT_HIT (R399)
  | eventRingSet (part : Nat) (team : Bool) (v : W64)  -- EVENT_RING_SET (R408)
  | dropCountClear (part : Nat)  -- DROP_COUNT_CLEAR (R408)
  | partitionReset (part : Nat) (v : W64)  -- PARTITION_RESET (R415)
  | kickIn (part : Nat)  -- KICK_IN (R413)
  | kickOut (part : Nat)  -- KICK_OUT (R413)
  | launchSubmit (part : Nat) (v : W64)  -- LAUNCH_SUBMIT (R414)
  | completionRingSet (part : Nat) (v : W64)  -- COMPLETION_RING_SET (R412)
  | stopAreaSet (part : Nat) (v : W64)  -- STOP_AREA_SET (R412)
  | estimatorAlloc (part die : Nat)  -- ESTIMATOR_ALLOC (R333)
  | estimatorFree (part : Nat) (v : W64)  -- ESTIMATOR_FREE (R333)
  | snapshotPoolSet (part : Nat) (len : Bool) (v : W64)  -- SNAPSHOT_POOL_SET (R356)
  | startCold  -- START_COLD (R418)
  | startWarm  -- START_WARM (R418)
  | partitionSplit (v : W64)  -- PARTITION_SPLIT (R422)
  | microcodeUpdate (v : W64)  -- MICROCODE_UPDATE (R420)
  | spareSwap (v : W64)  -- SPARE_SWAP (R421)
  | vaultRecal (v : W64)  -- VAULT_RECAL (R421)
  | attestation (v : W64)  -- ATTESTATION (R422)
  | registerWrite (off : Nat) (v : W64)  -- REGISTER_WRITE (R3)
  | completionRingHead (part : Nat) (v : W64)  -- COMPLETION_RING_HEAD (R414)
  | bar2Access (addr : Nat) (w : Option (List Byte)) (len : Nat)  -- BAR2_ACCESS (R410)
  | coreClockGating (core : Nat) (gate : Bool)  -- CORE_CLOCK_GATING (R392)
  | voltageDroop (stand : Nat) (on : Bool)  -- VOLTAGE_DROOP (R370)
  | portTrainedAndUp (port : Nat) (up : Bool)  -- PORT_TRAINED_AND_UP (R412)
  deriving DecidableEq, Repr

end Sys2Proof
end

