-- ==== Sys2Proof/WellFormed.lean ====
section
/-! DEFINITION. Which instructions have an encoding (R31, R37 to R42, R52, R163 and each description): the encoding
checks that depend on the word and its literal alone. The decoder accepts exactly what these checks accept. -/

namespace Sys2Proof

/-- The code of a type (R39). -/
def Ty.code : Ty → BitVec 4
  | .i32 => 0 | .n32 => 1 | .i64 => 2 | .n64 => 3 | .f32 => 4 | .f64 => 5 | .f16 => 6 | .bf16 => 7
  | .f8e4 => 8 | .f8e5 => 9 | .i16x2 => 10 | .n16x2 => 11 | .b32 => 12 | .i8x4 => 13 | .n8x4 => 14

/-- The type of a code; code 15 is none (R39). -/
def Ty.ofCode (k : BitVec 4) : Option Ty :=
  match k.toNat with
  | 0 => some .i32 | 1 => some .n32 | 2 => some .i64 | 3 => some .n64 | 4 => some .f32 | 5 => some .f64
  | 6 => some .f16 | 7 => some .bf16 | 8 => some .f8e4 | 9 => some .f8e5 | 10 => some .i16x2
  | 11 => some .n16x2 | 12 => some .b32 | 13 => some .i8x4 | 14 => some .n8x4 | _ => none

/-- A type that fills a register pair (R56). -/
def Ty.is64 : Ty → Bool
  | .i64 | .n64 | .f64 => true
  | _ => false

/-- The packed types (set P of R163). -/
def Ty.isPacked : Ty → Bool
  | .i16x2 | .n16x2 | .i8x4 | .n8x4 => true
  | _ => false

/-- The float types, f8 ones included (R59). -/
def Ty.isFloat : Ty → Bool
  | .f32 | .f64 | .f16 | .bf16 | .f8e4 | .f8e5 => true
  | _ => false

/-- The two's-complement integer types (R57). -/
def Ty.isSigned : Ty → Bool
  | .i32 | .i64 | .i16x2 | .i8x4 => true
  | _ => false

/-- Set I of R163. -/
def Ty.inI : Ty → Bool
  | .i32 | .n32 => true
  | _ => false
/-- Set L of R163. -/
def Ty.inL : Ty → Bool
  | .i64 | .n64 => true
  | _ => false
/-- Set F of R163. -/
def Ty.inF : Ty → Bool
  | .f32 | .f64 | .f16 | .bf16 => true
  | _ => false
/-- Set B of R163. -/
def Ty.inB : Ty → Bool
  | .b32 => true
  | _ => false

/-- How a layout A word uses its d field. -/
inductive DUse where
  | none | vec | single | mask
  deriving DecidableEq, Repr
/-- How a layout A word uses its a field. -/
inductive AUse where
  | none | vec | mask
  deriving DecidableEq, Repr
/-- How a layout A word uses its b field: a source, a mask register, or a source that is no vector register (VBCAST). -/
inductive BUse where
  | none | src | mask | uni
  deriving DecidableEq, Repr
/-- How a layout A word uses its c field: a source, a mask register, or a code. -/
inductive CUse where
  | none | vec | mask | code
  deriving DecidableEq, Repr

/-- The layout A opcodes of R51 that R163 describes. -/
inductive OpA where
  | vmov | vadd | vsub | vmul | vmulh | vmad | vabsd | vmin | vmax | vand | vor | vxor | vtri | vsel | vcmp
  | vshl | vshr | vsar | vfshl | vfshr | vpopc | vclz | vbrev | vbfe | vbfi | vlane
  | fadd | fsub | fmul | ffma | fmin | fmax | fcmp | fclass | frcp | frsq | fsqrt | fdiv | fexp2 | flog2 | fcvt | frnd
  | vshuf | vbcast | vrot | vscan | vred | msave | mload
  deriving DecidableEq, Repr

/-- The lane opcode (R51). -/
def OpA.code : OpA → BitVec 10
  | .vmov => 0x001 | .vadd => 0x002 | .vsub => 0x003 | .vmul => 0x004 | .vmulh => 0x005 | .vmad => 0x006 | .vabsd => 0x007
  | .vmin => 0x008 | .vmax => 0x009 | .vand => 0x00A | .vor => 0x00B | .vxor => 0x00C | .vtri => 0x00D | .vsel => 0x00E
  | .vcmp => 0x00F | .vshl => 0x010 | .vshr => 0x011 | .vsar => 0x012 | .vfshl => 0x013 | .vfshr => 0x014
  | .vpopc => 0x015 | .vclz => 0x016 | .vbrev => 0x017 | .vbfe => 0x018 | .vbfi => 0x019 | .vlane => 0x01A
  | .fadd => 0x020 | .fsub => 0x021 | .fmul => 0x022 | .ffma => 0x023 | .fmin => 0x024 | .fmax => 0x025 | .fcmp => 0x026
  | .fclass => 0x027 | .frcp => 0x028 | .frsq => 0x029 | .fsqrt => 0x02A | .fdiv => 0x02B | .fexp2 => 0x02C
  | .flog2 => 0x02D | .fcvt => 0x02E | .frnd => 0x02F | .vshuf => 0x030 | .vbcast => 0x031 | .vrot => 0x032
  | .vscan => 0x033 | .vred => 0x034 | .msave => 0x035 | .mload => 0x036

/-- The types an opcode accepts (R163). -/
def OpA.types (o : OpA) (t : Ty) : Bool :=
  match o with
  | .vmov | .vsel | .vshuf | .vbcast | .vrot => t.inB || decide (t = .n64)
  | .vadd | .vsub | .vmul | .vmad | .vand | .vor | .vxor | .vshl | .vshr => t.inI || t.inL || t.isPacked || t.inB
  | .vmulh | .vmin | .vmax => t.inI || t.inL || t.isPacked
  | .vabsd => t.inI || t.isPacked
  | .vtri | .vfshl | .vfshr | .vpopc | .vclz | .vbrev | .vbfi => t.inB
  | .vcmp => t.inI || t.inL || t.inB
  | .vsar => t.isSigned
  | .vbfe => t.inI
  | .vlane | .msave | .mload => decide (t = .i32)
  | .fadd | .fsub | .fmul | .ffma | .fmin | .fmax | .fcmp | .frcp | .frsq | .fsqrt | .fdiv | .fexp2 | .flog2 | .frnd => t.inF
  | .fclass => t.isFloat
  | .fcvt => t.inI || t.inL || t.isFloat
  | .vscan | .vred => t.inI || t.inL || t.inF || t.inB

/-- Use of the d field (R163). -/
def OpA.dUse : OpA → DUse
  | .vcmp | .fcmp | .mload => .mask
  | .fclass => .single
  | _ => .vec

/-- Use of the a field (R163). -/
def OpA.aUse : OpA → AUse
  | .vmov | .vlane => .none
  | .msave => .mask
  | _ => .vec

/-- Use of the b field (R163). -/
def OpA.bUse : OpA → BUse
  | .vpopc | .vclz | .vbrev | .vlane | .fclass | .frcp | .frsq | .fsqrt | .fexp2 | .flog2 | .fcvt | .frnd | .msave | .mload => .none
  | .vscan | .vred => .mask
  | .vbcast => .uni
  | _ => .src

/-- Use of the c field (R163). -/
def OpA.cUse : OpA → CUse
  | .vmad | .vtri | .vfshl | .vfshr | .vbfi | .ffma => .vec
  | .vsel => .mask
  | .vcmp | .fcmp | .fcvt | .vscan | .vred => .code
  | _ => .none

/-- Whether the round field is accepted (R163). -/
def OpA.okRound : OpA → Bool
  | .fadd | .fsub | .fmul | .ffma | .frcp | .frsq | .fsqrt | .fdiv | .fexp2 | .flog2 | .fcvt | .frnd | .vscan | .vred => true
  | _ => false

/-- Whether alt is accepted with this type (R163, R165). -/
def OpA.okAlt (o : OpA) (t : Ty) : Bool :=
  match o with
  | .vadd | .vsub | .vmul | .vmad | .vshl => !t.inB
  | .fadd | .fsub | .fmul | .ffma | .frcp | .frsq | .fsqrt | .fdiv | .fexp2 | .flog2 | .fcvt | .vscan | .vred => true
  | _ => false

/-- Whether ftz is accepted (R163). -/
def OpA.okFtz : OpA → Bool
  | .fadd | .fsub | .fmul | .ffma | .fmin | .fmax | .fcmp | .frcp | .frsq | .fsqrt | .fdiv | .fexp2 | .flog2 | .fcvt | .frnd
  | .vscan | .vred => true
  | _ => false

/-- Whether negate and absolute value are accepted at all (R163). -/
def OpA.okNeg : OpA → Bool
  | .vadd | .vsub | .vmul | .vmulh | .vmad | .vmin | .vmax | .vcmp
  | .fadd | .fsub | .fmul | .ffma | .fmin | .fmax | .fcmp | .frcp | .frsq | .fsqrt | .fdiv | .fexp2 | .flog2 | .fcvt | .frnd => true
  | _ => false

/-- Whether sb and ib are accepted (R163). -/
def OpA.okConst (o : OpA) : Bool :=
  match o.bUse with
  | .uni => true
  | .src => match o with
    | .vtri => false
    | _ => true
  | _ => false

/-- The source type of FCVT: bits 51–48 (R178). -/
def LaneA.srcTy (w : LaneA) : Option Ty := Ty.ofCode (w.c.extractLsb' 0 4)

/-- A register field of a 64-bit operand is even (R37). -/
def evenIf (b : Bool) (r : BitVec 8) : Bool := !b || !r.getLsbD 0

/-- A mask register field of eight bits holds 0 to 15 (R31, R163). -/
def maskField (r : BitVec 8) : Bool := decide (r.toNat ≤ 15)

/-- The special-register addresses that SRD reads (R434). -/
def srReadable (a : BitVec 12) : Bool :=
  let n := a.toNat
  (n ≤ 0x007 && n != 3) || (0x010 ≤ n && n ≤ 0x01B) || (0x020 ≤ n && n ≤ 0x023) || n == 0x030 || (0x040 ≤ n && n ≤ 0x043)
  || (0x060 ≤ n && n ≤ 0x063) || (0x080 ≤ n && n ≤ 0x081) || (0x090 ≤ n && n ≤ 0x093) || (0x0A0 ≤ n && n ≤ 0x0A4)
  || (0x0C0 ≤ n && n ≤ 0x0C5) || (0x0D0 ≤ n && n ≤ 0x0D4) || (0x0E0 ≤ n && n ≤ 0x0E4) || (0x0F0 ≤ n && n ≤ 0x0F2)

/-- The special-register addresses that hold an RW field, which SWR writes (R158 and each map). -/
def srWritable (a : BitVec 12) : Bool :=
  [0x002, 0x005, 0x006, 0x007, 0x01A, 0x01B, 0x021, 0x030, 0x042, 0x093, 0x0A4, 0x0D0, 0x0D1, 0x0D3, 0x0F0].contains a.toNat

/-- No negate or absolute-value modifier is set for b and c, nor for a. -/
def Mods.plain (m : Mods) : Bool := !(m.na || m.aa || m.nb || m.ab || m.nc || m.ac)

/-- The type the negate and absolute-value modifiers of source a act on: FCVT reads its source type. -/
def OpA.negTy (o : OpA) (w : LaneA) : Option Ty :=
  match o with
  | .fcvt => w.srcTy
  | _ => some w.ty

/-- The modifiers of R40 that the word sets are accepted (R163, R165). -/
def OpA.modsOk (o : OpA) (w : LaneA) : Bool :=
  let sgn := match o.negTy w with
    | some t => t.isSigned || t.isFloat
    | none => false
  (decide (w.m.rnd = 0) || o.okRound) && (!w.m.alt || o.okAlt w.ty) && (!w.m.ftz || o.okFtz)
  && (w.m.plain || (o.okNeg && sgn))
  && (!(w.m.na || w.m.aa) || decide (o.aUse = .vec))
  && (!(w.m.nb || w.m.ab) || decide (o.bUse = .src))
  && (!(w.m.nc || w.m.ac) || decide (o.cUse = .vec))

/-- Source b is of a form the word accepts, and unused literal constants are zero (R40, R42, R163, R164). -/
def OpA.srcOk (o : OpA) (w : LaneA) : Bool :=
  match w.b with
  | .reg r =>
    match o.bUse with
    | .none => decide (r = 0)
    | .src => evenIf w.ty.is64 r
    | .mask => maskField r
    | .uni => false
  | .sreg _ => o.okConst
  | .imm _ => o.okConst && decide (w.ty ≠ .f64) && decide (w.x = 0)
  | .lit l0 l1 l2 =>
    let b := decide (o.bUse = .src) || decide (o.bUse = .uni)
    decide (l2 = 0) && (b || decide (l0 = 0))
    && (decide (l1 = 0) || (b && w.ty.is64) || (decide (o.cUse = .vec) && !w.ty.is64))

/-- The c field is taken from the literal, so it must be zero (R42). -/
def OpA.cFromLit (o : OpA) (w : LaneA) : Bool :=
  match w.b with
  | .lit .. => decide (o.cUse = .vec) && !w.ty.is64
  | _ => false

/-- The code in the c field is one the word accepts (R172, R175, R178, R181). -/
def OpA.codeOk (o : OpA) (w : LaneA) : Bool :=
  let k := w.c.toNat
  match o with
  | .vcmp => if w.ty.inB then k ≤ 1 else k ≤ 5
  | .fcmp => k ≤ 7
  | .fcvt => k ≤ 9
  | .vscan | .vred => if w.ty.inB then 3 ≤ k && k ≤ 5 else k ≤ 2
  | _ => true

/-- Bits 31–0, where they are no ib constant, hold what the word gives them (R167, R173, R181). -/
def OpA.xOk (o : OpA) (w : LaneA) : Bool :=
  match o with
  | .vtri => decide (w.x.toNat ≤ 0xFF)
  | .vlane => decide (w.x.toNat < 2 ^ 13) && srReadable (w.x.extractLsb' 0 12)
  | .vscan => decide (w.x.extractLsb' 0 30 = 0)
  | .vred => decide (w.x.extractLsb' 0 31 = 0)
  | _ => decide (w.x = 0)

/-- The register fields of a layout A word (R37, R163). -/
def OpA.regsOk (o : OpA) (w : LaneA) : Bool :=
  let src64 := match o with
    | .fcvt => (match w.srcTy with | some t => t.is64 | none => false)
    | _ => w.ty.is64
  (match o.dUse with
    | .none => decide (w.d = 0)
    | .vec => evenIf w.ty.is64 w.d
    | .single => true
    | .mask => maskField w.d)
  && (match o.aUse with
    | .none => decide (w.a = 0)
    | .vec => evenIf src64 w.a
    | .mask => maskField w.a)
  && (match o.cUse with
    | .none => decide (w.c = 0)
    | .vec => if o.cFromLit w then decide (w.c = 0) else evenIf w.ty.is64 w.c
    | .mask => maskField w.c
    | .code => true)

/-- A type the word accepts (R39). FCVT's source type counts too (R178). -/
def OpA.typeOk (o : OpA) (w : LaneA) : Bool := o.types w.ty

/-- FCVT's source type code is 0 to 9; another raises ILLEGAL_TYPE (R178). -/
def OpA.srcTypeOk (o : OpA) (w : LaneA) : Bool :=
  match o with
  | .fcvt => decide ((w.c.extractLsb' 0 4).toNat ≤ 9)
  | _ => true

/-- Every rule of R52 that is no type rule, for a layout A word. -/
def OpA.bodyOk (o : OpA) (w : LaneA) : Bool :=
  o.modsOk w && o.srcOk w && o.codeOk w && o.xOk w && o.regsOk w

/-- A layout A word has an encoding (R52). -/
def OpA.ok (o : OpA) (w : LaneA) : Bool := o.typeOk w && o.srcTypeOk w && o.bodyOk w

/-- The layout M opcodes that share the encoding of R196. -/
inductive OpM where
  | vld | vst | vstSlc | vpfx | vlds | vsts | obld
  deriving DecidableEq, Repr

/-- The lane opcode (R51). -/
def OpM.code : OpM → BitVec 10
  | .vld => 0x040 | .vst => 0x041 | .vstSlc => 0x042 | .vpfx => 0x043 | .vlds => 0x048 | .vsts => 0x049 | .obld => 0x050

/-- OBLD accepts b32 and n64, the others every type (R196, R228, R295). -/
def OpM.typeOk (o : OpM) (t : Ty) : Bool :=
  match o with
  | .obld => decide (t = .b32) || decide (t = .n64)
  | _ => true

/-- The d, c and order fields of a layout M word (R196, R228, R295). R197 keeps `inv` to VLD, where R295's own row lets OBLD have it. Log 55
(DESIGN CHOICE). -/
def OpM.fieldsOk (o : OpM) (w : LaneM) : Bool :=
  match o with
  | .vld => evenIf w.ty.is64 w.d && decide (w.c = 0) && (decide (w.order = 0) || decide (w.order = 1))
  | .vst => decide (w.d = 0) && evenIf w.ty.is64 w.c && (decide (w.order = 0) || decide (w.order = 2)) && !w.inv
  | .vstSlc => decide (w.d = 0) && evenIf w.ty.is64 w.c && (decide (w.order = 0) || decide (w.order = 2)) && !w.inv
  | .vpfx => decide (w.d = 0) && decide (w.c = 0) && decide (w.order = 0) && !w.inv
  | .vlds => evenIf w.ty.is64 w.d && decide (w.c = 0) && (decide (w.order = 0) || decide (w.order = 1)) && !w.inv && !w.nt
      && decide (w.scope.toNat ≤ 2)
  | .vsts => decide (w.d = 0) && evenIf w.ty.is64 w.c && (decide (w.order = 0) || decide (w.order = 2)) && !w.inv && !w.nt
      && decide (w.scope.toNat ≤ 2)
  | .obld => decide (w.d.toNat ≤ 7) && decide (w.scope = 0) && decide (w.order = 0) && decide (w.mem = 0)

/-- The base of a layout M word: an even pair, a single register for scratchpad words, absent for VST.slc without sb
(R196, R228). -/
def OpM.baseOk (o : OpM) (w : LaneM) : Bool :=
  match w.base with
  | .sreg _ => true
  | .vreg r =>
    match o with
    | .vstSlc => decide (r = 0)
    | .vlds | .vsts => true
    | _ => !r.getLsbD 0

/-- Every rule of R197 and R228 that is no type rule. -/
def OpM.bodyOk (o : OpM) (w : LaneM) : Bool :=
  o.fieldsOk w && o.baseOk w
  && decide (w.x ≠ 3) && (decide (w.x ≠ 0) || decide (w.a = 0))
  && decide (w.mem ≠ 3) && (decide (w.mem = 0) || w.ty.inI)
  && decide (w.scope ≠ 7) && (decide (w.order ≠ 0) || decide (w.scope = 0))

/-- A layout M word has an encoding. -/
def OpM.ok (o : OpM) (w : LaneM) : Bool := o.typeOk w.ty && o.bodyOk w

/-- The op of VAT and VATR is one the opcode has (R254). -/
def atOpOk (ret : Bool) (op : BitVec 4) : Bool :=
  match op.toNat with
  | 0 | 7 => true
  | 1 | 2 | 3 | 4 | 5 | 6 => !ret
  | 8 | 9 => ret
  | _ => false

/-- The types VAT and VATR accept over all their ops (R254). -/
def atAnyType (t : Ty) : Bool := t.inI || t.inL || t.inB || decide (t = .f32)

/-- The type of an atomic is one the op accepts (R254). -/
def atTypeOk (op : BitVec 4) (t : Ty) : Bool :=
  match op.toNat with
  | 0 | 1 | 2 => t.inI || t.inL
  | 3 | 4 | 5 | 8 | 9 => t.inB || decide (t = .n64)
  | 6 => t.inB
  | 7 => decide (t = .f32)
  | _ => true

/-- Every rule of R253 and R256 that is no type rule. -/
def atBodyOk (ret : Bool) (w : LaneAt) : Bool :=
  atOpOk ret w.op
  && (if ret then evenIf w.ty.is64 w.d else decide (w.d = 0))
  && (if w.op = 6 then decide (w.c.toNat % 4 = 0) else evenIf w.ty.is64 w.c)
  && (match w.base with | .sreg _ => true | .vreg r => !r.getLsbD 0)
  && decide (w.x ≠ 3) && (decide (w.x ≠ 0) || decide (w.a = 0))
  && decide (w.scope ≠ 7) && (decide (w.order ≠ 0) || decide (w.scope = 0))
  && (ret || decide (w.order = 0) || decide (w.order = 2))

/-- The types FPUSH, FPOP, QPUSH and QPOP accept (R233, R283). -/
def entryTypeOk (t : Ty) : Bool := t.inI || decide (t = .f32) || t.inB || t.isPacked

/-- The reserved matrix format codes (R291). -/
def fmtOk (f : BitVec 4) : Bool := decide (f.toNat ≠ 3) && decide (f.toNat ≤ 10)

/-- A register count of REGGROW and REGSHRINK: a multiple of 8 from 8 to 248 (R115). -/
def regCountOk (n : BitVec 9) : Bool := decide (n.toNat % 8 = 0) && decide (8 ≤ n.toNat) && decide (n.toNat ≤ 248)

/-- The first destination of ESTRD (R347). -/
def estrdDestOk (d : BitVec 6) : Bool := decide (d.toNat % 8 = 0) && decide (8 ≤ d.toNat) && decide (d.toNat ≤ 48)

/-- An instruction word has an encoding. A step of another agent has none to check. -/
def Instr.wf : Instr → Bool
  | .issue n _ => decide (n ≠ 0)
  | .issueReg rs n => decide (rs ≠ 0) && decide (n ≠ 0)
  | .join a => decide (a ≠ 0)
  | .brm _ t _ _ => decide (t ≠ 3)
  | .scmp cc _ _ _ => decide (cc.toNat ≤ 9)
  | .srd _ a => srReadable a
  | .swr a _ => srWritable a
  | .reggrow _ _ n => regCountOk n
  | .regshrink _ n => regCountOk n
  | .rotset n => decide (n.toNat % 8 = 0) && decide (n.toNat ≤ 64)
  | .propose b _ => decide (b.toNat ≤ 247)
  | .pstat _ s => decide (s ≠ 3)
  | .sld _ _ w _ => decide (w ≠ 7)
  | .sst _ _ w _ => decide (w.toNat % 2 = 0)
  | .wait _ p => decide (p.toNat ≤ 5)
  | .bankset _ _ m => decide (m ≠ 3)
  | .fence o s => decide (o ≠ 0) && decide (s ≠ 7)
  | .cwait _ _ _ _ s => decide (s ≠ 7)
  | .estrd d _ => estrdDestOk d
  | .estrdCpl d => estrdDestOk d
  | .estwait _ _ t => decide (t ≠ 3)
  | .blaze _ so lo => decide (so ≠ 0) || decide (lo ≠ 0)
  | .vmov w => OpA.vmov.ok w
  | .vadd w => OpA.vadd.ok w
  | .vsub w => OpA.vsub.ok w
  | .vmul w => OpA.vmul.ok w
  | .vmulh w => OpA.vmulh.ok w
  | .vmad w => OpA.vmad.ok w
  | .vabsd w => OpA.vabsd.ok w
  | .vmin w => OpA.vmin.ok w
  | .vmax w => OpA.vmax.ok w
  | .vand w => OpA.vand.ok w
  | .vor w => OpA.vor.ok w
  | .vxor w => OpA.vxor.ok w
  | .vtri w => OpA.vtri.ok w
  | .vsel w => OpA.vsel.ok w
  | .vcmp w => OpA.vcmp.ok w
  | .vshl w => OpA.vshl.ok w
  | .vshr w => OpA.vshr.ok w
  | .vsar w => OpA.vsar.ok w
  | .vfshl w => OpA.vfshl.ok w
  | .vfshr w => OpA.vfshr.ok w
  | .vpopc w => OpA.vpopc.ok w
  | .vclz w => OpA.vclz.ok w
  | .vbrev w => OpA.vbrev.ok w
  | .vbfe w => OpA.vbfe.ok w
  | .vbfi w => OpA.vbfi.ok w
  | .vlane w => OpA.vlane.ok w
  | .fadd w => OpA.fadd.ok w
  | .fsub w => OpA.fsub.ok w
  | .fmul w => OpA.fmul.ok w
  | .ffma w => OpA.ffma.ok w
  | .fmin w => OpA.fmin.ok w
  | .fmax w => OpA.fmax.ok w
  | .fcmp w => OpA.fcmp.ok w
  | .fclass w => OpA.fclass.ok w
  | .frcp w => OpA.frcp.ok w
  | .frsq w => OpA.frsq.ok w
  | .fsqrt w => OpA.fsqrt.ok w
  | .fdiv w => OpA.fdiv.ok w
  | .fexp2 w => OpA.fexp2.ok w
  | .flog2 w => OpA.flog2.ok w
  | .fcvt w => OpA.fcvt.ok w
  | .frnd w => OpA.frnd.ok w
  | .vshuf w => OpA.vshuf.ok w
  | .vbcast w => OpA.vbcast.ok w
  | .vrot w => OpA.vrot.ok w
  | .vscan w => OpA.vscan.ok w
  | .vred w => OpA.vred.ok w
  | .msave w => OpA.msave.ok w
  | .mload w => OpA.mload.ok w
  | .vld w => OpM.vld.ok w
  | .vst w => OpM.vst.ok w
  | .vstSlc w => OpM.vstSlc.ok w
  | .vpfx w => OpM.vpfx.ok w
  | .vlds w => OpM.vlds.ok w
  | .vsts w => OpM.vsts.ok w
  | .obld w => OpM.obld.ok w
  | .vat w => atTypeOk w.op w.ty && atBodyOk false w
  | .vatr w => atTypeOk w.op w.ty && atBodyOk true w
  | .qpush _ ty _ _ => entryTypeOk ty
  | .qpop _ ty _ _ => entryTypeOk ty
  | .fpush _ ty _ _ _ => entryTypeOk ty
  | .fpop _ ty _ _ _ => entryTypeOk ty
  | .rand _ ty d => decide (ty = .n32) || (decide (ty = .n64) && evenIf true d)
  | .randf _ ty d => decide (ty = .f32) || (decide (ty = .f64) && evenIf true d)
  | .randn _ ty d => decide (ty = .f32) || (decide (ty = .f64) && evenIf true d)
  | .estadd _ ty a _ => ty.inI || decide (ty = .f32) || (decide (ty = .f64) && evenIf true a)
  | .mma _ _ _ _ _ f => fmtOk f
  | .accrd _ ty d _ _ _ _ _ _ => ty.inF && evenIf ty.is64 d
  | .accxRd _ _ d _ => decide (d.toNat % 4 = 0)
  | .accxWr _ _ _ c => decide (c.toNat % 4 = 0)
  | .accxAdd _ _ _ c => decide (c.toNat % 4 = 0)
  | _ => true

end Sys2Proof
end

