-- ==== Sys2Proof/Decode.lean ====
section
/-! DEFINITION. Decoding and encoding of scalar words and lane words (R25 to R53 and each description), written from
the opcode maps R50 and R51 and the field tables. Parsing picks the fields of an assigned opcode; a word is accepted
when its type is one the instruction takes, its fields keep the rules of `Instr.wf`, and the bits the instruction does
not use are zero, that is, when the encoder makes exactly this word of the fields (R4, R52). -/

namespace Sys2Proof

/-- Why a word is no instruction, in the order of R52. -/
inductive Reject where
  /-- An unassigned opcode: ILLEGAL_INSTRUCTION. -/
  | unassigned
  /-- A type code the instruction does not accept: ILLEGAL_TYPE with the code as detail. -/
  | illegalType (code : BitVec 4)
  /-- Any other rule: ILLEGAL_INSTRUCTION. -/
  | illegal
  /-- Fewer bytes than the word has. -/
  | truncated
  deriving DecidableEq, Repr

/-- The words of an instruction: a scalar word or a lane word with the literal that follows it (R32, R42). -/
inductive Code where
  | scalar (w : W32) (lit : Option W32)
  | lane (w : Slot) (lit : Option Slot)
  deriving DecidableEq, Repr

/-! ### Scalar words -/

/-- An SA word (R30). -/
def wSA (op : BitVec 7) (d a b : BitVec 6) (fn : BitVec 7) : W32 := op ++ d ++ a ++ b ++ fn
/-- An SI word (R30). -/
def wSI (op : BitVec 7) (d a : BitVec 6) (imm : BitVec 13) : W32 := op ++ d ++ a ++ imm
/-- An SL word (R30). -/
def wSL (op : BitVec 7) (d : BitVec 6) (imm : BitVec 19) : W32 := op ++ d ++ imm
/-- An SB word (R30, R33). -/
def wSB (op : BitVec 7) (so : BitVec 13) (lo : BitVec 12) : W32 := op ++ so ++ lo

/-- The b field of an SA word (R32). -/
def SSrc.field : SSrc → BitVec 6
  | .reg r => r
  | .lit _ => 0
/-- Function bit 6 (R32). -/
def SSrc.bit : SSrc → BitVec 1
  | .reg _ => 0
  | .lit _ => 1
/-- The literal word that follows (R32). -/
def SSrc.word : SSrc → Option W32
  | .reg _ => none
  | .lit w => some w

/-- A register number of four bits in a six-bit field (R31). -/
def pad4 (r : BitVec 4) : BitVec 6 := (0 : BitVec 2) ++ r
/-- A condition register number in a six-bit field (R31). -/
def pad3 (r : BitVec 3) : BitVec 6 := (0 : BitVec 3) ++ r
/-- One bit. -/
def bit1 (b : Bool) : BitVec 1 := BitVec.ofBool b

/-- An SA word with source b and function bits 5 to 0 (R32). -/
def cSrc (op : BitVec 7) (d a : BitVec 6) (b : SSrc) (fn : BitVec 6) : Code := .scalar (wSA op d a b.field (b.bit ++ fn)) b.word
/-- An SA word without a literal. -/
def cSA (op : BitVec 7) (d a b : BitVec 6) (fn : BitVec 7) : Code := .scalar (wSA op d a b fn) none
/-- An SI word. -/
def cSI (op : BitVec 7) (d a : BitVec 6) (imm : BitVec 13) : Code := .scalar (wSI op d a imm) none
/-- An SL word. -/
def cSL (op : BitVec 7) (d : BitVec 6) (imm : BitVec 19) : Code := .scalar (wSL op d imm) none
/-- An SB word. -/
def cSB (op : BitVec 7) (so : BitVec 13) (lo : BitVec 12) : Code := .scalar (wSB op so lo) none
/-- The literal form of a branch: an SA word with function bit 6 set and both offsets in the literal (R34). -/
def cLong (op : BitVec 7) (a : BitVec 6) (fn : BitVec 6) (so lo : BitVec 16) : Code :=
  .scalar (wSA op 0 a 0 ((1 : BitVec 1) ++ fn)) (some (so ++ lo))

/-- The instruction of a scalar word's fields, with `lit` the word after it; none for an unassigned opcode (R50). -/
def parseScalar (w lit : W32) : Option Instr :=
  let d := w.extractLsb' 19 6
  let a := w.extractLsb' 13 6
  let b := w.extractLsb' 7 6
  let f0 := w.getLsbD 0
  let l := w.getLsbD 6
  let src : SSrc := if l then .lit lit else .reg b
  let i13 := w.extractLsb' 0 13
  let so := w.extractLsb' 12 13
  let lo := w.extractLsb' 0 12
  let lso := lit.extractLsb' 16 16
  let llo := lit.extractLsb' 0 16
  let a4 := w.extractLsb' 13 4
  let b4 := w.extractLsb' 7 4
  let d4 := w.extractLsb' 19 4
  match (w.extractLsb' 25 7).toNat with
  | 0x01 => some .nop
  | 0x02 => some (if d = 0 then .issue (w.extractLsb' 12 7) lo else .issueReg d (w.extractLsb' 12 7))
  | 0x03 => some (.lpc lo)
  | 0x04 => some (if l then .split a4 lso llo else .splitReg a4 b)
  | 0x05 => some (.join a4)
  | 0x08 => some (.br so lo)
  | 0x09 => some (.brLong lso llo)
  | 0x0A => some (.call so lo)
  | 0x0B => some (.callLong lso llo)
  | 0x0C => some .ret
  | 0x0D => some (.loop so lo)
  | 0x0E => some (.brm a4 (w.extractLsb' 0 2) lso llo)
  | 0x0F => some .exit
  | 0x10 | 0x11 | 0x12 | 0x13 | 0x14 | 0x15 | 0x16 | 0x17 => some (.brc (w.extractLsb' 25 3) so lo)
  | 0x18 => some (.bar a4 b4)
  | 0x19 => some (.arrive d a4 b4)
  | 0x1A => some (.bwait a4 b)
  | 0x1B => some (if f0 then .rolesigTake b else .rolesigPost (w.extractLsb' 13 2) b)
  | 0x1C => some (.trap i13)
  | 0x1D => some (if f0 then .tretSkip else .tret)
  | 0x1E => some (.haltd (w.extractLsb' 0 6))
  | 0x1F => some .yield
  | 0x20 => some (.sadd d a src)
  | 0x21 => some (.ssub d a src)
  | 0x22 => some (.smul d a src)
  | 0x23 => some (.smulh d a src)
  | 0x24 => some (.smulhn d a src)
  | 0x25 => some (.sdiv d a src)
  | 0x26 => some (.sdivn d a src)
  | 0x27 => some (.srem f0 d a src)
  | 0x28 => some (.sand d a src)
  | 0x29 => some (.sor d a src)
  | 0x2A => some (.sxor d a src)
  | 0x2B => some (.sshl d a src)
  | 0x2C => some (.sshr d a src)
  | 0x2D => some (.ssar d a src)
  | 0x2E => some (.smin d a src)
  | 0x2F => some (.smax d a src)
  | 0x30 => some (.sminn d a src)
  | 0x31 => some (.smaxn d a src)
  | 0x32 => some (.scmp (w.extractLsb' 0 4) (w.extractLsb' 19 3) a src)
  | 0x33 => some (.ssel d a src (w.extractLsb' 0 3))
  | 0x34 => some (.sbfe f0 d a src)
  | 0x35 => some (.spopc d a)
  | 0x36 => some (.sclz d a)
  | 0x37 => some (if f0 then .slitHi d a lit else .slit d lit)
  | 0x38 => some (.sli d (w.extractLsb' 0 19))
  | 0x39 => some (.saddi d a i13)
  | 0x3A => some (.sandi d a i13)
  | 0x3B => some (.sori d a i13)
  | 0x3C => some (.sxori d a i13)
  | 0x3D => some (.sshli d a (w.extractLsb' 0 6))
  | 0x3E => some (.sshri d a (w.extractLsb' 0 6))
  | 0x40 => some (.srd d lo)
  | 0x41 => some (.swr lo d)
  | 0x42 => some (if f0 then .timeCyc d else .time d)
  | 0x43 => some (.tagof d a (w.extractLsb' 0 8))
  | 0x44 => some (.reggrow d (w.getLsbD 9) (w.extractLsb' 0 9))
  | 0x45 => some (.regshrink d (w.extractLsb' 0 9))
  | 0x46 => some (.rotset (w.extractLsb' 0 7))
  | 0x48 => some (.propose (w.extractLsb' 5 8) (w.extractLsb' 0 4))
  | 0x49 => some .abandon
  | 0x4A => some (.pstat d (w.extractLsb' 0 2))
  | 0x4C => some (.mand d4 a4 b4)
  | 0x4D => some (.mor d4 a4 b4)
  | 0x4E => some (.mxor d4 a4 b4)
  | 0x4F => some (.mnot d4 a4)
  | 0x50 => some (.mpop d a4)
  | 0x51 => some (.mexec a4)
  | 0x54 => some (.sld d a (w.extractLsb' 10 3) (w.extractLsb' 0 10))
  | 0x55 => some (.sst d a (w.extractLsb' 10 3) (w.extractLsb' 0 10))
  | 0x56 => some (.sldk d a i13)
  | 0x57 => some (if f0 then .handoverOut a b else .handoverIn a b)
  | 0x58 => some (.wait a (w.extractLsb' 0 3))
  | 0x59 => some (.bankset d a (w.extractLsb' 0 2))
  | 0x5A => some (.fence (w.extractLsb' 3 2) (w.extractLsb' 0 3))
  | 0x5B => some (.cwait d a b (w.getLsbD 3) (w.extractLsb' 0 3))
  | 0x5C => some (.yjob d a)
  | 0x5D => some (.ystat d a f0)
  | 0x5E => some (if f0 then .deckQuery d else .deckFence)
  | 0x60 => some (.obres d a (w.getLsbD 3) (w.extractLsb' 0 3))
  | 0x61 => some (.obrel (w.extractLsb' 0 3))
  | 0x62 => some (.gang a)
  | 0x63 => some (if w.getLsbD 5 then .acczFree (w.extractLsb' 0 2) else .accz (w.extractLsb' 0 2) (w.extractLsb' 2 3))
  | 0x64 => some (.launch d a)
  | 0x65 => some (if f0 then .cidxRank d a else .cidx d a)
  | 0x68 => some (if f0 then .estrdCpl d else .estrd d a)
  | 0x69 => some (.estwait d a (w.extractLsb' 0 2))
  | 0x6A => some (if f0 then .eststatReset d a (w.extractLsb' 2 2) else .eststat d a)
  | 0x78 | 0x79 | 0x7A | 0x7B | 0x7C | 0x7D | 0x7E | 0x7F =>
    some (if w.extractLsb' 0 25 = 0 then .blazeTrap (w.extractLsb' 25 3) else .blaze (w.extractLsb' 25 3) so lo)
  | _ => none

/-- The words of an instruction that the scalar stream holds; none for any other constructor. -/
def encodeScalar : Instr → Option Code
  | .nop => some (cSA 0x01 0 0 0 0)
  | .issue n rep => some (cSL 0x02 0 (n ++ rep))
  | .issueReg rs n => some (cSL 0x02 rs (n ++ (0 : BitVec 12)))
  | .lpc lo => some (cSB 0x03 0 lo)
  | .split a so lo => some (cLong 0x04 (pad4 a) 0 so lo)
  | .splitReg a b => some (cSA 0x04 0 (pad4 a) b 0)
  | .join a => some (cSA 0x05 0 (pad4 a) 0 0)
  | .br so lo => some (cSB 0x08 so lo)
  | .brLong so lo => some (cLong 0x09 0 0 so lo)
  | .call so lo => some (cSB 0x0A so lo)
  | .callLong so lo => some (cLong 0x0B 0 0 so lo)
  | .ret => some (cSA 0x0C 0 0 0 0)
  | .loop so lo => some (cSB 0x0D so lo)
  | .brm a t so lo => some (cLong 0x0E (pad4 a) ((0 : BitVec 4) ++ t) so lo)
  | .exit => some (cSA 0x0F 0 0 0 0)
  | .brc c so lo => some (cSB ((0x2 : BitVec 4) ++ c) so lo)
  | .bar b m => some (cSA 0x18 0 (pad4 b) (pad4 m) 0)
  | .arrive d b m => some (cSA 0x19 d (pad4 b) (pad4 m) 0)
  | .bwait b r => some (cSA 0x1A 0 (pad4 b) r 0)
  | .rolesigPost c b => some (cSA 0x1B 0 ((0 : BitVec 4) ++ c) b 0)
  | .rolesigTake b => some (cSA 0x1B 0 0 b 1)
  | .trap k => some (cSI 0x1C 0 0 k)
  | .tret => some (cSA 0x1D 0 0 0 0)
  | .tretSkip => some (cSA 0x1D 0 0 0 1)
  | .haltd t => some (cSA 0x1E 0 0 0 ((0 : BitVec 1) ++ t))
  | .yield => some (cSA 0x1F 0 0 0 0)
  | .sadd d a b => some (cSrc 0x20 d a b 0)
  | .ssub d a b => some (cSrc 0x21 d a b 0)
  | .smul d a b => some (cSrc 0x22 d a b 0)
  | .smulh d a b => some (cSrc 0x23 d a b 0)
  | .smulhn d a b => some (cSrc 0x24 d a b 0)
  | .sdiv d a b => some (cSrc 0x25 d a b 0)
  | .sdivn d a b => some (cSrc 0x26 d a b 0)
  | .srem n d a b => some (cSrc 0x27 d a b ((0 : BitVec 5) ++ bit1 n))
  | .sand d a b => some (cSrc 0x28 d a b 0)
  | .sor d a b => some (cSrc 0x29 d a b 0)
  | .sxor d a b => some (cSrc 0x2A d a b 0)
  | .sshl d a b => some (cSrc 0x2B d a b 0)
  | .sshr d a b => some (cSrc 0x2C d a b 0)
  | .ssar d a b => some (cSrc 0x2D d a b 0)
  | .smin d a b => some (cSrc 0x2E d a b 0)
  | .smax d a b => some (cSrc 0x2F d a b 0)
  | .sminn d a b => some (cSrc 0x30 d a b 0)
  | .smaxn d a b => some (cSrc 0x31 d a b 0)
  | .scmp cc d a b => some (cSrc 0x32 (pad3 d) a b ((0 : BitVec 2) ++ cc))
  | .ssel d a b k => some (cSrc 0x33 d a b ((0 : BitVec 3) ++ k))
  | .sbfe s d a b => some (cSrc 0x34 d a b ((0 : BitVec 5) ++ bit1 s))
  | .spopc d a => some (cSA 0x35 d a 0 0)
  | .sclz d a => some (cSA 0x36 d a 0 0)
  | .slit d lit => some (.scalar (wSA 0x37 d 0 0 0x40) (some lit))
  | .slitHi d a lit => some (.scalar (wSA 0x37 d a 0 0x41) (some lit))
  | .sli d k => some (cSL 0x38 d k)
  | .saddi d a k => some (cSI 0x39 d a k)
  | .sandi d a k => some (cSI 0x3A d a k)
  | .sori d a k => some (cSI 0x3B d a k)
  | .sxori d a k => some (cSI 0x3C d a k)
  | .sshli d a k => some (cSI 0x3D d a ((0 : BitVec 7) ++ k))
  | .sshri d a k => some (cSI 0x3E d a ((0 : BitVec 7) ++ k))
  | .srd d k => some (cSL 0x40 d ((0 : BitVec 7) ++ k))
  | .swr k r => some (cSL 0x41 r ((0 : BitVec 7) ++ k))
  | .time d => some (cSA 0x42 d 0 0 0)
  | .timeCyc d => some (cSA 0x42 d 0 0 1)
  | .tagof d a v => some (cSI 0x43 d a ((0 : BitVec 5) ++ v))
  | .reggrow d wt t => some (cSI 0x44 d 0 ((0 : BitVec 3) ++ bit1 wt ++ t))
  | .regshrink d t => some (cSI 0x45 d 0 ((0 : BitVec 4) ++ t))
  | .rotset k => some (cSI 0x46 0 0 ((0 : BitVec 6) ++ k))
  | .propose b l => some (cSI 0x48 0 0 (b ++ (0 : BitVec 1) ++ l))
  | .abandon => some (cSA 0x49 0 0 0 0)
  | .pstat d s => some (cSI 0x4A d 0 ((0 : BitVec 11) ++ s))
  | .mand d a b => some (cSA 0x4C (pad4 d) (pad4 a) (pad4 b) 0)
  | .mor d a b => some (cSA 0x4D (pad4 d) (pad4 a) (pad4 b) 0)
  | .mxor d a b => some (cSA 0x4E (pad4 d) (pad4 a) (pad4 b) 0)
  | .mnot d a => some (cSA 0x4F (pad4 d) (pad4 a) 0 0)
  | .mpop d a => some (cSA 0x50 d (pad4 a) 0 0)
  | .mexec a => some (cSA 0x51 0 (pad4 a) 0 0)
  | .sld d a w off => some (cSI 0x54 d a (w ++ off))
  | .sst d a w off => some (cSI 0x55 d a (w ++ off))
  | .sldk d a k => some (cSI 0x56 d a k)
  | .handoverIn a b => some (cSA 0x57 0 a b 0)
  | .handoverOut a b => some (cSA 0x57 0 a b 1)
  | .wait a p => some (cSA 0x58 0 a 0 ((0 : BitVec 4) ++ p))
  | .bankset d a m => some (cSI 0x59 d a ((0 : BitVec 11) ++ m))
  | .fence o s => some (cSA 0x5A 0 0 0 ((0 : BitVec 2) ++ o ++ s))
  | .cwait d a b e s => some (cSA 0x5B d a b ((0 : BitVec 3) ++ bit1 e ++ s))
  | .yjob d a => some (cSA 0x5C d a 0 0)
  | .ystat d a wt => some (cSI 0x5D d a ((0 : BitVec 12) ++ bit1 wt))
  | .deckFence => some (cSA 0x5E 0 0 0 0)
  | .deckQuery d => some (cSA 0x5E d 0 0 1)
  | .obres d a wt r => some (cSA 0x60 d a 0 ((0 : BitVec 3) ++ bit1 wt ++ r))
  | .obrel r => some (cSI 0x61 0 0 ((0 : BitVec 10) ++ r))
  | .gang a => some (cSA 0x62 0 a 0 0)
  | .accz t r => some (cSI 0x63 0 0 ((0 : BitVec 8) ++ r ++ t))
  | .acczFree t => some (cSI 0x63 0 0 ((0 : BitVec 7) ++ (1 : BitVec 1) ++ (0 : BitVec 3) ++ t))
  | .launch d a => some (cSA 0x64 d a 0 0)
  | .cidx d a => some (cSA 0x65 d a 0 0)
  | .cidxRank d a => some (cSA 0x65 d a 0 1)
  | .estrd d a => some (cSI 0x68 d a 0)
  | .estrdCpl d => some (cSI 0x68 d 0 1)
  | .estwait d a t => some (cSI 0x69 d a ((0 : BitVec 11) ++ t))
  | .eststat d a => some (cSI 0x6A d a 0)
  | .eststatReset d a c => some (cSI 0x6A d a ((0 : BitVec 9) ++ c ++ (0 : BitVec 1) ++ (1 : BitVec 1)))
  | .blaze k so lo => some (cSB ((0xF : BitVec 4) ++ k) so lo)
  | .blazeTrap k => some (cSB ((0xF : BitVec 4) ++ k) 0 0)
  | _ => none

/-! ### Lane words -/

/-- The fields of a lane word (R36). -/
structure LaneFields where
  sw   : BitVec 1
  lf   : BitVec 1
  op   : BitVec 10
  ty   : BitVec 4
  d    : BitVec 8
  a    : BitVec 8
  b    : BitVec 8
  c    : BitVec 8
  mask : BitVec 4
  mods : BitVec 12
  imm  : BitVec 32
  deriving DecidableEq, Repr

/-- The lane word of its fields (R36). -/
def LaneFields.word (f : LaneFields) : Slot :=
  f.sw ++ f.lf ++ f.op ++ f.ty ++ f.d ++ f.a ++ f.b ++ f.c ++ f.mask ++ f.mods ++ f.imm

/-- The fields of a lane word (R36). -/
def LaneFields.ofWord (w : Slot) : LaneFields where
  sw   := w.extractLsb' 95 1
  lf   := w.extractLsb' 94 1
  op   := w.extractLsb' 84 10
  ty   := w.extractLsb' 80 4
  d    := w.extractLsb' 72 8
  a    := w.extractLsb' 64 8
  b    := w.extractLsb' 56 8
  c    := w.extractLsb' 48 8
  mask := w.extractLsb' 44 4
  mods := w.extractLsb' 32 12
  imm  := w.extractLsb' 0 32

/-- The switch marker and mask field. -/
def LaneFields.hdr (f : LaneFields) : Hdr where
  sw   := f.sw.getLsbD 0
  mask := f.mask

/-- A layout A word of these fields, `lit` being the slot after it (R40, R42). -/
def LaneFields.toA (f : LaneFields) (ty : Ty) (lit : Slot) : LaneA where
  h  := f.hdr
  ty := ty
  d  := f.d
  a  := f.a
  b  := if f.lf.getLsbD 0 then .lit (lit.extractLsb' 0 32) (lit.extractLsb' 32 32) (lit.extractLsb' 64 32)
        else if f.mods.getLsbD 2 then .sreg (f.b.extractLsb' 0 6)
        else if f.mods.getLsbD 0 then .imm f.imm
        else .reg f.b
  c  := f.c
  m  := { rnd := f.mods.extractLsb' 10 2, alt := f.mods.getLsbD 9, na := f.mods.getLsbD 8, aa := f.mods.getLsbD 7
          nb := f.mods.getLsbD 6, ab := f.mods.getLsbD 5, nc := f.mods.getLsbD 4, ac := f.mods.getLsbD 3
          ftz := f.mods.getLsbD 1 }
  x  := if !f.lf.getLsbD 0 && !f.mods.getLsbD 2 && f.mods.getLsbD 0 then 0 else f.imm

/-- The fields of a layout A word (R40). -/
def LaneA.fields (w : LaneA) (op : BitVec 10) : LaneFields where
  sw   := bit1 w.h.sw
  lf   := match w.b with | .lit .. => 1 | _ => 0
  op   := op
  ty   := w.ty.code
  d    := w.d
  a    := w.a
  b    := match w.b with | .reg r => r | .sreg r => (0 : BitVec 2) ++ r | _ => 0
  c    := w.c
  mask := w.h.mask
  mods := w.m.rnd ++ bit1 w.m.alt ++ bit1 w.m.na ++ bit1 w.m.aa ++ bit1 w.m.nb ++ bit1 w.m.ab ++ bit1 w.m.nc ++ bit1 w.m.ac
          ++ (match w.b with | .sreg _ => (1 : BitVec 1) | _ => 0) ++ bit1 w.m.ftz
          ++ (match w.b with | .imm _ => (1 : BitVec 1) | _ => 0)
  imm  := match w.b with | .imm k => k | _ => w.x

/-- The trailing literal of a layout A word (R42). -/
def LaneA.literal (w : LaneA) : Option Slot :=
  match w.b with
  | .lit l0 l1 l2 => some (l2 ++ l1 ++ l0)
  | _ => none

/-- The base of a layout M word (R41). -/
def LaneFields.base (f : LaneFields) : Base :=
  if f.mods.getLsbD 2 then .sreg (f.b.extractLsb' 0 6) else .vreg f.b

/-- A layout M word of these fields (R196). -/
def LaneFields.toM (f : LaneFields) (ty : Ty) : LaneM where
  h     := f.hdr
  ty    := ty
  d     := f.d
  a     := f.a
  base  := f.base
  c     := f.c
  scope := f.mods.extractLsb' 9 3
  order := f.mods.extractLsb' 7 2
  inv   := f.mods.getLsbD 6
  nt    := f.mods.getLsbD 5
  x     := f.mods.extractLsb' 3 2
  y     := f.mods.extractLsb' 0 2
  mem   := f.imm.extractLsb' 30 2
  off   := f.imm.extractLsb' 0 30

/-- An atomic word of these fields (R253). -/
def LaneFields.toAt (f : LaneFields) (ty : Ty) : LaneAt where
  h     := f.hdr
  ty    := ty
  d     := f.d
  a     := f.a
  base  := f.base
  c     := f.c
  scope := f.mods.extractLsb' 9 3
  order := f.mods.extractLsb' 7 2
  x     := f.mods.extractLsb' 3 2
  y     := f.mods.extractLsb' 0 2
  op    := f.imm.extractLsb' 28 4
  off   := f.imm.extractLsb' 0 28

/-- The b field of a base (R41). -/
def Base.field : Base → BitVec 8
  | .sreg r => (0 : BitVec 2) ++ r
  | .vreg r => r
/-- The sb bit of a base (R41). -/
def Base.bit : Base → BitVec 1
  | .sreg _ => 1
  | .vreg _ => 0

/-- The fields of a layout M word (R196). -/
def LaneM.fields (w : LaneM) (op : BitVec 10) : LaneFields where
  sw := bit1 w.h.sw
  lf := 0
  op := op
  ty := w.ty.code
  d := w.d
  a := w.a
  b := w.base.field
  c := w.c
  mask := w.h.mask
  mods := w.scope ++ w.order ++ bit1 w.inv ++ bit1 w.nt ++ w.x ++ w.base.bit ++ w.y
  imm := w.mem ++ w.off

/-- The fields of an atomic word (R253). -/
def LaneAt.fields (w : LaneAt) (op : BitVec 10) : LaneFields where
  sw := bit1 w.h.sw
  lf := 0
  op := op
  ty := w.ty.code
  d := w.d
  a := w.a
  b := w.base.field
  c := w.c
  mask := w.h.mask
  mods := w.scope ++ w.order ++ (0 : BitVec 2) ++ w.x ++ w.base.bit ++ w.y
  imm := w.op ++ w.off

/-- Fields with everything zero but the header, the opcode and the type. -/
def LaneFields.plain (h : Hdr) (op : BitVec 10) (ty : Ty) : LaneFields where
  sw := bit1 h.sw
  lf := 0
  op := op
  ty := ty.code
  d := 0
  a := 0
  b := 0
  c := 0
  mask := h.mask
  mods := 0
  imm := 0

/-- Parse a word whose type code the test accepts (R39, R52). -/
def LaneFields.typed (f : LaneFields) (ok : Ty → Bool) (k : Ty → Except Reject Instr) : Except Reject Instr :=
  match Ty.ofCode f.ty with
  | none => .error (.illegalType f.ty)
  | some ty => if ok ty then k ty else .error (.illegalType f.ty)

/-- Parse a layout A word (R163). FCVT's source type code counts as a type (R178). -/
def LaneFields.parseA (f : LaneFields) (lit : Slot) (o : OpA) (mk : LaneA → Instr) : Except Reject Instr :=
  f.typed o.types fun ty =>
    let w := f.toA ty lit
    if o.srcTypeOk w then .ok (mk w) else .error (.illegalType (f.c.extractLsb' 0 4))

/-- Parse a layout M word (R196). -/
def LaneFields.parseM (f : LaneFields) (o : OpM) (mk : LaneM → Instr) : Except Reject Instr :=
  f.typed o.typeOk fun ty => .ok (mk (f.toM ty))

/-- Parse an atomic word; the types are those of its op, or of any op where the opcode lacks this one (R254). -/
def LaneFields.parseAt (f : LaneFields) (ret : Bool) (mk : LaneAt → Instr) : Except Reject Instr :=
  let op := f.imm.extractLsb' 28 4
  f.typed (fun t => atAnyType t && (!atOpOk ret op || atTypeOk op t)) fun ty => .ok (mk (f.toAt ty))

/-- The ACCX form of the mode in bits 36 to 34 (R309). -/
def LaneFields.parseAccx (f : LaneFields) : Except Reject Instr :=
  f.typed (· = .i32) fun _ =>
    let t := f.mods.extractLsb' 0 2
    match (f.mods.extractLsb' 2 3).toNat with
    | 0 => .ok (.accxRd f.hdr t f.d f.a)
    | 1 => .ok (.accxWr f.hdr t f.a f.c)
    | 2 => .ok (.accxAdd f.hdr t f.a f.c)
    | 3 => .ok (.accxFlg f.hdr t f.d)
    | 4 => .ok (.accxOrf f.hdr t f.c)
    | _ => .error .illegal

/-- The instruction of a lane word's fields, with `lit` the slot after it (R51). -/
def LaneFields.parse (f : LaneFields) (lit : Slot) : Except Reject Instr :=
  match f.op.toNat with
  | 0x001 => f.parseA lit .vmov .vmov
  | 0x002 => f.parseA lit .vadd .vadd
  | 0x003 => f.parseA lit .vsub .vsub
  | 0x004 => f.parseA lit .vmul .vmul
  | 0x005 => f.parseA lit .vmulh .vmulh
  | 0x006 => f.parseA lit .vmad .vmad
  | 0x007 => f.parseA lit .vabsd .vabsd
  | 0x008 => f.parseA lit .vmin .vmin
  | 0x009 => f.parseA lit .vmax .vmax
  | 0x00A => f.parseA lit .vand .vand
  | 0x00B => f.parseA lit .vor .vor
  | 0x00C => f.parseA lit .vxor .vxor
  | 0x00D => f.parseA lit .vtri .vtri
  | 0x00E => f.parseA lit .vsel .vsel
  | 0x00F => f.parseA lit .vcmp .vcmp
  | 0x010 => f.parseA lit .vshl .vshl
  | 0x011 => f.parseA lit .vshr .vshr
  | 0x012 => f.parseA lit .vsar .vsar
  | 0x013 => f.parseA lit .vfshl .vfshl
  | 0x014 => f.parseA lit .vfshr .vfshr
  | 0x015 => f.parseA lit .vpopc .vpopc
  | 0x016 => f.parseA lit .vclz .vclz
  | 0x017 => f.parseA lit .vbrev .vbrev
  | 0x018 => f.parseA lit .vbfe .vbfe
  | 0x019 => f.parseA lit .vbfi .vbfi
  | 0x01A => f.parseA lit .vlane .vlane
  | 0x020 => f.parseA lit .fadd .fadd
  | 0x021 => f.parseA lit .fsub .fsub
  | 0x022 => f.parseA lit .fmul .fmul
  | 0x023 => f.parseA lit .ffma .ffma
  | 0x024 => f.parseA lit .fmin .fmin
  | 0x025 => f.parseA lit .fmax .fmax
  | 0x026 => f.parseA lit .fcmp .fcmp
  | 0x027 => f.parseA lit .fclass .fclass
  | 0x028 => f.parseA lit .frcp .frcp
  | 0x029 => f.parseA lit .frsq .frsq
  | 0x02A => f.parseA lit .fsqrt .fsqrt
  | 0x02B => f.parseA lit .fdiv .fdiv
  | 0x02C => f.parseA lit .fexp2 .fexp2
  | 0x02D => f.parseA lit .flog2 .flog2
  | 0x02E => f.parseA lit .fcvt .fcvt
  | 0x02F => f.parseA lit .frnd .frnd
  | 0x030 => f.parseA lit .vshuf .vshuf
  | 0x031 => f.parseA lit .vbcast .vbcast
  | 0x032 => f.parseA lit .vrot .vrot
  | 0x033 => f.parseA lit .vscan .vscan
  | 0x034 => f.parseA lit .vred .vred
  | 0x035 => f.parseA lit .msave .msave
  | 0x036 => f.parseA lit .mload .mload
  | 0x038 => f.typed (· = .f32) fun _ =>
      .ok (.accept f.hdr (f.d.extractLsb' 0 4) f.a (if f.mods.getLsbD 11 then none else some f.b))
  | 0x039 => f.typed entryTypeOk fun ty => .ok (.qpush f.hdr ty f.c (f.imm.extractLsb' 0 4))
  | 0x03A => f.typed entryTypeOk fun ty => .ok (.qpop f.hdr ty f.d (f.imm.extractLsb' 0 4))
  | 0x03C => f.typed (fun t => t = .n32 || t = .n64) fun ty => .ok (.rand f.hdr ty f.d)
  | 0x03D => f.typed (fun t => t = .f32 || t = .f64) fun ty => .ok (.randf f.hdr ty f.d)
  | 0x03E => f.typed (fun t => t = .f32 || t = .f64) fun ty => .ok (.randn f.hdr ty f.d)
  | 0x03F => f.typed (fun t => t.inI || t = .f32 || t = .f64) fun ty =>
      .ok (.estadd f.hdr ty f.a (if f.mods.getLsbD 0 then .sreg (f.b.extractLsb' 0 6) else .imm (f.imm.extractLsb' 0 16)))
  | 0x040 => f.parseM .vld .vld
  | 0x041 => f.parseM .vst .vst
  | 0x042 => f.parseM .vstSlc .vstSlc
  | 0x043 => f.parseM .vpfx .vpfx
  | 0x044 => f.parseAt false .vat
  | 0x045 => f.parseAt true .vatr
  | 0x048 => f.parseM .vlds .vlds
  | 0x049 => f.parseM .vsts .vsts
  | 0x04A => f.typed entryTypeOk fun ty => .ok (.fpush f.hdr ty f.c (f.mods.getLsbD 8) (f.imm.extractLsb' 0 3))
  | 0x04B => f.typed entryTypeOk fun ty => .ok (.fpop f.hdr ty f.d (f.mods.getLsbD 7) (f.imm.extractLsb' 0 3))
  | 0x050 => f.parseM .obld .obld
  | 0x051 => f.typed (· = .i32) fun _ =>
      .ok (.mma f.hdr f.b (f.mods.extractLsb' 10 2) (f.mods.extractLsb' 7 3)
        (if f.mods.getLsbD 6 then .sreg (f.imm.extractLsb' 0 6) else .imm (f.imm.extractLsb' 0 6)) (f.mods.extractLsb' 0 4))
  | 0x052 => f.typed Ty.inF fun ty =>
      .ok (.accrd f.hdr ty f.d f.a (f.mods.extractLsb' 10 2) (f.mods.getLsbD 9) (f.mods.getLsbD 1) (f.imm.extractLsb' 0 2)
        (f.imm.getLsbD 2))
  | 0x053 => f.parseAccx
  | _ => .error .unassigned

/-- Fields of ACCX: the mode and the tile (R309). -/
def accxFields (h : Hdr) (mode : BitVec 3) (tile : BitVec 2) : LaneFields :=
  { LaneFields.plain h 0x053 .i32 with mods := (0 : BitVec 7) ++ mode ++ tile }

/-- The fields and the literal of an instruction that the lane stream holds; none for any other constructor. -/
def laneFields : Instr → Option (LaneFields × Option Slot)
  | .vmov w => some (w.fields 0x001, w.literal)
  | .vadd w => some (w.fields 0x002, w.literal)
  | .vsub w => some (w.fields 0x003, w.literal)
  | .vmul w => some (w.fields 0x004, w.literal)
  | .vmulh w => some (w.fields 0x005, w.literal)
  | .vmad w => some (w.fields 0x006, w.literal)
  | .vabsd w => some (w.fields 0x007, w.literal)
  | .vmin w => some (w.fields 0x008, w.literal)
  | .vmax w => some (w.fields 0x009, w.literal)
  | .vand w => some (w.fields 0x00A, w.literal)
  | .vor w => some (w.fields 0x00B, w.literal)
  | .vxor w => some (w.fields 0x00C, w.literal)
  | .vtri w => some (w.fields 0x00D, w.literal)
  | .vsel w => some (w.fields 0x00E, w.literal)
  | .vcmp w => some (w.fields 0x00F, w.literal)
  | .vshl w => some (w.fields 0x010, w.literal)
  | .vshr w => some (w.fields 0x011, w.literal)
  | .vsar w => some (w.fields 0x012, w.literal)
  | .vfshl w => some (w.fields 0x013, w.literal)
  | .vfshr w => some (w.fields 0x014, w.literal)
  | .vpopc w => some (w.fields 0x015, w.literal)
  | .vclz w => some (w.fields 0x016, w.literal)
  | .vbrev w => some (w.fields 0x017, w.literal)
  | .vbfe w => some (w.fields 0x018, w.literal)
  | .vbfi w => some (w.fields 0x019, w.literal)
  | .vlane w => some (w.fields 0x01A, w.literal)
  | .fadd w => some (w.fields 0x020, w.literal)
  | .fsub w => some (w.fields 0x021, w.literal)
  | .fmul w => some (w.fields 0x022, w.literal)
  | .ffma w => some (w.fields 0x023, w.literal)
  | .fmin w => some (w.fields 0x024, w.literal)
  | .fmax w => some (w.fields 0x025, w.literal)
  | .fcmp w => some (w.fields 0x026, w.literal)
  | .fclass w => some (w.fields 0x027, w.literal)
  | .frcp w => some (w.fields 0x028, w.literal)
  | .frsq w => some (w.fields 0x029, w.literal)
  | .fsqrt w => some (w.fields 0x02A, w.literal)
  | .fdiv w => some (w.fields 0x02B, w.literal)
  | .fexp2 w => some (w.fields 0x02C, w.literal)
  | .flog2 w => some (w.fields 0x02D, w.literal)
  | .fcvt w => some (w.fields 0x02E, w.literal)
  | .frnd w => some (w.fields 0x02F, w.literal)
  | .vshuf w => some (w.fields 0x030, w.literal)
  | .vbcast w => some (w.fields 0x031, w.literal)
  | .vrot w => some (w.fields 0x032, w.literal)
  | .vscan w => some (w.fields 0x033, w.literal)
  | .vred w => some (w.fields 0x034, w.literal)
  | .msave w => some (w.fields 0x035, w.literal)
  | .mload w => some (w.fields 0x036, w.literal)
  | .accept h d a b => some ({ LaneFields.plain h 0x038 .f32 with
      d := (0 : BitVec 4) ++ d, a := a, b := b.getD 0, mods := bit1 b.isNone ++ (0 : BitVec 11) }, none)
  | .qpush h ty c q => some ({ LaneFields.plain h 0x039 ty with c := c, imm := (0 : BitVec 28) ++ q }, none)
  | .qpop h ty d q => some ({ LaneFields.plain h 0x03A ty with d := d, imm := (0 : BitVec 28) ++ q }, none)
  | .rand h ty d => some ({ LaneFields.plain h 0x03C ty with d := d }, none)
  | .randf h ty d => some ({ LaneFields.plain h 0x03D ty with d := d }, none)
  | .randn h ty d => some ({ LaneFields.plain h 0x03E ty with d := d }, none)
  | .estadd h ty a (.sreg r) => some ({ LaneFields.plain h 0x03F ty with a := a, b := (0 : BitVec 2) ++ r, mods := 1 }, none)
  | .estadd h ty a (.imm k) => some ({ LaneFields.plain h 0x03F ty with a := a, imm := (0 : BitVec 16) ++ k }, none)
  | .vld w => some (w.fields 0x040, none)
  | .vst w => some (w.fields 0x041, none)
  | .vstSlc w => some (w.fields 0x042, none)
  | .vpfx w => some (w.fields 0x043, none)
  | .vat w => some (w.fields 0x044, none)
  | .vatr w => some (w.fields 0x045, none)
  | .vlds w => some (w.fields 0x048, none)
  | .vsts w => some (w.fields 0x049, none)
  | .fpush h ty c rel q => some ({ LaneFields.plain h 0x04A ty with
      c := c, mods := (0 : BitVec 3) ++ bit1 rel ++ (0 : BitVec 8), imm := (0 : BitVec 29) ++ q }, none)
  | .fpop h ty d acq q => some ({ LaneFields.plain h 0x04B ty with
      d := d, mods := (0 : BitVec 4) ++ bit1 acq ++ (0 : BitVec 7), imm := (0 : BitVec 29) ++ q }, none)
  | .obld w => some (w.fields 0x050, none)
  | .mma h b tile res slab fmt => some ({ LaneFields.plain h 0x051 .i32 with
      b := b
      mods := tile ++ res ++ (match slab with | .sreg _ => (1 : BitVec 1) | .imm _ => 0) ++ (0 : BitVec 2) ++ fmt
      imm := (0 : BitVec 26) ++ (match slab with | .sreg r => r | .imm n => n) }, none)
  | .accrd h ty d a rnd alt ftz tile z => some ({ LaneFields.plain h 0x052 ty with
      d := d, a := a, mods := rnd ++ bit1 alt ++ (0 : BitVec 7) ++ bit1 ftz ++ (0 : BitVec 1)
      imm := (0 : BitVec 29) ++ bit1 z ++ tile }, none)
  | .accxRd h t d a => some ({ accxFields h 0 t with d := d, a := a }, none)
  | .accxWr h t a c => some ({ accxFields h 1 t with a := a, c := c }, none)
  | .accxAdd h t a c => some ({ accxFields h 2 t with a := a, c := c }, none)
  | .accxFlg h t d => some ({ accxFields h 3 t with d := d }, none)
  | .accxOrf h t c => some ({ accxFields h 4 t with c := c }, none)
  | _ => none

/-! ### The encoder and the decoder -/

/-- The words of a lane instruction. -/
def encodeLane (i : Instr) : Option Code := (laneFields i).map fun p => .lane p.1.word p.2

/-- The words of an instruction; none for a step of another agent, which has no encoding. -/
def encode (i : Instr) : Option Code :=
  match encodeScalar i with
  | some c => some c
  | none => encodeLane i

/-- The literal a scalar word is followed by, if it is followed by one (R32). -/
def Code.hasLit : Code → Bool
  | .scalar _ l => l.isSome
  | .lane _ l => l.isSome

/-- Accept a parsed instruction when its fields keep their rules and the encoder makes this very word of it. -/
def accepted (i : Instr) (scalar : Bool) (w : Slot) : Except Reject Instr :=
  let same := match encode i with
    | some (.scalar v _) => scalar && decide (v.setWidth 96 = w)
    | some (.lane v _) => !scalar && decide (v = w)
    | none => false
  if i.wf && same then .ok i else .error .illegal

/-- Decode a scalar word, with `lit` the word after it (R52). Log 19 (DEDUCED). -/
def decodeScalar (w lit : W32) : Except Reject Instr :=
  match parseScalar w lit with
  | none => .error .unassigned
  | some i => accepted i true (w.setWidth 96)

/-- Decode a lane word, with `lit` the slot after it (R52). -/
def decodeLane (w lit : Slot) : Except Reject Instr :=
  match (LaneFields.ofWord w).parse lit with
  | .error e => .error e
  | .ok i => accepted i false w

/-- The scalar opcodes of the SA format (R50). -/
def saOpcodes : List Nat :=
  [0x01, 0x04, 0x05, 0x09, 0x0B, 0x0C, 0x0E, 0x0F, 0x18, 0x19, 0x1A, 0x1B, 0x1D, 0x1E, 0x1F]
  ++ (List.range 24).map (0x20 + ·)
  ++ [0x42, 0x49, 0x4C, 0x4D, 0x4E, 0x4F, 0x50, 0x51, 0x57, 0x58, 0x5A, 0x5B, 0x5C, 0x5E, 0x60, 0x62, 0x64, 0x65]

/-- A literal follows this scalar word: its opcode is of the SA format and function bit 6 is set, whether its instruction
accepts a literal or not (R32). Log 19 (DEDUCED). -/
def scalarHasLit (w : W32) : Bool := w.getLsbD 6 && saOpcodes.contains (w.extractLsb' 25 7).toNat

/-- A trailing literal follows this lane word: bit 94 is set, whatever the word is otherwise (R36, R42). -/
def laneHasLit (w : Slot) : Bool := w.getLsbD 94

/-- Decode the words of an instruction. -/
def Code.decode : Code → Except Reject Instr
  | .scalar w lit => decodeScalar w (lit.getD 0)
  | .lane w lit => decodeLane w (lit.getD 0)

/-- The bytes by which the program counter of its stream advances past an instruction (R26). -/
def Instr.size (i : Instr) : Nat :=
  match encode i with
  | some (.scalar _ none) => 4
  | some (.scalar _ (some _)) => 8
  | some (.lane _ none) => 12
  | some (.lane _ (some _)) => 24
  | none => 0

/-- The word is of the lane stream. -/
def Instr.isLane (i : Instr) : Bool := (laneFields i).isSome

/-! ### Bytes -/

/-- The first n bytes of a word, the lowest first (R1). -/
def bytesOf {w : Nat} (n : Nat) (v : BitVec w) : List Byte := (List.range n).map fun i => v.extractLsb' (8 * i) 8

/-- The word of bytes, the lowest first (R1). -/
def ofBytes (w : Nat) (bs : List Byte) : BitVec w :=
  BitVec.ofNat w (bs.foldr (fun b acc => b.toNat + 256 * acc) 0)

/-- The bytes that hold the words of an instruction (R25). -/
def Code.bytes : Code → List Byte
  | .scalar w lit => bytesOf 4 w ++ (match lit with | some l => bytesOf 4 l | none => [])
  | .lane w lit => bytesOf 12 w ++ (match lit with | some l => bytesOf 12 l | none => [])

/-- Decode the instruction at the head of the scalar stream's bytes. -/
def decodeScalarBytes (bs : List Byte) : Except Reject Instr :=
  if bs.length < 4 then .error .truncated else
  let w := ofBytes 32 (bs.take 4)
  if scalarHasLit w then
    if bs.length < 8 then .error .truncated else decodeScalar w (ofBytes 32 ((bs.drop 4).take 4))
  else decodeScalar w 0

/-- Decode the instruction at the head of the lane stream's bytes. -/
def decodeLaneBytes (bs : List Byte) : Except Reject Instr :=
  if bs.length < 12 then .error .truncated else
  let w := ofBytes 96 (bs.take 12)
  if laneHasLit w then
    if bs.length < 24 then .error .truncated else decodeLane w (ofBytes 96 ((bs.drop 12).take 12))
  else decodeLane w 0

/-- The instruction of a table row's word: up to 64 bits a scalar word with its literal, more a lane slot with its
trailing literal. -/
def decodeTableWord (nbits w : Nat) : Option Instr :=
  if nbits ≤ 64 then (decodeScalarBytes (bytesOf 8 (BitVec.ofNat 64 w))).toOption
  else (decodeLaneBytes (bytesOf 24 (BitVec.ofNat 192 w))).toOption

end Sys2Proof
end

