-- ==== Sys2Proof/Config.lean ====
section
/-! DEFINITION. What the specification leaves to each device or leaves open. Every constant is opaque: no proof can
see its value, so a claim holds whatever it is. Each names its entry of the assumption log. -/

namespace Sys2Proof.Config

/-- VMIN and VMAX of a negated smallest value of `w` bits may give `x`, which the type cannot hold (R166). Log 51 (DESIGN CHOICE). -/
opaque minMaxRange (w : Nat) (x : Int) : Nat

/-- The depth of the host-link request queue at a time, in 256-byte requests (R210). Log 7 (DEDUCED). -/
opaque linkDepth (time : Nat) : Nat

/-- Byte `k` of the buffer of a collective job, which other devices contribute to, and of one that has timed out (R274).
Log 6 (DEDUCED). -/
opaque fabric (seed k : Nat) : Byte

/-- Byte `k` of a reservation of the operand buffer before anything is written there (R293). Log 6 (DEDUCED). -/
opaque operand (seed k : Nat) : Byte

/-- Which contents a load with `.inv` sees of bytes that were written, by the number of its access (R203); and which an
instruction fetch sees, by its path, the core's clock and the address (R27). Log 8 (DEDUCED). -/
opaque invView (access : Nat) : Nat
opaque fetchView (path clock addr : Nat) : Nat

/-- The reading of a temperature sensor at a time, in 0.25 °C, and whether it passes its self-check (R357, R371). Log 7 (DEDUCED). -/
opaque sensor (number time : Nat) : BitVec 12
opaque sensorValid (number time : Nat) : Bool

/-- The heat capacity of a core pair in mJ per °C, and its DRAM energy in pJ per byte: calibration values (R365, R371). Log 7 (DEDUCED). -/
opaque heatCap (pair : Nat) : BitVec 16
opaque dramPj (pair : Nat) : BitVec 16

/-- The thermal allowance of a core pair at reset: its Reset column says cal (R3, R372). Log 7 (DEDUCED). -/
opaque tarReset (pair : Nat) : BitVec 32

/-- The energy of a core, and of the fillers of each of a partition's slope episodes, in a microsecond, in µJ (R370). Log 7 (DEDUCED). -/
opaque coreEnergy (core time : Nat) : Nat
opaque fillerEnergy (part time episode : Nat) : Nat

/-- A part `num / den` of an energy in µJ that is no whole number is rounded up at a sample: the rounding is not stated (R370). Log 7
(DEDUCED). -/
opaque energyUp (num den time : Nat) : Bool

/-- What sr.therm shows of the layers of a core whose home vaults have no valid layer sensor, by the time of the sample (R372). Log 7
(DEDUCED). -/
opaque noLayer (core time : Nat) : BitVec 12

/-- The power that a partition would draw unthrottled at a sample, and the mean of what it draws over 1 ms, in W (R367,
R371). Log 7 (DEDUCED). -/
opaque powerDemand (part time : Nat) : Nat
opaque powerMean (part time : Nat) : BitVec 12

/-- The DRAM bytes that an access of `n` bytes moves, by the team and the number of its access: none where a cache holds
them (R361). Log 7 (DEDUCED). -/
opaque dramBytes (team access n : Nat) : Nat

/-- The ticks of reference time that pass with a clock of a core (R392). Log 1 (DESIGN CHOICE). -/
opaque ticks (core cyc : Nat) : Nat

/-- Where the yarder is that a unit of a class is: its die and number; none for another kind of unit (R420). Log 7 (DEDUCED). -/
opaque unitYarder (cls unit : Nat) : Option (Nat × Nat)

/-- How step 1 to 4 of a start ends at a time: 0, or its error code (R418). Log 7 (DEDUCED). -/
opaque startStep (step time : Nat) : BitVec 4
/-- The number of ring-oscillator monitors, and what one reads at a time (R370, R418). Log 7 (DEDUCED). -/
opaque oscCount : Nat
opaque oscillator (number time : Nat) : Nat

/-- Thrumton's public key, the device's private identity key, and the number it chooses for a signature (R419, R422). Log 7 (DEDUCED). -/
opaque fusedKey : Nat × Nat
opaque identityKey : Nat
opaque signChoice (digest : List Byte) : Nat

/-- Byte k of the serial number, and of the certificate (R422). Log 7 (DEDUCED). -/
opaque serial (k : Nat) : Byte
opaque certificate (k : Nat) : Byte

/-- The digest of the microcode a unit class holds from manufacture, empty for a class the device lacks, and the number of
its units (R420, R422). Log 7 (DEDUCED). -/
opaque unitDigest (cls : Nat) : List Byte
opaque unitCount (cls : Nat) : Nat

end Sys2Proof.Config
end

