-- ==== Sys2Proof/Machine/Bits.lean ====
section
/-! DEFINITION. Bit fields, extension, saturation and wrapping, and bit counts (R1, R9, R57, R58). -/

namespace Sys2Proof.Machine

/-- The bits hi down to lo of a natural number (R1). -/
def field (x hi lo : Nat) : Nat := (x / 2 ^ lo) % 2 ^ (hi + 1 - lo)

/-- Bit i of a natural number. -/
def bitOf (x i : Nat) : Bool := x.testBit i

/-- A Boolean as the number 0 or 1. -/
def b2n (b : Bool) : Nat := if b then 1 else 0

/-- A Boolean mask as a bit at place i. -/
def bitAt (b : Bool) (i : Nat) : Nat := if b then 2 ^ i else 0

/-- The w-bit pattern read as two's complement. -/
def sextNat (w x : Nat) : Int :=
  let y := x % 2 ^ w
  if y ≥ 2 ^ (w - 1) ∧ w ≠ 0 then (y : Int) - (2 ^ w : Nat) else y

/-- The w-bit pattern of an exact integer: x reduced modulo 2^w (R9 wrap). -/
def patNat (w : Nat) (x : Int) : Nat := (x % ((2 ^ w : Nat) : Int)).toNat

/-- The value of a w-bit pattern, two's complement or natural (R57). -/
def valNat (sgn : Bool) (w x : Nat) : Int := if sgn then sextNat w x else ((x % 2 ^ w : Nat) : Int)

/-- The smallest value of an integer type (R57). -/
def intMin (sgn : Bool) (w : Nat) : Int := if sgn then -((2 ^ (w - 1) : Nat) : Int) else 0
/-- The largest value of an integer type (R57). -/
def intMax (sgn : Bool) (w : Nat) : Int := if sgn then ((2 ^ (w - 1) : Nat) : Int) - 1 else ((2 ^ w : Nat) : Int) - 1

/-- `sat(x, t)` of R9. -/
def satInt (sgn : Bool) (w : Nat) (x : Int) : Int :=
  if x < intMin sgn w then intMin sgn w else if intMax sgn w < x then intMax sgn w else x

/-- The pattern of x limited to an integer type: clamped, or wrapped (R58). -/
def limitInt (wrap sgn : Bool) (w : Nat) (x : Int) : Nat :=
  if wrap then patNat w x else patNat w (satInt sgn w x)

/-- The number of ones among the low n bits. -/
def popNat : Nat → Nat → Nat
  | 0, _ => 0
  | n + 1, x => b2n (x.testBit n) + popNat n x

/-- The number of leading zeros of an n-bit pattern. -/
def clzNat : Nat → Nat → Nat
  | 0, _ => 0
  | n + 1, x => if x.testBit n then 0 else 1 + clzNat n x

/-- The n low bits in reverse order (R9 bitreverse). -/
def revNat : Nat → Nat → Nat
  | 0, _ => 0
  | n + 1, x => (x % 2) * 2 ^ n + revNat n (x / 2)

/-- The least m with 2^m ≥ n (R9 ceil_log2). -/
def ceilLog2 (n : Nat) : Nat := if n ≤ 1 then 0 else Nat.log2 (n - 1) + 1

/-- A number rounded up to a multiple of m. -/
def roundUp (x m : Nat) : Nat := (x + (m - 1)) / m * m

/-- The quotient rounded up. -/
def ceilDiv (x m : Nat) : Nat := (x + (m - 1)) / m

/-- The lanes of a mask, ascending. -/
def maskLanes (n : Nat) (m : Mask) : List Nat := (List.range n).filter fun i => m.getLsbD i

/-- The mask with exactly these lanes. -/
def maskOf (ls : List Nat) : Mask := ls.foldl (fun m l => m ||| ((1 : Mask) <<< l)) 0

/-- The number of lanes in a mask. -/
def maskCount (m : Mask) : Nat := popNat 1024 m.toNat

/-- The lowest lane of a mask. -/
def maskLowest (m : Mask) : Option Nat := (List.range 1024).find? fun i => m.getLsbD i

/-- A mask with bit l set to b. -/
def maskSet (m : Mask) (l : Nat) (b : Bool) : Mask :=
  if b then m ||| ((1 : Mask) <<< l) else m &&& ~~~((1 : Mask) <<< l)

/-- The mask of lanes lo to lo + n - 1. -/
def maskRange (lo n : Nat) : Mask := BitVec.ofNat 1024 ((2 ^ n - 1) * 2 ^ lo)

/-- Replace the element at place i of a list; the list is unchanged where it has no such place. -/
def setAt {α : Type} : List α → Nat → α → List α
  | [], _, _ => []
  | _ :: xs, 0, v => v :: xs
  | x :: xs, i + 1, v => x :: setAt xs i v

/-- Change the element at place i of a list. -/
def modAt {α : Type} : List α → Nat → (α → α) → List α
  | [], _, _ => []
  | x :: xs, 0, f => f x :: xs
  | x :: xs, i + 1, f => x :: modAt xs i f

/-- Insert into a list that is sorted by a key, before the first larger key. -/
def insertBy {α : Type} (key : α → Nat) (x : α) : List α → List α
  | [] => [x]
  | y :: ys => if key x < key y then x :: y :: ys else y :: insertBy key x ys

/-- Sort by a key, stably. -/
def sortBy {α : Type} (key : α → Nat) (xs : List α) : List α := xs.foldl (fun acc x => insertBy key x acc) []

/-- A 64-bit word of a natural number. -/
abbrev w64 (n : Nat) : W64 := BitVec.ofNat 64 n
/-- A 32-bit word of a natural number. -/
abbrev w32 (n : Nat) : W32 := BitVec.ofNat 32 n

/-- The natural number of bytes, the lowest first (R1). -/
def natOfBytes (bs : List Byte) : Nat := bs.foldr (fun b acc => b.toNat + 256 * acc) 0

/-- The n low bytes of a natural number, the lowest first (R1). -/
def bytesOfNat (n x : Nat) : List Byte := (List.range n).map fun i => BitVec.ofNat 8 (x / 2 ^ (8 * i))

end Sys2Proof.Machine
end

