-- ==== Sys2Proof/Machine/Numbers.lean ====
section
/-! DEFINITION. Floating-point formats, exact real values, rounding and overflow (R59 to R65), the correctly rounded
functions of R177, block floating point (R66, R67), the accumulator element (R68 to R73) and the fixed orders of
multi-lane sums (R74 to R76). A finite value is a sign, a natural number m and an exponent e: (−1)^s × m × 2^e. -/

namespace Sys2Proof.Machine

/-- A floating-point format (R59). -/
structure FFmt where
  width : Nat
  mbits : Nat
  bias  : Nat
  emax  : Nat
  e4    : Bool
  deriving DecidableEq, Repr

/-- f64 (R59). -/
def FFmt.f64 : FFmt := ⟨64, 52, 1023, 2047, false⟩
/-- f32 (R59). -/
def FFmt.f32 : FFmt := ⟨32, 23, 127, 255, false⟩
/-- f16 (R59). -/
def FFmt.f16 : FFmt := ⟨16, 10, 15, 31, false⟩
/-- bf16 (R59). -/
def FFmt.bf16 : FFmt := ⟨16, 7, 127, 255, false⟩
/-- f8e5 (R59). -/
def FFmt.f8e5 : FFmt := ⟨8, 2, 15, 31, false⟩
/-- f8e4, which has no infinities (R59, R60). -/
def FFmt.f8e4 : FFmt := ⟨8, 3, 7, 15, true⟩

/-- The format of a float type; f32 for another type. -/
def FFmt.ofTy : Ty → FFmt
  | .f64 => .f64
  | .f16 => .f16
  | .bf16 => .bf16
  | .f8e4 => .f8e4
  | .f8e5 => .f8e5
  | _ => .f32

/-- A value: a NaN, an infinity, the infinity that a division by zero or a logarithm of zero makes of finite
sources, or a finite value (−1)^s × m × 2^e. -/
inductive FVal where
  | nan
  | inf (s : Bool)
  | pole (s : Bool)
  | fin (s : Bool) (m : Nat) (e : Int)
  deriving DecidableEq, Repr

/-- The value of a pattern (R59, R60). -/
def FFmt.value (f : FFmt) (p : Nat) : FVal :=
  let s := p.testBit (f.width - 1)
  let ex := field p (f.width - 2) f.mbits
  let fr := p % 2 ^ f.mbits
  if f.e4 && ex == 15 && fr == 7 then .nan
  else if !f.e4 && ex == f.emax then (if fr == 0 then .inf s else .nan)
  else if ex == 0 then .fin s fr (1 - (f.bias : Int) - f.mbits)
  else .fin s (2 ^ f.mbits + fr) ((ex : Int) - f.bias - f.mbits)

/-- The pattern is subnormal (R59). -/
def FFmt.isSub (f : FFmt) (p : Nat) : Bool := field p (f.width - 2) f.mbits == 0 && p % 2 ^ f.mbits != 0

/-- The sign bit as a number. -/
def FFmt.sign (f : FFmt) (s : Bool) : Nat := bitAt s (f.width - 1)

/-- The canonical NaN (R60). -/
def FFmt.canon (f : FFmt) : Nat :=
  if f.e4 then 0x7F else f.emax * 2 ^ f.mbits + 2 ^ (f.mbits - 1)

/-- The pattern of an infinity; f8e4 has none. -/
def FFmt.infPat (f : FFmt) (s : Bool) : Nat := f.sign s + f.emax * 2 ^ f.mbits

/-- The largest finite value of the sign (R59). -/
def FFmt.largest (f : FFmt) (s : Bool) : Nat :=
  if f.e4 then f.sign s + 0x7E else f.sign s + f.emax * 2 ^ f.mbits - 1

/-- The result of a rounded magnitude beyond the largest finite value (R64). -/
def FFmt.overflow (f : FFmt) (mode : Nat) (alt s : Bool) : Nat :=
  if f.e4 then (if alt then 0x7F else f.largest s)
  else if alt then f.largest s
  else match mode with
    | 1 => f.largest s
    | 2 => if s then f.largest s else f.infPat s
    | 3 => if s then f.infPat s else f.largest s
    | _ => f.infPat s

/-- The result for an infinite exact value (R64): of an infinite source under `alt` the largest finite value; a pole
stays infinite. -/
def FFmt.infinite (f : FFmt) (alt pole s : Bool) : Nat :=
  if f.e4 then (if alt then 0x7F else f.largest s)
  else if alt && !pole then f.largest s
  else f.infPat s

/-- m × 2^(−k) rounded to a natural number under the mode, for a value of sign s (R63). -/
def roundShift (mode : Nat) (s : Bool) (m k : Nat) : Nat :=
  let q := m / 2 ^ k
  let r := m % 2 ^ k
  let up := match mode with
    | 1 => false
    | 2 => !s && r != 0
    | 3 => s && r != 0
    | _ => 2 * r > 2 ^ k || (2 * r == 2 ^ k && q % 2 == 1)
  if up then q + 1 else q

/-- m × 2^e rounded to a natural number. -/
def roundNat (mode : Nat) (s : Bool) (m : Nat) (e : Int) : Nat :=
  if 0 ≤ e then m * 2 ^ e.toNat else roundShift mode s m (-e).toNat

/-- `rnd` of a finite nonzero value, limited by R64, flushed under ftz (R62, R63). -/
def FFmt.rndFin (f : FFmt) (mode : Nat) (alt ftz s : Bool) (m : Nat) (e : Int) : Nat :=
  let lo : Int := 1 - (f.bias : Int) - f.mbits
  let top : Int := (Nat.log2 m : Int) + e - f.mbits
  let q := if top < lo then lo else top
  let k := roundNat mode s m (e - q)
  if k == 0 then f.sign s
  else if k < 2 ^ f.mbits then (if ftz then f.sign s else f.sign s + k)
  else
    let k' := if k ≥ 2 ^ (f.mbits + 1) then k / 2 else k
    let q' := if k ≥ 2 ^ (f.mbits + 1) then q + 1 else q
    let ex := (q' + f.mbits + f.bias).toNat
    let big := if f.e4 then ex > 15 || (ex == 15 && k' == 15) else ex ≥ f.emax
    if big then f.overflow mode alt s else f.sign s + ex * 2 ^ f.mbits + (k' - 2 ^ f.mbits)

/-- `rnd(x, t, mode)` with R61, R62 and R64. -/
def FFmt.rnd (f : FFmt) (mode : Nat) (alt ftz : Bool) : FVal → Nat
  | .nan => f.canon
  | .inf s => f.infinite alt false s
  | .pole s => f.infinite alt true s
  | .fin s m e => if m = 0 then f.sign s else f.rndFin mode alt ftz s m e

/-- The value of a source, a subnormal read as zero of its sign under ftz (R62). -/
def FFmt.src (f : FFmt) (ftz : Bool) (p : Nat) : FVal :=
  if ftz && f.isSub p then .fin (p.testBit (f.width - 1)) 0 0 else f.value p

/-- The negate and absolute-value modifiers act on the sign bit (R40, R61). -/
def FFmt.modify (f : FFmt) (neg abs : Bool) (p : Nat) : Nat :=
  let p := p % 2 ^ f.width
  let p := if abs then p % 2 ^ (f.width - 1) else p
  if neg then (p + 2 ^ (f.width - 1)) % 2 ^ f.width else p

/-- A finite value as a signed mantissa and an exponent. -/
def signed (s : Bool) (m : Nat) : Int := if s then -(m : Int) else m

/-- The finite value of a signed mantissa; a zero takes the sign given. -/
def ofSigned (zs : Bool) (x : Int) (e : Int) : FVal :=
  if x = 0 then .fin zs 0 0 else .fin (decide (x < 0)) x.natAbs e

/-- x × 2^(e − e') for e' ≤ e. -/
def alignTo (x : Int) (e e' : Int) : Int := x * ((2 ^ (e - e').toNat : Nat) : Int)

/-- A sum, with the sign of a zero by R63. -/
def FVal.add (mode : Nat) : FVal → FVal → FVal
  | .nan, _ => .nan
  | _, .nan => .nan
  | .fin s m e, .fin s' m' e' =>
    let lo := min e e'
    let zs := if m = 0 ∧ m' = 0 ∧ s = s' then s else mode == 3
    ofSigned zs (alignTo (signed s m) e lo + alignTo (signed s' m') e' lo) lo
  | .fin _ _ _, y => y
  | x, .fin _ _ _ => x
  | .inf s, .inf s' => if s = s' then .inf s else .nan
  | .inf s, .pole s' => if s = s' then .inf s else .nan
  | .pole s, .inf s' => if s = s' then .inf s else .nan
  | .pole s, .pole s' => if s = s' then .inf s else .nan

/-- The value with its sign changed. -/
def FVal.negate : FVal → FVal
  | .nan => .nan
  | .inf s => .inf !s
  | .pole s => .pole !s
  | .fin s m e => .fin (!s) m e

/-- A product; zero times infinity is a NaN (R63, R174). -/
def FVal.mul : FVal → FVal → FVal
  | .nan, _ => .nan
  | _, .nan => .nan
  | .fin s m e, .fin s' m' e' => .fin (s != s') (m * m') (if m * m' = 0 then 0 else e + e')
  | .fin s m _, .inf s' => if m = 0 then .nan else .inf (s != s')
  | .fin s m _, .pole s' => if m = 0 then .nan else .inf (s != s')
  | .inf s, .fin s' m _ => if m = 0 then .nan else .inf (s != s')
  | .pole s, .fin s' m _ => if m = 0 then .nan else .inf (s != s')
  | .inf s, .inf s' => .inf (s != s')
  | .inf s, .pole s' => .inf (s != s')
  | .pole s, .inf s' => .inf (s != s')
  | .pole s, .pole s' => .inf (s != s')

/-- The value of a rational m / n × 2^e, n > 0, kept to 80 bits with a sticky bit below them, which rounds to every
format of R59 as the exact quotient does. -/
def ofRatio (s : Bool) (m n : Nat) (e : Int) : FVal :=
  let k := 80 + Nat.log2 n - min (Nat.log2 m) (79 + Nat.log2 n)
  let q := m * 2 ^ k / n
  let r := m * 2 ^ k % n
  .fin s (2 * q + b2n (r != 0)) (e - k - 1)

/-- A quotient (R177). -/
def FVal.div : FVal → FVal → FVal
  | .nan, _ => .nan
  | _, .nan => .nan
  | .fin s m e, .fin s' m' e' =>
    if m' = 0 then (if m = 0 then .nan else .pole (s != s'))
    else if m = 0 then .fin (s != s') 0 0
    else ofRatio (s != s') m m' (e - e')
  | .fin s _ _, .inf s' => .fin (s != s') 0 0
  | .fin s _ _, .pole s' => .fin (s != s') 0 0
  | .inf s, .fin s' _ _ => .inf (s != s')
  | .pole s, .fin s' _ _ => .inf (s != s')
  | .inf _, _ => .nan
  | .pole _, _ => .nan

/-- Digit by digit: the root of n, given the part r already found and the number of bits left. -/
def isqrtGo (n : Nat) : Nat → Nat → Nat
  | 0, r => r
  | k + 1, r => let t := r + 2 ^ k; if t * t ≤ n then isqrtGo n k t else isqrtGo n k r

/-- The integer part of the square root. -/
def isqrt (n : Nat) : Nat := isqrtGo n (Nat.log2 n / 2 + 1) 0

/-- The square root of m × 2^e, to 80 bits with a sticky bit. -/
def rootFin (m : Nat) (e : Int) : FVal :=
  let k := 160 + (e % 2).toNat
  let r := isqrt (m * 2 ^ k)
  .fin false (2 * r + b2n (r * r != m * 2 ^ k)) ((e - k) / 2 - 1)

/-- One over the square root of m × 2^e, to 80 bits with a sticky bit. -/
def rsqrtFin (m : Nat) (e : Int) : FVal :=
  let k := 2 * (Nat.log2 m + 90) + (e % 2).toNat
  let r := isqrt (2 ^ k / m)
  .fin false (2 * r + b2n (r * r * m != 2 ^ k)) ((-(e + k)) / 2 - 1)

/-- FSQRT (R177). -/
def FVal.sqrt : FVal → FVal
  | .fin s m e => if m = 0 then .fin s 0 0 else if s then .nan else rootFin m e
  | .inf false => .inf false
  | .pole false => .inf false
  | _ => .nan

/-- FRSQ (R177). -/
def FVal.rsqrt : FVal → FVal
  | .fin s m e => if m = 0 then .pole s else if s then .nan else rsqrtFin m e
  | .inf false => .fin false 0 0
  | .pole false => .fin false 0 0
  | _ => .nan

/-- FRCP (R177). -/
def FVal.rcp (x : FVal) : FVal := FVal.div (.fin false 1 0) x

/-! ### Interval evaluation of transcendental functions

A real is enclosed by two integers over 2^p. The enclosure is narrowed until both ends round alike. -/

/-- The sum of x^(2k+1) / (2k+1) over k, x < 2^p / 2 a fraction over 2^p: the terms from t = x^(2k+1) on. -/
def atanhGo (p z2 : Nat) : Nat → Nat → Nat → Nat
  | 0, _, _ => 0
  | n + 1, t, d => t / d + atanhGo p z2 n (t * z2 / 2 ^ p) (d + 2)

/-- A lower bound of 2 atanh(x / 2^p) × 2^p, for x / 2^p ≤ 1/3; the sum is short by less than 4 p + 16. -/
def atanh2 (p x : Nat) : Nat := 2 * atanhGo p (x * x / 2 ^ p) (p / 3 + 2) x 1

/-- A lower bound of ln 2 × 2^p. -/
def ln2Lo (p : Nat) : Nat := atanh2 p (2 ^ p / 3)

/-- How far a sum of `atanh2` may fall short. -/
def slack (p : Nat) : Nat := 16 * p + 64

/-- Lower and upper bounds of ln(m / 2^k) × 2^p for 2^k ≤ m < 2^(k+1). -/
def lnBounds (p m k : Nat) : Nat × Nat :=
  let lo := atanh2 p ((m - 2 ^ k) * 2 ^ p / (m + 2 ^ k))
  (lo, lo + slack p)

/-- The terms of exp(y) from t on. -/
def expGo (p y : Nat) : Nat → Nat → Nat → Nat
  | 0, t, _ => t
  | n + 1, t, k => t + expGo p y n (t * y / 2 ^ p / (k + 1)) (k + 1)

/-- Bounds of 2^(f / 2^p) × 2^p for 0 ≤ f < 2^p. -/
def exp2Bounds (p f : Nat) : Nat × Nat :=
  let lo := expGo p (f * ln2Lo p / 2 ^ p) (p / 2 + 8) (2 ^ p) 0
  (lo, lo + 8 * slack p)

/-- Narrow an enclosure until both ends round to one pattern; the precisions to try are given. `enc p` answers the
sign and the bounds of the magnitude over 2^p. -/
def ziv (rnd : FVal → Nat) (enc : Nat → Bool × Nat × Nat) : List Nat → Nat
  | [] => 0
  | p :: ps =>
    let r := enc p
    let lo := rnd (.fin r.1 (2 * r.2.1 + 1) (-(p : Int) - 1))
    let hi := rnd (.fin r.1 (2 * r.2.2 + 1) (-(p : Int) - 1))
    if lo = hi || ps.isEmpty then lo else ziv rnd enc ps

/-- The precisions tried. -/
def zivPrecs : List Nat := [128, 256, 512, 1024, 2048, 4096]

/-- FEXP2: 2^a, correctly rounded (R177). -/
def FFmt.exp2 (f : FFmt) (mode : Nat) (alt ftz : Bool) : FVal → Nat
  | .nan => f.canon
  | .inf s => f.rnd mode alt ftz (if s then .fin false 0 0 else .inf false)
  | .pole s => f.rnd mode alt ftz (if s then .fin false 0 0 else .inf false)
  | .fin s m e =>
    if m = 0 then f.rnd mode alt ftz (.fin false 1 0)
    else if (Nat.log2 m : Int) + e ≥ 13 then f.rnd mode alt ftz (.fin false 1 (if s then -9000 else 9000))
    else if (Nat.log2 m : Int) + e < -100 then
      f.rnd mode alt ftz (.fin false (if s then 2 ^ 100 - 1 else 2 ^ 100 + 1) (-100))
    else if 0 ≤ e then f.rnd mode alt ftz (.fin false 1 (signed s (m * 2 ^ e.toNat)))
    else
      let k := (-e).toNat
      let x := signed s m
      let n := x / ((2 ^ k : Nat) : Int)
      let fr := (x % ((2 ^ k : Nat) : Int)).toNat
      if fr = 0 then f.rnd mode alt ftz (.fin false 1 n)
      else ziv (fun v => match v with
          | .fin s m e => f.rnd mode alt ftz (.fin s m (e + n))
          | v => f.rnd mode alt ftz v)
        (fun p => let p' := p + k
          let b := exp2Bounds p' (fr * 2 ^ p)
          (false, b.1 / 2 ^ k, b.2 / 2 ^ k + 1)) zivPrecs

/-- An enclosure of k + log2(m / 2^j), 2^j ≤ m < 2^(j+1), as a sign and bounds of the magnitude over 2^p. -/
def log2Enc (m j : Nat) (k : Int) (p : Nat) : Bool × Nat × Nat :=
  let b := lnBounds (p + 8) m j
  let l2 := ln2Lo (p + 8)
  let lo := b.1 * 2 ^ p / (l2 + slack (p + 8))
  let hi := b.2 * 2 ^ p / l2 + 1
  let base := k * ((2 ^ p : Nat) : Int)
  if 0 ≤ k then (false, (base + lo).toNat, (base + hi).toNat)
  else (true, (-(base + hi)).toNat, (-(base + lo)).toNat)

/-- FLOG2: log2(a), correctly rounded (R177). -/
def FFmt.log2 (f : FFmt) (mode : Nat) (alt ftz : Bool) : FVal → Nat
  | .nan => f.canon
  | .inf s => f.rnd mode alt ftz (if s then .nan else .inf false)
  | .pole s => f.rnd mode alt ftz (if s then .nan else .inf false)
  | .fin s m e =>
    if m = 0 then f.rnd mode alt ftz (.pole true)
    else if s then f.canon
    else
      let j := Nat.log2 m
      let k := e + j
      if m = 2 ^ j then f.rnd mode alt ftz (.fin (decide (k < 0)) k.natAbs 0)
      else ziv (f.rnd mode alt ftz) (log2Enc m j k) zivPrecs

/-- Compare finite values exactly. -/
def ltFin (s : Bool) (m : Nat) (e : Int) (s' : Bool) (m' : Nat) (e' : Int) : Bool :=
  let lo := min e e'
  decide (alignTo (signed s m) e lo < alignTo (signed s' m') e' lo)

/-- x < y on the extended reals; false where either is a NaN (R139, R175). -/
def FVal.lt : FVal → FVal → Bool
  | .nan, _ => false
  | _, .nan => false
  | .fin s m e, .fin s' m' e' => ltFin s m e s' m' e'
  | .fin _ _ _, .inf s => !s
  | .fin _ _ _, .pole s => !s
  | .inf s, .fin _ _ _ => s
  | .pole s, .fin _ _ _ => s
  | .inf s, .inf s' => s && !s'
  | .inf s, .pole s' => s && !s'
  | .pole s, .inf s' => s && !s'
  | .pole s, .pole s' => s && !s'

/-- The value is a NaN. -/
def FVal.isNan : FVal → Bool
  | .nan => true
  | _ => false

/-- x = y on the extended reals; −0 equals +0 (R175). -/
def FVal.eqv (x y : FVal) : Bool := !x.isNan && !y.isNan && !x.lt y && !y.lt x

/-- Decide log2(n / 2^k) < r for 0 < n < 2^k not a power of two, by narrowing. -/
def log2Lt (n k : Nat) (r : FVal) : List Nat → Bool
  | [] => false
  | p :: ps =>
    let b := log2Enc n (Nat.log2 n) ((Nat.log2 n : Int) - k) p
    let lo : FVal := .fin b.1 b.2.2 (-(p : Int))
    let hi : FVal := .fin b.1 b.2.1 (-(p : Int))
    if hi.lt r then true else if !lo.lt r then false else log2Lt n k r ps

/-- The exact test log2(n / 2^k) < r of ACCEPT with a hardware draw, 0 < n ≤ 2^k (R139). -/
def drawBelow (n k : Nat) (r : FVal) : Bool :=
  let j := Nat.log2 n
  if n = 2 ^ j then (ofSigned false ((j : Int) - k) 0).lt r else log2Lt n k r zivPrecs

/-! ### RANDN (R353) -/

/-- The terms of sin or cos from t on; the signs alternate. The answer is a lower bound of the sum of terms to add
and of the sum of terms to subtract. -/
def trigGo (p y2 : Nat) : Nat → Nat → Nat → Nat × Nat
  | 0, _, _ => (0, 0)
  | n + 1, t, k =>
    let r := trigGo p y2 n (t * y2 / 2 ^ p / ((k + 1) * (k + 2))) (k + 2)
    (t + r.2, r.1)

/-- The sum of x^(2k+1) / (2k+1) with alternating signs: terms to add and to subtract. -/
def atanGo (p z2 : Nat) : Nat → Nat → Nat → Nat × Nat
  | 0, _, _ => (0, 0)
  | n + 1, t, d =>
    let r := atanGo p z2 n (t * z2 / 2 ^ p) (d + 2)
    (t / d + r.2, r.1)

/-- π × 2^p by Machin's formula, within `slack`. -/
def piNear (p : Nat) : Int :=
  let a := fun (q : Nat) => let x := 2 ^ p / q; let r := atanGo p (x * x / 2 ^ p) (p / 4 + 4) x 1; (r.1 : Int) - r.2
  16 * a 5 - 4 * a 239

/-- An enclosure of |cos(2π × n / 2^k)| over 2^p, n < 2^k, and whether it is negative; for a value that is no
multiple of a quarter turn. -/
def cosEnc (n k p : Nat) : Bool × Nat × Nat :=
  let q := 4 * n / 2 ^ k
  let r := 4 * n % 2 ^ k
  let s := if q % 2 = 1 then 2 ^ k - r else r
  let neg := q = 1 || q = 2
  let y := ((piNear p).toNat * s / 2 ^ (k + 1))
  let y2 := y * y / 2 ^ p
  let c := trigGo p y2 (p / 3 + 8) (2 ^ p) 0
  let v : Int := (c.1 : Int) - c.2
  let e : Int := 64 * (slack p : Int)
  (neg, (v - e).toNat, (v + e).toNat)

/-- RANDN of u1 = n1 / 2^53 and u2 = n2 / 2^53: sqrt(−2 ln u1) × cos(2π u2), rounded once (R353). -/
def FFmt.normal (f : FFmt) (n1 n2 : Nat) : Nat :=
  let k := 53
  if n1 = 2 ^ k || n2 % 2 ^ (k - 1) = 2 ^ (k - 2) then 0
  else
    ziv (f.rnd 0 false false) (fun p0 =>
      let p := p0 + 80
      let j := Nat.log2 n1
      let b := lnBounds p n1 j
      let l2 := ln2Lo p
      let up : Int := ((k - j : Nat) : Int)
      let lo := (2 * (up * (l2 : Int) - (b.2 : Int))).toNat
      let hi := (2 * (up * ((l2 + slack p : Nat) : Int) - (b.1 : Int))).toNat
      let slo := isqrt (lo * 2 ^ p)
      let shi := isqrt (hi * 2 ^ p) + 1
      if n2 % 2 ^ (k - 1) = 0 then
        (decide (n2 % 2 ^ k ≠ 0), slo / 2 ^ 80, shi / 2 ^ 80 + 1)
      else
        let c := cosEnc (n2 % 2 ^ k) k p
        (c.1, slo * c.2.1 / 2 ^ (p + 80), shi * c.2.2 / 2 ^ (p + 80) + 1)) zivPrecs

/-! ### Integers and floats -/

/-- The exact value of an integer. -/
def FVal.ofInt (x : Int) : FVal := ofSigned false x 0

/-- A float converted to an integer type (R65). -/
def FVal.toIntTy (mode : Nat) (wrap sgn : Bool) (w : Nat) : FVal → Nat
  | .nan => 0
  | .inf s => if wrap then 0 else patNat w (if s then intMin sgn w else intMax sgn w)
  | .pole s => if wrap then 0 else patNat w (if s then intMin sgn w else intMax sgn w)
  | .fin s m e => limitInt wrap sgn w (signed s (roundNat mode s m e))

/-- A value rounded to an integral value, its sign kept (R179). -/
def FVal.integral (mode : Nat) : FVal → FVal
  | .fin s m e => if 0 ≤ e then .fin s m e else .fin s (roundNat mode s m e) 0
  | x => x

/-! ### Block floating point and the accumulator (R66 to R73) -/

/-- Element j of a bxn block of exponent byte e and mantissa group g (R66, R67). -/
def bxValue (n e g j : Nat) : FVal :=
  if e = 255 then .nan
  else ofSigned false (sextNat n (g / 2 ^ (j * n))) ((e : Int) - 127 - ((n : Int) - 1))

/-- The sticky flags of a tile (R72). -/
structure TileFlags where
  inexact  : Bool
  overflow : Bool
  invalid  : Bool
  deriving DecidableEq, Repr

/-- The flags as the 3-bit field of R72. -/
def TileFlags.code (f : TileFlags) : Nat := bitAt f.inexact 0 + bitAt f.overflow 1 + bitAt f.invalid 2
/-- The flags of a 3-bit field (R72). -/
def TileFlags.ofCode (n : Nat) : TileFlags := ⟨n.testBit 0, n.testBit 1, n.testBit 2⟩
/-- All flags clear. -/
def TileFlags.clear : TileFlags := ⟨false, false, false⟩
/-- Flags set in either. -/
def TileFlags.or (f g : TileFlags) : TileFlags := ⟨f.inexact || g.inexact, f.overflow || g.overflow, f.invalid || g.invalid⟩

/-- A finite value rounded to a multiple of 2^u, to nearest with ties to even; with whether it changed (R69). -/
def toMultiple (s : Bool) (m : Nat) (e u : Int) : Int × Bool :=
  if u ≤ e then (alignTo (signed s m) e u, false)
  else
    let k := (u - e).toNat
    (signed s (roundShift 0 s m k), m % 2 ^ k != 0)

/-- What the products of a step gather for one element (R69 to R71). -/
structure ProdSum where
  sum     : Int
  pos     : Bool
  neg     : Bool
  inexact : Bool
  invalid : Bool
  deriving DecidableEq, Repr

/-- No product yet. -/
def ProdSum.zero : ProdSum := ⟨0, false, false, false, false⟩

/-- Add the product of two source elements (R69, R71). -/
def ProdSum.add (anchor : Int) (p : ProdSum) (x y : FVal) : ProdSum :=
  match x.mul y with
  | .nan => { p with invalid := true }
  | .inf s => if s then { p with neg := true } else { p with pos := true }
  | .pole s => if s then { p with neg := true } else { p with pos := true }
  | .fin s m e =>
    let r := toMultiple s m e (anchor - 96)
    { p with sum := p.sum + r.1, inexact := p.inexact || r.2 }

/-- The largest element, +full (R68). -/
def accFull : Int := ((2 ^ 127 : Nat) : Int) - 1
/-- The smallest element, −full (R68). -/
def accLow : Int := -((2 ^ 127 : Nat) : Int)

/-- Saturate a total once, with whether that changed it (R70). -/
def accSat (x : Int) : Int × Bool :=
  if accFull < x then (accFull, true) else if x < accLow then (accLow, true) else (x, false)

/-- The element after a step and the flags the step sets (R70, R71). Infinite products of both signs set invalid and leave overflow as it
is, though each alone sets overflow. Log 52 (DESIGN CHOICE). -/
def ProdSum.apply (p : ProdSum) (a : Int) : Int × TileFlags :=
  if p.pos && p.neg then (a, ⟨p.inexact, false, true⟩)
  else if p.pos then (accFull, ⟨p.inexact, true, p.invalid⟩)
  else if p.neg then (accLow, ⟨p.inexact, true, p.invalid⟩)
  else let r := accSat (a + p.sum); (r.1, ⟨p.inexact, r.2, p.invalid⟩)

/-- The value of an element (R68, R73). -/
def accValue (a anchor : Int) : FVal := ofSigned false a (anchor - 96)

/-! ### Fixed orders (R74 to R76) -/

/-- One level of the tree of R74. -/
def treeLevel {α : Type} (op : α → α → α) : List (Option α) → List (Option α)
  | x :: y :: rest =>
    (match x, y with
      | some a, some b => some (op a b)
      | some a, none => some a
      | none, y => y) :: treeLevel op rest
  | [x] => [x]
  | [] => []

/-- Apply the levels of the tree. -/
def treeLevels {α : Type} (op : α → α → α) : Nat → List (Option α) → List (Option α)
  | 0, xs => xs
  | n + 1, xs => treeLevels op n (treeLevel op xs)

/-- The reduction of R74 over positions that need not fill a power of two; the others are absent (R76). A lone value passes unchanged, a
NaN or a subnormal too, which R61 and R62 would change. Log 52 (DESIGN CHOICE). -/
def treeReduce {α : Type} (op : α → α → α) (xs : List (Option α)) : Option α :=
  (treeLevels op (ceilLog2 xs.length) xs).headD none

/-- The blocks of R75: aligned blocks of the powers of two of the count, largest first. -/
def scanBlocks {α : Type} : Nat → List (Option α) → List (List (Option α))
  | 0, xs => if xs.isEmpty then [] else [xs]
  | k + 1, xs =>
    if xs.length.testBit (k + 1) then xs.take (2 ^ (k + 1)) :: scanBlocks k (xs.drop (2 ^ (k + 1))) else scanBlocks k xs

/-- The inclusive scan value of the last position of xs (R75). A lone present value passes unchanged, a subnormal under ftz or a NaN too
(R61, R62). Log 52 (DESIGN CHOICE). -/
def scanLast {α : Type} (op : α → α → α) (xs : List (Option α)) : Option α :=
  (scanBlocks 10 xs).foldl (fun acc b => match acc, treeReduce op b with
    | some x, some y => some (op x y)
    | some x, none => some x
    | none, y => y) none

/-- Nearest-even sum, subnormals kept (R63). -/
def FFmt.addNear (f : FFmt) (a b : Nat) : Nat := f.rnd 0 false false ((f.value a).add 0 (f.value b))
/-- Nearest-even difference. -/
def FFmt.subNear (f : FFmt) (a b : Nat) : Nat := f.rnd 0 false false ((f.value a).add 0 (f.value b).negate)
/-- Nearest-even product. -/
def FFmt.mulNear (f : FFmt) (a b : Nat) : Nat := f.rnd 0 false false ((f.value a).mul (f.value b))
/-- Nearest-even quotient. -/
def FFmt.divNear (f : FFmt) (a b : Nat) : Nat := f.rnd 0 false false ((f.value a).div (f.value b))
/-- Nearest-even square root. -/
def FFmt.sqrtNear (f : FFmt) (a : Nat) : Nat := f.rnd 0 false false (f.value a).sqrt
/-- The nearest-even value of a natural number. -/
def FFmt.ofNatNear (f : FFmt) (n : Nat) : Nat := f.rnd 0 false false (FVal.ofInt n)

end Sys2Proof.Machine
end

