-- ==== Sys2Proof/Machine/Flags.lean ====
section
/-! DEFINITION. The relations that write condition registers and mask registers: SCMP (R152), VCMP (R172), FCMP (R175). -/

namespace Sys2Proof.Machine

/-- The relation of code cc on 64-bit patterns (R152). -/
def scmpHolds (cc : Nat) (a b : W64) : Bool :=
  match cc with
  | 0 => a == b
  | 1 => a != b
  | 2 => a.slt b
  | 3 => a.sle b
  | 4 => b.slt a
  | 5 => b.sle a
  | 6 => a.ult b
  | 7 => a.ule b
  | 8 => b.ult a
  | _ => b.ule a

/-- The value a condition register takes: bit 0 the relation, bits 7 to 1 zero (R152). -/
def condValue (holds : Bool) : BitVec 8 := if holds then 1 else 0

/-- The relation of codes 0 to 5 on exact integers (R152, R172). -/
def intHolds (cc : Nat) (a b : Int) : Bool :=
  match cc with
  | 0 => decide (a = b)
  | 1 => decide (a ≠ b)
  | 2 => decide (a < b)
  | 3 => decide (a ≤ b)
  | 4 => decide (b < a)
  | _ => decide (b ≤ a)

/-- The relation of FCMP (R175): a NaN makes every relation false except .ne and .uo. -/
def floatHolds (cc : Nat) (a b : FVal) : Bool :=
  let uo := a.isNan || b.isNan
  match cc with
  | 0 => a.eqv b
  | 1 => !a.eqv b
  | 2 => a.lt b
  | 3 => a.lt b || a.eqv b
  | 4 => b.lt a
  | 5 => b.lt a || a.eqv b
  | 6 => uo
  | _ => !uo

/-- The class bit of a float pattern (R176). -/
def FFmt.classOf (f : FFmt) (p : Nat) : Nat :=
  let s := p.testBit (f.width - 1)
  match f.value p with
  | .nan => if f.e4 || p.testBit (f.mbits - 1) then 2 ^ 8 else 2 ^ 9
  | .inf s => if s then 2 ^ 0 else 2 ^ 7
  | .pole s => if s then 2 ^ 0 else 2 ^ 7
  | .fin _ m _ =>
    if m = 0 then (if s then 2 ^ 3 else 2 ^ 4)
    else if f.isSub p then (if s then 2 ^ 2 else 2 ^ 5)
    else if s then 2 ^ 1 else 2 ^ 6

/-- The test of BRM and of a condition register (R35, R94). -/
def brmHolds (test : Nat) (m m0 : Mask) : Bool :=
  match test with
  | 0 => m &&& m0 != 0
  | 1 => m0 &&& ~~~m == 0
  | _ => m &&& m0 == 0

end Sys2Proof.Machine
end

