-- ==== Sys2Proof/Machine/Alu.lean ====
section
/-! DEFINITION. The value each scalar and lane instruction of Scalar and Lane Arithmetic computes (R150 to R157,
R166 to R181), on patterns, apart from where operands come from and where results go. -/

namespace Sys2Proof.Machine

/-! ### Scalar values (R150 to R157) -/

/-- Bits 127 to 64 of the signed product (R150 SMULH). -/
def mulhS (a b : W64) : W64 := BitVec.ofInt 64 (a.toInt * b.toInt / ((2 ^ 64 : Nat) : Int))
/-- Bits 127 to 64 of the natural product (R150 SMULHN). -/
def mulhN (a b : W64) : W64 := BitVec.ofNat 64 (a.toNat * b.toNat / 2 ^ 64)
/-- SSHL: 0 for an amount of 64 or more (R150). -/
def shl64 (a b : W64) : W64 := if b.toNat < 64 then a <<< b.toNat else 0
/-- SSHR (R150). -/
def shr64 (a b : W64) : W64 := if b.toNat < 64 then a >>> b.toNat else 0
/-- SSAR (R150). -/
def sar64 (a b : W64) : W64 := if b.toNat < 64 then a.sshiftRight b.toNat else if a.slt 0 then -1 else 0
/-- SMIN (R150). -/
def minS (a b : W64) : W64 := if b.slt a then b else a
/-- SMAX (R150). -/
def maxS (a b : W64) : W64 := if a.slt b then b else a
/-- SMINN (R150). -/
def minN (a b : W64) : W64 := if b.ult a then b else a
/-- SMAXN (R150). -/
def maxN (a b : W64) : W64 := if a.ult b then b else a
/-- SDIV: the signed quotient truncated toward zero, −2^63 / −1 = −2^63 (R151). -/
def divS (a b : W64) : W64 := BitVec.ofInt 64 (Int.tdiv a.toInt b.toInt)
/-- SREM, of the sign of a (R151). -/
def remS (a b : W64) : W64 := BitVec.ofInt 64 (Int.tmod a.toInt b.toInt)
/-- SDIVN (R151). -/
def divN (a b : W64) : W64 := BitVec.ofNat 64 (a.toNat / b.toNat)
/-- SREM.n (R151). -/
def remN (a b : W64) : W64 := BitVec.ofNat 64 (a.toNat % b.toNat)

/-- SBFE (R154). -/
def bfe64 (sgn : Bool) (a b : W64) : W64 :=
  let pos := b.toNat % 64
  let w := min (field b.toNat 14 8) 64
  let f := a.toNat / 2 ^ pos % 2 ^ min w (64 - pos)
  if w = 0 then 0 else if sgn then BitVec.ofInt 64 (sextNat w f) else BitVec.ofNat 64 f

/-- SLIT.hi (R157). -/
def litHi (lit : W32) (a : W64) : W64 := lit ++ a.extractLsb' 0 32

/-! ### Elements of packed types (R56) -/

/-- The width of an element. -/
def ewidth : Ty → Nat
  | .i16x2 | .n16x2 | .f16 | .bf16 => 16
  | .i8x4 | .n8x4 | .f8e4 | .f8e5 => 8
  | .i64 | .n64 | .f64 => 64
  | _ => 32
/-- The number of elements. -/
def ecount : Ty → Nat
  | .i16x2 | .n16x2 => 2
  | .i8x4 | .n8x4 => 4
  | _ => 1

/-- Element k. -/
def elemAt (t : Ty) (x k : Nat) : Nat := x / 2 ^ (ewidth t * k) % 2 ^ ewidth t

/-- Apply a function of element patterns to every element. -/
def byElem (t : Ty) (f : Nat → Nat → Nat → Nat) (a b c : Nat) : Nat :=
  (List.range (ecount t)).foldr (fun k acc => acc + f (elemAt t a k) (elemAt t b k) (elemAt t c k) * 2 ^ (ewidth t * k)) 0

/-- The absolute value and negate modifiers on an exact integer (R40). -/
def modInt (neg abs : Bool) (x : Int) : Int :=
  let y := if abs then (x.natAbs : Int) else x
  if neg then -y else y

/-- A source element's exact value after its modifiers (R166). -/
def srcInt (t : Ty) (neg abs : Bool) (p : Nat) : Int := modInt neg abs (valNat t.isSigned (ewidth t) p)

/-- An exact result limited by the default rule or, under alt or for b32, wrapped (R165, R166). -/
def limitTy (t : Ty) (alt : Bool) (x : Int) : Nat := limitInt (alt || t.inB) t.isSigned (ewidth t) x

/-- An exact integer operation on every element. -/
def intOp (w : LaneA) (f : Int → Int → Int → Int) (a b c : Nat) : Nat :=
  byElem w.ty (fun x y z => limitTy w.ty w.m.alt
    (f (srcInt w.ty w.m.na w.m.aa x) (srcInt w.ty w.m.nb w.m.ab y) (srcInt w.ty w.m.nc w.m.ac z))) a b c

/-- VADD (R166). -/
def valVadd (w : LaneA) (a b c : Nat) : Nat := intOp w (fun x y _ => x + y) a b c
/-- VSUB (R166). -/
def valVsub (w : LaneA) (a b c : Nat) : Nat := intOp w (fun x y _ => x - y) a b c
/-- VMUL (R166). -/
def valVmul (w : LaneA) (a b c : Nat) : Nat := intOp w (fun x y _ => x * y) a b c
/-- VMAD (R166). -/
def valVmad (w : LaneA) (a b c : Nat) : Nat := intOp w (fun x y z => x * y + z) a b c
/-- VMULH (R166). -/
def valVmulh (w : LaneA) (a b c : Nat) : Nat :=
  byElem w.ty (fun x y _ => patNat (ewidth w.ty)
    (srcInt w.ty w.m.na w.m.aa x * srcInt w.ty w.m.nb w.m.ab y / ((2 ^ ewidth w.ty : Nat) : Int))) a b c
/-- VABSD (R166). -/
def valVabsd (w : LaneA) (a b c : Nat) : Nat :=
  byElem w.ty (fun x y _ => (srcInt w.ty false false x - srcInt w.ty false false y).natAbs) a b c

/-- A minimum or maximum as a pattern; a value the type cannot hold, which only a modifier makes, is a free value. -/
def rangeTy (t : Ty) (x : Int) : Nat :=
  if satInt t.isSigned (ewidth t) x = x then patNat (ewidth t) x else Config.minMaxRange (ewidth t) x % 2 ^ ewidth t

/-- VMIN (R166). -/
def valVmin (w : LaneA) (a b c : Nat) : Nat :=
  byElem w.ty (fun x y _ => rangeTy w.ty (min (srcInt w.ty w.m.na w.m.aa x) (srcInt w.ty w.m.nb w.m.ab y))) a b c
/-- VMAX (R166). -/
def valVmax (w : LaneA) (a b c : Nat) : Nat :=
  byElem w.ty (fun x y _ => rangeTy w.ty (max (srcInt w.ty w.m.na w.m.aa x) (srcInt w.ty w.m.nb w.m.ab y))) a b c
/-- VAND (R166). -/
def valVand (_ : LaneA) (a b _ : Nat) : Nat := a &&& b
/-- VOR (R166). -/
def valVor (_ : LaneA) (a b _ : Nat) : Nat := a ||| b
/-- VXOR (R166). -/
def valVxor (_ : LaneA) (a b _ : Nat) : Nat := a ^^^ b

/-- VTRI: bit i is bit 4 a_i + 2 b_i + c_i of the table (R167). -/
def valVtri (w : LaneA) (a b c : Nat) : Nat :=
  (List.range 32).foldr (fun i acc =>
    acc + bitAt (w.x.toNat.testBit (4 * b2n (a.testBit i) + 2 * b2n (b.testBit i) + b2n (c.testBit i))) i) 0

/-- VSHL: a × 2^k limited; k of the width or more shifts every bit out (R168). -/
def valVshl (w : LaneA) (a b c : Nat) : Nat :=
  byElem w.ty (fun x k _ => limitTy w.ty w.m.alt (srcInt w.ty false false x * ((2 ^ min k (ewidth w.ty) : Nat) : Int))) a b c
/-- VSHR (R168). -/
def valVshr (w : LaneA) (a b c : Nat) : Nat := byElem w.ty (fun x k _ => if k < ewidth w.ty then x / 2 ^ k else 0) a b c
/-- VSAR (R168). -/
def valVsar (w : LaneA) (a b c : Nat) : Nat :=
  byElem w.ty (fun x k _ => patNat (ewidth w.ty) (sextNat (ewidth w.ty) x / ((2 ^ min k (ewidth w.ty) : Nat) : Int))) a b c
/-- VFSHL (R169). -/
def valVfshl (_ : LaneA) (a b c : Nat) : Nat := (a * 2 ^ 32 + c) * 2 ^ (b % 32) / 2 ^ 32 % 2 ^ 32
/-- VFSHR (R169). -/
def valVfshr (_ : LaneA) (a b c : Nat) : Nat := (a * 2 ^ 32 + c) / 2 ^ (b % 32) % 2 ^ 32
/-- VPOPC (R170). -/
def valVpopc (_ : LaneA) (a _ _ : Nat) : Nat := popNat 32 a
/-- VCLZ (R170). -/
def valVclz (_ : LaneA) (a _ _ : Nat) : Nat := clzNat 32 a
/-- VBREV (R170). -/
def valVbrev (_ : LaneA) (a _ _ : Nat) : Nat := revNat 32 a
/-- VBFE (R170). -/
def valVbfe (w : LaneA) (a b _ : Nat) : Nat :=
  let pos := b % 32
  let wd := min (field b 13 8) 32
  let f := a / 2 ^ pos % 2 ^ min wd (32 - pos)
  if wd = 0 then 0 else if w.ty.isSigned then patNat 32 (sextNat wd f) else f
/-- VBFI (R170). -/
def valVbfi (_ : LaneA) (a b c : Nat) : Nat :=
  let pos := b % 32
  let n := min (min (field b 13 8) 32) (32 - pos)
  let m := (2 ^ n - 1) * 2 ^ pos
  (c &&& (2 ^ 32 - 1 - m)) ||| (a % 2 ^ n * 2 ^ pos)
/-- VMOV (R171). -/
def valVmov (_ : LaneA) (_ b _ : Nat) : Nat := b
/-- VCMP's relation (R172). -/
def holdsVcmp (w : LaneA) (a b : Nat) : Bool :=
  intHolds w.c.toNat (srcInt w.ty w.m.na w.m.aa (elemAt w.ty a 0)) (srcInt w.ty w.m.nb w.m.ab (elemAt w.ty b 0))

/-! ### Lane floats (R174 to R179) -/

/-- Source a's value after its modifiers (R61, R62). -/
def srcA (w : LaneA) (p : Nat) : FVal := let f := FFmt.ofTy w.ty; f.src w.m.ftz (f.modify w.m.na w.m.aa p)
/-- Source b's value. -/
def srcB (w : LaneA) (p : Nat) : FVal := let f := FFmt.ofTy w.ty; f.src w.m.ftz (f.modify w.m.nb w.m.ab p)
/-- Source c's value. -/
def srcC (w : LaneA) (p : Nat) : FVal := let f := FFmt.ofTy w.ty; f.src w.m.ftz (f.modify w.m.nc w.m.ac p)
/-- The word's rounding of an exact result (R63, R64). -/
def rndW (w : LaneA) (x : FVal) : Nat := (FFmt.ofTy w.ty).rnd w.m.rnd.toNat w.m.alt w.m.ftz x

/-- FADD (R174). -/
def valFadd (w : LaneA) (a b _ : Nat) : Nat := rndW w ((srcA w a).add w.m.rnd.toNat (srcB w b))
/-- FSUB (R174). -/
def valFsub (w : LaneA) (a b _ : Nat) : Nat := rndW w ((srcA w a).add w.m.rnd.toNat (srcB w b).negate)
/-- FMUL (R174). -/
def valFmul (w : LaneA) (a b _ : Nat) : Nat := rndW w ((srcA w a).mul (srcB w b))
/-- FFMA (R174). -/
def valFfma (w : LaneA) (a b c : Nat) : Nat := rndW w (((srcA w a).mul (srcB w b)).add w.m.rnd.toNat (srcC w c))

/-- A source pattern after its modifiers, flushed under ftz. -/
def patSrc (w : LaneA) (neg abs : Bool) (p : Nat) : Nat :=
  let f := FFmt.ofTy w.ty
  let q := f.modify neg abs p
  if w.m.ftz && f.isSub q then f.sign (q.testBit (f.width - 1)) else q

/-- The lesser or greater of two float patterns; −0 lies below +0; the other where one is a NaN (R174). -/
def minMaxFloat (w : LaneA) (mx : Bool) (a b : Nat) : Nat :=
  let f := FFmt.ofTy w.ty
  let p := patSrc w w.m.na w.m.aa a
  let q := patSrc w w.m.nb w.m.ab b
  let x := f.value p
  let y := f.value q
  if x.isNan && y.isNan then f.canon else if x.isNan then q else if y.isNan then p
  else
    let less := x.lt y || (x.eqv y && p.testBit (f.width - 1))
    if less == mx then q else p

/-- FMIN (R174). -/
def valFmin (w : LaneA) (a b _ : Nat) : Nat := minMaxFloat w false a b
/-- FMAX (R174). -/
def valFmax (w : LaneA) (a b _ : Nat) : Nat := minMaxFloat w true a b
/-- FCMP's relation (R175). -/
def holdsFcmp (w : LaneA) (a b : Nat) : Bool := floatHolds w.c.toNat (srcA w a) (srcB w b)
/-- FCLASS (R176). -/
def valFclass (w : LaneA) (a _ _ : Nat) : Nat := (FFmt.ofTy w.ty).classOf (a % 2 ^ (FFmt.ofTy w.ty).width)
/-- FRCP (R177). -/
def valFrcp (w : LaneA) (a _ _ : Nat) : Nat := rndW w (srcA w a).rcp
/-- FRSQ (R177). -/
def valFrsq (w : LaneA) (a _ _ : Nat) : Nat := rndW w (srcA w a).rsqrt
/-- FSQRT (R177). -/
def valFsqrt (w : LaneA) (a _ _ : Nat) : Nat := rndW w (srcA w a).sqrt
/-- FDIV (R177). -/
def valFdiv (w : LaneA) (a b _ : Nat) : Nat := rndW w ((srcA w a).div (srcB w b))
/-- FEXP2 (R177). -/
def valFexp2 (w : LaneA) (a _ _ : Nat) : Nat := (FFmt.ofTy w.ty).exp2 w.m.rnd.toNat w.m.alt w.m.ftz (srcA w a)
/-- FLOG2 (R177). -/
def valFlog2 (w : LaneA) (a _ _ : Nat) : Nat := (FFmt.ofTy w.ty).log2 w.m.rnd.toNat w.m.alt w.m.ftz (srcA w a)
/-- FRND (R179). -/
def valFrnd (w : LaneA) (a _ _ : Nat) : Nat := rndW w ((srcA w a).integral w.m.rnd.toNat)

/-- FCVT from the source type of bits 51 to 48 (R178). A negative i32 has no n64 of its value, though the conversion widens: it gives 0,
or under alt wraps (R58). Log 52 (DESIGN CHOICE). -/
def valFcvt (w : LaneA) (a _ _ : Nat) : Nat :=
  let st := w.srcTy.getD .i32
  let mode := w.m.rnd.toNat
  if st.isFloat then
    let f := FFmt.ofTy st
    let x := f.src w.m.ftz (f.modify w.m.na w.m.aa a)
    if w.ty.isFloat then rndW w x
    else x.toIntTy mode w.m.alt w.ty.isSigned (ewidth w.ty)
  else
    let x := srcInt st w.m.na w.m.aa (elemAt st a 0)
    if w.ty.isFloat then rndW w (FVal.ofInt x)
    else limitInt w.m.alt w.ty.isSigned (ewidth w.ty) x

/-! ### Scans and reductions (R181) -/

/-- The node rule of op codes 0 to 5. -/
def scanOp (w : LaneA) (x y : Nat) : Nat :=
  match w.c.toNat with
  | 0 => if w.ty.isFloat then valFadd w x y 0 else valVadd w x y 0
  | 1 => if w.ty.isFloat then valFmin w x y 0 else valVmin w x y 0
  | 2 => if w.ty.isFloat then valFmax w x y 0 else valVmax w x y 0
  | 3 => x &&& y
  | 4 => x ||| y
  | _ => x ^^^ y

/-- The empty value of op codes 0 to 5. -/
def scanEmpty (w : LaneA) : Nat :=
  let f := FFmt.ofTy w.ty
  match w.c.toNat with
  | 1 => if w.ty.isFloat then f.infPat false else patNat (ewidth w.ty) (intMax w.ty.isSigned (ewidth w.ty))
  | 2 => if w.ty.isFloat then f.infPat true else patNat (ewidth w.ty) (intMin w.ty.isSigned (ewidth w.ty))
  | 3 => 2 ^ 32 - 1
  | _ => 0

/-- The start of the lane segment that holds position p. -/
def segStart (starts : Nat → Bool) : Nat → Nat
  | 0 => 0
  | p + 1 => if starts (p + 1) then p + 1 else segStart starts p

/-- The positions from p to the last of p's lane segment, below n. -/
def segLen (starts : Nat → Bool) (n b : Nat) : Nat :=
  match (List.range (n - b - 1)).find? (fun k => starts (b + 1 + k)) with
  | some k => k + 1
  | none => n - b

/-- The scan value of position p over the present values xs (R75, R76). -/
def scanAt (w : LaneA) (excl : Bool) (starts : Nat → Bool) (xs : List (Option Nat)) (p : Nat) : Nat :=
  let b := segStart starts p
  let n := if excl then p - b else p - b + 1
  (scanLast (scanOp w) ((xs.drop b).take n)).getD (scanEmpty w)

/-- The reduction of position p's lane segment (R74, R76). A lone present value passes as it is: no NaN of it is made canonical and no
subnormal flushed (R61, R62). Log 52 (DESIGN CHOICE). -/
def redAt (w : LaneA) (starts : Nat → Bool) (xs : List (Option Nat)) (p : Nat) : Nat :=
  let b := segStart starts p
  (treeReduce (scanOp w) ((xs.drop b).take (segLen starts xs.length b))).getD (scanEmpty w)

end Sys2Proof.Machine
end

