-- ==== Sys2Proof/Machine/Map.lean ====
section
/-! DEFINITION. Sparse data by a natural-number key, in one canonical form: keys strictly rising, and no entry equal
to the default, which is what an unlisted key reads as. Register files and memory are such maps. -/

namespace Sys2Proof.Machine

/-- A sparse map from numbers. -/
abbrev SMap (α : Type) := List (Nat × α)

/-- The value at a key; the default where the key is not listed. -/
def SMap.get {α : Type} (d : α) (m : SMap α) (k : Nat) : α :=
  match m with
  | [] => d
  | (j, v) :: r => if j = k then v else SMap.get d r k

/-- Put an entry before the first larger key. -/
def SMap.insert {α : Type} (k : Nat) (v : α) : SMap α → SMap α
  | [] => [(k, v)]
  | (j, w) :: r => if k < j then (k, v) :: (j, w) :: r else (j, w) :: SMap.insert k v r

/-- Take a key out. -/
def SMap.erase {α : Type} (k : Nat) : SMap α → SMap α
  | [] => []
  | (j, w) :: r => if j = k then SMap.erase k r else (j, w) :: SMap.erase k r

/-- The map with a value at a key; a default value leaves no entry. -/
def SMap.set {α : Type} [DecidableEq α] (d : α) (m : SMap α) (k : Nat) (v : α) : SMap α :=
  if v = d then SMap.erase k m else SMap.insert k v (SMap.erase k m)

/-- Every key of the list is larger than k. -/
def SMap.above {α : Type} (k : Nat) : SMap α → Bool
  | [] => true
  | (j, _) :: r => decide (k < j) && SMap.above k r

/-- The canonical form. -/
def SMap.wf {α : Type} [DecidableEq α] (d : α) : SMap α → Bool
  | [] => true
  | (k, v) :: r => SMap.above k r && decide (v ≠ d) && SMap.wf d r

/-- A map of these entries, the later ones prevailing. -/
def SMap.ofList {α : Type} [DecidableEq α] (d : α) (xs : List (Nat × α)) : SMap α :=
  xs.foldl (fun m p => SMap.set d m p.1 p.2) []

end Sys2Proof.Machine
end

