-- ==== Sys2Proof/Machine/State.lean ====
section
/-! DEFINITION. The state of the machine: everything the specification gives it, as plain data, and its value after
reset. Fields cite the rule that names them; INVENTORY.md lists each with its reset value. -/

namespace Sys2Proof.Machine

/-- How a step can stop. No word of the instruction set and no step of another agent stops the machine: a fault of
the HX9 is an effect (R373). -/
inductive Fault where
  /-- A word's meaning was asked for while no path is issuing (State.cur names none). Raised by the meaning of every
  word; `step` never asks so. Safe: the model stops where the device has no such event. -/
  | noPath
  deriving DecidableEq, Repr

/-- Why an instruction has no meaning. -/
inductive Refusal where
  /-- The instruction is not modelled. Raised by no arm of `exec` now. Safe: the model stops. -/
  | notModelled (mnemonic : String)
  deriving DecidableEq, Repr

/-! ### Vector registers (R110) -/

/-- A present group-register: uniform, affine, or general with the values of lanes 0 to 31. -/
inductive GReg where
  | uni (u : W32)
  | aff (base stride : W32)
  | gen (vs : List W32)
  deriving DecidableEq, Repr

/-! ### Paths (R86) -/

/-- The states of a path-table entry (R86). -/
inductive PState where
  | free | ready | marker | join | barrier | rolesig | fault | held
  deriving DecidableEq, Repr

/-- A clock of the race detector: for each thread the newest place of its program that happens before, and for single accesses, each
under a key of its own, that they do (R245, R248). -/
abbrev Clock := SMap Nat

/-- A link entry (R96, R97). -/
structure Link where
  spc   : W64
  lpc   : W64
  blaze : Bool
  slot  : BitVec 3
  deriving DecidableEq, Repr

/-- The pending ISSUE of a path (R86, R91): n words a repetition, `left` of them still to issue in this repetition,
`reps` repetitions after it, whether the words are void, the start of the block, and the scalar registers as they
stood when the ISSUE executed. -/
structure Issue where
  n     : Nat
  left  : Nat
  reps  : Nat
  void  : Bool
  block : W64
  snap  : SMap W64
  deriving DecidableEq, Repr

/-- A deferred trap record (R374, R375, R388). `seq` orders the deferrals of a crew, `age` counts the clocks it has
been held, `from_` is the entry whose path deferred it and `bound` the last word that path had issued; `due` is set at
its trap point (R376) and `running` while its handler runs (R377). -/
structure TrapRec where
  code    : Nat
  detail  : Nat
  spc     : W64
  lpc     : W64
  iss     : Option Issue
  depth   : Nat
  lcnt    : W32
  lanes   : Mask
  inPlace : Bool
  lane    : Bool
  seq     : Nat
  age     : Nat
  from_   : Nat
  bound   : Nat
  due     : Bool
  running : Bool
  deriving DecidableEq, Repr

/-! ### Accesses (R239) -/

/-- Where the bytes of an access lie: physical memory, the scratchpad of the accessing team, or the private slot of a
lane of the accessing team. -/
inductive Space where
  | mem
  | scr
  | priv (lane : Nat)
  deriving DecidableEq, Repr

/-- The kinds of accesses (R239, R241, R252). -/
inductive AccKind where
  | load
  | store
  | comm
  | atomic
  | cwait
  deriving DecidableEq, Repr

/-- Where an access is made from (R247, R250). `job` is true for a yarder job. -/
structure Locus where
  die   : Nat
  stand : Nat
  team  : Nat
  crew  : Nat
  job   : Bool
  deriving DecidableEq, Repr

/-- A release that a byte's value carries: who released, its scope, what happens before it, and whether it is a commutative one, which
later contributions leave in the value (R248). -/
structure RelSrc where
  loc   : Locus
  scope : Nat
  clk   : Clock
  comm  : Bool
  deriving DecidableEq, Repr

/-- One lane's part of a memory word, or one scalar access (R239). `id` grows in program order; `entry` is the index at which its path
issued it, `thr` the race detector's name of the path and `clk`, once its path has left its entry, what happens before it. -/
structure Acc where
  id     : Nat
  thr    : Nat
  entry  : Nat
  clk    : Option Clock
  wid    : Nat
  lane   : Nat
  kind   : AccKind
  space  : Space
  addr   : Nat
  width  : Nat
  data   : Nat
  expect : Nat
  op     : Nat
  ty     : Ty
  acq    : Bool
  rel    : Bool
  scope  : Nat
  fences : List Nat
  quiet  : Bool
  acode  : Nat
  va     : W64
  spc    : W64
  lpc    : W64
  scalar : Bool
  deriving DecidableEq, Repr

/-- The operands a lane of a memory word read at its first issue (R389). -/
structure Operand where
  lane : Nat
  ea   : W64
  aux  : W64
  data : Nat
  deriving DecidableEq, Repr

/-- A word in flight: one that has issued and has accesses or a result outstanding (R43, R47, R235, R389), with the point of its path
at which it issued (R374): program counters, pending ISSUE, link depth and loop count. `open_` are the groups of a multiplication whose
joints have not completed (R303), `held` those whose joint has formed and waits for its tile (R301). -/
structure Word where
  wid     : Nat
  path    : Nat
  instr   : Instr
  spc     : W64
  lpc     : W64
  iss     : Option Issue
  depth   : Nat
  lcnt    : W32
  lanes   : Mask
  slot    : Bool
  counter : Option Nat
  dests   : List Nat
  shadow  : Mask
  prop    : Nat
  bcast   : List Nat
  resv    : List (Nat × Nat)
  vals    : SMap Nat
  ops     : List Operand
  owed    : Mask
  open_   : List Nat
  srcs    : List Nat
  undo    : List (Space × Nat × Byte)
  done    : Bool
  held    : List Nat := []
  deriving DecidableEq, Repr

/-- What a parked path waits for (R206): the word with its unfinished lanes, or none for a code fetch; the lanes whose
record was answered reject, with the cause; for each record not yet answered its tag, lanes, cause and virtual page;
the far pages it waits for (R211); the address at which a code fetch failed (R205); whether it has parked in this clock; and whether its
team's slice has run out in the clock in which it parked (R391). -/
structure Park where
  word   : Option Word
  lanes  : Mask
  reject : SMap Nat
  tags   : List (Nat × Mask × Nat × Nat)
  far    : List Nat
  ea     : W64 := 0
  fresh  : Bool := true
  slice  : Bool := false
  deriving DecidableEq, Repr

/-- The results of one pass of a lane word (R84): the crew group, its active lanes, and for each destination the physical register
and the shape a full pass writes. -/
structure PassOut where
  g    : Nat
  act  : W32
  outs : List (Nat × GReg)
  deriving DecidableEq, Repr

/-- What a path that is not ready waits to be granted (R117, R118, R214, R221, R226, R231, R293) or, of a LAUNCH that is sent, answered (R329), or keeps of the word it is at:
the sources of a scalar word that parked, as they stood when it first issued (R206), the translated address of a
CWAIT with its sources and what its granule held as it was last read (R193, R252), the card that a YJOB has read (R278), the number of a BANKSET among those of the machine, the passes that a lane word of some size and engine has still to write, and the
reservations that the first passes of a long-latency word have made (R118). -/
inductive Want where
  | held (a b : W64)
  | cwait (pa : Nat) (a b : W64) (seen : Option Nat)
  | card (bytes : List Byte)
  | grow (d : BitVec 6) (target : Nat)
  | units (n : Nat)
  | passes (size engine : Nat) (qs : List PassOut)
  | kept (rs : List (Nat × Nat))
  | tile (t : Nat)
  | obres (d : BitVec 6) (res : Nat) (rec_ : W64)
  | refill
  | handover
  | sent
  | banks (no : Nat) (d : BitVec 6) (moving : List Nat) (mode : Nat)
  deriving DecidableEq, Repr

/-- Where a restored path goes on once it has issued its replay slots again: its program counters, pending ISSUE, link stack and loop
count as saved, and the word at which it is parked (R374, R390). -/
structure Resume where
  spc  : W64
  lpc  : W64
  iss  : Option Issue
  park : Option Park
  link : List Link
  lcnt : W32
  deriving DecidableEq, Repr

/-- A path-table entry (R86). `queue` and `sbuf` are its issue queue and store buffer (R239); `walks` the virtual pages
whose walk it waits for, each with whether the access writes (R193), `walked` the pages whose walk has failed, with the
cause, `refill` the scratchpad pages it waits for (R226), `replay` the words to issue again after a restore (R390),
`late` the joint faults still to deliver (R292), `skip` that TRET.skip passes over the next scalar or lane word (R382),
`bpSkip` that a breakpoint has held the next word already, `stepping` a step whose word has not (false) or has (true)
issued (R399, R405), `wait` the reason it is not ready (R402). `thr`, `kin`, `base`, `hist`,
`facq` and `relF` are the race detector's (R248): its thread, the threads it has absorbed, what happens before its
accesses, before those after a place, the releases its loads have read, and the scopes of its release fences. -/
structure Path where
  st     : PState
  held   : Bool
  spc    : W64
  lpc    : W64
  mask   : Mask
  m0     : Mask
  link   : List Link
  lcnt   : W32
  iss    : Option Issue
  trap   : Option TrapRec
  newSeg : Bool
  segW   : List Nat
  segB   : List Nat
  queue  : List Acc
  sbuf   : List Acc
  park   : Option Park
  walks  : List (Nat × Bool)
  walked : List (Nat × Nat)
  refill : List Nat
  replay : List Word
  late   : SMap Nat
  wait   : Option Nat
  want   : Option Want
  joinM  : BitVec 4
  barB   : BitVec 4
  token  : W32
  need   : W32
  thr    : Nat
  base   : Clock
  hist   : List (Nat × Clock)
  facq   : List (RelSrc × Locus)
  relF   : List Nat
  skip   : Option Bool
  kin    : List Nat
  bpSkip : Bool
  stepping : Option Bool
  goOn   : Option Resume
  deriving DecidableEq, Repr

/-- A context-fatal fault that has raised the halt line (R383, R384): code, detail and address, and where it arose. The
race detector describes an access by the same data, with its access kind as detail (R250). -/
structure Cause where
  code    : Nat
  detail  : Nat
  addr    : Nat
  kind    : Nat
  launch  : Nat
  team    : Nat
  core    : Nat
  slot    : Nat
  path    : Nat
  spc     : W64
  lpc     : W64
  deriving DecidableEq, Repr

/-! ### Crews (R79 to R82, R108) -/

/-- An open proposal (R132): its window base and length, the lane sets P and D, the touched group-registers and the
shadow group-registers, both keyed 32 × place in the window + crew group. -/
structure Proposal where
  base    : Nat
  len     : Nat
  lanes   : Mask
  defer   : Mask
  touched : List Nat
  shadow  : SMap GReg
  deriving DecidableEq, Repr

/-- A translation held by a core TLB or a last-page register (R192). -/
structure Trans where
  asid  : Nat
  part  : Nat
  vpn   : Nat
  level : Nat
  pa    : Nat
  write : Bool
  code  : Bool
  far   : Bool
  dirty : Bool
  grain : Nat
  deriving DecidableEq, Repr

/-- A reservation of the operand buffer (R289, R290): the first unit and the number of units, the record word, and the
bytes that OBLD has written; a byte not written is the free value `seed` names. -/
structure Resv where
  start : Nat
  units : Nat
  rec_  : W64
  data  : SMap (Option Byte)
  seed  : Nat
  deriving DecidableEq, Repr

/-- A pass of a QPOP that is owed an entry, or of a QPUSH that waits to append one (R282, R284): its word, its crew
group, and for a push the entry. -/
structure QPass where
  wid   : Nat
  group : Nat
  entry : List W32
  deriving DecidableEq, Repr

/-- A queue register (R282): dir 0 free, 1 in, 2 out; `pops` are the owed passes in issue order, whose number is
pending, and `pushes` the passes that wait to append. -/
structure QReg where
  dir     : Nat
  demand  : Nat
  supply  : Nat
  entries : List (List W32)
  pops    : List QPass
  pushes  : List QPass
  deriving DecidableEq, Repr

/-- A crew (R79 to R82). Registers are sparse: an unlisted scalar, condition or mask register is zero, an unlisted
present group-register (key 32 × physical register + crew group) is uniform zero. `quiet` counts the clocks on its core since it
last issued a word, `stuck` those since it was last not blocked on register units or an allotment (R90); `defSeq` the clocks it has run,
by which deferrals are ordered (R376). -/
structure Crew where
  id      : Nat
  team    : Nat
  num     : Nat
  slot    : Nat
  role    : Nat
  first   : Nat
  groups  : Nat
  retired : Bool
  paths   : List Path
  s       : SMap W64
  sPend   : List (Nat × Nat)
  c       : SMap (BitVec 8)
  m       : SMap Mask
  v       : SMap GReg
  nRegs   : Nat
  rot     : Nat
  rotb    : Nat
  sig     : W32
  sigClk  : Clock
  ltvec   : W64
  handler : Option Nat
  defSeq  : Nat
  lastT   : W64
  lastE   : Nat
  due     : List W64
  prop    : Option Proposal
  propNo  : Nat
  propd   : SMap W32
  acpt    : SMap W32
  faddr   : SMap W64
  mcause  : SMap (BitVec 7)
  qcause  : SMap (BitVec 7)
  mxcause : SMap (BitVec 4)
  ecause  : SMap (BitVec 3)
  draw    : SMap W32
  rstream : W32
  lastPg  : SMap (Option Trans)
  words   : List Word
  gang    : BitVec 48
  resv    : SMap (Option Resv)
  qs      : SMap QReg
  nextSeq : W32
  slots   : SMap W64
  jobClk  : SMap Clock
  fence   : Nat
  stalls  : SMap W32
  stsel   : Nat
  issued  : Bool
  quiet   : Nat
  stuck   : Nat
  deriving DecidableEq, Repr

/-! ### Yarders and the deck (R265 to R282) -/

/-- What a job does: a card of a crew, a scrub of a frame, or a migration of the leaf at a place (R211, R213). -/
inductive JobKind where
  | card (bytes : List Byte)
  | scrub (frame : Nat)
  | migrate (leaf : Nat)
  deriving DecidableEq, Repr

/-- A job in the deck or running (R275). `die` is the die of the issuing core, `at_` the die of its yarder while it runs,
`age` the clocks it has been ready, `edges` the incomplete jobs it waits for, `fault` 1 + the tag of an unanswered record
(0 while it waits for a frame) and `page` its virtual page; `began` is the time at which its yarder took it (R417) and
`yarder` that yarder's number on its die (R420). -/
structure Job where
  id     : Nat
  part   : Nat
  lid    : Nat
  team   : Nat
  crew   : Nat
  path   : Nat
  wid    : Nat
  token  : W32
  kind   : JobKind
  addr   : W64
  die    : Nat
  at_    : Option Nat
  level  : Nat
  age    : Nat
  edges  : List Nat
  prog   : Nat
  popped : Nat
  pushed : Nat
  input  : List (List W32)
  fault  : Option Nat
  page   : Nat
  began  : W64
  yarder : Nat
  clk    : Clock
  deriving DecidableEq, Repr

/-! ### Teams (R77, R78) -/

/-- A barrier (R102): phase, membership, arrived lanes, whether a phase is open, the groups whose lanes have arrived
(R104), what happens before the completion of the open phase, and of the last completed phase of each number. -/
structure Barrier where
  phase : W32
  memb  : Mask
  arr   : Mask
  opn   : Bool
  seen  : Mask
  clk   : Clock
  done  : SMap Clock
  deriving DecidableEq, Repr

/-- An entry of a FIFO (R232): 32 values, and the release that an FPUSH.rel put with them (R248). -/
structure FEnt where
  vals : List W32
  rel  : Option RelSrc
  deriving DecidableEq, Repr

/-- A FIFO of a team (R232): the FIFO slot it occupies on its stand (16 × bank + place), and its entries, oldest first. -/
structure Fifo where
  place   : Nat
  entries : List FEnt
  deriving DecidableEq, Repr

/-- An accumulator tile (R230, R304): flags are inexact, overflow and invalid in bits 0 to 2 (R72); an unlisted element
is zero; `frames` are the frames of the stand that hold it (32 × bank + place). -/
structure Tile where
  allot  : Bool
  bound  : Bool
  anchor : BitVec 10
  flags  : BitVec 3
  elems  : SMap W128
  frames : List Nat
  deriving DecidableEq, Repr

/-- An arrival of an MMA pass (R300): the gang position and team group, the word's crew, path and number, its active
lanes, its tile, reservation, slab and format, the physical registers of its B block, the lanes that read the shadow
bank, the place in program order, the race detector's thread and what happens before it, and the B values once they are
latched (R311). -/
structure Arrival where
  pos     : Nat
  group   : Nat
  crew    : Nat
  path    : Nat
  wid     : Nat
  lanes   : Mask
  tile    : Nat
  res     : Nat
  slab    : Nat
  fmt     : Nat
  regs    : List Nat
  shadow  : Mask
  acc     : Nat
  thr     : Nat
  clk     : Clock
  latched : Option (List (List W32))
  deriving DecidableEq, Repr

/-- A rendezvous latch of a team (R300). -/
structure Latch where
  gang : BitVec 48
  arrs : List Arrival
  deriving DecidableEq, Repr

/-- A joint multiplication that has formed (R301, R310): its number, which grows in forming order, one arrival of each member in
position order, the latched quarters of B (quarter, register, lane), the bands done, and whether it still waits for its tile to
be allotted. -/
structure Joint where
  no    : Nat
  gang  : BitVec 48
  arrs  : List Arrival
  b     : List (List (List W32))
  bands : Nat
  held  : Bool
  deriving DecidableEq, Repr

/-- A page of a team's scratchpad pinned on its stand (R226): page, frame, and whether it has been written. -/
structure Pin where
  page  : Nat
  frame : Nat
  dirty : Bool
  deriving DecidableEq, Repr

/-- A staged sample (R337): handle, team lane, seq and the f64 pattern. -/
structure Sample where
  handle : Nat
  lane   : Nat
  seq    : W32
  x      : W64
  deriving DecidableEq, Repr

/-- A team: resident on a core, saved (R385), or retired with its crews. `log` is its staging log, each entry with where
it was made (R260). `leaving` is set from the choice to pre-empt it until its save has ended; `image` is its save area
(R386) and `jobs` are its saved jobs (R286); `waitBanks` are the banks whose drain its crews wait for (R223). `bytes` and `slotsUsed`
are its traffic and lane issue slots since the last sample, `touches` is the model's own count of its accesses to memory, `present` says that it was resident since then, `lastCore` is
the core it was placed on last, `heldNs` the time since it was placed during which a path of it was held (R400), `backing` the device frames that back its private windows (R184), and `sampled` that it has been through a sample (R361, R362, R370). -/
structure Team where
  id     : Nat
  part   : Nat
  launch : Nat
  index  : Nat
  rank   : Nat
  idx    : Nat
  core   : Option Nat
  groups : Nat
  ncrew  : Nat
  bars   : SMap Barrier
  scrLen : Nat
  scr    : SMap Byte
  pins   : List Pin
  fifos  : List Fifo
  ntile  : Nat
  tiles  : List Tile
  latches : List Latch
  joints : List Joint
  priv   : SMap Byte
  backing : List Nat
  stage  : List Sample
  seqs   : SMap W32
  log    : List (Acc × Locus)
  kerf   : W64
  energy : W64
  meas   : Nat
  bytes  : Nat
  touches : Nat
  slotsUsed : Nat
  present : Bool
  saves  : Nat
  placed : W64
  first  : W64
  heldNs : Nat
  saved  : Bool
  leaving : Bool
  retired : Bool
  clk    : Clock
  image  : List Byte
  jobs   : List Job
  waitBanks : List Nat
  lastCore : Nat
  sampled : Bool
  deriving DecidableEq, Repr

/-! ### Launches (R314 to R316) -/

/-- The launch parameter block (R314). -/
structure Block where
  version : Nat
  prio : Nat
  cls : Nat
  det : Bool
  strict : Bool
  bankctl : Bool
  yhigh : Bool
  child : Bool
  cruise : Bool
  morton : Bool
  yshare : Nat
  kdesc : W64
  teams : Nat
  gsize : Nat
  asid : Nat
  root : Nat
  args : W64
  alen : Nat
  pwin : Nat
  log : Nat
  vdem : Nat
  jobs : Nat
  tlim : Nat
  slice : Nat
  sbase : W64
  stride : Nat
  seed : Nat
  d0 : Nat
  d1 : Nat
  d2 : Nat
  nmin : Nat
  energy : Nat
  deadline : W64
  est : Nat
  prod : Nat
  dmode : Nat
  wthr : W64
  c0 : Nat
  k : Nat
  regs : List W64
  deriving DecidableEq, Repr

/-- A crew entry of a kernel descriptor (R315). -/
structure KCrew where
  role : Nat
  rot : Nat
  regs : Nat
  groups : Nat
  lent : Nat
  sent : Nat
  deriving DecidableEq, Repr

/-- A kernel descriptor (R315). -/
structure KDesc where
  scode : W64
  lcode : W64
  accum : Nat
  fifo : Nat
  scr : Nat
  sclass : Nat
  crews : List KCrew
  deriving DecidableEq, Repr

/-- A snapshot entry (R345): the prefix it is reserved for, or none for the final entry, its place in the pool, and its
image once captured. -/
structure Snap where
  prefix_ : Option Nat
  place   : Nat
  image   : Option (List W64)
  deriving DecidableEq, Repr

/-- A retired rank in the landing commit queue (R258, R324). -/
structure Commit where
  rank  : Nat
  stage : List Sample
  clk   : Clock
  deriving DecidableEq, Repr

/-- An admitted launch (R316). `next` is the lowest unplaced team, `n` the committed prefix, `least` the least width that
commit steps have left its stop estimator, if one has (R344), `passed` since when its head has been passed over (R318), `ticket` the
rank that holds the ticket (R261), `base` what its dependence puts before it (R248), `recOwed` that its completion record
waits (R414), `aborted` counts those of its `nRetired` teams that never retired of themselves (R325, R414), `heldIn` says that a path of it has been held since the
last sample, and `extUs` counts the microseconds in which one was (R400), `mark` the number of writes kept in State.past when its first team was placed (R203). -/
structure Launch where
  part     : Nat
  lid      : Nat
  blk      : Block
  kd       : KDesc
  karg     : List W64
  admitAt  : W64
  eligible : Bool
  next     : Nat
  passed   : Option W64
  n        : Nat
  commits  : List Commit
  commClk  : SMap Clock
  least    : Option W64
  nRetired : Nat
  aborted  : Nat
  kerf     : W64
  energy   : W64
  demand   : Nat
  ticket   : Nat
  base     : Clock
  all      : Clock
  snaps    : List Snap
  reason   : Nat
  stopped  : Bool
  retired  : Bool
  retireAt : W64
  halted   : Bool
  recOwed  : Bool
  heldIn   : Bool
  extUs    : Nat
  mark     : Nat
  deriving DecidableEq, Repr

/-- An estimator (R335) with the launch it is bound to (0 none) and the last launch that was. -/
structure Est where
  allot   : Bool
  n       : W64
  mean    : W64
  m2      : W64
  min     : W64
  max     : W64
  target  : W64
  width   : W64
  reason  : Nat
  closed  : Bool
  nonfin  : Bool
  conf    : Nat
  version : W32
  bound   : Nat
  last    : Nat
  deriving DecidableEq, Repr

/-! ### The race detector (R249, R250) -/

/-- A granule (R239, R305). -/
inductive Gran where
  | mem (n : Nat)
  | scr (team n : Nat)
  | tile (team t n : Nat)
  deriving DecidableEq, Repr

/-- An access in a granule's record: its thread, its number, the number of its word, which is its place in program order, its crew,
whether it synchronises, its commutative operation, and what a stop record says of it. -/
structure DAcc where
  thr  : Nat
  id   : Nat
  place : Nat
  crew : Nat
  sync : Bool
  cop  : Option (Nat × Ty)
  who  : Cause
  deriving DecidableEq, Repr

/-- A granule's record: the writes and reads the next access is compared with, and the releases that bytes of its value
carry, each with the bytes (R248). -/
structure Det where
  gran   : Gran
  writes : List DAcc
  reads  : List DAcc
  rels   : List (Nat × RelSrc)
  deriving DecidableEq, Repr

/-- An entry of a stand's commutative buffer (R246): the granule, operation, type and contributions. -/
structure CEnt where
  gran  : Nat
  op    : Nat
  ty    : Ty
  items : List (Acc × Locus)
  deriving DecidableEq, Repr

/-! ### The parts of the package -/

/-- A word that a core has picked for a clock (R89): its path and stream, whether it is a scalar word ahead of a pending ISSUE
(R91), whether it could issue when it was picked, and its place among the clock's effects. -/
structure Pick where
  crew  : Nat
  path  : Nat
  lane  : Bool
  ahead : Bool
  sure  : Bool
  place : Nat
  deriving DecidableEq, Repr

/-- A record that waits for the end of the clock (R397): 128 × core + 8 × slot + path, partition, type, die, the time it arose,
and its body. -/
structure Rec where
  key  : Nat
  part : Nat
  ty   : Nat
  die  : Nat
  time : W64
  body : List Byte
  deriving DecidableEq, Repr

/-- A core (R89, R192, R289, R306, R395, R407). `laneUsed` counts the lane issue slots taken of this clock's four, and of the
clocks after it by the passes still to come; `laneBy` are the paths (crew and entry) that took one, `scalBy` those that
issued a scalar word in this clock, and `plan` the picks of this clock that have still to act, none before it has picked (R88). `spare` says that the die's spare core serves the position, and `swap` that a swap
of the position has not completed (R17, R421). -/
structure Core where
  cyc     : W64
  idle    : List Nat
  gated   : Bool
  stretch : Bool
  tlb     : List Trans
  staged  : Option (Nat × Nat)
  laneUsed : Nat
  laneBy  : List (Nat × Nat)
  scalBy  : List (Nat × Nat)
  plan    : Option (List Pick)
  lastS   : Nat
  count   : Nat
  fenced  : Bool
  spare   : Bool
  swap    : Bool
  deriving DecidableEq, Repr

/-- A stand (R218, R221, R246, R264, R370): bank modes, banks being drained, the commutative buffer, the merges a full
buffer has forced, and the droop stretch. -/
structure Stand where
  modes  : List Nat
  drains : List Nat
  cbuf   : List CEnt
  evict  : W32
  droop  : Bool
  deriving DecidableEq, Repr

/-- A core pair and its four vaults (R357 to R360, R365): refresh class, cool samples, pair temperature, the
highest valid reading of each vault's layers, if it has one, thermal allowance (none while it holds the calibration value of reset, R372), and the vaults being recalibrated (R421). -/
structure Pair where
  cls   : Nat
  cool  : Nat
  temp  : BitVec 12
  layer : List (Option (BitVec 12))
  tar   : Option W32
  recal : List Nat
  deriving DecidableEq, Repr

/-- A frame-table word (R212). -/
structure Frame where
  state : Nat
  owner : Nat
  gen   : BitVec 28
  deriving DecidableEq, Repr

/-- A byte of a host-aperture line held at its device home (R259): its value, the paths that have written it since it last moved out,
each with its launch, and its partition. -/
structure HByte where
  val     : Byte
  writers : List (Nat × Nat)
  part    : Nat
  deriving DecidableEq, Repr

/-- A block submitted and not yet admitted or refused (R316): its address, and the crew and path of a LAUNCH. -/
structure Submit where
  block : W64
  bytes : List Byte
  crew  : Option (Nat × Nat)
  dest  : Nat
  deriving DecidableEq, Repr

/-- A ring the device writes records to (R408): base and size register, head and tail in 64-byte units. -/
structure Ring where
  reg  : W64
  head : W32
  tail : W32
  deriving DecidableEq, Repr

/-- A migration in progress (R211): the leaf's physical address, the address spaces and virtual pages of the accesses that have met it,
the new frame's address and the old one. -/
structure Mig where
  leaf  : Nat
  pages : List (Nat × Nat)
  new_  : Nat
  old   : Nat
  deriving DecidableEq, Repr

/-- A partition (R15, R215, R356, R371, R408, R412). `departed` are the launches whose teams have left a core since the last
sample, `slopeLids` those that the energy of a slope episode goes to, and `slopeOwed` those of episodes that have ended since the sample
(R370). `allotTop` is the greatest allotment of this microsecond, `allots` those of the last 1,000, newest first, and `calm` how many of
these, at most 1,000, have passed since a slope episode (R368). -/
structure Part where
  halted   : Bool
  resetting : Bool
  stopA    : W64
  kbase    : W64
  klen     : W64
  kdir     : Bool
  kbusy    : Bool
  lnBlock  : W64
  lnBusy   : Bool
  lnStatus : Nat
  lnId     : W32
  subs     : List Submit
  cring    : Ring
  gtab     : W64
  nextLid  : W32
  requeue  : List Nat
  reqPassed : SMap W64
  passedOver : List (Nat × Nat)
  lastCore : Nat
  invBase  : W64
  invLen   : W64
  invAsid  : BitVec 12
  issued   : BitVec 16
  full     : Bool
  done     : BitVec 16
  invQ     : List (W64 × W64 × Nat)
  fqBase   : W64
  fqSize   : BitVec 16
  fqHead   : BitVec 16
  fqTail   : BitVec 16
  fqHeld   : List (List Byte)
  nextTag  : W32
  migMode  : Bool
  thresh   : BitVec 8
  mblock   : BitVec 5
  migCost  : W32
  nearReg  : W64
  nearHead : W32
  nearTail : W32
  relReg   : W64
  relHead  : W32
  relTail  : W32
  migs     : List Mig
  ldRefused : Bool
  snapBase : W64
  snapLen  : W32
  rsel     : BitVec 16
  ldImage  : List W64
  share    : BitVec 12
  floor    : BitVec 10
  cls      : Nat
  newCls   : Option Nat
  refused  : Bool
  lent     : BitVec 12
  borrowed : BitVec 12
  slope    : Bool
  departed : List Nat
  slopeLids : List Nat
  slopeOwed : List (List Nat)
  allotTop  : Nat
  allots    : List Nat
  calm      : Nat
  tsel     : BitVec 13
  dbgCtl   : W64
  ering    : Ring
  tring    : Ring
  sper     : BitVec 24
  dropE    : W32
  dropT    : W32
  seqE     : W32
  seqT     : W32
  bps      : List W64
  dbgArg   : W64
  dbgData  : W64
  dbgBusy  : Option W64
  dbgRes   : Nat
  deriving DecidableEq, Repr

/-- The service block and the package (R418 to R422). `boot` and `bootErr` are the step and error of SV_BOOT, `skipped` that
a warm start skipped steps 2 and 3, `measure` the firmware measurement, `calAt` the reference time of the latest calibration; `uPend` the units of class `uClass` that have not switched to the new
microcode, `uDig` the digests of the unit images that updates have verified; `ports` the ports that are up, `kept` the
partitions' debug modes while a warm start runs (R409). -/
structure Service where
  split   : Nat
  boot    : Nat
  bootErr : Nat
  skipped : Bool
  fwAddr  : W64
  fwLen   : W64
  measure : List Byte
  calAt   : W64
  uBusy   : Bool
  uErr    : Nat
  uClass  : Nat
  uPend   : List Nat
  uDig    : SMap (List Byte)
  nonce   : List Byte
  attDone : Bool
  report  : List Byte
  cap     : BitVec 12
  ports   : BitVec 12
  kept    : List Nat
  deriving DecidableEq, Repr

/-- The path that is issuing. -/
structure Cur where
  crew : Nat
  path : Nat
  deriving DecidableEq, Repr

/-- A thing that happens: a step of another agent or of the host; or a core picking its words of a clock by R89, where
`ahead` lets scalar words of paths whose ISSUE is still pending be picked (R91); or the host writing bytes of its own memory (R259). -/
inductive Action where
  | event (i : Instr)
  | core (c : Nat) (ahead : Bool)
  | host (pa : Nat) (bytes : List Byte)
  deriving DecidableEq, Repr

/-- The machine. `sampled` counts the sensor samples so far (R357). `host` holds the device copies of host bytes and `unseen` the host's
writes that a partition may not see yet, by what it read there before; both keep each partition's bytes apart, at the home key of their
address (R15, R239, R259). `past` holds the bytes that writes have replaced while some
launch had not retired, newest first, each with its address: what an instruction fetch or a load with `.inv` may still see
(R27, R203), `undos` the bytes that parts of words have replaced whose other lanes are still staged or unmerged, newest first, each with
its word (R250), `recs` the records that have arisen in this clock (R397), `homeLast` the place of the last
access that has reached its home in this clock, 0 where there is none (R242). `cur`, `inputs`, `free` and `nextId` are the model's own. -/
structure State where
  time     : W64
  sampled  : Nat
  mem      : SMap Byte
  host     : SMap (Option HByte)
  unseen   : SMap (Option Byte)
  frames   : SMap Frame
  farCnt   : SMap Nat
  past     : List (Nat × List Byte)
  undos    : List (Nat × Nat × Byte)
  raised   : SMap (List (Cause × Option Cause))
  launches : List Launch
  teams    : List Team
  crews    : List Crew
  jobs     : List Job
  ests     : SMap Est
  det      : List Det
  recs     : List Rec
  cores    : List Core
  stands   : List Stand
  pairs    : List Pair
  parts    : List Part
  svc      : Service
  msix     : List Nat
  cur      : Option Cur
  inputs   : List Action
  free     : Nat
  nextId   : Nat
  homeLast : Nat
  deriving DecidableEq, Repr

/-! ### Reset

The state right after a cold start (R3, R418): every step of it has run and the device is running. Registers have the value
their map's Reset column gives; where there is none, zero (log 2, DESIGN CHOICE). -/

/-- A ring with no size. -/
def Ring.reset : Ring := ⟨0, 0, 0⟩

/-- The registers of a partition of this many dies (R215, R356, R371, R408, R412, R413). -/
def Part.reset (dies : Nat) : Part where
  halted := false
  resetting := false
  stopA := 0
  kbase := 0
  klen := 0
  kdir := false
  kbusy := false
  lnBlock := 0
  lnBusy := false
  lnStatus := 0
  lnId := 0
  subs := []
  cring := Ring.reset
  gtab := 0
  nextLid := 1
  requeue := []
  reqPassed := []
  passedOver := []
  lastCore := 143
  invBase := 0
  invLen := 0
  invAsid := 0
  issued := 0
  full := false
  done := 0
  invQ := []
  fqBase := 0
  fqSize := 0
  fqHead := 0
  fqTail := 0
  fqHeld := []
  nextTag := 0
  migMode := true
  thresh := 128
  mblock := 0
  migCost := 0
  nearReg := 0
  nearHead := 0
  nearTail := 0
  relReg := 0
  relHead := 0
  relTail := 0
  migs := []
  ldRefused := false
  snapBase := 0
  snapLen := 0
  rsel := 0
  ldImage := List.replicate 8 0
  share := BitVec.ofNat 12 (650 * dies)
  floor := 64
  cls := 0
  newCls := none
  refused := false
  lent := 0
  borrowed := 0
  slope := false
  departed := []
  slopeLids := []
  slopeOwed := []
  allotTop := 650 * dies
  allots := []
  calm := 0
  tsel := 0
  dbgCtl := 0
  ering := Ring.reset
  tring := Ring.reset
  sper := 0
  dropE := 0
  dropT := 0
  seqE := 0
  seqT := 0
  bps := List.replicate 4 0
  dbgArg := 0
  dbgData := 0
  dbgBusy := none
  dbgRes := 0

/-- A core at reset. -/
def Core.reset : Core where
  cyc := 0
  idle := List.replicate 6 0
  gated := false
  stretch := false
  tlb := []
  staged := none
  laneUsed := 0
  laneBy := []
  scalBy := []
  plan := none
  lastS := 15
  count := 0
  fenced := false
  spare := false
  swap := false

/-- The modes of the banks of a stand at reset (R218): 8 cache, 20 scratchpad, 4 FIFO. -/
def Stand.resetModes : List Nat := List.replicate 8 0 ++ List.replicate 20 1 ++ List.replicate 4 2

/-- A stand at reset. -/
def Stand.reset : Stand where
  modes := Stand.resetModes
  drains := []
  cbuf := []
  evict := 0
  droop := false

/-- A core pair at reset. -/
def Pair.reset : Pair where
  cls := 0
  cool := 0
  temp := 0
  layer := List.replicate 4 (some 0)
  tar := none
  recal := []

/-- The service block at reset (R422). -/
def Service.reset : Service where
  split := 0
  boot := 7
  bootErr := 0
  skipped := false
  fwAddr := 0
  fwLen := 0
  measure := List.replicate 48 0
  calAt := 0
  uBusy := false
  uErr := 0
  uClass := 0
  uPend := []
  uDig := []
  nonce := List.replicate 48 0
  attDone := false
  report := List.replicate 352 0
  cap := 2600
  ports := 0
  kept := []

/-- The machine right after reset. Log 2 (DESIGN CHOICE). -/
def State.reset : State where
  time := 0
  sampled := 0
  mem := []
  host := []
  unseen := []
  frames := []
  farCnt := []
  past := []
  undos := []
  raised := []
  launches := []
  teams := []
  crews := []
  jobs := []
  ests := []
  det := []
  recs := []
  cores := List.replicate 144 Core.reset
  stands := List.replicate 36 Stand.reset
  pairs := List.replicate 72 Pair.reset
  parts := [Part.reset 4]
  svc := Service.reset
  msix := []
  cur := none
  inputs := []
  free := 0
  nextId := 1
  homeLast := 0

end Sys2Proof.Machine
end

