-- ==== Sys2Proof/Machine/Ops.lean ====
section
/-! DEFINITION. The named operations over the state: the issuing path, scalar registers, the pending ISSUE, waits,
vector storage with its shape tags and units (R110 to R122), the banks of an open proposal (R132 to R138), the deferral
of lane-recoverable faults (R374 to R376), context-fatal faults (R383), and the return from a handler (R382). -/

namespace Sys2Proof.Machine

/-- The outcome of a meaning. -/
abbrev Out := Host.Outcome State Fault Refusal

/-! ### Finding and changing crews, teams and launches -/

/-- The crew of this id. -/
def State.crewOf (s : State) (id : Nat) : Option Crew := s.crews.find? (fun c => c.id == id)
/-- The team of this id. -/
def State.teamOf (s : State) (id : Nat) : Option Team := s.teams.find? (fun t => t.id == id)
/-- The launch of this identifier of a partition. -/
def State.launchOf (s : State) (part lid : Nat) : Option Launch := s.launches.find? (fun l => l.part == part && l.lid == lid)

/-- Change the crew of this id. -/
def State.modCrew (s : State) (id : Nat) (f : Crew → Crew) : State :=
  { s with crews := s.crews.map fun c => if c.id == id then f c else c }
/-- Change the team of this id. -/
def State.modTeam (s : State) (id : Nat) (f : Team → Team) : State :=
  { s with teams := s.teams.map fun t => if t.id == id then f t else t }
/-- Change the launch of this identifier. -/
def State.modLaunch (s : State) (part lid : Nat) (f : Launch → Launch) : State :=
  { s with launches := s.launches.map fun l => if l.part == part && l.lid == lid then f l else l }
/-- Change a core. -/
def State.modCore (s : State) (c : Nat) (f : Core → Core) : State := { s with cores := modAt s.cores c f }
/-- Change a stand. -/
def State.modStand (s : State) (k : Nat) (f : Stand → Stand) : State := { s with stands := modAt s.stands k f }

/-- A free path-table entry (R86). -/
def Path.empty : Path where
  st := .free
  held := false
  spc := 0
  lpc := 0
  mask := 0
  m0 := 0
  link := []
  lcnt := 0
  iss := none
  trap := none
  newSeg := true
  segW := []
  segB := []
  queue := []
  sbuf := []
  park := none
  walks := []
  walked := []
  refill := []
  replay := []
  late := []
  wait := none
  want := none
  joinM := 0
  barB := 0
  token := 0
  need := 0
  thr := 0
  base := []
  hist := []
  facq := []
  relF := []
  skip := none
  kin := []
  bpSkip := false
  stepping := none
  goOn := none

/-- The entry at an index of the path table; a free entry where the index has none. -/
def Crew.path (c : Crew) (i : Nat) : Path := c.paths.getD i Path.empty
/-- The word of this number. -/
def Crew.word? (c : Crew) (wid : Nat) : Option Word := c.words.find? fun (w : Word) => w.wid == wid
/-- The crew with an entry changed. -/
def Crew.modPath (c : Crew) (i : Nat) (f : Path → Path) : Crew := { c with paths := modAt c.paths i f }
/-- Change an entry of a crew's path table. -/
def State.modPath (s : State) (id i : Nat) (f : Path → Path) : State := s.modCrew id fun c => c.modPath i f

/-- Run a meaning on the issuing crew and path. -/
def withCur (s : State) (k : Crew → Path → Out) : Out :=
  match s.cur with
  | none => .fault .noPath
  | some u => match s.crewOf u.crew with
    | none => .fault .noPath
    | some c => k c (c.path u.path)

/-- The index of the issuing path. -/
def State.curPath (s : State) : Nat := match s.cur with | some u => u.path | none => 0
/-- Change the issuing crew. -/
def State.modCur (s : State) (f : Crew → Crew) : State :=
  match s.cur with
  | some u => s.modCrew u.crew f
  | none => s
/-- Change the issuing path. -/
def State.modCurPath (s : State) (f : Path → Path) : State :=
  match s.cur with
  | some u => s.modPath u.crew u.path f
  | none => s

/-! ### Scalar, condition and mask registers (R108) -/

/-- A scalar register; s0 reads as zero (R108). -/
def Crew.sget (c : Crew) (r : BitVec 6) : W64 := if r = 0 then 0 else SMap.get 0 c.s r.toNat
/-- Write a scalar register; a write to s0 is discarded (R108). -/
def Crew.sset (c : Crew) (r : BitVec 6) (v : W64) : Crew := if r = 0 then c else { c with s := SMap.set 0 c.s r.toNat v }
/-- A condition register. -/
def Crew.cget (c : Crew) (r : BitVec 3) : BitVec 8 := SMap.get 0 c.c r.toNat
/-- Write a condition register. -/
def Crew.cset (c : Crew) (r : BitVec 3) (v : BitVec 8) : Crew := { c with c := SMap.set 0 c.c r.toNat v }

/-- A mask register as a path reads it: m0 is the path's own (R108). -/
def Crew.mget (c : Crew) (p : Path) (r : BitVec 4) : Mask := if r = 0 then p.m0 else SMap.get 0 c.m r.toNat

/-- The source b of a scalar word: its register, or the literal sign-extended (R32, R149). -/
def Crew.srcS (c : Crew) : SSrc → W64
  | .reg r => c.sget r
  | .lit w => w.signExtend 64
/-- The source b of SDIVN, SMULHN, SMINN and SMAXN: a literal is zero-extended (R149). -/
def Crew.srcN (c : Crew) : SSrc → W64
  | .reg r => c.sget r
  | .lit w => w.setWidth 64
/-- The registers a source names. -/
def SSrc.regs : SSrc → List (BitVec 6)
  | .reg r => [r]
  | .lit _ => []
/-- The bytes of a word with this source (R26, R32). -/
def SSrc.size : SSrc → Nat
  | .reg _ => 4
  | .lit _ => 8

/-! ### Lanes (R77, R79, R83) -/

/-- The lanes of a crew's groups. -/
def Crew.lanes (c : Crew) : Mask := maskRange (32 * c.first) (32 * c.groups)
/-- The lanes an entry owns. -/
def Path.owned (p : Path) : Mask := if p.st = .free then 0 else p.mask
/-- The crew's live lanes (R83, R375). -/
def Crew.live (c : Crew) : Mask := c.paths.foldl (fun m p => m ||| p.owned) 0
/-- The crews of a team. -/
def State.crewsOf (s : State) (team : Nat) : List Crew := s.crews.filter fun c => c.team == team
/-- The team's live lanes (R102). -/
def State.teamLive (s : State) (team : Nat) : Mask := (s.crewsOf team).foldl (fun m c => m ||| c.live) 0
/-- The lanes a team has (R77). -/
def State.teamLanes (s : State) (team : Nat) : Mask :=
  match s.teamOf team with
  | some t => maskRange 0 (32 * t.groups)
  | none => 0

/-- A record's trap point is reached (R376): mark the records this entry has deferred by split as due. -/
def Crew.trapPoint (c : Crew) (i : Nat) : Crew :=
  { c with paths := c.paths.map fun p => match p.trap with
      | some t => if t.from_ == i && !t.inPlace && !t.due then { p with trap := some { t with due := true } } else p
      | none => p }
/-- A record this entry has deferred by split waits for its dispatch (R376). -/
def Crew.undispatched (c : Crew) (i : Nat) : Bool :=
  c.paths.any fun p => p.st != .free && match p.trap with
    | some t => t.from_ == i && !t.inPlace && !t.running
    | none => false

/-- Write a mask register: m0 keeps within the path mask, the others within the team's lanes (R77, R83). A path whose m0
becomes empty reaches the trap point of its split records (R376). -/
def State.setMask (s : State) (r : BitVec 4) (m : Mask) : State :=
  if r = 0 then s.modCur fun c =>
    let c' := c.modPath s.curPath fun p => { p with m0 := m &&& p.mask }
    if m &&& (c.path s.curPath).mask = 0 then c'.trapPoint s.curPath else c'
  else
    let lanes := match s.cur with
      | some u => match s.crewOf u.crew with | some c => s.teamLanes c.team | none => 0
      | none => 0
    s.modCur fun c => { c with m := SMap.set 0 c.m r.toNat (m &&& lanes) }

/-! ### Waiting and advancing -/

/-- Stall reasons (R402). -/
def stMarker : Nat := 1
def stSlots : Nat := 2
def stInterlock : Nat := 3
def stSync : Nat := 4
def stWalk : Nat := 5
def stRegs : Nat := 6
def stBank : Nat := 7
def stRefill : Nat := 8
def stFifo : Nat := 9
def stCounted : Nat := 10
def stTicket : Nat := 11
def stYarder : Nat := 12
def stLanding : Nat := 13
def stOther : Nat := 15
/-- Allotment, counted as 15 (R231, R289, R402); R90 tells it apart. -/
def stAllot : Nat := 16
/-- Released in this clock, ready in the next (R88). -/
def stNext : Nat := 17

/-- The path is not ready, for this reason (R87, R402). -/
def State.stall (s : State) (code : Nat) : State := s.modCurPath fun p => { p with wait := some code }

/-- The path is not ready until it is granted something (R117, R118, R231, R293). -/
def waitWant (s : State) (code : Nat) (w : Want) : Out :=
  .next (s.modCurPath fun p => { p with wait := some code, want := some w })

/-- The next state in which the issuing path waits. -/
def waitFor (s : State) (code : Nat) : Out := .next (s.stall code)

/-- The issuing path waits for the lane words of its pending ISSUE, for the reason of the first of them (R91, R402). -/
def waitIssue (s : State) (p : Path) : Out := waitFor s (p.wait.getD 0)

/-- A core issues p passes of a lane word, or a scalar word: its engine is busy and its slots are taken (R84, R89, R90, R370, R402). -/
def State.noteSlots (s : State) (core cid i : Nat) (lane : Bool) (engine slots : Nat) : State :=
  let s1 := s.modCore core fun d => { d with
    idle := setAt d.idle engine 0
    laneUsed := d.laneUsed + slots
    laneBy := if lane then d.laneBy ++ [(cid, i)] else d.laneBy
    scalBy := if lane then d.scalBy else d.scalBy ++ [(cid, i)] }
  let s2 := match s.crewOf cid with
    | some c => s1.modTeam c.team fun t => { t with slotsUsed := t.slotsUsed + slots }
    | none => s1
  s2.modCrew cid fun c => { c with issued := true }

/-- A scalar word of the path has taken effect: the breakpoint at it and the step over it are done with (R399, R405). -/
def Path.wordDone (p : Path) : Path := { p with bpSkip := false, stepping := p.stepping.map fun _ => true }
/-- A path that waited for its scalar word of 4 bytes goes on past it. -/
def Path.pastWord (p : Path) : Path := { p with spc := p.spc + 4, want := none, wait := none }.wordDone

/-- A lane issue slot of a core is free (R89). -/
def Core.laneRoom (k : Core) : Bool := decide (k.laneUsed < 4)
/-- A scalar issue slot is free for a path: two in a clock, one a path (R89, log 1, DESIGN CHOICE). -/
def Core.scalFree (k : Core) (crew path : Nat) : Bool := decide (k.scalBy.length < 2) && !k.scalBy.contains (crew, path)
/-- A core has a scalar issue slot for a path whose word a grant lets issue (R89). -/
def State.scalRoom (s : State) (core cid i : Nat) : Bool := match s.cores[core]? with | some k => k.scalFree cid i | none => false

/-- A scalar word that waited for a grant issues: it takes its slot, and its path goes on past it (R89, R90, R117, R293). -/
def State.grantWord (s : State) (core cid i engine : Nat) : State :=
  (s.noteSlots core cid i false engine 0).modPath cid i Path.pastWord

/-- Advance the scalar program counter (R26). -/
def State.advance (s : State) (n : Nat) : State := s.modCurPath fun p => { p with spc := p.spc + BitVec.ofNat 64 n, wait := none, want := none }

/-- The pending ISSUE after one of its words has left (R91): the next word, the next repetition, or none. -/
def Path.nextIssue (p : Path) : Path :=
  match p.iss with
  | none => p
  | some i =>
    if i.left > 1 then { p with iss := some { i with left := i.left - 1 } }
    else if i.reps > 0 then { p with iss := some { i with left := i.n, reps := i.reps - 1 }, lpc := i.block }
    else { p with iss := none }

/-- Advance the lane program counter past a lane word (R26, R91). -/
def Path.pastLane (p : Path) (n : Nat) : Path := ({ p with lpc := p.lpc + BitVec.ofNat 64 n, wait := none, want := none }).nextIssue
/-- Advance the issuing path past a lane word. -/
def State.advanceLane (s : State) (n : Nat) : State := s.modCurPath fun p => p.pastLane n

/-- The 32-bit pending ISSUE state (R86): bits 6–0 the words left, 13–7 n, 29–14 the repetitions left, 30 void.
Log 4 (DESIGN CHOICE). -/
def Issue.code (i : Issue) : W32 :=
  w32 (i.left % 128 + i.n % 128 * 2 ^ 7 + i.reps % 2 ^ 16 * 2 ^ 14 + bitAt i.void 30)
/-- The 32-bit pending ISSUE state of a path; zero when none is pending. -/
def issueCode (i : Option Issue) : W32 := match i with | some i => i.code | none => 0
/-- The pending ISSUE that a 32-bit state names; block start and scalar sources are those of `old`, or of a block that
starts at `lpc`. -/
def issueOf (old : Option Issue) (lpc : W64) (snap : SMap W64) (w : W32) : Option Issue :=
  let n := w.toNat
  if n % 128 = 0 then none
  else some
    { n := field n 13 7, left := n % 128, reps := field n 29 14, void := n.testBit 30
      block := match old with | some i => i.block | none => lpc
      snap := match old with | some i => i.snap | none => snap }

/-- A word has a result to write, a source to read late, or an arrival in a joint that is still to be judged (R45, R292, R301). -/
def Word.marks (w : Word) : Bool := w.slot || !w.held.isEmpty
/-- A word of this path holds back a switch marker (R45, R292). Log 45 (DEDUCED). -/
def Crew.outstanding (c : Crew) (path : Nat) : Bool := c.words.any fun w => w.path == path && w.marks
/-- A scalar load of the crew has yet to write this register (R48). -/
def Crew.pending (c : Crew) (rs : List (BitVec 6)) : Bool :=
  rs.any fun r => r != 0 && c.sPend.any fun q => q.1 == r.toNat
/-- A scalar word of this path has yet to take effect: a load has not written its register, or an access has not reached its home, which
those of a store in the store buffer and of a load into s0 have still to do (R158, R239). Log 50 (DEDUCED). -/
def Crew.pathPending (c : Crew) (path : Nat) : Bool :=
  (c.sPend.any fun q => c.words.any fun w => w.wid == q.2 && w.path == path)
    || ((c.path path).queue ++ (c.path path).sbuf).any (·.scalar)

/-- The wait of SRD, SWR, TIME and the mask words: every lane word of the path's pending ISSUE has issued, and every
earlier scalar word has taken effect (R158, R160, R161). -/
def afterEarlier (s : State) (c : Crew) (p : Path) (k : Out) : Out :=
  if p.iss.isSome then waitIssue s p else if c.pathPending s.curPath then waitFor s stInterlock else k

/-- A word of the path at entry i has yet to write a physical register (R120). -/
def Crew.owesWrite (c : Crew) (i r : Nat) : Bool := c.words.any fun w => w.slot && w.path == i && w.dests.contains r

/-- A register of these physical ones has an outstanding long-latency write or late read (R119, R136, R139). -/
def Crew.busyRegs (c : Crew) (rs : List Nat) : Bool :=
  c.words.any fun w => w.slot && (w.dests.any rs.contains || w.srcs.any rs.contains)

/-! ### Vector storage (R110 to R122) -/

/-- The value of lane j (R110). -/
def GReg.val (r : GReg) (j : Nat) : W32 :=
  match r with
  | .uni u => u
  | .aff b t => b + t * w32 j
  | .gen vs => vs.getD j 0
/-- The tag code (R110). -/
def GReg.tag : GReg → Nat
  | .uni _ => 1
  | .aff _ _ => 2
  | .gen _ => 3
/-- The width class of a general group-register, by its deltas from lane 0 (R113). -/
def GReg.cls (r : GReg) : Nat :=
  match r with
  | .gen vs =>
    let ds := vs.map fun v => (v - vs.headD 0).toInt
    if ds.all (fun d => -128 ≤ d && d ≤ 127) then 1
    else if ds.all (fun d => -32768 ≤ d && d ≤ 32767) then 2 else 3
  | _ => 0
/-- The cost in bank units (R113). -/
def GReg.cost (r : GReg) : Nat := match r.cls with | 0 => 1 | 1 => 3 | 2 => 5 | _ => 8
/-- A group-register of 32 lane values under a tag: the affine one takes base and stride from lanes 0 and 1. -/
def GReg.mk (tag : Nat) (vs : List W32) : GReg :=
  match tag with
  | 1 => .uni (vs.getD 0 0)
  | 2 => .aff (vs.getD 0 0) (vs.getD 1 0 - vs.getD 0 0)
  | _ => .gen vs

/-- Physical register p is present (R115, R126). -/
def Crew.present (c : Crew) (p : Nat) : Bool := decide (p < c.nRegs) || (decide (248 ≤ p) && decide (p < 256))
/-- The physical register of a name (R122). -/
def Crew.physical (c : Crew) (v : Nat) : Nat :=
  if 0 < c.rot ∧ 128 ≤ v ∧ v < 128 + c.rot then 128 + (v - 128 + c.rotb) % c.rot else v
/-- The live group-register p of crew group g. -/
def Crew.liveReg (c : Crew) (p g : Nat) : GReg := SMap.get (.uni 0) c.v (32 * p + g)
/-- The place of register p in the open window. -/
def Crew.place (c : Crew) (p : Nat) : Option Nat :=
  match c.prop with
  | some w => if w.base ≤ p ∧ p < w.base + w.len then some (p - w.base) else none
  | none => none
/-- The shadow group-register at a place of the window. -/
def Proposal.shadowReg (w : Proposal) (i g : Nat) : GReg := SMap.get (.uni 0) w.shadow (32 * i + g)
/-- The units of the shadow bank (R134). -/
def Crew.shadowUnits (c : Crew) : Nat :=
  match c.prop with
  | some w => (List.range (w.len * c.groups)).foldl (fun n k =>
      n + (w.shadowReg (k / c.groups) (k % c.groups)).cost) 0
  | none => 0
/-- held(c): every present group-register at its cost, an unlisted one being uniform (R114, R134). -/
def Crew.held (c : Crew) : Nat :=
  c.v.foldl (fun n e => if c.present (e.1 / 32) then n + (e.2.cost - 1) else n) ((c.nRegs + 8) * c.groups) + c.shadowUnits
/-- The reservations that the first passes of the path's next word have made (R118). -/
def Path.keptUnits (p : Path) : List (Nat × Nat) := match p.want with | some (.kept rs) => rs | _ => []
/-- reserved(c): the write reservations of words in flight, and of words that have made some (R114, R118). -/
def Crew.reserved (c : Crew) : Nat :=
  c.paths.foldl (fun n p => p.keptUnits.foldl (fun k e => k + e.2) n) (c.words.foldl (fun n w => w.resv.foldl (fun k e => k + e.2) n) 0)

/-- The core a team is resident on. -/
def State.coreOf (s : State) (team : Nat) : Option Nat := match s.teamOf team with | some t => t.core | none => none
/-- The crews resident on a core, not retired, in ascending slot. -/
def State.coreCrews (s : State) (core : Nat) : List Crew :=
  sortBy (·.slot) (s.crews.filter fun c => !c.retired && s.coreOf c.team == some core)
/-- The free bank units of a core (R114). -/
def State.freeUnits (s : State) (core : Nat) : Nat :=
  49152 - (s.coreCrews core).foldl (fun n c => n + c.held + c.reserved) 0
/-- The free bank units of the crew's core. -/
def State.crewFree (s : State) (c : Crew) : Nat :=
  match s.coreOf c.team with
  | some k => s.freeUnits k
  | none => 0

/-- The lanes j of crew group g in a team mask, as a 32-bit word. -/
def Crew.groupWord (c : Crew) (m : Mask) (g : Nat) : W32 := m.extractLsb' (32 * (c.first + g)) 32
/-- The crew groups that take a pass under a mask, ascending (R84). -/
def Crew.passes (c : Crew) (m : Mask) : List Nat := (List.range c.groups).filter fun g => c.groupWord m g != 0
/-- The lanes of P in group g; none while no proposal is open. -/
def Crew.propWord (c : Crew) (g : Nat) : W32 := match c.prop with | some w => c.groupWord w.lanes g | none => 0

/-- Lane j of two group-registers, the second one for the lanes in `sel`. -/
def mixRegs (sel : W32) (a b : GReg) : GReg :=
  .gen ((List.range 32).map fun j => if sel.getLsbD j then b.val j else a.val j)

/-- Physical register p as a pass of group g with these active lanes reads it: the shadow where every active lane is in
P, the live one where none is, general otherwise; `pw` are the lanes of P (R133). -/
def Crew.readBank (c : Crew) (pw act : W32) (p g : Nat) : GReg :=
  match c.prop, c.place p with
  | some w, some i =>
    if act &&& pw = 0 then c.liveReg p g
    else if act &&& ~~~pw = 0 then w.shadowReg i g
    else mixRegs pw (c.liveReg p g) (w.shadowReg i g)
  | _, _ => c.liveReg p g

/-- Register p in lane j of group g as that lane reads it: its own bank, active or not (R133). -/
def Crew.readLane (c : Crew) (p g j : Nat) : W32 :=
  match c.prop, c.place p with
  | some w, some i => if (c.propWord g).getLsbD j then (w.shadowReg i g).val j else (c.liveReg p g).val j
  | _, _ => (c.liveReg p g).val j

/-- A named register in a team lane of the crew. -/
def Crew.vget (c : Crew) (v lane : Nat) : W32 := c.readLane (c.physical v) (lane / 32 - c.first) (lane % 32)

/-- The group-register after a write of lanes `act`: the shape itself when they are all 32, else general (R112). -/
def GReg.merge (old shape : GReg) (act : W32) : GReg :=
  if act = BitVec.allOnes 32 then shape else mixRegs act old shape

/-- Set the live group-register. -/
def Crew.setLive (c : Crew) (p g : Nat) (r : GReg) : Crew := { c with v := SMap.set (.uni 0) c.v (32 * p + g) r }
/-- Set a shadow group-register and its touched bit. -/
def Crew.setShadow (c : Crew) (i g : Nat) (r : GReg) : Crew :=
  match c.prop with
  | some w => { c with prop := some { w with
      shadow := SMap.set (.uni 0) w.shadow (32 * i + g) r
      touched := if w.touched.contains (32 * i + g) then w.touched else insertBy (fun n => n) (32 * i + g) w.touched } }
  | none => c

/-- A pass writes physical register p of group g in lanes `act`; the lanes `sh` of them write the shadow bank where p
is a window register (R111, R112, R133). A register that is not present takes no write. -/
def Crew.writePass (c : Crew) (sh act : W32) (p g : Nat) (shape : GReg) : Crew :=
  if !c.present p then c
  else match c.prop, c.place p with
  | some w, some i =>
    let a := act &&& sh
    let b := act &&& ~~~sh
    let c := if a = 0 then c else c.setShadow i g ((w.shadowReg i g).merge shape a)
    if b = 0 then c else c.setLive p g ((c.liveReg p g).merge shape b)
  | _, _ => c.setLive p g ((c.liveReg p g).merge shape act)

/-- The units a pass reserves before it writes register p of group g: 8 − cost for each bank it writes (R118, R134). -/
def Crew.reserve (c : Crew) (act : W32) (p g : Nat) : Nat :=
  match c.prop, c.place p with
  | some w, some i =>
    (if act &&& c.propWord g = 0 then 0 else 8 - (w.shadowReg i g).cost)
    + (if act &&& ~~~(c.propWord g) = 0 then 0 else 8 - (c.liveReg p g).cost)
  | _, _ => 8 - (c.liveReg p g).cost

/-! ### Closing lanes of a proposal (R137) -/

/-- A 32-bit counter that saturates. -/
def satInc (w : W32) : W32 := if w = BitVec.allOnes 32 then w else w + 1

/-- Lane j of a group-register replaced, the tag left: general values take it in place. -/
def GReg.setLane (r : GReg) (sel : W32) (src : GReg) : GReg := mixRegs sel r src

/-- close(lanes, keep) of R137. `keep` is none where it is false for every lane by rule, as in ABANDON and at an exit; else the
lanes that a test keeps, which may be none of them: the tags follow from the words executed and not from the test. -/
def Crew.close (c : Crew) (lanes : Mask) (keep : Option Mask) : Crew :=
  match c.prop with
  | none => c
  | some w =>
    let ls := lanes &&& w.lanes
    let kp := ls &&& keep.getD 0
    let c1 := (maskLanes 1024 ls).foldl (fun c l =>
      { c with
        propd := SMap.set 0 c.propd l (satInc (SMap.get 0 c.propd l))
        acpt := if kp.getLsbD l then SMap.set 0 c.acpt l (satInc (SMap.get 0 c.acpt l)) else c.acpt }) c
    let c2 := if keep = none then c1 else
      (List.range (w.len * c.groups)).foldl (fun c k =>
        let i := k / c.groups
        let g := k % c.groups
        if c.groupWord ls g ≠ 0 ∧ w.touched.contains (32 * i + g) then
          c.setLive (w.base + i) g (mixRegs (c.groupWord kp g) (c.liveReg (w.base + i) g) (w.shadowReg i g))
        else c) c1
    let rest := w.lanes &&& ~~~ls
    { c2 with prop := if rest = 0 then none else some { w with lanes := rest, defer := w.defer &&& ~~~ls } }

/-! ### Faults (R373 to R384) -/

/-- Where a context-fatal fault of the issuing path arises. -/
def State.causeHere (s : State) (c : Crew) (p : Path) (lane : Bool) (code detail addr : Nat) : Cause where
  code := code
  detail := detail
  addr := addr
  kind := b2n lane
  launch := match s.teamOf c.team with | some t => t.launch | none => 0
  team := match s.teamOf c.team with | some t => t.index | none => 0
  core := (s.coreOf c.team).getD 0
  slot := c.slot
  path := s.curPath
  spc := p.spc
  lpc := p.lpc

/-- The partition of a crew. -/
def State.partOf (s : State) (c : Crew) : Nat := match s.teamOf c.team with | some t => t.part | none => 0

/-- Raise the halt line of a partition with a cause, and the first access of a conflicting pair where it is one (R383,
R384). The stop itself is HALT_LINE's. -/
def State.raise (s : State) (part : Nat) (z : Cause) (first : Option Cause := none) : State :=
  { s with raised := SMap.set [] s.raised part (SMap.get [] s.raised part ++ [(z, first)]) }

/-- A context-fatal fault of the issuing path; the word has no effect. -/
def State.fatal (s : State) (c : Crew) (p : Path) (lane : Bool) (code detail addr : Nat) : State :=
  s.raise (s.partOf c) (s.causeHere c p lane code detail addr)

/-- The lowest free entry of the path table (R86). -/
def Crew.freeEntry (c : Crew) : Option Nat := (List.range 8).find? fun i => (c.path i).st == .free

/-- A path as it stood when one of its words issued: the recorded point of a fault of that word (R374). -/
def Path.atWord (p : Path) (w : Word) : Path := { p with
  spc := w.spc, lpc := w.lpc, iss := w.iss, lcnt := w.lcnt
  link := p.link.drop (p.link.length - w.depth) ++ List.replicate (w.depth - p.link.length) ⟨0, 0, false, 0⟩ }

/-- The trap record of a fault at the word of a path (R374, R388). -/
def trapRec (c : Crew) (i : Nat) (p : Path) (lane : Bool) (code detail bound : Nat) (f : Mask) (inPlace : Bool) : TrapRec where
  code := code
  detail := detail
  spc := p.spc
  lpc := p.lpc
  iss := p.iss
  depth := p.link.length
  lcnt := p.lcnt
  lanes := f
  inPlace := inPlace
  lane := lane
  seq := c.defSeq
  age := 0
  from_ := i
  bound := bound
  due := inPlace
  running := false

/-- The lanes of P that take a lane-recoverable fault join D (R144), those of a PROPOSE that takes PROPOSAL_STATE among
them, although R136 leaves the proposal state unchanged there. Log 52 (DESIGN CHOICE). -/
def Crew.deferProp (c : Crew) (f : Mask) : Crew :=
  { c with prop := c.prop.map fun w => { w with defer := w.defer ||| (f &&& w.lanes) } }

/-- The context-fatal fault that a lane-recoverable fault over lanes f turns into: HANDLER_FAULT on a handler path, and
TRAP_OVERFLOW where the lanes need an entry and none is free (R375, R380). -/
def Crew.deferFatal (c : Crew) (p : Path) (f : Mask) : Option Nat :=
  if (match p.trap with | some t => t.running | none => false) then some 39
  else if p.m0 &&& ~~~f = 0 then none
  else if c.freeEntry.isNone then some 41 else none

/-- Lanes f of the issuing path take a lane-recoverable fault at its word (R375): in place, by split, or
TRAP_OVERFLOW; a handler path takes HANDLER_FAULT (R380). The path's program counters are left to the caller. -/
def State.defer (s : State) (c : Crew) (p : Path) (lane : Bool) (code detail : Nat) (f : Mask) : State :=
  let i := s.curPath
  if (match p.trap with | some t => t.running | none => false) then s.fatal c p lane 39 code 0
  else if p.m0 &&& ~~~f = 0 then
    s.modCrew c.id fun c => ((c.deferProp f).modPath i fun q =>
      { q with m0 := 0, st := .fault, wait := none, want := none
               trap := some (trapRec c i p lane code detail s.nextId f true) }).trapPoint i
  else match c.freeEntry with
    | none => s.fatal c p lane 41 code 0
    | some e =>
      let q : Path := { Path.empty with
        st := .fault, spc := p.spc, lpc := p.lpc, mask := f, m0 := 0, link := p.link, lcnt := p.lcnt
        trap := some (trapRec c i p lane code detail s.nextId f false)
        thr := s.nextId, base := p.base, hist := p.hist, relF := p.relF
        late := p.late.filter fun e => f.getLsbD e.1 }
      { s.modCrew c.id fun c => (c.deferProp f).modPath e fun _ => q with
        nextId := s.nextId + 1 }.modCrew c.id fun c => c.modPath i fun q =>
          { q with m0 := q.m0 &&& ~~~f, mask := q.mask &&& ~~~f, late := q.late.filter fun e => !f.getLsbD e.1 }

/-- The lanes a scalar word's fault is taken over (R374). -/
def Path.faultLanes (p : Path) : Mask := if p.m0 = 0 then p.mask else p.m0

/-- A lane-recoverable fault of a scalar word (R374): the path parks at the word. -/
def scalarFault (s : State) (c : Crew) (p : Path) (code detail : Nat) : Out :=
  .next (s.defer c p false code detail p.faultLanes)

/-- A lane-recoverable fault over the lanes f that a lane word would have covered; the lanes that remain continue past
the word (R375), unless the fault has become a context-fatal one, which leaves the path at the word (R383). -/
def laneFault (s : State) (c : Crew) (p : Path) (size code detail : Nat) (f : Mask) : Out :=
  let s' := s.defer c p true code detail f
  .next (if p.m0 &&& ~~~f = 0 || (c.deferFatal p f).isSome then s' else s'.advanceLane size)

/-- The lanes an encoding fault of a lane word is taken over (R52). -/
def encodingLanes (p : Path) (sel : Mask) : Mask := if sel = 0 then p.faultLanes else sel

/-- Fault codes (R373). -/
def fcIllegal : Nat := 1
def fcType : Nat := 2
def fcPage : Nat := 3
def fcScratch : Nat := 4
def fcRange : Nat := 5
def fcCallDepth : Nat := 6
def fcPathFull : Nat := 7
def fcProposal : Nat := 8
def fcDivide : Nat := 9
def fcQueue : Nat := 10
def fcMatrix : Nat := 11
def fcEstimator : Nat := 12
def fcBlaze : Nat := 13
def fcTrap : Nat := 14
def fcMemModel : Nat := 32
def fcXstore : Nat := 33
def fcXread : Nat := 34
def fcUncorr : Nat := 35
def fcBarrier : Nat := 36
def fcHazard : Nat := 37
def fcTimeLimit : Nat := 38
def fcHandler : Nat := 39
def fcUnhandled : Nat := 40
def fcOverflow : Nat := 41

/-- The path is a handler path (R377). -/
def Path.isHandler (p : Path) : Bool := match p.trap with | some t => t.running | none => false

end Sys2Proof.Machine
end

