-- ==== Sys2Proof/Machine/Operands.lean ====
section
/-! DEFINITION. Operand forms of lane words (R37, R38, R40, R42, R164), the shape tags of results (R111, R112), and what
every lane word does around its own effect: the switch-marker wait, the segment, voidness, the order of its checks, the
dependence slot, the in-flight counter and the write reservation (R43 to R49, R84, R118, R235). -/

namespace Sys2Proof.Machine

/-! ### Sources -/

/-- A scalar register as a lane word reads it: as it stood when the ISSUE executed (R91). -/
def Path.scalar (p : Path) (c : Crew) (r : BitVec 6) : W64 :=
  match p.iss with
  | some i => if r = 0 then 0 else SMap.get 0 i.snap r.toNat
  | none => c.sget r

/-- A source in one group: its group-register, and for a 64-bit type the group-register of the high half. -/
structure GSrc where
  lo : GReg
  hi : GReg
  deriving DecidableEq, Repr

/-- The pattern of lane j. -/
def GSrc.val (x : GSrc) (j : Nat) : Nat := (x.lo.val j).toNat + (x.hi.val j).toNat * 2 ^ 32

/-- A 64-bit constant as a uniform source. -/
def GSrc.ofW64 (x : W64) : GSrc := ⟨.uni (x.extractLsb' 0 32), .uni (x.extractLsb' 32 32)⟩
/-- A 32-bit constant as a uniform source. -/
def GSrc.ofW32 (x : W32) : GSrc := ⟨.uni x, .uni 0⟩

/-- A vector register, or an even register pair, in a pass (R37, R133). -/
def Crew.srcReg (c : Crew) (wide : Bool) (act : W32) (v g : Nat) : GSrc :=
  let pw := c.propWord g
  ⟨c.readBank pw act (c.physical v) g, if wide then c.readBank pw act (c.physical (v + 1)) g else .uni 0⟩

/-- Source b of a layout A word (R40, R42, R164). -/
def srcBG (c : Crew) (p : Path) (w : LaneA) (wide : Bool) (act : W32) (g : Nat) : GSrc :=
  match w.b with
  | .reg r => c.srcReg wide act r.toNat g
  | .sreg r => if wide then .ofW64 (p.scalar c r) else .ofW32 ((p.scalar c r).extractLsb' 0 32)
  | .imm k => if wide then .ofW64 (if w.ty = .i64 then k.signExtend 64 else k.setWidth 64) else .ofW32 k
  | .lit l0 l1 _ => if wide then ⟨.uni l0, .uni l1⟩ else .ofW32 l0

/-- Source c of a layout A word: lit1 under a trailing literal of a type narrower than 64 bits (R42). -/
def srcCG (c : Crew) (w : LaneA) (wide : Bool) (act : W32) (g : Nat) : GSrc :=
  match w.b with
  | .lit _ l1 _ => if wide then c.srcReg wide act w.c.toNat g else .ofW32 l1
  | _ => c.srcReg wide act w.c.toNat g

/-- The type of source a is 64 bits wide. FCVT reads its source type (R178). -/
def OpA.srcWide (o : OpA) (w : LaneA) : Bool :=
  match o with
  | .fcvt => (match w.srcTy with | some t => t.is64 | none => false)
  | _ => w.ty.is64

/-- A register or the pair it names. -/
def regPair (wide : Bool) (v : BitVec 8) : List Nat := if wide then [v.toNat, v.toNat + 1] else [v.toNat]

/-- Mask register k among the registers that R46 compares; numbers below it are vector registers, named v256 and up by an MMA's
block that runs past v255 (R115, R300). -/
def maskReg (k : Nat) : Nat := 1024 + k

/-- The registers a layout A word reads: vector registers by name, mask registers as `maskReg`. -/
def OpA.reads (o : OpA) (w : LaneA) : List Nat :=
  (match o.aUse with
    | .none => []
    | .vec => regPair (OpA.srcWide o w) w.a
    | .mask => [maskReg w.a.toNat])
  ++ (match w.b with
    | .reg r => (match o.bUse with
      | .src => regPair w.ty.is64 r
      | .mask => if r = 0 then [] else [maskReg r.toNat]
      | _ => [])
    | _ => [])
  ++ (match o.cUse with
    | .vec => if o.cFromLit w then [] else regPair w.ty.is64 w.c
    | .mask => [maskReg w.c.toNat]
    | _ => [])

/-- The registers a layout A word writes. -/
def OpA.writes (o : OpA) (w : LaneA) : List Nat :=
  match o.dUse with
  | .none => []
  | .vec => regPair w.ty.is64 w.d
  | .single => [w.d.toNat]
  | .mask => [maskReg w.d.toNat]

/-! ### Shape tags (R111) -/

/-- The tag classes of R111. -/
inductive TagClass where
  | copy | linear | scaled | elementwise | laneIndex | broadcast | varying
  deriving DecidableEq, Repr

/-- The tag code of a full pass, from the tags of the sources a, b and c (R111). -/
def TagClass.tag (k : TagClass) (ts : List Nat) : Nat :=
  match k with
  | .copy => ts.headD 3
  | .linear => if ts.all (· == 1) then 1 else if ts.all (· != 3) then 2 else 3
  | .scaled => if ts.all (· == 1) then 1 else if ts.headD 3 == 2 && ts.getD 1 3 == 1 then 2 else 3
  | .elementwise => if ts.all (· == 1) then 1 else 3
  | .laneIndex => 2
  | .broadcast => 1
  | .varying => 3

/-- The class in force: linear and scaled hold only for i32, n32 and b32 computed modulo 2^32 without an absolute
value; a copy of a pair is uniform or general (R111, R112). -/
def TagClass.inForce (k : TagClass) (w : LaneA) : TagClass :=
  match k with
  | .linear | .scaled =>
    if (w.ty.inB || (w.ty.inI && w.m.alt)) && !(w.m.aa || w.m.ab || w.m.ac) then k else .elementwise
  | .copy => if w.ty.is64 then .elementwise else .copy
  | k => k

/-! ### What every lane word does (R43 to R49) -/

/-- What the wrapper needs of a lane word. Registers are names: vector registers, and mask registers as
`maskReg`. `late` are the B sources an MMA reads at its rendezvous (R43). -/
structure LaneInfo where
  instr   : Instr
  h       : Hdr
  reads   : List Nat
  writes  : List Nat
  late    : List Nat
  long    : Bool
  counter : Option Nat
  deriving DecidableEq, Repr

/-- The physical number of a register as R46 compares it. -/
def Crew.phys (c : Crew) (r : Nat) : Nat := if r < 1024 then c.physical r else r

/-- The count of a path's words on an in-flight counter (R235). A scratchpad word returns with its bank access, before a VLDS has written
its destination. -/
def Crew.inflight (c : Crew) (path k : Nat) : Nat :=
  ((c.words.filter fun w => w.path == path && w.counter == some k).dropWhile fun w => k == 1 && w.done).length

/-- The execution mask a lane word selects (R38). -/
def selMask (c : Crew) (p : Path) (h : Hdr) : Mask := if h.mask = 0 then p.m0 else p.m0 &&& c.mget p h.mask

/-- The word is void: its ISSUE says so (R91), or its selected mask is empty (R49). -/
def isVoid (p : Path) (sel : Mask) : Bool := (match p.iss with | some i => i.void | none => false) || sel == 0

/-- The path waits for the results of R45: it parks on the marker wait, which is a trap point (R376). -/
def State.parkMarker (s : State) : State :=
  s.modCur fun c => (c.modPath s.curPath fun p => { p with st := .marker, wait := some stMarker }).trapPoint s.curPath

/-- Deliver the pending MATRIX_STATE of a joint at a word that performs the wait of R45 (R292): over its lanes that are
in the path's m0, with the cause of the lowest one. -/
def deliverLate (s : State) (c : Crew) (p : Path) (lane : Bool) : Option State :=
  let f := maskOf ((p.late.filter fun e => p.mask.getLsbD e.1).map (·.1))
  if f = 0 then none
  else
    let detail := match maskLowest f with | some l => SMap.get 0 p.late l | none => 0
    let s1 := s.modCur fun c => { (c.modPath s.curPath fun q => { q with late := [] }) with
      mxcause := p.late.foldl (fun m e => SMap.set 0 m e.1 (BitVec.ofNat 4 e.2)) c.mxcause }
    some (s1.defer c p lane fcMatrix detail f)

/-- Register the path's segment after a word: the registers a long-latency word writes, the B sources of an MMA (R46). -/
def Path.intoSegment (p : Path) (c : Crew) (w : LaneInfo) : Path :=
  if w.long then { p with segW := p.segW ++ w.writes.map c.phys, segB := p.segB ++ w.late.map c.phys } else p

/-- What a lane word does: the encoding checks that depend on the launch, the wait of its switch marker, the start of a
segment, voidness, REGISTER_RANGE, SEGMENT_HAZARD, the dependence slot and the in-flight counter (R45 to R49, R52, R235);
then its own effect over the selected mask. An MMA judges its B block itself, after its lanes outside the gang (R300).
Log 17 (DEDUCED). -/
def laneWord (s : State) (w : LaneInfo) (enc : Crew → Bool) (body : Crew → Path → Mask → State → Out) : Out :=
  withCur s fun c p =>
    let sel := selMask c p w.h
    let size := w.instr.size
    if enc c then laneFault s c p size fcIllegal 0 (encodingLanes p sel)
    else if w.h.sw && c.outstanding s.curPath then .next s.parkMarker
    else match (if w.h.sw then deliverLate s c p true else none) with
    | some s' => .next s'
    | none =>
      let p1 := if w.h.sw || p.newSeg then { p with segW := [], segB := [], newSeg := false } else p
      let s1 := s.modCurPath fun q => { q with segW := p1.segW, segB := p1.segB, newSeg := false }
      if isVoid p sel then .next (s1.advanceLane size)
      else
        let vecs := (w.reads ++ w.writes ++ w.late).filter (· < 1024)
        let regs := (w.reads ++ w.late ++ [maskReg 0, maskReg w.h.mask.toNat]).map c.phys
        let outs := w.writes.map c.phys
        if vecs.any (fun v => !c.present (c.physical v)) then
          (if w.late.isEmpty then laneFault s1 c p1 size fcRange 0 sel else body c p1 sel s1)
        else match (regs ++ outs).find? p1.segW.contains, outs.find? p1.segB.contains with
        | some r, _ => .next (s1.fatal c p1 true fcHazard (if r < 1024 then r else r - 1024) 0)
        | none, some r => .next (s1.fatal c p1 true fcHazard r 0)
        | none, none =>
          if w.long && 32 ≤ (c.words.filter (·.slot)).length then waitFor s stSlots
          else if (match w.counter with | some k => decide (255 ≤ c.inflight s.curPath k) | none => false) then
            waitFor s stInterlock
          else body c p1 sel s1

/-! ### Engines (R89, R407) -/

/-- The engine a word targets: 0 integer, 1 float, 2 memory, 3 matrix, 4 yarder queue, 5 landing. -/
def Instr.engine : Instr → Nat
  | .fadd _ | .fsub _ | .fmul _ | .ffma _ | .fmin _ | .fmax _ | .fcmp _ | .fclass _ | .frcp _ | .frsq _ | .fsqrt _ | .fdiv _
  | .fexp2 _ | .flog2 _ | .fcvt _ | .frnd _ | .randn .. => 1
  | .vscan w | .vred w => if w.ty.isFloat then 1 else 0
  | .sld .. | .sst .. | .sldk .. | .handoverIn .. | .handoverOut .. | .cwait .. | .vld _ | .vst _ | .vstSlc _ | .vpfx _
  | .vat _ | .vatr _ | .vlds _ | .vsts _ | .fpush .. | .fpop .. | .obld _ => 2
  | .mma .. | .accrd .. | .accxRd .. | .accxWr .. | .accxAdd .. | .accxFlg .. | .accxOrf .. => 3
  | .yjob .. | .ystat .. | .deckFence | .deckQuery .. | .qpush .. | .qpop .. => 4
  | .estrd .. | .estrdCpl .. | .estwait .. | .eststat .. | .eststatReset .. | .estadd .. => 5
  | _ => 0

/-! ### Writing results -/

/-- The units a pass reserves before it writes (R118). -/
def Crew.passNeed (c : Crew) (q : PassOut) : Nat := q.outs.foldl (fun n o => n + c.reserve q.act o.1 q.g) 0

/-- Make the passes in order, each once its reservation is among the units still free (R118): the crew after those made, and
those that must wait for units. `free` and `held` are the free units and the crew's own before the first pass. -/
def Crew.writePasses (free held : Nat) : Crew → List PassOut → Crew × List PassOut
  | c, [] => (c, [])
  | c, q :: qs =>
    if free + held < c.passNeed q + c.held then (c, q :: qs)
    else Crew.writePasses free held (q.outs.foldl (fun c o => c.writePass (c.propWord q.g) q.act o.1 q.g o.2) c) qs

/-- Write fixed-latency results and advance, or wait for units: the passes before the first that must wait are made, in lane slots of
this clock (R84, R118; stall reason 6, register store). Log 50 (DEDUCED). -/
def writeFixed (s : State) (c : Crew) (i : Instr) (qs : List PassOut) : Out :=
  match c.writePasses (s.crewFree c) c.held qs with
  | (c', []) => .next ((s.modCrew c.id fun d => { d with v := c'.v, prop := c'.prop }).advanceLane i.size)
  | (c', q :: rest) =>
    if rest.length + 1 = qs.length then waitWant s stRegs (.units (c.passNeed q))
    else waitWant ((s.modCrew c.id fun d => { d with v := c'.v, prop := c'.prop }).noteSlots ((s.coreOf c.team).getD 0) c.id s.curPath true
      (Instr.engine i) (qs.length - (rest.length + 1))) stRegs (.passes i.size (Instr.engine i) (q :: rest))

/-- Two destination shapes of a 64-bit result, or one of a narrower one, from 32 lane patterns. A pass that does not
write all 32 lanes leaves a general register (R112). -/
def shapesOf (act : W32) (wide : Bool) (tag : Nat) (xs : List Nat) : List GReg :=
  let t := if act = BitVec.allOnes 32 then tag else 3
  if wide then [GReg.mk t (xs.map fun x => w32 x), GReg.mk t (xs.map fun x => w32 (x / 2 ^ 32))]
  else [GReg.mk t (xs.map fun x => w32 x)]

/-- The destinations of a pass paired with their shapes. -/
def passOut (c : Crew) (g : Nat) (act : W32) (dests : List Nat) (shapes : List GReg) : PassOut :=
  ⟨g, act, (dests.map c.physical).zip shapes⟩

/-- The lane patterns of a pass: f of every active lane j, zero for the others. -/
def lanePats (act : W32) (f : Nat → Nat) : List Nat := (List.range 32).map fun j => if act.getLsbD j then f j else 0

/-- A word in flight without operands or results yet. -/
def newWord (s : State) (p : Path) (c : Crew) (w : LaneInfo) (sel : Mask) : Word where
  wid := s.nextId
  path := s.curPath
  instr := w.instr
  spc := p.spc
  lpc := p.lpc
  iss := p.iss
  depth := p.link.length
  lcnt := p.lcnt
  lanes := sel
  slot := w.long
  counter := w.counter
  dests := (w.writes.filter (· < 1024)).map c.physical
  shadow := match c.prop with | some b => b.lanes | none => 0
  prop := c.propNo
  bcast := []
  resv := []
  vals := []
  ops := []
  owed := 0
  open_ := []
  srcs := w.late.map c.physical
  undo := []
  done := false

/-- The reservations of a long-latency word: 8 − cost for each destination of each pass (R118). -/
def reservations (c : Crew) (sel : Mask) (dests : List Nat) : List (Nat × Nat) :=
  (c.passes sel).map fun g => (g, dests.foldl (fun n d => n + c.reserve (c.groupWord sel g) d g) 0)

/-- The reservations that fit into some free units, one pass after another, and those that must wait (R118). -/
def reserveSome : Nat → List (Nat × Nat) → List (Nat × Nat) × List (Nat × Nat)
  | _, [] => ([], [])
  | free, r :: rs =>
    if free < r.2 then ([], r :: rs)
    else
      let q := reserveSome (free - r.2) rs
      (r :: q.1, q.2)

/-- The reservations of a word's passes once every pass has made its own, or those that its first passes have made and keep while
the path waits for units (R118). -/
def State.reserveAll (s : State) (c : Crew) (rs : List (Nat × Nat)) : Except (List (Nat × Nat)) (List (Nat × Nat)) :=
  let have_ := (c.path s.curPath).keptUnits
  let q := reserveSome (s.crewFree c) (rs.filter fun r => !have_.any fun e => e.1 == r.1)
  if q.2.isEmpty then .ok (have_ ++ q.1) else .error (have_ ++ q.1)

/-- Put a long-latency word in flight with its reservation, its registers in its segment, or wait for units (R46, R47,
R118). -/
def launchWord (s : State) (c : Crew) (size : Nat) (info : LaneInfo) (w : Word) : Out :=
  match s.reserveAll c (reservations c w.lanes w.dests) with
  | .error kept => waitWant s stRegs (.kept kept)
  | .ok rs => .next (({ s with nextId := s.nextId + 1 }.modCrew c.id fun d =>
    { d with words := d.words ++ [{ w with resv := rs }] }).modCurPath fun p => (p.intoSegment c info).pastLane size)

/-! ### Layout A words -/

/-- The wrapper's view of a layout A word. -/
def infoA (i : Instr) (o : OpA) (w : LaneA) (long : Bool) : LaneInfo where
  instr := i
  h := w.h
  reads := OpA.reads o w
  writes := OpA.writes o w
  late := []
  long := long
  counter := none

/-- The sources a, b and c of a layout A word in a pass, those it does not use uniform zero; with the tags of those it
uses, both halves of a pair counted. -/
def sourcesA (c : Crew) (p : Path) (o : OpA) (w : LaneA) (act : W32) (g : Nat) : List GSrc × List Nat :=
  let wide := w.ty.is64
  let aw := OpA.srcWide o w
  let z := GSrc.ofW32 0
  let a := if o.aUse = .vec then c.srcReg aw act w.a.toNat g else z
  let b := if o.bUse = .src ∨ o.bUse = .uni then srcBG c p w wide act g else z
  let d := if o.cUse = .vec then srcCG c w wide act g else z
  let tag := fun (x : GSrc) (wd : Bool) => if wd then max x.lo.tag x.hi.tag else x.lo.tag
  ([a, b, d], (if o.aUse = .vec then [tag a aw] else []) ++ (if o.bUse = .src ∨ o.bUse = .uni then [tag b wide] else [])
    ++ (if o.cUse = .vec then [tag d wide] else []))

/-- The passes of a word that computes lane by lane: `val` of the patterns of a, b and c (R84, R111). -/
def elemPasses (c : Crew) (p : Path) (o : OpA) (w : LaneA) (cls : TagClass) (wide : Bool) (sel : Mask)
    (val : Nat → Nat → Nat → Nat) : List PassOut :=
  (c.passes sel).map fun g =>
    let act := c.groupWord sel g
    let q := sourcesA c p o w act g
    let z := GSrc.ofW32 0
    let a := q.1.getD 0 z
    let b := q.1.getD 1 z
    let d := q.1.getD 2 z
    let xs := lanePats act fun j => val (a.val j) (b.val j) (d.val j)
    passOut c g act (OpA.writes o w) (shapesOf act wide ((cls.inForce w).tag q.2) xs)

/-- A layout A word whose result, one register or pair, is computed lane by lane, of fixed latency, or long-latency
where `long` (R43). -/
def laneElem (s : State) (i : Instr) (o : OpA) (w : LaneA) (cls : TagClass) (long : Bool) (val : Nat → Nat → Nat → Nat) : Out :=
  laneWord s (infoA i o w long) (fun _ => false) fun c p sel s1 =>
    let wide := decide ((OpA.writes o w).length = 2)
    let qs := elemPasses c p o w cls wide sel val
    if long then
      launchWord s1 c i.size (infoA i o w long) { newWord s1 p c (infoA i o w long) sel with
        vals := qs.foldl (fun m q => (List.range 32).foldl (fun m j =>
          if q.act.getLsbD j then
            SMap.set 0 m (32 * (c.first + q.g) + j)
              ((q.outs.zipIdx).foldl (fun x o => x + (o.1.2.val j).toNat * 2 ^ (32 * o.2)) 0)
          else m) m) []
        bcast := (qs.filter fun q => q.act == BitVec.allOnes 32 && q.outs.all (fun o => o.2.tag == 1)).map (·.g)
        done := true }
    else writeFixed s1 c i qs

/-- Lane bits written to a mask register by a lane word (R162): only the bits of its active lanes change; m0 stays
within the path mask (R83). -/
def State.setMaskBits (s : State) (r : BitVec 4) (sel vals : Mask) : State :=
  if r = 0 then s.setMask 0 (match s.cur with
    | some u => (match s.crewOf u.crew with
      | some c => ((c.path u.path).m0 &&& ~~~sel) ||| (vals &&& sel)
      | none => 0)
    | none => 0)
  else s.modCur fun c => { c with m := SMap.set 0 c.m r.toNat ((SMap.get 0 c.m r.toNat &&& ~~~sel) ||| (vals &&& sel)) }

/-- The lanes of a selected mask where a test of the sources a and b holds. -/
def testLanes (c : Crew) (p : Path) (o : OpA) (w : LaneA) (sel : Mask) (holds : Nat → Nat → Bool) : Mask :=
  maskOf ((c.passes sel).flatMap fun g =>
    let act := c.groupWord sel g
    let q := sourcesA c p o w act g
    let z := GSrc.ofW32 0
    ((List.range 32).filter fun j => act.getLsbD j && holds ((q.1.getD 0 z).val j) ((q.1.getD 1 z).val j)).map
      fun j => 32 * (c.first + g) + j)

/-- A layout A word that writes a mask register lane by lane (R162, R172, R175, R182). -/
def laneTest (s : State) (i : Instr) (o : OpA) (w : LaneA) (long : Bool) (holds : Nat → Nat → Bool) : Out :=
  laneWord s (infoA i o w long) (fun _ => false) fun c p sel s1 =>
    let r := testLanes c p o w sel holds
    if long then
      launchWord s1 c i.size (infoA i o w long) { newWord s1 p c (infoA i o w long) sel with
        vals := (maskLanes 1024 r).map fun l => (l, 1)
        done := true }
    else .next ((s1.setMaskBits (w.d.extractLsb' 0 4) sel r).advanceLane i.size)

end Sys2Proof.Machine
end

