-- ==== Sys2Proof/Machine/Records.lean ====
section
/-! DEFINITION. Physical memory as bytes, the numbering of dies, stands, cores and partitions (R15, R16, R19), rings, and
the records of the debug agent, the barrier checker and the profiler (R384, R396, R397, R404, R407, R408). -/

namespace Sys2Proof.Machine

/-! ### Numbering (R15, R16, R19, R411) -/

/-- The die of a core. -/
def dieOfCore (core : Nat) : Nat := core / 36
/-- The stand of a core (R16). -/
def standOfCore (core : Nat) : Nat := core / 4
/-- The core pair of a core: two to a stand (R16). -/
def pairOfCore (core : Nat) : Nat := core / 2
/-- The thermal allowance that the cores of pair k read: until the first sample a calibration value (R365, R372; log 7, DEDUCED). -/
def Pair.allow (p : Pair) (k : Nat) : W32 := p.tar.getD (Config.tarReset k)
/-- The two home vaults of a core (R19). -/
def homeVaults (core : Nat) : List Nat := [2 * core, 2 * core + 1]
/-- The partition of a die under a split; the west half is dies 0 and 2 (R15). -/
def partOfDie (split d : Nat) : Nat := match split with | 0 => 0 | 1 => d % 2 | _ => d
/-- The partition exists under the split (R411). -/
def partExists (split p : Nat) : Bool := match split with | 0 => p == 0 | 1 => decide (p < 2) | _ => decide (p < 4)
/-- The dies of a partition, ascending. -/
def partDies (split p : Nat) : List Nat := (List.range 4).filter fun d => partOfDie split d == p
/-- The cores of a partition, ascending. -/
def partCores (split p : Nat) : List Nat := (List.range 144).filter fun c => partOfDie split (dieOfCore c) == p
/-- The stands of a partition, ascending. -/
def partStands (split p : Nat) : List Nat := (List.range 36).filter fun k => partOfDie split (k / 9) == p

/-- A partition's state; the first partition's where there is none of that number. -/
def State.part? (s : State) (p : Nat) : Option Part := s.parts[p]?
/-- The partition works: it is neither halted nor being reset, and no fault has raised its halt line (R383, R415). -/
def State.live (s : State) (part : Nat) : Bool :=
  match s.part? part with | some q => !q.halted && !q.resetting && (SMap.get [] s.raised part).isEmpty | none => false
/-- A fault has raised the halt line of a partition: nothing more of it takes effect (R383). -/
def State.stopping (s : State) (part : Nat) : Bool := !(SMap.get [] s.raised part).isEmpty
/-- The launches whose teams have left a core since the last sample, with one more; each counts once (R370). -/
def Part.departs (q : Part) (lid : Nat) : List Nat := if q.departed.contains lid then q.departed else q.departed ++ [lid]
/-- Change a partition's state. -/
def State.modPart (s : State) (p : Nat) (f : Part → Part) : State := { s with parts := modAt s.parts p f }

/-! ### Physical memory (R1, R186) -/

/-- A byte of memory. Log 3 (DEDUCED). -/
def State.rdByte (s : State) (pa : Nat) : Byte := SMap.get 0 s.mem pa
/-- n bytes of memory as a number, the lowest address least significant. -/
def State.rdPA (s : State) (pa n : Nat) : Nat := natOfBytes ((List.range n).map fun i => s.rdByte (pa + i))
/-- The home key of a physical address as a partition reaches it: the homes of host-aperture bytes are the partition's own (R15, R242),
so that its number stands above the address; device memory has one home. -/
def homeKey (part pa : Nat) : Nat := if pa.testBit 51 then part * 2 ^ 52 + pa % 2 ^ 52 else pa

/-- A host-aperture byte as its partition sees it: its own copy, or host memory without the writes it has not been shown (R259). -/
def State.hostByte (s : State) (key : Nat) : Byte :=
  match SMap.get none s.host key with
  | some h => h.val
  | none => (SMap.get none s.unseen key).getD (s.rdByte (key % 2 ^ 52))

/-- A byte at its home. -/
def State.homeByte (s : State) (key : Nat) : Byte := if key.testBit 51 then s.hostByte key else s.rdByte key
/-- n bytes at their homes as a number. -/
def State.homePA (s : State) (key n : Nat) : Nat := natOfBytes ((List.range n).map fun k => s.homeByte (key + k))

/-- The writes kept once n bytes at an address are replaced: none is kept while no launch is at work (R203). -/
def State.pastWith (s : State) (pa n : Nat) : List (Nat × List Byte) :=
  if s.launches.all (·.retired) then s.past else (pa, (List.range n).map fun k => s.homeByte (pa + k)) :: s.past
/-- Write bytes to memory. -/
def State.wrBytes (s : State) (pa : Nat) (bs : List Byte) : State :=
  { s with
    past := s.pastWith pa bs.length
    mem := (bs.zipIdx).foldl (fun m b => SMap.set 0 m (pa + b.2) b.1) s.mem }
/-- Write the n low bytes of a number. -/
def State.wrPA (s : State) (pa n x : Nat) : State := s.wrBytes pa (bytesOfNat n x)
/-- A held byte after a path of a launch has written it; thread 0 stands for the device itself (R259). -/
def HByte.wrote (old : Option HByte) (val : Byte) (thr lid part : Nat) : HByte :=
  let ws := match old with | some h => h.writers | none => []
  ⟨val, if ws.contains (thr, lid) then ws else ws ++ [(thr, lid)], part⟩

/-- Write the n low bytes of a number at their homes: host-aperture bytes are held there, with their writer (R259). -/
def State.wrHome (s : State) (writer : Option Nat) (part lid key n x : Nat) : State :=
  if key.testBit 51 then
    { s with
      past := s.pastWith key n
      host := (bytesOfNat n x).zipIdx.foldl (fun m b => SMap.set none m (key + b.2)
        (some (HByte.wrote (SMap.get none m (key + b.2)) b.1 (writer.getD 0) lid part))) s.host }
  else s.wrPA key n x

/-- The host writes bytes of its memory: a partition that has no copy of one sees it once it is shown (R239, R259). -/
def State.hostWrite (s : State) (pa : Nat) (bs : List Byte) : State :=
  let one := fun (s : State) (p : Byte × Nat) =>
    let at_ := pa + p.2
    { s with
      mem := SMap.set 0 s.mem at_ p.1
      unseen := (List.range s.parts.length).foldl (fun m k => match SMap.get none m (homeKey k at_) with
        | some _ => m
        | none => SMap.set none m (homeKey k at_) (some (s.rdByte at_))) s.unseen }
  if pa.testBit 51 then bs.zipIdx.foldl one s else s

/-! ### Contents from before a write (R27, R203; log 8, DEDUCED) -/

/-- Bytes at an address as they were before a write, if it replaced any of them. -/
def undoWrite (pa : Nat) (bs : List Byte) (e : Nat × List Byte) : Option (List Byte) :=
  if e.1 < pa + bs.length ∧ pa < e.1 + e.2.length then
    some (bs.zipIdx.map fun b => if e.1 ≤ pa + b.2 ∧ pa + b.2 < e.1 + e.2.length then e.2.getD (pa + b.2 - e.1) 0 else b.1)
  else none

/-- The contents of bytes now, and before each of these writes, newest first. -/
def viewsBefore (pa : Nat) (bs : List Byte) : List (Nat × List Byte) → List (List Byte)
  | [] => [bs]
  | e :: es => match undoWrite pa bs e with
    | some old => bs :: viewsBefore pa old es
    | none => viewsBefore pa bs es

/-- The contents that n bytes at an address have had since a launch's first team was placed. -/
def State.views (s : State) (l : Option Launch) (pa n : Nat) : List (List Byte) :=
  let now := (List.range n).map fun k => s.homeByte (pa + k)
  match l with
  | some l => viewsBefore pa now (s.past.take (s.past.length - l.mark))
  | none => [now]

/-- One of some contents: the choice matters only where there are several. -/
def pickView (pick : Nat) : List (List Byte) → List Byte
  | [v] => v
  | vs => vs.getD (pick % vs.length) []

/-- Once no launch is at work nothing is kept (R203). -/
def State.dropPast (s : State) : State := if s.launches.all (·.retired) then { s with past := [] } else s

/-! ### Frames (R184, R212, R213) -/

/-- The state word of a device frame (R212). -/
def State.frame (s : State) (f : Nat) : Frame := SMap.get ⟨0, 0, 0⟩ s.frames f
/-- Change a frame's state word. -/
def State.setFrame (s : State) (f : Nat) (w : Frame) : State := { s with frames := SMap.set ⟨0, 0, 0⟩ s.frames f w }

/-- A freed frame is pending, and a scrub job is queued. A frame that is pending already keeps its one scrub job (R213). -/
def State.pendFrame (s : State) (part f : Nat) : State :=
  let w := s.frame f
  let s1 := s.setFrame f { w with state := 3, gen := w.gen + 1 }
  if w.state = 3 then s1
  else { s1 with
    nextId := s1.nextId + 1
    jobs := s1.jobs ++ [{ id := s1.nextId, part := part, lid := 0, team := 0, crew := 0, path := 0, wid := 0, token := 0
                          kind := .scrub f, addr := 0, die := f / 3145728, at_ := none
                          level := 7, age := 0, edges := [], prog := 0, popped := 0, pushed := 0, input := []
                          fault := none, page := 0, began := 0, yarder := 0, clk := [] }] }

/-- The highest clean frames of a die, as many as are asked for. -/
def State.cleanFrames (s : State) (die n : Nat) : List Nat :=
  (((List.range (n + s.frames.length)).map fun k => 3145728 * (die + 1) - 1 - k).filter fun f => (s.frame f).state == 0).take n

/-- Frames that back a team's private windows: they are in the private state, owned by its partition (R184, R212). Log 11 (DESIGN
CHOICE). -/
def State.takePrivate (s : State) (part : Nat) (fs : List Nat) : State :=
  fs.foldl (fun s f => s.setFrame f { s.frame f with state := 2, owner := part }) s

/-! ### Rings (R408) -/

/-- The base of a ring. -/
def Ring.base (r : Ring) : Nat := r.reg.toNat % 2 ^ 52 / 4096 * 4096
/-- The size of a ring in 64-byte units. -/
def Ring.size (r : Ring) : Nat := r.reg.toNat % 4096 * 64
/-- Where a record of u units goes, and the tail after it; none where the ring is full for it (R408). -/
def Ring.slot (r : Ring) (u : Nat) : Option (Nat × Nat) :=
  let n := r.size
  let t := r.tail.toNat
  let h := r.head.toNat
  if n = 0 then none
  else
    let used := (t + n - h % n) % n
    let skip := if t + u > n then n - t else 0
    if used + skip + u + 1 > n then none
    else
      let at_ := if skip = 0 then t else 0
      some (at_, (at_ + u) % n)

/-- Pad with zero bytes to a multiple of 64 (R384). -/
def pad64 (bs : List Byte) : List Byte := bs ++ List.replicate ((64 - bs.length % 64) % 64) 0

/-- A record: the 16-byte header of R384 and the body, padded. -/
def record (ty die seq : Nat) (time : W64) (body : List Byte) : List Byte :=
  let b := pad64 (List.replicate 16 0 ++ body)
  bytesOfNat 1 ty ++ bytesOfNat 1 die ++ bytesOfNat 2 (b.length / 64) ++ bytesOfNat 4 seq ++ bytesOfNat 8 time.toNat
    ++ b.drop 16

/-- A counter of 32 bits that saturates. -/
def satAdd32 (w : W32) (n : Nat) : W32 := w32 (min (w.toNat + n) (2 ^ 32 - 1))

/-- Put a record into the event ring of its partition, or count it as dropped (R397, R407, R408); vector 4p + 3 (R411). -/
def State.putEvent (s : State) (x : Rec) : State :=
  let p := x.part
  match s.part? p with
  | none => s
  | some q =>
    let r := record x.ty x.die q.seqE.toNat x.time x.body
    match q.ering.slot (r.length / 64) with
    | none => s.modPart p fun q => { q with dropE := satAdd32 q.dropE 1 }
    | some (at_, t) =>
      let s := s.wrBytes (q.ering.base + 64 * at_) r
      { s.modPart p fun q => { q with ering := { q.ering with tail := w32 t }, seqE := q.seqE + 1 } with
        msix := s.msix ++ [4 * p + 3] }

/-- Put a team record into the team ring (R404). -/
def State.putTeam (s : State) (x : Rec) : State :=
  let p := x.part
  match s.part? p with
  | none => s
  | some q =>
    let r := record 21 x.die q.seqT.toNat x.time x.body
    match q.tring.slot (r.length / 64) with
    | none => s.modPart p fun q => { q with dropT := satAdd32 q.dropT 1 }
    | some (at_, t) =>
      let s := s.wrBytes (q.tring.base + 64 * at_) r
      { s.modPart p fun q => { q with tring := { q.tring with tail := w32 t }, seqT := q.seqT + 1 } with
        msix := s.msix ++ [4 * p + 3] }

/-- Write a record to its ring. -/
def State.putRec (s : State) (x : Rec) : State := if x.ty = 21 then s.putTeam x else s.putEvent x

/-- Where a record arises: its place among the records of a clock (R397). -/
def recKey (core slot path : Nat) : Nat := core * 128 + slot % 16 * 8 + path % 8

/-- A record has arisen in this clock (R397). -/
def State.emit (s : State) (key p ty die : Nat) (body : List Byte) : State :=
  { s with recs := s.recs ++ [⟨key, p, ty, die, s.time, body⟩] }

/-- At the end of a core's clock the records of the clock that arose on it, or on a core before it, are written, in ascending core,
crew slot and path (R397). -/
def State.flushRecs (s : State) (core : Nat) : State :=
  (sortBy (·.key) (s.recs.filter fun x => decide (x.key / 128 ≤ core))).foldl State.putRec
    { s with recs := s.recs.filter fun x => decide (core < x.key / 128) }

/-- A service event raises vector 16 (R411): a start or a microcode update that has ended, the end of a recalibration or of a
swap, a position fenced for want of a spare, and an attestation that is done. Which events these are is not stated (log 36, DESIGN CHOICE). -/
def State.serviceEvent (s : State) : State := { s with msix := s.msix ++ [16] }

/-! ### Path names (R396) -/

/-- The code of a path state (R86). -/
def PState.code : PState → Nat
  | .free => 0 | .ready => 1 | .marker => 2 | .join => 3 | .barrier => 4 | .rolesig => 5 | .fault => 6 | .held => 7

/-- The summary of m0 (R83). -/
def Path.summary (p : Path) : Nat :=
  (List.range 32).foldl (fun n g => n + bitAt (p.m0.extractLsb' (32 * g) 32 != 0) g) 0

/-- The lowest team group that holds a lane of the path mask (R396). -/
def Path.group (p : Path) : Nat := match maskLowest p.mask with | some l => l / 32 | none => 0

/-- The 32-byte path name of an entry (R396). -/
def State.pathName (s : State) (c : Crew) (i : Nat) : List Byte :=
  let p := c.path i
  let t := s.teamOf c.team
  bytesOfNat 4 (match t with | some t => t.launch | none => 0)
  ++ bytesOfNat 4 (match t with | some t => t.index | none => 0)
  ++ bytesOfNat 2 ((s.coreOf c.team).getD 0)
  ++ bytesOfNat 1 (c.slot % 16 * 16 + bitAt p.held 3 + i % 8)
  ++ bytesOfNat 1 (p.st.code * 32 + p.group)
  ++ bytesOfNat 4 p.summary ++ bytesOfNat 8 p.spc.toNat ++ bytesOfNat 8 p.lpc.toNat

/-- The die a crew stands on. -/
def State.dieOf (s : State) (c : Crew) : Nat := dieOfCore ((s.coreOf c.team).getD 0)

/-- A launch passes the filter of DBG_CTL (R408). -/
def Part.passesFilter (q : Part) (lid : Nat) : Bool := q.dbgCtl.toNat / 2 ^ 32 == 0 || q.dbgCtl.toNat / 2 ^ 32 == lid
/-- The mode of the debug agent; 3 acts as 0 (R408). Log 43 (DEDUCED). -/
def Part.mode (q : Part) : Nat := if q.dbgCtl.toNat % 4 = 3 then 0 else q.dbgCtl.toNat % 4

/-- The launch identifier of a crew. -/
def State.lidOf (s : State) (c : Crew) : Nat := match s.teamOf c.team with | some t => t.launch | none => 0

/-- The launch of a crew. -/
def State.launchFor (s : State) (c : Crew) : Option Launch := match s.teamOf c.team with | some t => s.launchOf t.part t.launch | none => none
/-- The clock count of a crew's core. -/
def State.cycOf (s : State) (c : Crew) : W64 := match s.cores[(s.coreOf c.team).getD 0]? with | some k => k.cyc | none => 0

/-- The place among a clock's records of what an entry of a crew does (R397). -/
def State.recKey (s : State) (c : Crew) (i : Nat) : Nat := Machine.recKey ((s.coreOf c.team).getD 0) c.slot i

/-- Write a trace record of the event `code` of entry i, with the other entry and the scalar target (R407). Log 28 (DEDUCED). -/
def State.trace (s : State) (cid i code other : Nat) (target : W64) : State :=
  match s.crewOf cid with
  | none => s
  | some c =>
    let p := s.partOf c
    match s.part? p with
    | none => s
    | some q =>
      if q.dbgCtl.getLsbD 2 && q.passesFilter (s.lidOf c) then
        s.emit (s.recKey c i) p 17 (s.dieOf c) (s.pathName c i ++ bytesOfNat 1 code ++ bytesOfNat 7 other ++ bytesOfNat 8 target.toNat)
      else s

/-- A barrier-checker report (R104, R407). -/
def State.report (s : State) (c : Crew) (i code b : Nat) (phase : W32) (site : W64) (lanes : Mask) : State :=
  s.emit (s.recKey c i) (s.partOf c) 19 (s.dieOf c)
    (s.pathName c i ++ bytesOfNat 1 code ++ bytesOfNat 3 b ++ bytesOfNat 4 phase.toNat ++ bytesOfNat 8 site.toNat
      ++ bytesOfNat 128 lanes.toNat)

/-- A breakpoint record (R399): source and index. -/
def State.breakRecord (s : State) (cid i source index : Nat) : State :=
  match s.crewOf cid with
  | none => s
  | some c => s.emit (s.recKey c i) (s.partOf c) 18 (s.dieOf c) (s.pathName c i ++ bytesOfNat 1 source ++ bytesOfNat 1 index)

/-- A command ends with a result (R401). -/
def State.cmdDone (s : State) (part res : Nat) : State := s.modPart part fun q => { q with dbgBusy := none, dbgRes := res }

/-- A path leaves its entry: a step of it is complete with the word that it has issued (R405). -/
def State.stepEnds (s : State) (cid i : Nat) : State :=
  match s.crewOf cid with
  | some c => if (c.path i).stepping.isSome then (s.breakRecord cid i 2 0).cmdDone (s.partOf c) 0 else s
  | none => s

/-- The team record of a retiring team (R404). -/
def State.teamRecord (s : State) (t : Team) (core : Nat) (aborted : Bool) : State :=
  let banks := (List.range 4).flatMap fun k =>
    match (s.crewsOf t.id).find? (fun c => c.num == k) with
    | some c => (List.range 16).flatMap fun r => bytesOfNat 4 (SMap.get 0 c.stalls r).toNat
    | none => List.replicate 64 0
  s.emit (Machine.recKey core 15 7) t.part 21 (dieOfCore core)
    (bytesOfNat 4 t.launch ++ bytesOfNat 4 t.index ++ bytesOfNat 4 t.rank ++ bytesOfNat 2 core
      ++ bytesOfNat 2 (b2n aborted + bitAt (decide (0 < t.saves)) 1 + t.ncrew * 4)
      ++ bytesOfNat 8 t.first.toNat ++ bytesOfNat 8 s.time.toNat ++ bytesOfNat 8 t.kerf.toNat
      ++ bytesOfNat 8 t.energy.toNat ++ bytesOfNat 4 t.saves ++ List.replicate 12 0 ++ banks ++ List.replicate 48 0)

end Sys2Proof.Machine
end

