-- ==== Sys2Proof/Machine/Order.lean ====
section
/-! DEFINITION. The order of accesses: happens-before (R248), scopes (R247), conflicting pairs (R249, R250), what a path
may do next (R243, R244), and what is taken back of a word that has no effect (R250). -/

namespace Sys2Proof.Machine

/-! ### Clocks (R248) -/

/-- Two clocks joined: what happens before either. -/
def Clock.join (a b : Clock) : Clock := b.foldl (fun m e => SMap.set 0 m e.1 (max (SMap.get 0 m e.1) e.2)) a

/-- What happens before place n of a path: its earlier places, and what they have acquired. -/
def Path.before (p : Path) (n : Nat) : Clock :=
  SMap.set 0 ((p.hist.filter fun h => h.1 < n).foldl (fun k h => Clock.join k h.2) p.base) p.thr (n - 1)

/-- What happens before the access at place n of a path, itself among them. -/
def Path.clockAt (p : Path) (n : Nat) : Clock := SMap.set 0 (p.before n) p.thr n

/-- The key of a single access in a clock: the lanes of one word are unordered, so each stands for itself (R245). -/
def selfKey (id : Nat) : Nat := 2 ^ 64 + id

/-- What happens before a later event of the path: all it has issued so far, below `next`. -/
def Path.clockNow (p : Path) (next : Nat) : Clock :=
  SMap.set 0 (p.hist.foldl (fun k h => Clock.join k h.2) p.base) p.thr (next - 1)

/-- What happens before an access of a path, itself among them (its frozen clock where it has left the path's entry). Log 9 (DEDUCED). -/
def Path.clockOf (p : Path) (x : Acc) : Clock :=
  match x.clk with
  | some k => k
  | none => SMap.set 0 (p.before x.wid) (selfKey x.id) 1

/-- The accesses of the path after place n happen after what this clock holds. -/
def Path.acquire (p : Path) (n : Nat) (k : Clock) : Path :=
  if p.queue.isEmpty && p.sbuf.isEmpty then { p with base := Clock.join p.base k, hist := p.hist }
  else { p with hist := p.hist ++ [(n, k)] }

/-- The path acquires a clock at the present point of its program. -/
def State.acquireNow (s : State) (cid i : Nat) (k : Clock) : State :=
  s.modPath cid i fun p => p.acquire (s.nextId - 1) k

/-- Freeze the accesses a path leaves behind: each takes its clock with it (R240). -/
def Path.freeze (p : Path) (x : Acc) : Acc := { x with clk := some (p.clockOf x) }

/-! ### Scopes (R247) -/

/-- Where a crew stands; a crew that has left the cores, where it stood last. -/
def State.locus (s : State) (c : Crew) : Locus :=
  let core := match s.teamOf c.team with | some t => t.core.getD t.lastCore | none => 0
  ⟨dieOfCore core, standOfCore core, c.team, c.id, false⟩

/-- The scope instance of one party includes another (R247). -/
def scopeIncludes (scope : Nat) (a b : Locus) : Bool :=
  match scope with
  | 1 => a.crew == b.crew && !a.job && !b.job
  | 2 => a.team == b.team && !a.job && !b.job
  | 3 => a.stand == b.stand && !a.job && !b.job
  | 4 => a.die == b.die
  | _ => true

/-- A release that an acquire of this scope forms an edge with (R248). -/
def RelSrc.reaches (r : RelSrc) (scope : Nat) (l : Locus) : Bool :=
  scopeIncludes r.scope r.loc l && scopeIncludes scope l r.loc

/-! ### The race detector (R249, R250) -/

/-- The record of a granule. -/
def State.detOf (s : State) (g : Gran) : Det := (s.det.find? (fun d => d.gran == g)).getD ⟨g, [], [], []⟩
/-- Replace the record of a granule. -/
def State.setDet (s : State) (d : Det) : State := { s with det := d :: s.det.filter (fun e => e.gran != d.gran) }

/-- Two accesses conflict, apart from happens-before: the first of the record, then the new one (R249). -/
def conflicts (p : DAcc) (pw : Bool) (c : DAcc) (cw : Bool) : Bool :=
  p.crew != c.crew && (pw || cw) &&
    (if p.sync && c.sync then
      match p.cop, c.cop with
      | some a, some b => a != b
      | some _, none => cw
      | none, some _ => pw
      | none, none => false
    else true)

/-- The first access of the record that conflicts with a new one and does not happen before it (R250). -/
def Det.race (d : Det) (x : DAcc) (write : Bool) (k : Clock) : Option DAcc :=
  let bad := fun (w : Bool) (p : DAcc) =>
    conflicts p w x write && decide (SMap.get 0 k p.thr < p.place) && SMap.get 0 k (selfKey p.id) == 0
  match d.writes.find? (bad true) with
  | some p => some p
  | none => d.reads.find? (bad false)

/-- Accesses of one thread and one kind, but of different words, race alike, so the latest stands for all. -/
def DAcc.sameClass (a b : DAcc) : Bool := a.thr == b.thr && a.sync == b.sync && a.cop == b.cop && a.place != b.place

/-- The record after an access. -/
def Det.note (d : Det) (x : DAcc) (write : Bool) : Det :=
  if write then { d with writes := d.writes.filter (fun y => !y.sameClass x) ++ [x] }
  else { d with reads := d.reads.filter (fun y => !y.sameClass x) ++ [x] }

/-- The bytes of a granule that an access touches, as a mask. -/
def granBytes (addr width : Nat) : Nat := (2 ^ width - 1) * 2 ^ (addr % 32)

/-- The record after a store of these bytes that is no commutative merge: it ends the releases its bytes carried, unless
it reads them first, and carries its own (R248). -/
def Det.stored (d : Det) (bytes : Nat) (rmw : Bool) (new_ : List RelSrc) : Det :=
  let old := if rmw then d.rels
    else (d.rels.map fun r => (r.1 &&& (2 ^ 32 - 1 - bytes % 2 ^ 32), r.2)).filter fun r => r.1 != 0
  { d with rels := old ++ (new_.map fun r => (bytes, r)) }

/-- The record after a commutative merge on these bytes: commutative releases stay, since the value has merged them; those of a store or
of a returning atomic end; and it carries its own (R248). -/
def Det.merged (d : Det) (bytes : Nat) (new_ : List RelSrc) : Det :=
  let old := (d.rels.map fun r => (if r.2.comm then r.1 else r.1 &&& (2 ^ 32 - 1 - bytes % 2 ^ 32), r.2)).filter fun r => r.1 != 0
  { d with rels := old ++ (new_.map fun r => (bytes, r)) }

/-- The releases that some of these bytes carry. -/
def Det.relsAt (d : Det) (bytes : Nat) : List RelSrc := (d.rels.filter fun r => r.1 &&& bytes != 0).map (·.2)

/-! ### Accesses -/

/-- The access writes. -/
def Acc.writes (x : Acc) : Bool :=
  match x.kind with | .store => true | .comm => true | .atomic => true | _ => false
/-- The access reads. -/
def Acc.reads (x : Acc) : Bool :=
  match x.kind with | .load => true | .atomic => true | .cwait => true | _ => false
/-- The access synchronises (R249): an atomic, an acquire load, a release store, one that follows a release fence, or a
CWAIT read. -/
def Acc.syncs (x : Acc) : Bool :=
  match x.kind with
  | .comm => true
  | .atomic => true
  | .cwait => true
  | .load => x.acq
  | .store => x.rel || !x.fences.isEmpty

/-- The granule of an access; the private window has none (R249). -/
def Acc.gran (x : Acc) (team : Nat) : Option Gran :=
  match x.space with
  | .mem => some (.mem (x.addr / 32))
  | .scr => some (.scr team (x.addr / 32))
  | .priv _ => none

/-- Two accesses touch the same granule, or the same aligned 32 bytes of one private slot. -/
def Acc.sameGran (x y : Acc) : Bool := x.space == y.space && x.addr / 32 == y.addr / 32

/-- What a stop record says of an access (R250, R384). -/
def State.accCause (s : State) (c : Crew) (x : Acc) : Cause where
  code := 32
  detail := x.acode
  addr := x.addr % 2 ^ 52 / 32 * 32
  kind := b2n (!x.scalar)
  launch := s.lidOf c
  team := match s.teamOf c.team with | some t => t.index | none => 0
  core := (s.coreOf c.team).getD 0
  slot := c.slot
  path := x.entry
  spc := x.spc
  lpc := x.lpc

/-- An access as the race detector keeps it. -/
def State.dacc (s : State) (c : Crew) (x : Acc) : DAcc where
  thr := x.thr
  id := x.id
  place := x.wid
  crew := c.id
  sync := x.syncs
  cop := if x.kind = .comm then some (x.op, x.ty) else none
  who := s.accCause c x

/-- The releases a writing access makes: under its own scope where it carries .rel or .ar, and under the scope of every
release fence before it (R248). -/
def State.releases (s : State) (c : Crew) (p : Path) (x : Acc) : List RelSrc :=
  ((if x.rel then [x.scope] else []) ++ x.fences).map fun sc => ⟨s.locus c, sc, p.clockOf x, x.kind == .comm⟩

/-- The access is one of a returning atomic, which hands on the releases of the value that it reads (R248). -/
def Crew.returning (c : Crew) (x : Acc) : Bool :=
  match c.word? x.wid with | some w => (match w.instr with | .vatr _ => true | _ => false) | none => false

/-- An access of entry i of crew c passes the race detector: none where it is the second of a conflicting pair and has
raised MEMORY_MODEL (R250); the state with the record and the acquired edges otherwise. A later FENCE acquires from loads (R248), and a CWAIT
read that fails its test forms no edge (R252). -/
def State.observe (s : State) (c : Crew) (i : Nat) (x : Acc) : Except State State :=
  match (if x.quiet then none else x.gran c.team) with
  | none => .ok s
  | some g =>
    let p := c.path i
    let d := s.detOf g
    let a := s.dacc c x
    let k := p.clockOf x
    match d.race a x.writes k with
    | some q => .error (s.raise (s.partOf c) a.who (some q.who))
    | none =>
      let bytes := granBytes x.addr x.width
      let rs := if x.reads then d.relsAt bytes else []
      let loc := s.locus c
      let gets := rs.filter fun r => x.acq && r.reaches x.scope loc
      let d1 := d.note a x.writes
      let d2 := match x.kind with
        | .store => d1.stored bytes false (s.releases c p x)
        | .atomic => d1.stored bytes (c.returning x) (s.releases c p x)
        | _ => d1
      let s1 := s.setDet d2
      .ok (if rs.isEmpty || (x.kind == .cwait && !x.acq) then s1
        else s1.modPath c.id i fun p =>
          let p1 := if gets.isEmpty then p else p.acquire x.wid (gets.foldl (fun k r => Clock.join k r.clk) [])
          { p1 with facq := p1.facq ++ (((if x.kind == .load then rs else []).map fun r => (r, loc)).filter fun e => !p1.facq.contains e) })

/-! ### Reading and writing an access's bytes -/

/-- n bytes of a space of a team, as a number. -/
def State.readSpace (s : State) (team : Nat) (sp : Space) (addr n : Nat) : Nat :=
  match sp with
  | .mem => s.homePA addr n
  | .scr => match s.teamOf team with
    | some t => natOfBytes ((List.range n).map fun k => SMap.get 0 t.scr (addr + k))
    | none => 0
  | .priv l => match s.teamOf team with
    | some t => natOfBytes ((List.range n).map fun k => SMap.get 0 t.priv (l * 2 ^ 18 + addr + k))
    | none => 0

/-- Write bytes of a space of a team. A store to the host aperture is held at its device home with its writer (R259). -/
def State.writeSpace (s : State) (team thr lid : Nat) (sp : Space) (addr n x : Nat) : State :=
  let bs := (bytesOfNat n x).zipIdx
  match sp with
  | .mem => s.wrHome (some thr) (match s.teamOf team with | some t => t.part | none => 0) lid addr n x
  | .scr => s.modTeam team fun t =>
    { t with scr := bs.foldl (fun m b => SMap.set 0 m (addr + b.2) b.1) t.scr
             pins := t.pins.map fun q => if q.page == addr / 4096 then { q with dirty := true } else q }
  | .priv l => s.modTeam team fun t =>
    { t with priv := bs.foldl (fun m b => SMap.set 0 m (l * 2 ^ 18 + addr + b.2) b.1) t.priv }

/-- Device copies of host-aperture bytes that a load brings in (R259). -/
def State.cacheHost (s : State) (sp : Space) (addr n : Nat) : State :=
  if sp = .mem ∧ addr.testBit 51 then
    { s with host := (List.range n).foldl (fun m k =>
      match SMap.get none m (addr + k) with
      | some _ => m
      | none => SMap.set none m (addr + k) (some ⟨s.hostByte (addr + k), [], (addr + k) / 2 ^ 52⟩)) s.host }
  else s

/-- The new value of an atomic at its home (R254). -/
def atomicNew (op : Nat) (ty : Ty) (w old c expect : Nat) : Nat :=
  let m := 2 ^ (8 * w)
  match op with
  | 0 => (old + c) % m
  | 1 => patNat (8 * w) (min (valNat ty.isSigned (8 * w) old) (valNat ty.isSigned (8 * w) c))
  | 2 => patNat (8 * w) (max (valNat ty.isSigned (8 * w) old) (valNat ty.isSigned (8 * w) c))
  | 3 => old &&& c
  | 4 => old ||| c
  | 5 => old ^^^ c
  | 6 => (old + c) % m
  | 7 => FFmt.f32.addNear old c
  | 8 => c % m
  | _ => if old = expect then c % m else old

/-! ### Taking back a word (R250) -/

/-- The stands whose buffers the partition of a stand holds. -/
def State.standsOf (s : State) (p : Nat) : List Nat := partStands s.svc.split p

/-- The entry of the path that a thread belongs to; 8 where it has left the table. -/
def Crew.entryOf (c : Crew) (thr : Nat) : Nat :=
  ((List.range 8).find? fun i => (c.path i).st != .free && ((c.path i).thr :: (c.path i).kin).contains thr).getD 8

/-- Take back the effects of a word that a context-fatal fault leaves without one (R250, R323). -/
def State.undoWord (s : State) (c : Crew) (wid : Nat) : State :=
  let late := s.undos.filter fun u => u.1 == wid
  let s1 := late.foldl (fun s u => s.writeSpace c.team 0 (s.lidOf c) .mem u.2.1 1 u.2.2.toNat) s
  match c.word? wid with
  | none => s1
  | some w => w.undo.reverse.foldl (fun s u => s.writeSpace c.team 0 (s.lidOf c) u.1 u.2.1 1 u.2.2.toNat) s1

/-- An access of this word has not taken effect: it is staged, or its contribution has not merged. -/
def State.pendingWord (s : State) (wid : Nat) : Bool :=
  s.teams.any (fun t => t.log.any fun e => e.1.wid == wid) || s.stands.any fun k => k.cbuf.any fun e => e.items.any fun it => it.1.wid == wid

/-- Keep the bytes that a staged access or a contribution is about to replace, while others of its word have no effect yet. -/
def State.keepLate (s : State) (x : Acc) : State :=
  { s with undos := (if s.pendingWord x.wid then (List.range x.width).map fun k => (x.wid, x.addr + k, s.homeByte (x.addr + k)) else [])
      ++ s.undos.filter fun u => s.pendingWord u.1 }

/-! ### What a path may do next (R243, R244) -/

/-- The accesses of a list before the one of this id, that share its program order. Entry 8 of a crew holds what freed
entries have left behind, where only accesses of one thread are ordered. -/
def earlierOf (i : Nat) (xs : List Acc) (x : Acc) : List Acc :=
  xs.filter fun y => y.id < x.id && (decide (i < 8) || y.thr == x.thr)

/-- The youngest of some earlier writes that writes a byte of a space. -/
def youngest (early : List Acc) (space : Space) (addr : Nat) : Option Acc :=
  early.reverse.find? fun (y : Acc) => y.space == space && decide (y.addr ≤ addr) && decide (addr < y.addr + y.width)

/-- The value of a load whose bytes are all written by earlier stores, each byte by the youngest of them (R243). -/
def forwardFrom (early : List Acc) (x : Acc) : Option Nat :=
  ((List.range x.width).mapM fun (k : Nat) => match youngest early x.space (x.addr + k) with
    | some (y : Acc) => if y.kind == AccKind.store then some (BitVec.ofNat 8 (y.data / 2 ^ (8 * (x.addr + k - y.addr)))) else none
    | none => none).map natOfBytes

/-- A commutative contribution of these threads has yet to merge. -/
def State.unmerged (s : State) (ts : List Nat) : Bool :=
  s.stands.any fun k => k.cbuf.any fun e => e.items.any fun it => ts.contains it.1.thr

/-- The threads whose contributions a release of the path waits for. -/
def Path.threads (p : Path) (i : Nat) (x : Acc) : List Nat := if i < 8 then p.thr :: p.kin else [x.thr]

/-- R244 lets the access take effect: no earlier access of the path acquires, and it does not release before them; the lanes of its own
word are unordered with it (R245). A FENCE and a CWAIT hold their path until what they order has taken effect, so they stand in no queue (R251, R252). -/
def Path.mayEffect (p : Path) (i : Nat) (x : Acc) : Bool :=
  (earlierOf i (p.queue ++ p.sbuf) x).all fun y => y.wid == x.wid || !y.acq && !x.rel

/-- Accesses of one path to one granule take effect in program order (R243), and those of one word's lanes, which are unordered, in
ascending lane order (R245). Log 55 (DESIGN CHOICE). -/
def Path.granReady (p : Path) (i : Nat) (x : Acc) : Bool :=
  (earlierOf i (p.queue ++ p.sbuf) x).all fun y => !y.sameGran x

/-- Every access of another path to the granule that happens before this one has taken effect (R248; log 12, DEDUCED). -/
def State.hbReady (s : State) (c : Crew) (i : Nat) (x : Acc) : Bool :=
  let k := (c.path i).clockOf x
  s.crews.all fun d => d.paths.all fun q => (q.queue ++ q.sbuf).all fun y =>
    y.thr == x.thr || !(match x.gran c.team, y.gran d.team with | some g, some h => g == h | _, _ => false)
      || decide (SMap.get 0 k y.thr < y.wid)

end Sys2Proof.Machine
end

