-- ==== Sys2Proof/Machine/Control.lean ====
section
/-! DEFINITION. Control flow and synchronisation: branches, calls, SPLIT and JOIN, EXIT and retirement, barriers,
role signals, BLAZE calls (R53, R82, R92 to R106). -/

namespace Sys2Proof.Machine

/-! ### Words in flight -/

/-- Words that have returned leave the list: at once when they count on no counter, else in issue order (R235). A word
whose result a scalar register still waits for (`pend`) has not returned. -/
def purgeGo (pend : List Nat) : List Word → List Word → List Word
  | _, [] => []
  | kept, w :: ws =>
    let back := w.done && !w.slot && !pend.contains w.wid &&
      (match w.counter with
      | some k => kept.all fun v => !(v.path == w.path && v.counter == some k)
      | none => true)
    if back then purgeGo pend kept ws else w :: purgeGo pend (kept ++ [w]) ws

/-- The crew without the words that have returned (R235). -/
def Crew.purge (c : Crew) : Crew := { c with words := purgeGo (c.sPend.map (·.2)) [] c.words }
/-- Change a word of a crew, and let it return. -/
def Crew.modWord (c : Crew) (wid : Nat) (f : Word → Word) : Crew :=
  ({ c with words := c.words.map fun (w : Word) => if w.wid == wid then f w else w }).purge

/-- A path becomes ready, or is held where its held bit is set: in the next clock (R88, R398). -/
def Path.wake (p : Path) : Path := { p with st := if p.held then .held else .ready, wait := some stNext }

/-- A path of the team is held (R400). -/
def State.teamHeld (s : State) (team : Nat) : Bool := (s.crewsOf team).any fun c => c.paths.any fun p => p.st != .free && p.held

/-- The word is forbidden in a handler (R380). -/
def noHandler (s : State) (c : Crew) (p : Path) (code : Nat) (k : Out) : Out :=
  if p.isHandler then .next (s.fatal c p false fcHandler code 0) else k

/-- The path's split records are dispatched before the word takes effect (R376). Log 18 (DEDUCED). -/
def trapGate (s : State) (c : Crew) (k : Out) : Out :=
  if c.undispatched s.curPath then .next ((s.modCur fun c => c.trapPoint s.curPath).stall stOther) else k

/-- The wait of R45, and the delivery of joint faults at its end (R292). -/
def markerGate (s : State) (c : Crew) (p : Path) (k : Out) : Out :=
  if c.outstanding s.curPath then .next s.parkMarker
  else match deliverLate s c p false with
    | some s' => .next s'
    | none => k

/-! ### Branches (R92 to R97) -/

/-- NOP (R93). -/
def execNop (s : State) : Out := withCur s fun _ _ => .next (s.advance 4)

/-- Load both targets (R33, R34, R94). -/
def State.branch (s : State) (so lo : W64) : State :=
  s.modCurPath fun p => { p with spc := p.spc + 4 * so, lpc := p.lpc + 12 * lo, wait := none }

/-- LPC (R92). -/
def execLpc (lo : BitVec 12) (s : State) : Out :=
  withCur s fun _ p => if p.iss.isSome then waitIssue s p
    else .next ((s.modCurPath fun p => { p with lpc := p.lpc + 12 * lo.signExtend 64 }).advance 4)

/-- A branch that is taken: it changes the lane PC, so it waits for the pending ISSUE (R91). -/
def takeBranch (s : State) (p : Path) (so lo : W64) : Out := if p.iss.isSome then waitIssue s p else .next (s.branch so lo)

/-- BR (R94). -/
def execBr (so : BitVec 13) (lo : BitVec 12) (s : State) : Out :=
  withCur s fun _ p => takeBranch s p (so.signExtend 64) (lo.signExtend 64)
/-- BR, literal form (R94). -/
def execBrLong (so lo : BitVec 16) (s : State) : Out :=
  withCur s fun _ p => takeBranch s p (so.signExtend 64) (lo.signExtend 64)

/-- A long-latency word of the path has yet to write this mask register (R94). -/
def Crew.maskPending (c : Crew) (i : Nat) (r : BitVec 4) : Bool :=
  c.words.any fun w => w.path == i && w.slot && match w.instr with
    | .fcmp a => a.d.extractLsb' 0 4 == r || a.d.extractLsb' 0 4 == 0
    | _ => false

/-- BRM (R94). -/
def execBrm (a : BitVec 4) (test : BitVec 2) (so lo : BitVec 16) (s : State) : Out :=
  withCur s fun c p =>
    if p.iss.isSome then waitIssue s p
    else if c.maskPending s.curPath a then waitFor s stMarker
    else if brmHolds test.toNat (c.mget p a) p.m0 then .next (s.branch (so.signExtend 64) (lo.signExtend 64))
    else .next (s.advance 8)

/-- BRC (R94). -/
def execBrc (k : BitVec 3) (so : BitVec 13) (lo : BitVec 12) (s : State) : Out :=
  withCur s fun c p =>
    if (c.cget k).getLsbD 0 then takeBranch s p (so.signExtend 64) (lo.signExtend 64) else .next (s.advance 4)

/-- Step the rotating base (R95, R122). -/
def Crew.rotate (c : Crew) : Crew := if c.rot = 0 then c else { c with rotb := (c.rotb + c.rot - 1) % c.rot }

/-- LOOP (R95). -/
def execLoop (so : BitVec 13) (lo : BitVec 12) (s : State) : Out :=
  withCur s fun c p => noHandler s c p 0 <|
    if p.iss.isSome then waitIssue s p
    else
      let s1 := s.modCur Crew.rotate
      if 1 < p.lcnt.toNat then
        .next ((s1.modCurPath fun p => { p with lcnt := p.lcnt - 1 }).branch (so.signExtend 64) (lo.signExtend 64))
      else .next ((s1.modCurPath fun p => { p with lcnt := 0 }).advance 4)

/-- Push a return entry and branch, or CALL_DEPTH (R53, R96, R97). -/
def callTo (s : State) (size : Nat) (blaze : Bool) (slot : BitVec 3) (so lo : W64) : Out :=
  withCur s fun c p =>
    if p.iss.isSome then waitIssue s p
    else if 16 ≤ p.link.length then scalarFault s c p fcCallDepth p.link.length
    else
      let s1 := (s.modCurPath fun p => { p with link := ⟨p.spc + w64 size, p.lpc, blaze, slot⟩ :: p.link }).branch so lo
      .next (s1.trace c.id s.curPath 6 0 (p.spc + 4 * so))

/-- CALL (R96). -/
def execCall (so : BitVec 13) (lo : BitVec 12) (s : State) : Out := callTo s 4 false 0 (so.signExtend 64) (lo.signExtend 64)
/-- CALL, long form (R96). -/
def execCallLong (so lo : BitVec 16) (s : State) : Out := callTo s 8 false 0 (so.signExtend 64) (lo.signExtend 64)
/-- BLAZE with a nonzero payload (R53). -/
def execBlaze (k : BitVec 3) (so : BitVec 13) (lo : BitVec 12) (s : State) : Out :=
  callTo s 4 true k (so.signExtend 64) (lo.signExtend 64)

/-- The program counter of a link entry as it is loaded: its bits 1 and 0, which hold the BLAZE flag and slot, are cleared
(R86). -/
def linkPc (pc : W64) : W64 := pc &&& 0xFFFFFFFFFFFFFFFC

/-- RET (R96, R97, R380). The bits 1 and 0 of the two addresses of a link entry are held apart (R86). -/
def execRet (s : State) : Out :=
  withCur s fun c p =>
    if p.iss.isSome then waitIssue s p
    else markerGate s c p <|
      match p.link with
      | [] => scalarFault s c p fcCallDepth 0
      | l :: rest =>
        if p.isHandler && (match p.trap with | some t => decide (p.link.length ≤ t.depth) | none => false) then
          .next (s.fatal c p false fcHandler 0 0)
        else
          let s1 := s.modCurPath fun p => { p with link := rest, spc := linkPc l.spc, lpc := linkPc l.lpc, newSeg := true, wait := none }
          .next (s1.trace c.id s.curPath 7 0 (linkPc l.spc))

/-! ### Merging and evaluation (R88, R99, R100) -/

/-- The entries parked at a join site, ascending. -/
def Crew.atSite (c : Crew) (site : W64) : List Nat :=
  (List.range 8).filter fun i => (c.path i).st == .join && (c.path i).spc == site
/-- The sites where entries are parked, by the lowest entry of each. -/
def Crew.sites (c : Crew) : List W64 :=
  ((List.range 8).filter fun i => (c.path i).st == .join).foldl
    (fun xs i => if xs.contains (c.path i).spc then xs else xs ++ [(c.path i).spc]) []

/-- A path takes the lanes of another, its queues, and what the race detector keeps of it (R99). -/
def Path.absorb (p q : Path) : Path := { p with
  mask := p.mask ||| q.mask
  m0 := p.m0 ||| q.m0
  held := p.held || q.held
  queue := p.queue ++ q.queue.map q.freeze
  sbuf := p.sbuf ++ q.sbuf.map q.freeze
  kin := p.kin ++ q.thr :: q.kin
  late := q.late.foldl (fun m e => SMap.set 0 m e.1 e.2) p.late
  relF := p.relF ++ q.relF
  facq := p.facq ++ q.facq }

/-- The entries of a site merge into the lowest one (R99). -/
def Crew.mergeAt (c : Crew) (site : W64) (next : Nat) : Crew :=
  match c.atSite site with
  | [] => c
  | k :: rest =>
    let qs := rest.map c.path
    let c1 := c.modPath k fun p => (qs.foldl Path.absorb { p with spc := p.spc + 4, newSeg := true }).wake
    let c2 := c1.modPath k fun p => p.acquire (next - 1) (qs.foldl (fun m (q : Path) => Clock.join m (q.clockNow next)) [])
    let c3 := rest.foldl (fun c i => c.modPath i fun _ => Path.empty) c2
    { c3 with words := c3.words.map fun w => if rest.contains w.path then { w with path := k } else w }

/-- A site is covered: the arrived lanes hold every live lane of m[a] (R99). -/
def Crew.covered (c : Crew) (site : W64) : Bool :=
  match c.atSite site with
  | [] => false
  | k :: rest =>
    let arrived := (k :: rest).foldl (fun m i => m ||| (c.path i).mask) 0
    let need := c.mget (c.path k) (c.path k).joinM &&& c.live
    need &&& ~~~arrived == 0

/-- Merge a site and write its trace record (R99, R407). -/
def State.mergeSite (s : State) (cid : Nat) (site : W64) : State :=
  match s.crewOf cid with
  | none => s
  | some c =>
    let ks := c.atSite site
    (((ks.drop 1).foldl (fun s i => s.stepEnds cid i) s).modCrew cid fun c => c.mergeAt site s.nextId).trace cid (ks.headD 0) 2 ((ks.drop 1).headD 0) 0

/-- Every path of the crew is parked at a JOIN (R100). -/
def Crew.allJoined (c : Crew) : Bool :=
  (c.paths.any fun p => p.st != .free) && c.paths.all fun p => p.st == .free || p.st == .join

/-- Evaluate these sites of a crew, or every site where all its paths are parked at one; then, with no site covered, the
release by force of the site that holds the lowest entry, unless a path of the team is held (R88, R99, R100, R400). With every
path parked, a site that only an earlier write to m[a] has covered merges, without a report. Log 52 (DESIGN CHOICE). -/
def State.evalJoins (s : State) (cid : Nat) (sites : List W64) : State :=
  match s.crewOf cid with
  | none => s
  | some c =>
    let due := (if c.allJoined then c.sites else sites).filter c.covered
    if due.isEmpty then
      if c.allJoined && !s.teamHeld c.team then
        match c.sites with
        | [] => s
        | site :: _ =>
          let ks := c.atSite site
          let lanes := ks.foldl (fun m i => m ||| (c.path i).mask) 0
          (s.report c (ks.headD 0) 6 0xFF 0 site lanes).mergeSite cid site
      else s
    else due.foldl (fun s site => s.mergeSite cid site) s

/-! ### Barriers (R102 to R105) -/

/-- A fresh barrier. -/
def Barrier.fresh : Barrier := ⟨0, 0, 0, false, 0, [], []⟩
/-- A barrier of a team. -/
def Team.bar (t : Team) (b : Nat) : Barrier := SMap.get Barrier.fresh t.bars b
/-- Change a barrier of a team. -/
def Team.modBar (t : Team) (b : Nat) (f : Barrier → Barrier) : Team :=
  { t with bars := SMap.set Barrier.fresh t.bars b (f (t.bar b)) }

/-- The phase of a token has completed: (P − t) mod 2^32 lies in 1 to 2^31 (R103). -/
def Barrier.passed (b : Barrier) (t : W32) : Bool := decide (1 ≤ (b.phase - t).toNat) && decide ((b.phase - t).toNat ≤ 2 ^ 31)

/-- Complete a phase whose member lanes that are live have all arrived (R102). -/
def Barrier.settle (b : Barrier) (live : Mask) : Barrier :=
  if b.opn && (b.memb &&& live &&& ~~~b.arr == 0) then
    { b with phase := b.phase + 1, arr := 0, opn := false, seen := 0, clk := []
             done := SMap.set [] b.done b.phase.toNat b.clk }
  else b

/-- The path passes a wait at barrier b for token t: it acquires every arrival of that phase (R248) and advances. -/
def Path.passBarrier (p : Path) (b : Barrier) (t : W32) (next : Nat) : Path :=
  ({ p with spc := p.spc + 4 }).wake.acquire (next - 1) (SMap.get [] b.done t.toNat)

/-- The waiting paths of a crew whose phase has completed pass. -/
def Crew.passBarriers (c : Crew) (t : Team) (next : Nat) : Crew :=
  { c with paths := c.paths.map fun p =>
      let b := t.bar p.barB.toNat
      if p.st == .barrier && b.passed p.token then p.passBarrier b p.token next else p }

/-- Evaluate the team's barriers and wake the paths whose phase has completed (R88, R102); suspended while a path of the
team is held (R400). -/
def State.evalBarriers (s : State) (team : Nat) : State :=
  if s.teamHeld team then s
  else
    let live := s.teamLive team
    let s1 := s.modTeam team fun t => { t with bars := (List.range 16).foldl (fun m b =>
      SMap.set Barrier.fresh m b ((SMap.get Barrier.fresh m b).settle live)) t.bars }
    match s1.teamOf team with
    | none => s1
    | some t => { s1 with crews := s1.crews.map fun c => if c.team == team then c.passBarriers t s.nextId else c }

/-- The group bits of lanes. -/
def groupBits (m : Mask) : Mask :=
  maskOf ((List.range 32).filter fun g => m.extractLsb' (32 * g) 32 != 0)
/-- The lanes of these groups. -/
def groupLanes (gs : Mask) : Mask := (List.range 32).foldl (fun m g => if gs.getLsbD g then m ||| maskRange (32 * g) 32 else m) 0

/-- The conditions an arrival meets, in the order of R102, with the lanes concerned (R104): its members for a mask that is not the phase's,
the arriving lanes of its repeated groups. Log 55 (DESIGN CHOICE). -/
def Barrier.checks (b : Barrier) (m m0 : Mask) : List (Nat × Mask) :=
  let memb := if b.opn then b.memb else m
  let lanes := m0 &&& memb
  let again := groupLanes (groupBits lanes &&& b.seen)
  (if b.opn && m != memb then [(1, m)] else [])
  ++ (if m0 &&& ~~~memb != 0 then [(2, m0 &&& ~~~memb)] else [])
  ++ (if lanes &&& b.arr != 0 then [(5, lanes &&& b.arr)] else [])
  ++ (if lanes &&& again != 0 then [(4, lanes &&& again)] else [])

/-- The barrier after an arrival (R102). -/
def Barrier.arrive (b : Barrier) (m m0 : Mask) (k : Clock) : Barrier :=
  let memb := if b.opn then b.memb else m
  let lanes := m0 &&& memb
  { b with memb := memb, opn := true, arr := b.arr ||| lanes, seen := b.seen ||| groupBits lanes
           clk := Clock.join b.clk k }

/-- The launch of a crew runs the barrier checker in strict mode. -/
def State.strict (s : State) (c : Crew) : Bool :=
  match s.launchOf (s.partOf c) (s.lidOf c) with | some l => l.blk.strict | none => false

/-- An arrival of the issuing path: its reports, then BARRIER_CHECK in strict mode where it meets a condition (R104), or
the state after it with the phase it arrived in. -/
def State.arrive (s : State) (c : Crew) (p : Path) (b mreg : BitVec 4) : State × Option W32 :=
  match s.teamOf c.team with
  | none => (s, some 0)
  | some t =>
    let bar := t.bar b.toNat
    let m := c.mget p mreg
    let found := bar.checks m p.m0
    let s1 := found.foldl (fun s f => s.report c s.curPath f.1 b.toNat bar.phase 0 f.2) s
    match found, s.strict c with
    | f :: _, true => (s1.fatal c p false fcBarrier f.1 0, none)
    | _, _ => (s1.modTeam c.team fun t => t.modBar b.toNat fun b => b.arrive m p.m0 (p.clockNow s.nextId), some bar.phase)

/-- Wait at a barrier for a token: pass at once when its phase has completed, else park (R103). -/
def State.awaitBar (s : State) (c : Crew) (b : BitVec 4) (t : W32) : State :=
  match s.teamOf c.team with
  | none => s
  | some tm =>
    if (tm.bar b.toNat).passed t then s.modCurPath fun p => p.passBarrier (tm.bar b.toNat) t s.nextId
    else s.modCur fun c => (c.modPath s.curPath fun p =>
      { p with st := .barrier, barB := b, token := t, wait := some stSync }).trapPoint s.curPath

/-- BAR (R103). -/
def execBar (b m : BitVec 4) (s : State) : Out :=
  withCur s fun c p => noHandler s c p 0 <|
    if p.iss.isSome then waitIssue s p
    else trapGate s c <|
      match s.arrive c p b m with
      | (s1, none) => .next s1
      | (s1, some t) => .next (s1.awaitBar c b t)

/-- ARRIVE (R103). -/
def execArrive (d : BitVec 6) (b m : BitVec 4) (s : State) : Out :=
  withCur s fun c p => noHandler s c p 0 <|
    if p.iss.isSome then waitIssue s p
    else if c.pending [d] then waitFor s stInterlock
    else trapGate s c <|
      match s.arrive c p b m with
      | (s1, none) => .next s1
      | (s1, some t) => .next ((s1.modCur fun c => c.sset d (t.setWidth 64)).advance 4)

/-- BWAIT (R103). -/
def execBwait (b : BitVec 4) (r : BitVec 6) (s : State) : Out :=
  withCur s fun c p => noHandler s c p 0 <|
    if c.pending [r] then waitFor s stInterlock
    else trapGate s c <| .next (s.awaitBar c b ((c.sget r).setWidth 32))

/-! ### Role signals (R106) -/

/-- Serve the parked takes of a crew in ascending path index, up to the first whose count is not there (R106). -/
def Crew.serveTakes (c : Crew) (next : Nat) : List Nat → Crew
  | [] => c
  | i :: is =>
    if (c.path i).st == .rolesig then
      if (c.path i).need.toNat ≤ c.sig.toNat then
        Crew.serveTakes (({ c with sig := c.sig - (c.path i).need }).modPath i fun p =>
          ({ p with spc := p.spc + 4 }).wake.acquire (next - 1) c.sigClk) next is
      else c
    else Crew.serveTakes c next is

/-- A post adds to a crew's count, saturating (R106, R248). -/
def Crew.post (c : Crew) (n : Nat) (k : Clock) : Crew :=
  { c with sig := w32 (min (c.sig.toNat + n) (2 ^ 32 - 1)), sigClk := Clock.join c.sigClk k }

/-- ROLESIG.post (R106). A crew number at or above the team's crew count is an encoding check (R52). -/
def execRolesigPost (crew : BitVec 2) (b : BitVec 6) (s : State) : Out :=
  withCur s fun c p =>
    if (s.crewsOf c.team).length ≤ crew.toNat then scalarFault s c p fcIllegal 0 else noHandler s c p 0 <|
    if p.iss.isSome then waitIssue s p
    else if c.pending [b] then waitFor s stInterlock
    else trapGate s c <|
      let n := (c.sget b).toNat % 2 ^ 32
      let k := p.clockNow s.nextId
      .next ({ s with crews := s.crews.map fun (d : Crew) =>
        if d.team == c.team && d.num == crew.toNat && !d.retired then d.post n k else d }.advance 4)

/-- ROLESIG.take (R106). -/
def execRolesigTake (b : BitVec 6) (s : State) : Out :=
  withCur s fun c p => noHandler s c p 0 <|
    if p.iss.isSome then waitIssue s p
    else if c.pending [b] then waitFor s stInterlock
    else trapGate s c <|
      let n := (c.sget b).setWidth 32
      if n = 0 then .next ((s.modCurPath fun p => p.acquire (s.nextId - 1) c.sigClk).advance 4)
      else .next (s.modCur fun c => (c.modPath s.curPath fun p =>
        { p with st := .rolesig, need := n, wait := some stSync }).trapPoint s.curPath)

/-! ### The end of a clock (R88) -/

/-- Serve the takes of every crew of a team. -/
def State.evalTakes (s : State) (team : Nat) : State :=
  { s with crews := s.crews.map fun (c : Crew) => if c.team == team && !c.retired then c.serveTakes s.nextId (List.range 8) else c }

/-- JOIN coverage, barrier completion and ROLESIG wake-up of a team, each evaluated once (R88). The accesses made before
happen before what a wake-up orders after them, so that the count moves on. -/
def State.endClock (s : State) (team : Nat) : State :=
  let s1 := { s with nextId := s.nextId + 1 }
  let s2 := (s1.crewsOf team).foldl (fun s c => (s.evalJoins c.id c.due).modCrew c.id fun c => { c with due := [] }) s1
  (s2.evalBarriers team).evalTakes team

/-! ### SPLIT and JOIN (R98, R99) -/

/-- SPLIT (R98), once the registers of its offsets are there. -/
def splitAt (s : State) (a : BitVec 4) (regs : List (BitVec 6)) (size : Nat) (so lo : W64) : Out :=
  withCur s fun c p => noHandler s c p 0 <|
    if p.iss.isSome then waitIssue s p
    else markerGate s c p <| if c.pending regs then waitFor s stInterlock else trapGate s c <|
      let m := c.mget p a
      let stay := p.m0 &&& m
      let leave := p.m0 &&& ~~~m
      let s1 := s.modCurPath fun p => { p with newSeg := true }
      if leave = 0 then .next (s1.advance size)
      else if stay = 0 then .next (s1.branch so lo)
      else match c.freeEntry with
      | none => scalarFault s c p fcPathFull 0
      | some e =>
        let q : Path := { Path.empty with
          st := .ready, spc := p.spc + 4 * so, lpc := p.lpc + 12 * lo, mask := leave, m0 := leave, link := p.link
          lcnt := p.lcnt, thr := s.nextId, base := p.clockNow s.nextId, relF := p.relF }
        let s2 := { s1.modCrew c.id fun c => c.modPath e fun _ => q with nextId := s.nextId + 1 }
        let s3 := (s2.modCurPath fun p => { p with mask := p.mask &&& ~~~leave, m0 := stay }).advance size
        .next (s3.trace c.id s.curPath 1 e (p.spc + 4 * so))

/-- SPLIT with its offsets in the literal (R98). -/
def execSplit (a : BitVec 4) (so lo : BitVec 16) (s : State) : Out :=
  splitAt s a [] 8 (so.signExtend 64) (lo.signExtend 64)
/-- SPLIT with its offsets in a scalar register (R98). -/
def execSplitReg (a : BitVec 4) (b : BitVec 6) (s : State) : Out :=
  withCur s fun c _ => splitAt s a [b] 4 (((c.sget b).extractLsb' 16 16).signExtend 64) (((c.sget b).extractLsb' 0 16).signExtend 64)

/-- JOIN (R99): a participant parks at its site, which is evaluated at the end of the clock (R88). -/
def execJoin (a : BitVec 4) (s : State) : Out :=
  withCur s fun c p => noHandler s c p 0 <|
    if p.iss.isSome then waitIssue s p
    else markerGate s c p <| trapGate s c <|
      let s1 := s.modCurPath fun p => { p with newSeg := true }
      if p.mask &&& c.mget p a = 0 then .next (s1.advance 4)
      else
        .next (s1.modCur fun c => { (c.modPath s.curPath fun p =>
          { p with st := .join, joinM := a, wait := some stSync }).trapPoint s.curPath with due := c.due ++ [p.spc] })

/-! ### Retirement (R82) -/

/-- Release what a retiring crew holds: its slot, registers, reservations (R82, R289). -/
def Crew.released (c : Crew) : Crew := { c with retired := true, v := [], nRegs := 0, prop := none, resv := [] }

/-- Every crew of a team has retired. -/
def State.teamDone (s : State) (team : Nat) : Bool :=
  let cs := s.crewsOf team
  !cs.isEmpty && cs.all (·.retired)

/-- A team retires (R82): its record is written, its resources are released, its private frames wait for their scrub (R213), its kerf and energy go to the launch and its
stage to the landing commit queue (R324, R361, R370, R404). -/
def State.retireTeam (s : State) (team : Nat) : State :=
  match s.teamOf team with
  | none => s
  | some t =>
    if t.retired then s
    else
      let s1 := s.teamRecord t (t.core.getD 0) false
      let s2 := s1.modTeam team fun t => { t with
        retired := true, core := none, bars := [], pins := [], fifos := [], tiles := [], latches := [], joints := []
        scr := [], priv := [], backing := [], saved := false, image := [] }
      ((t.backing.foldl (fun s f => s.pendFrame t.part f) s2).modPart t.part fun q => { q with departed := q.departs t.launch }).modLaunch t.part t.launch fun l => { l with
        nRetired := l.nRetired + 1
        kerf := w64 (min (l.kerf.toNat + t.kerf.toNat) (2 ^ 64 - 1))
        energy := w64 (min (l.energy.toNat + t.energy.toNat) (2 ^ 64 - 1))
        all := Clock.join l.all t.clk
        commits := l.commits ++ [⟨t.rank, t.stage, t.clk⟩] }

/-- The crew can retire: no path, no result to come, its buffers empty (R82). -/
def Crew.mayRetire (c : Crew) : Bool :=
  !c.retired && c.paths.all (fun p => p.st == .free && p.queue.isEmpty && p.sbuf.isEmpty) && !c.words.any (·.slot)

/-- A multiplication that has formed is still to be made from a reservation of the crew (R302). -/
def State.supplies (s : State) (c : Crew) : Bool :=
  match s.teamOf c.team with
  | some t => t.joints.any fun j => match j.arrs with | a :: _ => a.crew == c.id | [] => false
  | none => false

/-- Retire the crew, and its team with its last crew, once it can (R82): a multiplication that reads its operand buffer ends
first. -/
def State.settleCrew (s : State) (cid : Nat) : State :=
  match s.crewOf cid with
  | none => s
  | some c =>
    if c.mayRetire && !s.supplies c then
      let s1 := s.modCrew cid Crew.released
      if s1.teamDone c.team then s1.retireTeam c.team else s1
    else s

/-! ### EXIT (R101) -/

/-- The path owes those of these lanes that it holds a late MATRIX_STATE; a lane keeps the first cause (R292). -/
def Path.owe (p : Path) (lanes : Mask) (cause : Nat) : Path := { p with
  late := (maskLanes 1024 (lanes &&& p.mask)).foldl (fun m l => if SMap.get 0 m l = 0 then SMap.set 0 m l cause else m) p.late }

/-- The arrivals of a latch are cancelled: their words lose them, and their active lanes are owed MATRIX_STATE with this cause
at the next marker wait of the path that holds each by then (R292, R303). -/
def State.cancelArrivals (s : State) (xs : List Arrival) (cause : Nat) : State :=
  xs.foldl (fun s a => s.modCrew a.crew fun c =>
    let c1 := c.modWord a.wid fun w =>
      let owed := w.owed &&& ~~~maskRange (32 * a.group) 32
      let open_ := w.open_.filter (· != a.group)
      { w with owed := owed, open_ := open_, slot := w.slot && owed != 0, srcs := if owed = 0 then [] else w.srcs
               done := open_.isEmpty && owed == 0, held := w.held.filter (· != a.group) }
    { c1 with paths := c1.paths.map fun p => p.owe a.lanes cause }) s

/-- An arrival has room: its latch is among the first four, and it is among the first four of its member (R300). -/
def Team.roomFor (t : Team) (a : Arrival) : Bool :=
  (t.latches.take 4).any fun l => ((l.arrs.filter fun b => b.pos == a.pos).take 4).contains a

/-- Latches of the team whose member group has lost its last live lane, and that hold arrivals of other members, are
cancelled; arrivals that still wait for room are in no latch (R300, R303). -/
def State.cancelLatches (s : State) (team : Nat) (before : Mask) : State :=
  match s.teamOf team with
  | none => s
  | some t =>
    let live := s.teamLive team
    let dead := fun g => decide (g < 32) && (before.extractLsb' (32 * g) 32 != 0) && (live.extractLsb' (32 * g) 32 == 0)
    let members := fun (v : BitVec 48) => (List.range (field v.toNat 34 32)).map fun p => field v.toNat (5 * p + 4) (5 * p)
    let held := fun (l : Latch) => l.arrs.filter t.roomFor
    let bad := t.latches.filter fun l => (members l.gang).any fun g => dead g && (held l).any fun a => a.group != g
    let rest := (bad.map fun l => { l with arrs := l.arrs.filter fun a => !t.roomFor a }).filter fun l => !l.arrs.isEmpty
    if bad.isEmpty then s
    else (s.modTeam team fun t => { t with latches := (t.latches.filter fun l => !bad.contains l) ++ rest }).cancelArrivals
      (bad.flatMap held) 4

/-- The EXIT_WHILE_WAITING reports of lanes that exit: each barrier of which they hold a member lane while other lanes
have arrived and wait (R104). `waits` are the lanes that wait at each barrier for its open phase. -/
def Team.exitChecks (t : Team) (lanes : Mask) (waits : Nat → Mask) : List (Nat × W32 × Mask) :=
  ((List.range 16).filter fun b =>
    (t.bar b).opn && (lanes &&& (t.bar b).memb != 0) && ((t.bar b).arr &&& waits b &&& ~~~lanes != 0)).map fun b => (b, (t.bar b).phase, lanes &&& (t.bar b).memb)

/-- The lanes of a team's paths that are parked at barrier b for its open phase (R103, R104). -/
def State.barWaits (s : State) (t : Team) (b : Nat) : Mask :=
  (s.crewsOf t.id).foldl (fun m c => c.paths.foldl (fun m p =>
    if p.st == .barrier && p.barB.toNat == b && p.token == (t.bar b).phase then m ||| p.mask else m) m) 0

/-- The path without the lanes that exit; where none is left and it holds no record the entry is freed, and what it
leaves in its queues goes to entry 8 of the crew. -/
def Crew.dropLanes (c : Crew) (i : Nat) (lanes : Mask) : Crew :=
  let p := c.path i
  let mask := p.mask &&& ~~~lanes
  if mask = 0 then
    let c1 := c.modPath 8 fun r => { r with
      queue := r.queue ++ p.queue.map p.freeze, sbuf := r.sbuf ++ p.sbuf.map p.freeze }
    let c2 := c1.modPath i fun _ => Path.empty
    { c2 with words := (c2.words.map fun w => if w.path == i then { w with path := 8 } else w)
              handler := if c.handler = some i then none else c.handler }
  else c.modPath i fun p => { p with mask := mask, m0 := p.m0 &&& ~~~lanes }

/-- An in-place handler path whose trap lanes have exited goes on with the others, past the recorded word, with m0 empty
(R379). -/
def Crew.resumeOthers (c : Crew) (i : Nat) : Crew :=
  match (c.path i).trap with
  | some t => { c with
      handler := none
      paths := modAt c.paths i fun p => { p with
        spc := t.spc, lpc := t.lpc, iss := t.iss, lcnt := t.lcnt, link := p.link.drop (p.link.length - t.depth)
        m0 := 0, trap := none, skip := some t.lane, newSeg := true, wait := none } }
  | none => c

/-- EXIT of lanes of the issuing path (R101, R104, R138, R379). -/
def State.exitLanes (s : State) (c : Crew) (p : Path) (lanes : Mask) : State :=
  match s.teamOf c.team with
  | none => s
  | some t =>
    let found := t.exitChecks lanes (s.barWaits t)
    let s1 := found.foldl (fun s f => s.report c s.curPath 3 f.1 f.2.1 0 f.2.2) s
    if !found.isEmpty && s.strict c then s1.fatal c p false fcBarrier 3 0
    else
      let i := s.curPath
      let before := s.teamLive c.team
      let k := p.clockNow s.nextId
      let s2 := (if p.mask &&& ~~~lanes = 0 then s1.stepEnds c.id i else s1).modCrew c.id fun c => (c.close lanes none).dropLanes i lanes
      let s3 := s2.modCrew c.id fun c => if p.isHandler && (c.path i).st != .free then c.resumeOthers i else c
      let s4 := (s3.modTeam c.team fun t => { t with clk := Clock.join t.clk k }).cancelLatches c.team before
      ((s4.trace c.id i 3 0 0).modCrew c.id fun c => { c with due := c.sites }).settleCrew c.id

/-- EXIT (R101); in a handler path the trap lanes alone exit (R379). -/
def execExit (s : State) : Out :=
  withCur s fun c p =>
    if p.iss.isSome then waitIssue s p
    else markerGate s c p <| trapGate s c <|
      .next (s.exitLanes c p (match p.trap with
        | some t => if t.running then t.lanes &&& p.mask else p.mask
        | none => p.mask))

end Sys2Proof.Machine
end

