-- ==== Sys2Proof/Machine/Trap.lean ====
section
/-! DEFINITION. TRAP and the BLAZE trap, the dispatch of a deferred record, and TRET (R376 to R382); holds and HALTD
(R393, R398, R399); the end of a switch-marker wait and the results of long-latency words (R43, R45). -/

namespace Sys2Proof.Machine

/-! ### Raising a trap (R53, R381) -/

/-- TRAP (R381): its recorded point is the word after it. -/
def execTrap (code : BitVec 13) (s : State) : Out :=
  withCur s fun c p => noHandler s c p fcTrap <|
    if p.iss.isSome then waitIssue s p
    else trapGate s c <| scalarFault s c { p with spc := p.spc + 4 } fcTrap code.toNat

/-- BLAZE with an all-zero payload (R53). It waits for the path's pending ISSUE before it traps, as TRAP does, though R91 does not name
it among the words that wait. Log 52 (DESIGN CHOICE). -/
def execBlazeTrap (k : BitVec 3) (s : State) : Out :=
  withCur s fun c p =>
    if p.iss.isSome then waitIssue s p
    else scalarFault s c { p with spc := p.spc + 4 } fcBlaze k.toNat

/-! ### Taking a trap: the shared entry (R376 to R378) -/

/-- A word that the path of a record issued before the deferral still has a result to write or a source to read. -/
def Crew.trapWaits (c : Crew) (t : TrapRec) : Bool := c.words.any fun w => w.path == t.from_ && w.marks && decide (w.wid < t.bound)

/-- The record of entry i waits for its dispatch at its trap point. -/
def Crew.dueRec (c : Crew) (i : Nat) : Option TrapRec :=
  match (c.path i).trap with
  | some t => if t.due && !t.running && (c.path i).st != .free then some t else none
  | none => none

/-- The entry whose record is dispatched next: the oldest deferral, by the clock in which it was made, then the lowest index (R376). -/
def Crew.nextTrap (c : Crew) : Option Nat :=
  (List.range 8).foldl (fun best i =>
    match c.dueRec i with
    | none => best
    | some t => match best with
      | some b => (match c.dueRec b with | some u => if t.seq < u.seq then some i else best | none => some i)
      | none => some i) none

/-- The kernel descriptor of a crew's launch. -/
def State.kdOf (s : State) (c : Crew) : Option KDesc :=
  match s.launchOf (s.partOf c) (s.lidOf c) with | some l => some l.kd | none => none

/-- Take the trap of entry i: it becomes the handler path (R377), or the crew takes UNHANDLED_TRAP (R378). The trap
record keeps the saved point; pc, mask, link depth and loop count become the handler's. -/
def State.enterTrap (s : State) (c : Crew) (i : Nat) (t : TrapRec) : State :=
  let p := c.path i
  if c.ltvec = 0 then
    s.raise (s.partOf c) { s.causeHere c p t.lane fcUnhandled t.code 0 with path := i }
  else
    let code := s.kdOf c
    let base := fun (f : KDesc → W64) => match code with | some k => f k | none => 0
    let s1 := s.modCrew c.id fun c => { (c.modPath i fun p => ({ p with
      spc := base (·.scode) + 4 * (c.ltvec.extractLsb' 0 32).setWidth 64
      lpc := base (·.lcode) + 12 * (c.ltvec.extractLsb' 32 32).setWidth 64
      m0 := t.lanes &&& p.mask
      link := p.link.drop (p.link.length - t.depth)
      lcnt := t.lcnt, iss := none, newSeg := true, want := none, skip := none, bpSkip := false
      trap := some { t with running := true } }).wake) with handler := some i }
    s1.trace c.id i 4 0 (match s1.crewOf c.id with | some d => (d.path i).spc | none => 0)

/-- The path of a core, crew slot and entry (R396). -/
def State.at? (s : State) (r : PathRef) : Option (Crew × Path) :=
  match (s.coreCrews r.core).find? (fun (c : Crew) => c.slot == r.slot) with
  | some c => some (c, c.path r.path)
  | none => none

/-- The path that a step names; none in a partition that has stopped (R383). -/
def State.named (s : State) (r : PathRef) : Option (Crew × Path) :=
  match s.at? r with
  | some (c, p) => if s.live (s.partOf c) then some (c, p) else none
  | none => none

/-- TRAP_DISPATCH (R376): the crew runs no handler, the record is the next, and the results it waits for are there. -/
def execTrapDispatch (r : PathRef) (s : State) : Out :=
  match s.named r with
  | some (c, _) => match c.dueRec r.path with
    | some t =>
      if c.handler.isNone && c.nextTrap == some r.path && !c.trapWaits t then .next (s.enterTrap c r.path t) else .next s
    | none => .next s
  | none => .next s

/-- DEFERRAL_HOLD_EXPIRY (R376): a split record has been held for 4,096 core clocks. -/
def execDeferralHoldExpiry (r : PathRef) (s : State) : Out :=
  match s.named r with
  | some (c, p) => match p.trap with
    | some t =>
      if !t.due && decide (4096 ≤ t.age) then
        .next (s.modPath c.id r.path fun p => { p with trap := some { t with due := true } })
      else .next s
    | none => .next s
  | none => .next s

/-! ### TRET (R382) -/

/-- The path back at the recorded point with the lanes l: in place m0 alone, by split the path mask as well. -/
def Path.resume (p : Path) (t : TrapRec) (l : Mask) (skip : Bool) : Path := { p with
  m0 := l, mask := if t.inPlace then p.mask else l
  spc := t.spc, lpc := t.lpc, iss := t.iss, lcnt := t.lcnt, link := p.link.drop (p.link.length - t.depth)
  trap := none, skip := if skip then some t.lane else none, newSeg := true, wait := none, want := none }

/-- Return from a trap, the shared exit: the lanes leave D, the record ends, the handler is free (R382). -/
def State.leaveTrap (s : State) (c : Crew) (t : TrapRec) (skip : Bool) : State :=
  let i := s.curPath
  let l := t.lanes &&& (c.path i).mask
  let s1 := s.modCrew c.id fun c => { (c.modPath i fun p => p.resume t l skip) with
    handler := none, prop := c.prop.map fun w => { w with defer := w.defer &&& ~~~l } }
  s1.trace c.id i 5 0 t.spc

/-- The meaning of both forms of TRET. -/
def tretWord (s : State) (skip : Bool) : Out :=
  withCur s fun c p =>
    if p.iss.isSome then waitIssue s p
    else markerGate s c p <|
      match p.trap with
      | some t => if t.running then .next (s.leaveTrap c t skip) else scalarFault s c p fcIllegal 0
      | none => scalarFault s c p fcIllegal 0

/-- TRET (R382). -/
def execTret (s : State) : Out := tretWord s false
/-- TRET.skip (R382). -/
def execTretSkip (s : State) : Out := tretWord s true

/-! ### Holds (R398, R399) -/

/-- A ready path is in the middle of its word: some of its passes or lanes are done, or it waits for an effect that it has begun (R118,
R206, R214, R221, R278, R329). -/
def Path.begun (p : Path) : Bool :=
  p.st == .ready && (p.park.isSome || match p.want with
    | some (.passes ..) | some (.kept ..) | some (.card ..) | some (.banks ..) | some .handover | some .sent => true
    | _ => false)

/-- What a held path keeps of the word it waits at: the sources it has read. What it waits to be granted it asks for again. -/
def Path.keptWant (p : Path) : Option Want :=
  match p.want with
  | some (.held a b) => some (.held a b)
  | some (.cwait pa a b g) => some (.cwait pa a b g)
  | _ => none

/-- Hold a path: a ready one enters state 7 at its word boundary, which one in the middle of its word has yet to reach; a parked one
keeps its state (R398). -/
def Path.hold (p : Path) : Path :=
  if p.st = .free then p
  else if p.st = .ready ∧ p.begun = false then { p with held := true, st := .held, want := p.keptWant }
  else { p with held := true }
/-- A ready path whose held bit is set has reached its next word boundary (R398). -/
def Path.atHold (p : Path) : Bool := p.st == .ready && p.held && p.stepping.isNone && !p.begun
/-- Release a path: one in state 7 becomes ready in the next clock (R398). -/
def Path.release (p : Path) : Path :=
  if p.st = .held then { p with held := false, st := .ready, wait := some stNext } else { p with held := false }

/-- Change every path of every resident team of a launch, and of every team that has been saved where `saved` says so. -/
def State.modLaunchPaths (s : State) (part lid : Nat) (saved : Bool) (f : Path → Path) : State :=
  { s with crews := s.crews.map fun (c : Crew) =>
      if !c.retired && s.partOf c == part && s.lidOf c == lid && (saved || (s.coreOf c.team).isSome) then { c with paths := c.paths.map f }
      else c }

/-- A hit holds the path, or in all-stop mode every path of its launch (R398, R399). -/
def State.holdHit (s : State) (c : Crew) (i : Nat) : State :=
  match s.part? (s.partOf c) with
  | some q => if q.mode = 2 then (s.modPath c.id i Path.hold).modLaunchPaths (s.partOf c) (s.lidOf c) false Path.hold
    else s.modPath c.id i Path.hold
  | none => s

/-- HALTD (R393): with the debug agent enabled, a hold after the word and a breakpoint record. -/
def execHaltd (tag : BitVec 6) (s : State) : Out :=
  withCur s fun c _ =>
    let s1 := s.advance 4
    match s.part? (s.partOf c) with
    | some q => if q.mode = 0 then .next s1
      else .next ((s1.holdHit c s.curPath).breakRecord c.id s.curPath 1 tag.toNat)
    | none => .next s1

/-! ### Results of long-latency words (R43, R45) -/

/-- SWITCH_MARKER_WAIT_END (R45): the path's results are written and its late sources read. -/
def execSwitchMarkerWaitEnd (r : PathRef) (s : State) : Out :=
  match s.named r with
  | some (c, p) =>
    if p.st == .marker && !c.outstanding r.path then .next (s.modPath c.id r.path Path.wake) else .next s
  | none => .next s

/-- The value of a word in lane j of crew group g: its part h of 32 bits. -/
def Word.valIn (w : Word) (c : Crew) (g h j : Nat) : W32 := w32 (SMap.get 0 w.vals (32 * (c.first + g) + j) / 2 ^ (32 * h))

/-- The lanes of a word that hold a result: those it still covers, an unlisted value being zero. -/
def Word.writeLanes (w : Word) (c : Crew) (g : Nat) : W32 := c.groupWord (w.lanes &&& ~~~w.owed) g

/-- Write the vector results of a word to the banks chosen at its issue: a full pass of the broadcast class is uniform, any other general
(R111, R112, R133, R200). -/
def Crew.writeBack (c : Crew) (w : Word) : Crew :=
  (List.range c.groups).foldl (fun c g =>
    let act := w.writeLanes c g
    if act = 0 then c
    else
      let sh := if c.propNo = w.prop then c.groupWord w.shadow g else 0
      (w.dests.zipIdx).foldl (fun c d =>
        c.writePass sh act d.1 g (GReg.mk (if w.bcast.contains g && act == BitVec.allOnes 32 then 1 else 3) ((List.range 32).map fun j => w.valIn c g d.2 j))) c) c

/-- The word has written its results and read its sources. -/
def Word.finished (w : Word) : Word := { w with slot := false, resv := [], srcs := [], done := true }

/-- Write every result of a word that has its values: vector registers, a mask register, or a scalar register; its slot,
its reservation and its pending write end (R47, R48, R118). -/
def Crew.complete (c : Crew) (w : Word) : Crew :=
  let c1 := c.writeBack w
  let c2 := match w.instr with
    | .sld d .. => c1.sset d (w64 (SMap.get 0 w.vals 0))
    | .sldk d .. => c1.sset d (w64 (SMap.get 0 w.vals 0))
    | .cwait d .. => c1.sset d (w64 (SMap.get 0 w.vals 0))
    | _ => c1
  { c2 with
    sPend := c2.sPend.filter fun q => q.2 != w.wid
    words := c2.words.map fun (v : Word) => if v.wid == w.wid then v.finished else v }.purge

/-- The mask register a long-latency word writes (R175). -/
def Word.maskDest (w : Word) : Option (BitVec 4) := match w.instr with | .fcmp a => some (a.d.extractLsb' 0 4) | _ => none

/-- The crew with the mask bits of a word's lanes written; m0 is the path's own and keeps within its mask (R83, R162). -/
def Crew.writeMask (c : Crew) (w : Word) : Crew :=
  match w.maskDest with
  | none => c
  | some r =>
    let vals := maskOf (w.vals.map (·.1))
    if r = 0 then
      let c' := c.modPath w.path fun p => { p with m0 := ((p.m0 &&& ~~~w.lanes) ||| (vals &&& w.lanes)) &&& p.mask }
      if (c'.path w.path).m0 = 0 then c'.trapPoint w.path else c'
    else { c with m := SMap.set 0 c.m r.toNat ((SMap.get 0 c.m r.toNat &&& ~~~w.lanes) ||| (vals &&& w.lanes)) }

/-- A word that has its values writes them. -/
def State.writebackWord (s : State) (c : Crew) (w : Word) : State :=
  (s.modCrew c.id fun c => (c.writeMask w).complete w).settleCrew c.id

/-- LONG_LATENCY_WRITEBACK (R43): a word whose values are all there writes them. -/
def execLongLatencyWriteback (core slot wid : Nat) (s : State) : Out :=
  match (s.coreCrews core).find? (fun (c : Crew) => c.slot == slot) with
  | some c => match c.word? wid with
    | some w => if w.done && (w.slot || c.sPend.any fun q => q.2 == wid) then .next (s.writebackWord c w) else .next s
    | none => .next s
  | none => .next s

end Sys2Proof.Machine
end

