-- ==== Sys2Proof/Machine/Translate.lean ====
section
/-! DEFINITION. Virtual addresses and the private window (R183 to R185), page walks (R188 to R190, R212), translations
(R192, R193), the checks of an access (R198), fault records (R205 to R208), and the start of a migration (R209 to R211,
R216). -/

namespace Sys2Proof.Machine

/-! ### Addresses (R183 to R187) -/

/-- The canonical form of R183: bits 63 to 52 equal bit 51. -/
def canonical (ea : W64) : Bool := (ea.extractLsb' 51 13 == 0) || (ea.extractLsb' 51 13 == BitVec.allOnes 13)
/-- The base of the private window (R184). -/
def privBase : Nat := 0xFFFFFF0000000000
/-- The offset in the private window, or none outside it. -/
def privOffset (ea : W64) : Option Nat := if privBase ≤ ea.toNat then some (ea.toNat - privBase) else none
/-- The 64 KiB virtual page of an address. -/
def pageOf (ea : W64) : Nat := ea.toNat % 2 ^ 52 / 2 ^ 16
/-- A physical address of device DRAM or of the host aperture; the others are unassigned (R186). -/
def assigned (pa : Nat) : Bool := decide (pa < 4 * 0x003000000000) || (decide (2 ^ 51 ≤ pa) && decide (pa < 2 ^ 52))
/-- 64 KiB pages that a leaf of a level maps (R188). -/
def pagesOf (level : Nat) : Nat := match level with | 0 => 1 | 1 => 32 | _ => 16384

/-- The page lies in what the translation maps. -/
def Trans.covers (t : Trans) (asid part vpn : Nat) : Bool :=
  t.asid == asid && t.part == part && decide (t.vpn ≤ vpn) && decide (vpn < t.vpn + pagesOf t.level)
/-- The home key of the byte that a virtual address maps to. -/
def Trans.phys (t : Trans) (ea : W64) : Nat := homeKey t.part (t.pa + (ea.toNat % 2 ^ 52 - t.vpn * 2 ^ 16))

/-! ### Walks (R188 to R190, R212) -/

/-- A table entry (R189). -/
structure Pte where
  raw : Nat
  deriving DecidableEq, Repr

def Pte.valid (e : Pte) : Bool := e.raw.testBit 0
def Pte.write (e : Pte) : Bool := e.raw.testBit 1
def Pte.code (e : Pte) : Bool := e.raw.testBit 2
def Pte.grain (e : Pte) : Nat := field e.raw 4 3
def Pte.far (e : Pte) : Bool := e.raw.testBit 5
def Pte.dirty (e : Pte) : Bool := e.raw.testBit 7
def Pte.leaf (e : Pte) : Bool := e.raw.testBit 8
/-- The address field. -/
def Pte.addr (e : Pte) : Nat := field e.raw 51 12 * 4096

/-- The entry breaks R189 at its level: a reserved field, the leaf bit, the address of a leaf, or its grain. -/
def Pte.malformed (e : Pte) (level : Nat) : Bool :=
  field e.raw 59 52 != 0 || field e.raw 11 9 != 0 || (level == 3 && e.leaf) || (level == 0 && !e.leaf)
  || (e.leaf && (e.addr % (pagesOf level * 2 ^ 16) != 0 || e.grain == 3))

/-- The index of a page at a level (R188). -/
def tableIndex (level vpn : Nat) : Nat :=
  match level with
  | 3 => field vpn 35 23
  | 2 => field vpn 22 14
  | 1 => field vpn 13 5
  | _ => field vpn 4 0

/-- Where a walk ends: at a leaf, with its address, level and entry; or with a cause (R190). -/
inductive Leaf where
  | leaf (at_ level : Nat) (e : Pte)
  | bad (cause : Nat)
  deriving DecidableEq, Repr

/-- Walk from a table at a level down to a leaf. Entries are read at their homes, through the L2 (R189). -/
def State.findLeaf (s : State) (part vpn : Nat) : Nat → Nat → Leaf
  | level, table =>
    let at_ := homeKey part (table + 8 * tableIndex level vpn)
    if !assigned table then .bad 8
    else
      let e : Pte := ⟨s.homePA at_ 8⟩
      if !e.valid then .bad 1
      else if e.malformed level then .bad 8
      else if e.leaf then .leaf at_ level e
      else match level with
        | l + 1 => s.findLeaf part vpn l e.addr
        | 0 => .bad 8

/-- What R212 says of a frame for a partition: none where it is accepted, else its cause, 0 for a pending one. -/
def Frame.refusal (f : Frame) (part : Nat) : Option Nat :=
  match f.state with
  | 0 => none
  | 1 => if f.owner = part then none else some 8
  | 2 => some 8
  | _ => some 0

/-- The device frames that a leaf covers; none in the host aperture. -/
def leafFrames (pa level : Nat) : List Nat :=
  if pa.testBit 51 then [] else (List.range (pagesOf level)).map (· + pa / 2 ^ 16)

/-- Own the clean frames of a leaf (R212). -/
def State.ownFrames (s : State) (part : Nat) (fs : List Nat) : State :=
  { s with frames := fs.foldl (fun m f =>
      let w := SMap.get ⟨0, 0, 0⟩ m f
      if w.state = 0 then SMap.set ⟨0, 0, 0⟩ m f { w with state := 1, owner := part } else m) s.frames }

/-- How a walk ends (R190, R193, R212). -/
inductive Walked where
  | ok (t : Trans)
  | bad (cause : Nat)
  | pending (frames : List Nat)
  deriving DecidableEq, Repr

/-- The partition runs the service policy (R209). -/
def State.service (s : State) (part : Nat) : Bool := match s.part? part with | some q => !q.migMode | none => false
/-- An access to the page has met its migration, which is in progress (R211). -/
def State.migrating (s : State) (part asid vpn : Nat) : Bool :=
  match s.part? part with | some q => q.migs.any fun m => m.pages.contains (asid, vpn) | none => false
/-- The leaf is that of a page being migrated, which several pages and address spaces may share (R211). -/
def State.leafMoves (s : State) (part leaf : Nat) : Bool := match s.part? part with | some q => q.migs.any fun m => m.leaf == leaf | none => false
/-- A translation leads to a frame that a migration is leaving (R211). -/
def State.frameMoves (s : State) (part : Nat) (t : Trans) : Bool :=
  match s.part? part with | some q => q.migs.any fun m => t.level == 0 && homeKey part t.pa == m.old | none => false

/-- A whole walk: the checks, ownership, the accessed and dirty bits, and the translation (R189, R190, R209, R212). A far page in service
policy gives cause 3 before its permission bits are looked at, which a translation already there gives first. Log 55 (DESIGN CHOICE). -/
def State.walk (s : State) (part asid root vpn : Nat) (write : Bool) : Walked × State :=
  if s.migrating part asid vpn then (.bad 3, s)
  else match s.findLeaf part vpn 3 root with
  | .bad c => (.bad c, s)
  | .leaf at_ level e =>
    let pa := e.addr
    if !assigned pa then (.bad 8, s)
    else if s.leafMoves part at_ then (.bad 3, s)
    else
      let fs := leafFrames pa level
      let rs := fs.filterMap fun f => (s.frame f).refusal part
      if rs.contains 8 then (.bad 8, s)
      else if rs.contains 0 then (.pending (fs.filter fun f => (s.frame f).state == 3), s)
      else if e.far && level == 0 && s.service part then (.bad 3, s)
      else
        let dirty := e.dirty || (write && e.write)
        let raw := e.raw ||| 2 ^ 6 ||| bitAt dirty 7
        let n := pagesOf level
        (.ok ⟨asid, part, vpn / n * n, level, pa, e.write, e.code, e.far, dirty, e.grain⟩,
          (s.ownFrames part fs).wrHome none part 0 at_ 8 raw)

/-! ### The translation registers (R192) -/

/-- Put a translation into a core TLB of 4,096 entries; the oldest gives way. Log 8 (DEDUCED). -/
def Core.install (k : Core) (t : Trans) : Core :=
  let all := (k.tlb.filter fun u => !u.covers t.asid t.part t.vpn) ++ [t]
  { k with tlb := all.drop (all.length - 4096) }

/-- The address space of a crew's launch: its identifier and root (R188). -/
def State.space (s : State) (c : Crew) : Nat × Nat :=
  match s.launchOf (s.partOf c) (s.lidOf c) with | some l => (l.blk.asid, l.blk.root) | none => (0, 0)

/-- The core TLB's translation of a page. -/
def State.tlbLookup (s : State) (c : Crew) (asid part vpn : Nat) : Option Trans :=
  match s.cores[(s.coreOf c.team).getD 0]? with
  | some k => k.tlb.find? fun t => t.covers asid part vpn
  | none => none

/-- The translation that a lane, or a scalar access, has: its last-page register first, then the core TLB (R192). A
first write through the leaf passes over a register that was filled before the dirty bit was set (R189). -/
def State.lookup (s : State) (c : Crew) (lane : Option Nat) (vpn : Nat) (write : Bool) : Option Trans :=
  let asid := (s.space c).1
  let part := s.partOf c
  let last := match lane with | some l => SMap.get none c.lastPg l | none => none
  match last with
  | some t => if t.covers asid part vpn && !(write && t.write && !t.dirty) then some t else s.tlbLookup c asid part vpn
  | none => s.tlbLookup c asid part vpn
/-- The walk of a page meets a frame that is still to be scrubbed (R213). -/
def State.walkPends (s : State) (c : Crew) (vpn : Nat) (write : Bool) : Bool :=
  match (s.walk (s.partOf c) (s.space c).1 (s.space c).2 vpn write).1 with | .pending _ => true | _ => false

/-- The scrub jobs of these frames go to priority level P4 (R213). -/
def State.hurryScrub (s : State) (fs : List Nat) : State :=
  { s with jobs := s.jobs.map fun (j : Job) => match j.kind with
      | .scrub f => if fs.contains f then { j with level := min j.level 4 } else j
      | _ => j }

/-- Remove what maps these pages from the TLBs and last-page registers of a partition (R194). -/
def State.sweep (s : State) (hit : Trans → Bool) : State :=
  { s with
    cores := s.cores.map fun (k : Core) => { k with tlb := k.tlb.filter fun t => !hit t }
    crews := s.crews.map fun (c : Crew) => { c with lastPg := c.lastPg.filter fun e => match e.2 with | some t => !hit t | none => false } }

/-! ### The checks of one access (R198) -/

/-- What R198 finds: the access may go to an address of a space, with its translation; a cause; or a walk is needed. -/
inductive Chk where
  | go (sp : Space) (addr : Nat) (t : Option Trans)
  | bad (cause : Nat)
  | miss (vpn : Nat)
  deriving DecidableEq, Repr

/-- The private size of a crew's launch in bytes (R184). -/
def State.privSize (s : State) (c : Crew) : Nat :=
  match s.launchOf (s.partOf c) (s.lidOf c) with | some l => l.blk.pwin * 1024 | none => 0

/-- The translation of a page for an access, or its cause, or the need of a walk (R190, R193, R205). -/
def State.checkPage (s : State) (c : Crew) (p : Path) (lane : Option Nat) (ea : W64) (write code : Bool) : Chk :=
  let vpn := pageOf ea
  if s.migrating (s.partOf c) (s.space c).1 vpn then .bad 3
  else match s.lookup c lane vpn write with
  | some t =>
    if s.frameMoves (s.partOf c) t then .bad 3
    else if (write && !t.write) || (code && !t.code) then .bad 2
    else if t.far && t.level == 0 && s.service (s.partOf c) then .bad 3
    else if write && !t.dirty then .miss vpn
    else .go .mem (t.phys ea) (some t)
  | none => match p.walked.find? (fun w => w.1 == vpn) with
    | some w => .bad w.2
    | none => .miss vpn

/-- The checks of R198 in order. `slot` is the lane whose private slot the access reaches. Log 24 (DEDUCED). -/
def State.check (s : State) (c : Crew) (p : Path) (lane : Option Nat) (slot : Nat) (ea : W64) (width : Nat)
    (write privOk : Bool) : Chk :=
  if !canonical ea || !canonical (ea + w64 (width - 1)) then .bad 4
  else if ea.toNat % width ≠ 0 then .bad 5
  else match privOffset ea with
  | some o => if !privOk then .bad 7 else if s.privSize c < o + width then .bad 6 else .go (.priv slot) o none
  | none => s.checkPage c p lane ea write false

/-- The cause is offered to fault service, or handled by the device (R205). -/
def serviced (cause : Nat) : Bool := cause == 1 || cause == 2 || cause == 3 || cause == 8

/-! ### Fault records (R207, R208) -/

/-- Write records at the tail of the fault ring while it has room; the rest are held in order (R208). -/
def Part.fqRoom (q : Part) : Bool :=
  decide (q.fqSize.toNat ≠ 0) && decide ((q.fqTail.toNat + 1) % q.fqSize.toNat ≠ q.fqHead.toNat % q.fqSize.toNat)

/-- Write the held records that the ring has room for. -/
def State.flushFq (s : State) (p : Nat) : Nat → State
  | 0 => s
  | n + 1 => match s.part? p with
    | some q => match q.fqHeld with
      | r :: rest =>
        if q.fqRoom then
          State.flushFq { (s.wrBytes (q.fqBase.toNat % 2 ^ 52 + 32 * q.fqTail.toNat) r).modPart p fun q => { q with
            fqHeld := rest, fqTail := BitVec.ofNat 16 ((q.fqTail.toNat + 1) % q.fqSize.toNat) } with
            msix := s.msix ++ [4 * p + 1] } p n
        else s
      | [] => s
    | none => s

/-- Put a fault record: its tag, and the state; the records wait their turn for the ring (R207, R208). -/
def State.faultRecord (s : State) (part : Nat) (va : W64) (lid team core slot path acode cause lanes asid : Nat) : Nat × State :=
  match s.part? part with
  | none => (0, s)
  | some q =>
    let tag := q.nextTag.toNat
    let r := bytesOfNat 8 va.toNat ++ bytesOfNat 4 lid ++ bytesOfNat 4 team ++ bytesOfNat 2 core
      ++ bytesOfNat 1 (slot % 16 * 16 + path % 8) ++ bytesOfNat 1 acode ++ bytesOfNat 1 cause ++ bytesOfNat 1 0
      ++ bytesOfNat 2 lanes ++ bytesOfNat 4 asid ++ bytesOfNat 4 tag
    (tag, (s.modPart part fun q => { q with fqHeld := q.fqHeld ++ [r], nextTag := q.nextTag + 1 }).flushFq part 1)

/-- The ring size is 0, so the device answers every record with reject at once (R208). -/
def State.noRing (s : State) (part : Nat) : Bool := match s.part? part with | some q => q.fqSize == 0 | none => true

/-! ### The start of a migration (R209, R211, R216) -/

/-- The number of entries of the near-frame ring, and how many are free for migration. -/
def Part.nearSize (q : Part) : Nat := q.nearReg.toNat % 4096 * 16
def Part.nearFree (q : Part) : Nat := if q.nearSize = 0 then 0 else (q.nearTail.toNat + q.nearSize - q.nearHead.toNat % q.nearSize) % q.nearSize
/-- The number of entries of the released-frame ring, and how many it has room for. -/
def Part.relSize (q : Part) : Nat := q.relReg.toNat % 4096 * 16
def Part.relFree (q : Part) : Nat :=
  if q.relSize = 0 then 0 else (q.relHead.toNat % q.relSize + q.relSize - 1 - q.relTail.toNat % q.relSize) % q.relSize
/-- The released-frame ring has room for one more entry beside those that the migrations in progress will post (R211, R216). -/
def Part.relRoom (q : Part) : Bool := decide (q.migs.length < q.relFree)

/-- Post an entry to the released-frame ring (R216). -/
def State.postReleased (s : State) (p : Nat) (entry : Nat) : State :=
  match s.part? p with
  | some q => (s.wrPA (q.relReg.toNat % 2 ^ 52 / 4096 * 4096 + 8 * q.relTail.toNat) 8 entry).modPart p fun q =>
      { q with relTail := w32 ((q.relTail.toNat + 1) % q.relSize) }
  | none => s

/-- Take the next frame of the near-frame ring that passes R212; refused entries go to the released-frame ring (R216). -/
def State.takeNear (s : State) (p : Nat) : Nat → Option Nat × State
  | 0 => (none, s)
  | n + 1 => match s.part? p with
    | some q =>
      if q.nearFree = 0 || !q.relRoom then (none, s)
      else
        let e := s.rdPA (q.nearReg.toNat % 2 ^ 52 / 4096 * 4096 + 8 * q.nearHead.toNat) 8
        let pa := field e 51 16 * 2 ^ 16
        let s1 := s.modPart p fun q => { q with nearHead := w32 ((q.nearHead.toNat + 1) % q.nearSize) }
        if (s.frame (pa / 2 ^ 16)).refusal p = none then (some pa, s1.ownFrames p [pa / 2 ^ 16])
        else State.takeNear (s1.postReleased p (pa + 1)) p n
    | none => (none, s)

/-- A page joins the migration of its leaf that is in progress. -/
def State.joinMigration (s : State) (part asid vpn leaf : Nat) : State :=
  s.modPart part fun q => { q with migs := q.migs.map fun m => if m.leaf == leaf then { m with pages := m.pages ++ [(asid, vpn)] } else m }

/-- Start the migration of a far 64 KiB page, where the rings allow it; one whose leaf is being migrated joins that migration (R211). -/
def State.startMigration (s : State) (part asid root vpn : Nat) : State :=
  if s.migrating part asid vpn then s
  else match s.findLeaf part vpn 3 root with
  | .leaf at_ 0 e =>
    if s.leafMoves part at_ then s.joinMigration part asid vpn at_
    else if e.far then match s.takeNear part 65536 with
      | (some pa, s1) =>
        { s1.modPart part fun q => { q with migs := q.migs ++ [⟨at_, [(asid, vpn)], pa, homeKey part e.addr⟩] } with
          jobs := s1.jobs ++ [{ id := s.nextId, part := part, lid := 0, team := 0, crew := 0, path := 0, wid := 0, token := 0
                                kind := .migrate at_, addr := 0, die := (partDies s.svc.split part).headD 0, at_ := none
                                level := 6, age := 0, edges := [], prog := 0, popped := 0, pushed := 0, input := []
                                fault := none, page := 0, began := 0, yarder := 0, clk := [] }]
          nextId := s.nextId + 1 }
      | (none, s1) => s1
    else s
  | _ => s

/-- The pages of an aligned span that have near-tier leaves, the faulting one not counted (R209). -/
def State.resident (s : State) (part root vpn0 n fault : Nat) : Nat :=
  ((List.range n).filter fun k =>
    vpn0 + k != fault && match s.findLeaf part (vpn0 + k) 3 root with | .leaf _ _ e => !e.far | .bad _ => false).length

/-- The span that the service policy migrates, in pages (R209). -/
def State.spanOf (s : State) (part root fault block thresh : Nat) : Nat → Nat → Nat
  | 0, n => n
  | k + 1, n =>
    let m := 2 * n
    if m ≤ block ∧ thresh * m ≤ s.resident part root (fault / m * m) m fault * 256 then s.spanOf part root fault block thresh k m else n

/-- The leaf of a page is being migrated. -/
def State.pageMoves (s : State) (part root vpn : Nat) : Bool :=
  match s.findLeaf part vpn 3 root with | .leaf at_ _ _ => s.leafMoves part at_ | .bad _ => false

/-- A service-policy fault on a far page, or an access to a page that is being migrated (R209, R211): the device handles it, or not where
the rings do not allow it. -/
def State.farFault (s : State) (part asid root vpn : Nat) : Bool × State :=
  if s.migrating part asid vpn then (true, s)
  else if s.pageMoves part root vpn then (true, s.startMigration part asid root vpn)
  else match s.part? part with
  | none => (false, s)
  | some q =>
    let n := s.spanOf part root vpn (2 ^ min q.mblock.toNat 5) q.thresh.toNat 5 1
    let s1 := s.startMigration part asid root vpn
    if s1.migrating part asid vpn then
      (true, (List.range n).foldl (fun s k => s.startMigration part asid root (vpn / n * n + k)) s1)
    else (false, s1)

end Sys2Proof.Machine
end

