-- ==== Sys2Proof/Machine/Memory.lean ====
section
/-! DEFINITION. The issue of memory words: what each accesses (R196 to R204, R253, R255, R295), the checks, the cruise
rules (R201, R323), deferral and parking (R205, R206, R208), and the accesses that enter the path's queue and store
buffer (R239, R240). -/

namespace Sys2Proof.Machine

/-! ### What a memory word accesses -/

/-- The kind, width and ordering of a word's accesses. -/
structure MemSpec where
  kind   : AccKind
  width  : Nat
  privOk : Bool
  acq    : Bool
  rel    : Bool
  scope  : Nat
  quiet  : Bool
  acode  : Nat
  op     : Nat
  ty     : Ty
  sgn    : Bool
  scalar : Bool
  deriving DecidableEq, Repr

/-- The bytes a type holds in memory (R197). -/
def Ty.bytes (t : Ty) : Nat :=
  match t with
  | .f8e4 | .f8e5 => 1
  | .f16 | .bf16 => 2
  | .i64 | .n64 | .f64 => 8
  | _ => 4
/-- The width of a layout M word (R197). -/
def LaneM.width (w : LaneM) : Nat := if w.mem = 0 then Ty.bytes w.ty else w.mem.toNat
/-- A scope code; 0 stands for `dflt` (R247). -/
def scopeOf (code : BitVec 3) (dflt : Nat) : Nat := if code = 0 then dflt else code.toNat

/-- The specification of a layout M access. -/
def specM (w : LaneM) (kind : AccKind) (privOk : Bool) (acode dflt : Nat) : MemSpec where
  kind := kind
  width := LaneM.width w
  privOk := privOk
  acq := w.order.getLsbD 0
  rel := w.order.getLsbD 1
  scope := scopeOf w.scope dflt
  quiet := w.inv
  acode := acode
  op := 0
  ty := w.ty
  sgn := w.ty == .i32
  scalar := false

/-- The bytes of an atomic: 16 for `.add128` (R255). -/
def LaneAt.width (w : LaneAt) : Nat := if w.op = 6 then 16 else Ty.bytes w.ty
/-- The specification of an atomic: one that VAT buffers is commutative, every other executes at the home (R254). -/
def specAt (w : LaneAt) (ret : Bool) : MemSpec where
  kind := if !ret && decide (w.op.toNat ≤ 6) then .comm else .atomic
  width := LaneAt.width w
  privOk := false
  acq := w.order.getLsbD 0
  rel := w.order.getLsbD 1
  scope := scopeOf w.scope 5
  quiet := false
  acode := 2
  op := w.op.toNat
  ty := w.ty
  sgn := false
  scalar := false

/-- The bytes of a scalar width code (R204). -/
def scalarBytes (code : BitVec 3) : Nat := match code.toNat with | 0 => 1 | 1 => 1 | 2 => 2 | 3 => 2 | 4 => 4 | 5 => 4 | _ => 8
/-- The specification of a scalar access (R204). -/
def specS (kind : AccKind) (width : Nat) (sgn : Bool) : MemSpec :=
  ⟨kind, width, true, false, false, 5, false, 4, 0, .n64, sgn, true⟩

/-- What a memory word accesses. -/
def memSpec : Instr → MemSpec
  | .vld w => specM w .load true 0 5
  | .vst w => specM w .store true 1 5
  | .vstSlc w => specM w .store false 1 5
  | .vlds w => specM w .load true 0 2
  | .vsts w => specM w .store true 1 2
  | .obld w => specM w .load false 0 5
  | .vat w => specAt w false
  | .vatr w => specAt w true
  | .sst _ _ k _ => specS .store (scalarBytes k) false
  | .sld _ _ k _ => specS .load (scalarBytes k) (k.getLsbD 0)
  | _ => specS .load 8 false

/-- The result of a load as its destination takes it (R56, R57, R199, R204). -/
def MemSpec.extend (sp : MemSpec) (raw : Nat) : Nat :=
  if sp.sgn then patNat (if sp.scalar then 64 else 32) (sextNat (8 * sp.width) raw) else raw

/-! ### Operands (R197, R201, R228, R255) -/

/-- A register pair of a lane. -/
def Crew.vget64 (c : Crew) (v lane : Nat) : W64 := c.vget (v + 1) lane ++ c.vget v lane
/-- The index of a lane, scaled, as an exact integer (R197). -/
def laneIndex (c : Crew) (x y : BitVec 2) (a : BitVec 8) (lane : Nat) : Int :=
  let v := c.vget a.toNat lane
  (match x.toNat with | 0 => 0 | 1 => (v.toNat : Int) | _ => v.toInt) * ((2 ^ y.toNat : Nat) : Int)
/-- The base of a lane (R197). -/
def laneBase (c : Crew) (p : Path) (b : Base) (lane : Nat) : W64 :=
  match b with | .sreg r => p.scalar c r | .vreg v => c.vget64 v.toNat lane
/-- The effective address of a lane (R197). -/
def laneEa (c : Crew) (p : Path) (b : Base) (x y : BitVec 2) (a : BitVec 8) (off : Int) (lane : Nat) : W64 :=
  laneBase c p b lane + BitVec.ofInt 64 (laneIndex c x y a lane + off)
/-- The offset of VST.slc, VLDS and VSTS, in exact arithmetic; `dflt` is the base where none is scalar (R201, R229). -/
def laneOffset (c : Crew) (p : Path) (w : LaneM) (dflt : Nat → Int) (lane : Nat) : Int :=
  (match w.base with | .sreg r => (p.scalar c r).toInt | .vreg _ => dflt lane) + laneIndex c w.x w.y w.a lane + w.off.toInt
/-- The data that a lane stores: n bytes of a register, a pair, or four registers (R199, R255). -/
def laneData (c : Crew) (v n lane : Nat) : Nat :=
  ((List.range ((n + 3) / 4)).foldl (fun x k => x + (c.vget (v + k) lane).toNat * 2 ^ (32 * k)) 0) % 2 ^ (8 * n)

/-- The groups whose result is of the broadcast class (R200): those with a uniform base and index. -/
def bcastGroups (c : Crew) (sel : Mask) (b : Base) (wide : Bool) (x : BitVec 2) (a : BitVec 8) : List Nat :=
  (c.passes sel).filter fun g =>
    let act := c.groupWord sel g
    (match b with | .sreg _ => true | .vreg v => (regPair wide v).all fun r => (c.readBank (c.propWord g) act (c.physical r) g).tag == 1)
    && (x == 0 || (c.readBank (c.propWord g) act (c.physical a.toNat) g).tag == 1)

/-! ### Faults of lanes (R205, R206) -/

/-- Run a step as a path, and give the issuing path back. -/
def State.asPath (s : State) (cid i : Nat) (f : State → State) : State := { f { s with cur := some ⟨cid, i⟩ } with cur := s.cur }

/-- Leave the cause and address of a PAGE_FAULT in the lanes' registers (R205, R217). -/
def Crew.noteFault (c : Crew) (acode : Nat) (fs : List (Nat × Nat × W64)) : Crew :=
  { c with
    mcause := fs.foldl (fun m f => SMap.set 0 m f.1 (BitVec.ofNat 7 (f.2.1 + 16 * acode))) c.mcause
    faddr := fs.foldl (fun m f => SMap.set 0 m f.1 f.2.2) c.faddr }

/-- Lanes of a word take PAGE_FAULT: each its cause and address, the record that of the lowest (R205, R206, R373). -/
def State.pageFault (s : State) (cid i : Nat) (lane : Bool) (acode : Nat) (fs : List (Nat × Nat × W64)) : State :=
  if fs.isEmpty then s
  else
    let s1 := s.modCrew cid fun c => c.noteFault acode fs
    match s1.crewOf cid with
    | none => s1
    | some c =>
      let f := maskOf (fs.map (·.1))
      let detail := match fs with | x :: _ => x.2.1 | [] => 0
      s1.asPath cid i fun s => s.defer c (c.path i) lane fcPage detail f

/-- Every lane of a scalar access's fault (R204). -/
def scalarFaults (p : Path) (cause : Nat) (ea : W64) : List (Nat × Nat × W64) := (maskLanes 1024 p.faultLanes).map fun l => (l, cause, ea)

/-- A scalar word takes PAGE_FAULT over the path's m0 (R204). -/
def scalarPageFault (s : State) (c : Crew) (p : Path) (cause : Nat) (ea : W64) : Out :=
  .next (s.pageFault c.id s.curPath false 4 (scalarFaults p cause ea))

/-! ### Cruise rules (R201, R323) -/

/-- The launch block of a crew. -/
def State.blkOf (s : State) (c : Crew) : Option Block := match s.launchOf (s.partOf c) (s.lidOf c) with | some l => some l.blk | none => none
/-- The cruise index of a crew's team. -/
def State.idxOf (s : State) (c : Crew) : Nat := match s.teamOf c.team with | some t => t.idx | none => 0
/-- The start of the team's slice as a number, for a cruise (R321). -/
def State.sliceStart (s : State) (c : Crew) (b : Block) : Nat := b.sbase.toNat + s.idxOf c * b.stride

/-- Some byte of a range lies in the slice region and outside the team's own slice (R323). -/
def State.crossReads (s : State) (c : Crew) (b : Block) (lo n : Nat) : Bool :=
  let a := max lo b.sbase.toNat
  let e := min (lo + n) (b.sbase.toNat + b.teams * b.stride)
  let own := s.sliceStart c b
  decide (a < e) && (decide (a < own) || decide (own + b.stride < e))
/-- The first such byte, for the stop record (R384). -/
def State.crossByte (s : State) (c : Crew) (b : Block) (lo : Nat) : Nat :=
  let a := max lo b.sbase.toNat
  let own := s.sliceStart c b
  if a < own ∨ own + b.stride ≤ a then a else own + b.stride

/-- The fault of a cruise that an access which passed its checks makes: its code and address (R323). -/
def State.cruiseFault (s : State) (c : Crew) (i : Instr) (sp : MemSpec) (ea : W64) (priv : Bool) : Option (Nat × Nat) :=
  match s.blkOf c with
  | none => none
  | some b =>
    if !b.cruise || priv then none
    else match i with
      | .vstSlc _ => none
      | .vlds _ => none
      | .vsts _ => none
      | _ => match sp.kind with
        | .load => if s.crossReads c b ea.toNat sp.width then some (fcXread, s.crossByte c b ea.toNat) else none
        | .cwait => if s.crossReads c b ea.toNat sp.width then some (fcXread, s.crossByte c b ea.toNat) else none
        | .store => some (fcXstore, ea.toNat)
        | .comm => some (fcXstore, ea.toNat)
        | .atomic => some (fcXstore, ea.toNat)

/-! ### Issue (R193, R198, R206, R239) -/

/-- The launch runs in deterministic mode (R260). -/
def State.detMode (s : State) (c : Crew) : Bool := match s.blkOf c with | some b => b.det | none => false
/-- The team holds its launch's ticket (R261). -/
def State.ticket (s : State) (c : Crew) : Bool :=
  match s.launchOf (s.partOf c) (s.lidOf c), s.teamOf c.team with | some l, some t => l.ticket == t.rank | _, _ => false
/-- A crew's effects may not yet go straight to their homes: its team has no ticket, or its log is still to be written (R261). -/
def State.behindTicket (s : State) (c : Crew) : Bool :=
  s.detMode c && (!s.ticket c || match s.teamOf c.team with | some t => !t.log.isEmpty | none => false)
/-- The bytes of a team's staging log (R264). Log 20 (DEDUCED). -/
def Team.logBytes (t : Team) : Nat := t.log.foldl (fun n x => n + x.1.width) 0
/-- The bytes of a team's stores and atomics that are still to enter the log. -/
def State.toStage (s : State) (team : Nat) : Nat :=
  (s.crewsOf team).foldl (fun n c => c.paths.foldl (fun n p => (p.sbuf ++ p.queue).foldl (fun n x =>
    if x.writes && x.space == .mem then n + x.width else n) n) n) 0
/-- These bytes would overfill the staging log, and the team has no ticket (R262). -/
def State.logFull (s : State) (c : Crew) (bytes : Nat) : Bool :=
  s.detMode c && !s.ticket c &&
    (match s.blkOf c, s.teamOf c.team with
    | some b, some t => decide (b.log * 1024 < t.logBytes + s.toStage c.team + bytes)
    | _, _ => false)

/-- The access of one operand. -/
def mkAcc (p : Path) (w : Word) (sp : MemSpec) (id : Nat) (o : Operand) (space : Space) (addr : Nat) : Acc where
  id := id
  thr := p.thr
  entry := w.path
  clk := none
  wid := w.wid
  lane := o.lane
  kind := sp.kind
  space := space
  addr := addr
  width := sp.width
  data := o.data
  expect := if sp.op = 9 then o.aux.toNat else 0
  op := sp.op
  ty := sp.ty
  acq := sp.acq
  rel := sp.rel
  scope := sp.scope
  fences := p.relF
  quiet := sp.quiet
  acode := sp.acode
  va := o.ea
  spc := w.spc
  lpc := w.lpc
  scalar := sp.scalar

/-- Put accesses at the end of a path's issue queue; stores and commutative atomics leave it for the store buffer at once
(R239, R240). -/
def Path.enqueue (p : Path) (xs : List Acc) : Path := { p with
  queue := p.queue ++ xs.filter fun x => !(x.kind == .store || x.kind == .comm)
  sbuf := p.sbuf ++ xs.filter fun x => x.kind == .store || x.kind == .comm }

/-- The lanes a cause parks: the operand, its cause, and whether the device's migration serves it. -/
structure Failed where
  o     : Operand
  cause : Nat
  deriving DecidableEq, Repr

/-- Far pages are handed to the migration service (R211): the pages it takes, and the state. -/
def State.callMigration (s : State) (c : Crew) (vpns : List Nat) : List Nat × State :=
  vpns.foldl (fun r v =>
    let f := r.2.farFault (s.partOf c) (s.space c).1 (s.space c).2 v
    (if f.1 then r.1 ++ [v] else r.1, f.2)) ([], s)

/-- The distinct elements of a list, in order. -/
def distinct (xs : List Nat) : List Nat := xs.foldl (fun ys x => if ys.contains x then ys else ys ++ [x]) []

/-- Write a fault record for each distinct page of these failures (R206, R207). -/
def State.recordPages (s : State) (c : Crew) (i acode : Nat) (lanesOf : List Failed → Mask) (fs : List Failed) :
    List (Nat × Mask × Nat × Nat) × State :=
  (distinct (fs.map fun f => pageOf f.o.ea)).foldl (fun r v =>
    match fs.filter fun f => pageOf f.o.ea == v with
    | [] => r
    | f :: rest =>
      let m := lanesOf (f :: rest)
      let q := r.2.faultRecord (s.partOf c) f.o.ea (s.lidOf c) (match s.teamOf c.team with | some t => t.index | none => 0)
        ((s.coreOf c.team).getD 0) c.slot i acode f.cause (maskCount m) (s.space c).1
      (r.1 ++ [(q.1, m, f.cause, v)], q.2)) ([], s)

/-- The translations of pages with cause 2 or 8 are dropped, so that a replay walks again (R195). -/
def State.dropPages (s : State) (c : Crew) (vpns : List Nat) : State :=
  let asid := (s.space c).1
  let part := s.partOf c
  s.sweep fun t => vpns.any fun v => t.covers asid part v

/-- The last-page registers after the translations of a word (R192). -/
def Crew.lastPages (c : Crew) (gs : List (Nat × Option Trans)) : Crew :=
  { c with lastPg := gs.foldl (fun m g => match g.2 with | some t => SMap.set none m g.1 (some t) | none => m) c.lastPg }

/-- The lane failures of a word by class: those deferred at once, and those that fault service or migration takes, with
the state after the far pages were handed over (R205, R206, R208, R211). -/
def State.classify (s : State) (c : Crew) (fs : List Failed) : List Failed × List Failed × List Nat × State :=
  let far := fs.filter fun f => f.cause == 3
  let m := s.callMigration c (distinct (far.map fun f => pageOf f.o.ea))
  let now := fs.filter fun f => !serviced f.cause
    || (s.noRing (s.partOf c) && !(f.cause == 3 && m.1.contains (pageOf f.o.ea)))
  (now, fs.filter (fun f => !now.contains f), m.1, m.2)

/-- The lanes an operand stands for: itself, or for a scalar access the lanes of R204. -/
def Path.opLanes (p : Path) (scalar : Bool) (os : List Operand) : Mask :=
  if scalar then (if os.isEmpty then 0 else p.faultLanes) else maskOf (os.map (·.lane))

/-- The matrix cause of an OBLD lane that passed its address checks: its byte offset lies outside the reservation or is
misaligned (R295). `size` is the reservation's. -/
def obldBad (i : Instr) (size : Nat) (sp : MemSpec) (o : Operand) : Bool :=
  match i with
  | .obld _ => decide (o.aux.toNat % sp.width ≠ 0) || decide (size < o.aux.toNat + sp.width)
  | _ => false

/-- The size of a held reservation in bytes (R291). -/
def Crew.resvSize (c : Crew) (r : Nat) : Nat := match SMap.get none c.resv r with | some v => v.units * 1024 | none => 0

/-- An operand whose access passed its checks: the space, the address there, and the translation. -/
abbrev Go := Operand × Space × Nat × Option Trans

/-- A word's reservation number, for OBLD. -/
def obldRes (i : Instr) : Nat := match i with | .obld w => w.d.toNat | _ => 0

/-- The path after its word has issued, or issued again (R206): parked while some lanes are unfinished, else past the
word unless it has parked in place or has faulted as a scalar word. -/
def State.afterIssue (s : State) (cid i : Nat) (w : Word) (scalar fault replay : Bool) : State :=
  s.modPath cid i fun p =>
    let p1 := { p with park := none }
    if p1.st == .fault && p1.trap.isSome then p1
    else
      let p2 := if replay then p1.wake else p1
      if scalar then (if fault then p2 else { p2 with spc := p2.spc + w64 w.instr.size, wait := none, want := none })
      else p2.pastLane w.instr.size

/-! ### The end of one lane's access -/

/-- The bytes of OBLD in its reservation once every lane has its data: in ascending lane order (R8, R295). -/
def Crew.obldStore (c : Crew) (w : Word) : Crew :=
  match w.instr with
  | .obld m => match SMap.get none c.resv m.d.toNat with
    | some v =>
      let n := LaneM.width m
      let data := (maskLanes 1024 w.lanes).foldl (fun d l =>
        match w.ops.find? (fun o => o.lane == l) with
        | some o => (bytesOfNat n (SMap.get 0 w.vals l)).zipIdx.foldl (fun d b => SMap.set none d (o.aux.toNat + b.2) (some b.1)) d
        | none => d) v.data
      { c with resv := SMap.set none c.resv m.d.toNat (some { v with data := data }) }
    | none => c
  | _ => c

/-- Take an access out of a path's queues. -/
def Path.drop (p : Path) (id : Nat) : Path :=
  { p with queue := p.queue.filter fun x => x.id != id, sbuf := p.sbuf.filter fun x => x.id != id }

/-- A word without one lane that it was owed. -/
def Word.got (w : Word) (key lane : Nat) (val : Option Nat) : Word :=
  let owed := w.owed &&& ~~~((1 : Mask) <<< lane)
  { w with owed := owed, done := owed == 0
           vals := match val with | some v => SMap.set 0 w.vals key v | none => w.vals }

/-- A lane of a word has its value, or its store has returned (R235). -/
def State.finishLane (s : State) (cid : Nat) (x : Acc) (val : Option Nat) : State :=
  s.modCrew cid fun c =>
    match c.word? x.wid with
    | none => c
    | some w =>
      let w1 := w.got (if x.scalar then 0 else x.lane) x.lane val
      let c1 := if w1.done then c.obldStore w1 else c
      c1.modWord x.wid fun _ => w1

/-! ### The earlier words of a path that a context-fatal fault stops (R250, R323) -/

/-- A byte of memory as a path's load sees it: its team's staged bytes first (R243, R260). -/
def State.seenByte (s : State) (c : Crew) (pa : Nat) : Byte :=
  match s.teamOf c.team with
  | some t => match (t.log.filter fun e => e.1.kind == .store && decide (e.1.addr ≤ pa) && decide (pa < e.1.addr + e.1.width)).reverse with
    | e :: _ => BitVec.ofNat 8 (e.1.data / 2 ^ (8 * (pa - e.1.addr)))
    | [] => s.homeByte pa
  | none => s.homeByte pa

/-- The contributions to a granule merge, as part of an effect that has passed the race detector. -/
def State.applyGran (s : State) (g : Nat) : State :=
  (s.stands.flatMap fun k => (k.cbuf.filter fun e => e.gran == g).flatMap fun e => e.items).foldl (fun s it =>
    match s.crewOf it.2.crew with
    | some c => s.writeSpace c.team it.1.thr (s.lidOf c) .mem it.1.addr it.1.width
        (atomicNew it.1.op it.1.ty it.1.width (s.readSpace c.team .mem it.1.addr it.1.width) it.1.data it.1.expect)
    | none => s)
    { s with stands := s.stands.map fun (k : Stand) => { k with cbuf := k.cbuf.filter fun e => e.gran != g } }

/-- One earlier access completes: a load reads, a write reaches its home, or the team's log while it has no ticket (R260). -/
def State.completeAcc (s : State) (c : Crew) (p : Path) (i : Nat) (y : Acc) : State :=
  let s1 := s.modPath c.id i fun p => p.drop y.id
  if s.detMode c && !s.ticket c && y.writes && y.space == .mem then
    (s1.modTeam c.team fun t => { t with log := t.log ++ [(p.freeze y, s.locus c)] }).finishLane c.id y none
  else
    let s2 := if y.space = .mem then s1.applyGran (y.addr / 32) else s1
    let v := if y.space = .mem then natOfBytes ((List.range y.width).map fun k => s2.seenByte c (y.addr + k))
      else s2.readSpace c.team y.space y.addr y.width
    let sp := match c.word? y.wid with | some w => memSpec w.instr | none => specS .load y.width false
    match y.kind with
    | .load => s2.finishLane c.id y (some (sp.extend v))
    | .store => (s2.writeSpace c.team y.thr (s.lidOf c) y.space y.addr y.width y.data).finishLane c.id y none
    | .cwait => s2
    | k => (s2.writeSpace c.team y.thr (s.lidOf c) y.space y.addr y.width (atomicNew y.op y.ty y.width v y.data y.expect)).finishLane c.id y
        (if k = .atomic then some v else none)

/-- Every word of a path before place n completes: its accesses take effect in order, and its results are written (R250, R323). -/
def State.completeEarlier (s : State) (cid i thr n : Nat) : State :=
  match s.crewOf cid with
  | none => s
  | some c =>
    let p := c.path i
    let s1 := (sortBy (fun (y : Acc) => y.id) ((p.queue ++ p.sbuf).filter fun y => decide (y.wid < n) && (decide (i < 8) || y.thr == thr))).foldl
      (fun s y => s.completeAcc c p i y) s
    c.words.foldl (fun s w => match s.crewOf cid with
      | some d => match d.word? w.wid with
        | some w => if w.path == i && decide (w.wid < n) && w.done && w.slot then s.writebackWord d w else s
        | none => s
      | none => s) s1

/-- What follows a conflicting pair: the word of the second access has no effect in any lane, and every earlier word of its path
completes (R250). -/
def State.conflict (s : State) (c : Crew) (i : Nat) (x : Acc) : State :=
  (s.undoWord c x.wid).completeEarlier c.id i x.thr x.wid

/-- A cruise's word takes its context-fatal fault as it issues: every earlier word of its path completes (R323). -/
def State.fatalCruise (s : State) (c : Crew) (p : Path) (lane : Bool) (code addr : Nat) : State :=
  (s.completeEarlier c.id s.curPath p.thr s.nextId).fatal c p lane code 0 addr

/-- A word takes a context-fatal fault: it has no effect in any lane, those included that it had at its first issue, and every earlier word
of its path completes (R323). -/
def State.fatalWord (s : State) (c : Crew) (i : Nat) (w : Word) (scalar : Bool) (code addr : Nat) : State :=
  let s1 := ((s.undoWord c w.wid).completeEarlier c.id i (c.path i).thr w.wid).modCrew c.id fun c =>
    { c.modPath i fun p => { p with
        queue := p.queue.filter fun x => x.wid != w.wid, sbuf := p.sbuf.filter fun x => x.wid != w.wid } with
      words := c.words.filter fun (v : Word) => v.wid != w.wid, sPend := c.sPend.filter fun q => q.2 != w.wid }
  s1.asPath c.id i fun s => s.fatal c { c.path i with spc := w.spc, lpc := w.lpc } (!scalar) code 0 addr

/-- A memory word waits at its first issue for walks: it keeps its operands, and its accesses follow once they are translated (R193,
R206, R213). -/
def State.holdWord (s : State) (cid i : Nat) (w : Word) (todo : List Operand) (walks : List (Nat × Bool)) (scalar : Bool)
    (seg : Path → Path) : State :=
  let m := maskOf (todo.map (·.lane))
  let w1 : Word := { w with lanes := m, owed := m, done := false }
  { s with nextId := s.nextId + 1 }.modCrew cid fun c =>
    { c.modPath i fun p => { seg p with
        walks := walks, wait := some stWalk, want := none
        park := some { word := some w1, lanes := if scalar then p.faultLanes else m, reject := [], tags := [], far := [] } } with
      words := c.words ++ [w1]
      sPend := match w.instr with
        | .sld d .. => if d != 0 then c.sPend ++ [(d.toNat, w.wid)] else c.sPend
        | _ => c.sPend }

/-- A word loses lanes that its memory access will not serve; an OBLD whose others are there puts its bytes into the buffer (R206, R295). -/
def Crew.cutLanes (c : Crew) (wid : Nat) (ls : Mask) : Crew :=
  match c.word? wid with
  | none => c
  | some w =>
    let owed := w.owed &&& ~~~ls
    let w1 := { w with lanes := w.lanes &&& ~~~ls, owed := owed, done := owed == 0 }
    (if !w.done && w1.done then c.obldStore w1 else c).modWord wid fun _ => w1

/-- Lanes whose matrix cause is recorded (R292). -/
def Crew.noteMatrix (c : Crew) (f : Mask) (cause : Nat) : Crew :=
  { c with mxcause := (maskLanes 1024 f).foldl (fun m l => SMap.set 0 m l (BitVec.ofNat 4 cause)) c.mxcause }

/-- An OBLD's lanes with a bad byte offset turn context-fatal: in a handler, or where they need a path-table entry beside that of its
lanes pg that take PAGE_FAULT, and none is free (R295, R375, R380). `all` are both. -/
def Crew.matFatal (c : Crew) (p : Path) (pg all : Mask) : Bool :=
  p.isHandler || (p.m0 &&& ~~~all != 0
    && decide (((List.range 8).filter fun k => (c.path k).st == .free).length < (if pg = 0 then 1 else 2)))

/-- Issue a memory word, or its replay, over the operands of some lanes. The word has its number; `fresh` says that it is
not yet among the crew's words, and `seg` what it does to its path's segment (R46). Translation comes first: a page that needs a walk leaves the path waiting (R193). -/
def State.issueMem (s : State) (cid i : Nat) (w : Word) (todo : List Operand) (fresh : Bool)
    (seg : Path → Path) : State :=
  match s.crewOf cid with
  | none => s
  | some c =>
    let p := c.path i
    let sp := memSpec w.instr
    let write := sp.kind == .store || sp.kind == .comm || sp.kind == .atomic
    let chks := todo.map fun o =>
      (o, s.check c p (if sp.scalar then none else some o.lane) o.lane o.ea sp.width write sp.privOk)
    let misses := distinct (chks.filterMap fun k => match k.2 with | .miss v => some v | _ => none)
    if !misses.isEmpty then
      if fresh then s.holdWord cid i w todo (misses.map fun v => (v, write)) sp.scalar seg
      else s.modPath cid i fun p => { p with walks := misses.map fun v => (v, write), wait := some stWalk }
    else
      let gos : List Go := chks.filterMap fun k =>
        match k.2 with | .go a b t => some (k.1, a, b, t) | _ => none
      match gos.findSome? fun (g : Operand × Space × Nat × Option Trans) => s.cruiseFault c w.instr sp g.1.ea (g.2.1 != .mem) with
      | some f => s.fatalWord c i w sp.scalar f.1 f.2
      | none =>
        let mats := gos.filter fun g => obldBad w.instr (c.resvSize (obldRes w.instr)) sp g.1
        let gos := gos.filter fun g => !obldBad w.instr (c.resvSize (obldRes w.instr)) sp g.1
        let k := s.classify c (chks.filterMap fun k => match k.2 with | .bad cause => some (Failed.mk k.1 cause) | _ => none)
        let now : List Failed := k.1
        let svc : List Failed := k.2.1
        let far : List Nat := k.2.2.1
        let s1 := (k.2.2.2).dropPages c ((now ++ svc).filterMap fun f =>
          if serviced f.cause then some (pageOf f.o.ea) else none)
        let recs := s1.recordPages c i sp.acode (fun fs => p.opLanes sp.scalar (fs.map (·.o)))
          (svc.filter fun f => !(f.cause == 3 && far.contains (pageOf f.o.ea)))
        let s2 := recs.2
        let nowM := maskOf (now.map (·.o.lane)) ||| maskOf (mats.map fun (g : Go) => g.1.lane)
        let goM := maskOf (gos.map (·.1.lane))
        let svcM := maskOf (svc.map (·.o.lane))
        let pgM := maskOf (now.map (·.o.lane))
        if pgM ≠ 0 ∧ (c.deferFatal p (if sp.scalar then p.faultLanes else pgM)).isSome then
          s.pageFault cid i (!sp.scalar) sp.acode
            (if sp.scalar then now.flatMap fun (f : Failed) => scalarFaults p f.cause f.o.ea else
              now.map fun (f : Failed) => (f.o.lane, f.cause, f.o.ea))
        else if !mats.isEmpty && c.matFatal p pgM nowM then
          (s.modCrew cid fun c => c.noteMatrix (maskOf (mats.map fun (g : Go) => g.1.lane)) 2).asPath cid i fun s =>
            s.fatal c p true (if p.isHandler then fcHandler else fcOverflow) fcMatrix 0
        else
        let base := s2.nextId + 1
        let accs := (gos.zipIdx).map fun (g : Go × Nat) => mkAcc p w sp (base + g.2) g.1.1 g.1.2.1 g.1.2.2.1
        let w1 : Word := if fresh then { w with lanes := goM ||| svcM, owed := goM ||| svcM }
          else { w with lanes := w.lanes &&& ~~~nowM, owed := w.owed &&& ~~~nowM }
        let keep := w1.lanes != 0 || sp.scalar && !(goM ||| svcM == 0)
        let w2 : Word := { w1 with done := w1.owed == 0 }
        let s3 := { s2 with nextId := base + gos.length }.modCrew cid fun c =>
          let c1 := c.lastPages (if sp.scalar then [] else gos.map fun (g : Operand × Space × Nat × Option Trans) => (g.1.lane, g.2.2.2))
          let c2 := c1.modPath i fun p => { (seg p).enqueue accs with walked := [], walks := [] }
          if fresh then { c2 with
            words := if keep then c2.words ++ [w2] else c2.words
            sPend := match w.instr with
              | .sld d .. => if keep && d != 0 then c2.sPend ++ [(d.toNat, w.wid)] else c2.sPend
              | _ => c2.sPend }
          else c2.cutLanes w.wid nowM
        let s4 := s3.pageFault cid i (!sp.scalar) sp.acode
          (if sp.scalar then now.flatMap fun (f : Failed) => scalarFaults p f.cause f.o.ea else now.map fun (f : Failed) => (f.o.lane, f.cause, f.o.ea))
        let s5 := if mats.isEmpty then s4 else
          let s := s4.modCrew cid fun c => c.noteMatrix (maskOf (mats.map fun (g : Go) => g.1.lane)) 2
          match s.crewOf cid with
          | some c => s.asPath cid i fun s => s.defer c (c.path i) true fcMatrix 2 (maskOf (mats.map fun (g : Go) => g.1.lane))
          | none => s
        if svc.isEmpty then s5.afterIssue cid i w sp.scalar (!now.isEmpty) (!fresh)
        else s5.modCrew cid fun c => (c.modPath i fun p => { p with
          st := .fault, wait := none, want := none
          park := some { word := some w2, lanes := svcM, reject := [], tags := recs.1, far := far } }).trapPoint i

end Sys2Proof.Machine
end

