-- ==== Sys2Proof/Machine/Effects.lean ====
section
/-! DEFINITION. Accesses take effect (R241 to R246): loads, stores, returning atomics, contributions leaving the store
buffer; deterministic mode's staging log and ticket (R260 to R262); the host window at `.sys` scope (R259). -/

namespace Sys2Proof.Machine

/-! ### The host window (R259) -/

/-- Write the device-held bytes that pass a test to host memory; their copies stay, clean (R259). -/
def State.exportHost (s : State) (ok : Nat → HByte → Bool) : State :=
  let out := s.host.filterMap fun e => match e.2 with | some h => if ok e.1 h && e.1.testBit 51 then some (e.1, h) else none | none => none
  { s with
    mem := out.foldl (fun m e => SMap.set 0 m (e.1 % 2 ^ 52) e.2.val) s.mem
    host := out.foldl (fun m e => SMap.set none m e.1 (some { e.2 with writers := [] })) s.host }

/-- A partition's copies of host bytes are removed, and what the host has written there is shown (R259). The test is one of home
keys. -/
def State.dropHost (s : State) (ok : Nat → Bool) : State :=
  { s with host := s.host.filter fun e => !ok e.1, unseen := s.unseen.filter fun e => !ok e.1 }

/-- The lines with a byte that passes a test move out, each with all that has been written in it (R259). A line is the sector of 32 bytes
that every grain is made of (R191). Log 13 (DEDUCED). -/
def State.exportLines (s : State) (ok : HByte → Bool) : State :=
  let lines := distinct (s.host.filterMap fun e => match e.2 with | some h => if ok h then some (e.1 / 32) else none | none => none)
  s.exportHost fun key h => lines.contains (key / 32) && !h.writers.isEmpty

/-- A release at `.sys` scope moves out the lines that the path's threads have written (R259). -/
def State.sysRelease (s : State) (threads : List Nat) : State := s.exportLines fun h => h.writers.any fun w => threads.contains w.1
/-- An acquire at `.sys` scope removes every copy of host bytes that the partition has (R259). Log 13 (DEDUCED). -/
def State.sysAcquire (s : State) (part : Nat) : State := s.dropHost fun key => key / 2 ^ 52 == part

/-! ### What follows an access -/

/-- Count traffic for the team's demand (R361). How many DRAM bytes an access moves is open: a cache may hold them (log 7, DEDUCED). -/
def State.noteBytes (s : State) (team n : Nat) (space : Space) : State :=
  match space with
  | .scr => s
  | _ => s.modTeam team fun t => { t with bytes := t.bytes + Config.dramBytes team t.touches n, touches := t.touches + 1 }

/-- The bytes of a space that a store is about to replace. -/
def State.keepUndo (s : State) (c : Crew) (x : Acc) : State :=
  s.modCrew c.id fun c' => { c' with words := c'.words.map fun (w : Word) =>
    if w.wid == x.wid then { w with undo := w.undo ++ (List.range x.width).map fun k =>
      (x.space, x.addr + k, BitVec.ofNat 8 (s.readSpace c.team x.space (x.addr + k) 1)) } else w }

/-- An access of the recovery policy to a far page of an address space counts, and every 16th may start its migration, by a counter that
saturates at 65,535 (R210). -/
def State.countPage (s : State) (part asid root vpn : Nat) : State :=
    match s.findLeaf part vpn 3 root, s.part? part with
    | .leaf at_ 0 e, some q =>
      if e.far && q.migMode then
        let n := SMap.get 0 s.farCnt at_ + 1
        let s1 := { s with farCnt := SMap.set 0 s.farCnt at_ n }
        let cw := field q.migCost.toNat 15 0
        let reserve := field q.migCost.toNat 31 16
        if n % 16 = 0 ∧ Config.linkDepth s.time.toNat * cw < min n 65535 * 64 ∧ reserve < q.nearFree then
          s1.startMigration part asid root vpn
        else s1
      else s
    | _, _ => s

/-- An access of a crew to memory: far pages lie in the host aperture (R210). -/
def State.countFar (s : State) (c : Crew) (x : Acc) : State :=
  if x.space = .mem ∧ x.addr.testBit 51 then s.countPage (s.partOf c) (s.space c).1 (s.space c).2 (pageOf x.va) else s

/-- What follows the effect of an access: its queue entry goes, its word has the lane, its crew may retire. -/
def State.afterEffect (s : State) (c : Crew) (i : Nat) (x : Acc) (val : Option Nat) : State :=
  ((((s.modPath c.id i fun p => p.drop x.id).finishLane c.id x val).noteBytes c.team x.width x.space).countFar c x).settleCrew c.id

/-! ### When an access may take effect -/

/-- The access of this number in a list. -/
def accOf (xs : List Acc) (id : Nat) : Option Acc := xs.find? fun x => x.id == id

/-- In deterministic mode, an access that must wait for the team's ticket and the end of its log: a synchronising read, or a
write to a home (R260, R261). -/
def State.waitsTicket (s : State) (c : Crew) (x : Acc) : Bool :=
  x.space == .mem && (x.writes || x.acq) && s.behindTicket c

/-- The earlier writes that a load of the path may take its value from: the team's log and the path's store buffer. -/
def State.earlierWrites (s : State) (c : Crew) (i : Nat) (x : Acc) : List Acc :=
  (match s.teamOf c.team with | some t => t.log.map (·.1) | none => []) ++ earlierOf i (c.path i).sbuf x

/-- Some earlier write overlaps the load. -/
def overlaps (early : List Acc) (x : Acc) : Bool :=
  early.any fun y => y.space == x.space && decide (y.addr < x.addr + x.width) && decide (x.addr < y.addr + y.width)

/-- The value a load takes from stores that have not taken effect (R243, R260). Log 44 (DEDUCED). -/
def State.forwarded (s : State) (c : Crew) (i : Nat) (x : Acc) : Option Nat := forwardFrom (s.earlierWrites c i x) x

/-- The path after this load when it has read its granule, or the fault: the race detector compares it with the other crews' stores in
the team's log as well, which stand for the effects they are to have (R250, R260). -/
def State.observeLoad (s : State) (c : Crew) (i : Nat) (x : Acc) : Except State State :=
  let k := (c.path i).clockOf x
  let staged := match s.teamOf c.team with
    | some t => t.log.filterMap fun e => if e.1.space == x.space && e.1.addr / 32 == x.addr / 32 && !x.quiet then
        (s.crewOf e.2.crew).map fun d => s.dacc d e.1 else none
    | none => []
  let d : Det := ⟨.mem 0, staged, [], []⟩
  match d.race (s.dacc c x) false k with
  | some q => .error (s.raise (s.partOf c) (s.accCause c x) (some q.who))
  | none => s.observe c i x

/-- A load may take effect now (R243, R244, R248, R261). -/
def State.loadReady (s : State) (c : Crew) (i : Nat) (x : Acc) : Bool :=
  x.kind == .load && (c.path i).mayEffect i x && !s.waitsTicket c x
  && ((s.forwarded c i x).isSome
      || (!overlaps (s.earlierWrites c i x) x && (c.path i).granReady i x && s.hbReady c i x))

/-- A store, or a returning atomic, may take effect at its home now. -/
def State.writeReady (s : State) (c : Crew) (i : Nat) (x : Acc) (kind : AccKind) : Bool :=
  x.kind == kind && (c.path i).mayEffect i x && (c.path i).granReady i x && s.hbReady c i x && !s.waitsTicket c x

/-! ### The commutative buffers (R246) -/

/-- A write that releases at `.sys` scope has taken effect: the lines that its path has written move out, its own among them (R259). -/
def State.releasedSys (s : State) (c : Crew) (i : Nat) (x : Acc) : State :=
  if x.writes && ((x.rel && x.scope == 6) || x.fences.contains 6) then s.sysRelease ((c.path i).threads i x) else s

/-- Apply one contribution at the home of its granule (R241, R254). It passes the race detector as it merges; its scope instances are those
of where its crew stands then (R247). -/
def State.mergeItem (s : State) (x : Acc) (loc : Locus) : State :=
  match s.crewOf loc.crew with
  | none => s
  | some c =>
    let g := Gran.mem (x.addr / 32)
    let d := s.detOf g
    let a := s.dacc c x
    let k := x.clk.getD []
    match d.race a true k with
    | some q => (s.raise (s.partOf c) a.who (some q.who)).conflict c (c.entryOf x.thr) x
    | none =>
      let old := s.readSpace c.team .mem x.addr x.width
      let s1 := s.setDet ((d.note a true).merged (granBytes x.addr x.width) (s.releases c (c.path (c.entryOf x.thr)) x))
      ((s1.keepLate x).writeSpace c.team x.thr (s.lidOf c) .mem x.addr x.width (atomicNew x.op x.ty x.width old x.data x.expect)).releasedSys
        c (c.entryOf x.thr) x

/-- The partition of a contribution has stopped (R383). -/
def State.stopped? (s : State) (loc : Locus) : Bool := match s.crewOf loc.crew with | some c => s.stopping (s.partOf c) | none => false

/-- The contributions of an entry merge one by one, and its position is free with the last. The others stay in it where a conflicting pair
stops the partition (R246, R250). -/
def State.mergeItems (stand gran : Nat) : List (Acc × Locus) → State → State
  | [], s => s.modStand stand fun k => { k with cbuf := k.cbuf.filter fun f => f.gran != gran }
  | it :: rest, s =>
    if s.stopped? it.2 then s
    else State.mergeItems stand gran rest ((s.modStand stand fun k => { k with
      cbuf := k.cbuf.map fun f => if f.gran == gran then { f with items := rest } else f }).mergeItem it.1 it.2)

/-- Merge an entry of a stand's buffer and free its position (R246). -/
def State.mergeEntry (s : State) (stand : Nat) (e : CEnt) : State := State.mergeItems stand e.gran e.items s

/-- Merge the entries of every stand that pass a test, stand by stand. -/
def State.mergeWhere (s : State) (ok : CEnt → Bool) : State :=
  (s.stands.zipIdx).foldl (fun s k => (k.1.cbuf.filter ok).foldl (fun s e => s.mergeEntry k.2 e) s) s

/-- Every stand's entry for a granule merges before another access to it takes effect (R246). -/
def State.mergeGran (s : State) (g : Nat) : State := s.mergeWhere fun e => e.gran == g
/-- The entries that some of these threads contributed to merge before a release of theirs takes effect (R246). -/
def State.mergeThreads (s : State) (ts : List Nat) : State :=
  s.mergeWhere fun e => e.items.any fun it => ts.contains it.1.thr

/-- What a release does once the contributions of its threads have merged; nothing where that has stopped the partition (R246, R250). -/
def afterMerge (s : State) (c : Crew) (ts : List Nat) (release : State → Out) : Out :=
  let t := s.mergeThreads ts
  if t.stopping (s.partOf c) then .next t else release t

/-- A commutative atomic enters its stand's buffer (R246). -/
def State.contribute (s : State) (stand : Nat) (x : Acc) (loc : Locus) : State :=
  let g := x.addr / 32
  let buf := fun (s : State) => match s.stands[stand]? with | some k => k.cbuf | none => []
  let s1 := match (buf s).find? (fun e => e.gran == g) with
    | some e => if e.op = x.op ∧ e.ty = x.ty then s else s.mergeEntry stand e
    | none => s
  match (buf s1).find? (fun e => e.gran == g) with
  | some e =>
    if e.op = x.op ∧ e.ty = x.ty then s1.modStand stand fun k => { k with cbuf := k.cbuf.map fun e =>
      if e.gran == g then { e with items := e.items ++ [(x, loc)] } else e }
    else s1
  | none =>
    let s2 := if (buf s1).length < 512 then s1 else match (buf s1).head? with
      | some e => (s1.mergeEntry stand e).modStand stand fun k => { k with evict := satAdd32 k.evict 1 }
      | none => s1
    if 512 ≤ (buf s2).length then s2 else s2.modStand stand fun k => { k with cbuf := k.cbuf ++ [⟨g, x.op, x.ty, [(x, loc)]⟩] }

/-- What comes before an effect at a home: entries of its granule merge, and before a release those of its threads (R244, R246). -/
def State.beforeEffect (s : State) (c : Crew) (i : Nat) (x : Acc) : State :=
  let s1 := if x.writes && (x.rel || !x.fences.isEmpty) then s.mergeThreads ((c.path i).threads i x) else s
  if x.space = .mem && x.kind != .comm then s1.mergeGran (x.addr / 32) else s1

/-- An effect at a home, after what comes before it; none where that has stopped the partition (R246, R250). -/
def State.atHome (s : State) (c : Crew) (i : Nat) (x : Acc) (effect : State → State) : State :=
  let t := s.beforeEffect c i x
  if t.stopping (s.partOf c) then t else effect t

/-! ### Effects (R241) -/

/-- What a load with `.inv` returns: the value before or after a write, chosen for each access (R203; log 8, DEDUCED). -/
def State.invValue (s : State) (c : Crew) (x : Acc) (fwd : List (List Byte)) : Nat :=
  natOfBytes (pickView (Config.invView x.id) (fwd ++ s.views (s.launchFor c) x.addr x.width))
/-- The load has `.inv` and is one of memory. -/
def Acc.isInv (x : Acc) : Bool := x.quiet && x.space == .mem

/-- The other lanes of a pass of the broadcast class: one read serves them all (R200). -/
def Crew.mates (c : Crew) (i : Nat) (x : Acc) : List Acc :=
  match c.word? x.wid with
  | some w => if w.bcast.contains (x.lane / 32 - c.first) then
      (c.path i).queue.filter fun y => y.wid == x.wid && y.lane / 32 == x.lane / 32 && y.id != x.id && y.space == x.space && y.addr == x.addr
    else []
  | none => []

/-- A load has its value, and with it the other lanes of a broadcast pass; an acquire at `.sys` scope then removes the partition's host
copies (R200, R259). -/
def State.loaded (s : State) (c : Crew) (i : Nat) (x : Acc) (val : Nat) : State :=
  let s1 := (c.mates i x).foldl (fun s y => (s.modPath c.id i fun p => p.drop y.id).finishLane c.id y (some val)) s
  let s2 := s1.afterEffect c i x (some val)
  if x.acq && x.scope == 6 then s2.sysAcquire (s.partOf c) else s2

/-- A load takes effect: from earlier stores of its path or its team's log, or at its home (R241 to R243). -/
def State.loadEffect (s : State) (c : Crew) (i : Nat) (x : Acc) : State :=
  let sp := match c.word? x.wid with | some w => memSpec w.instr | none => specS .load x.width false
  (if (s.forwarded c i x).isSome then fun (f : State → State) => f s else s.atHome c i x) fun s1 => match s1.observeLoad c i x with
  | .error t => t.conflict c i x
  | .ok t => match s.forwarded c i x with
    | some v => t.loaded c i x (sp.extend (if x.isInv then s.invValue c x [bytesOfNat x.width v] else v))
    | none =>
      let t1 := t.cacheHost x.space x.addr x.width
      t1.loaded c i x (sp.extend (if x.isInv then t1.invValue c x [] else t1.readSpace c.team x.space x.addr x.width))

/-- LOAD_TAKES_EFFECT (R241). -/
def execLoadTakesEffect (r : PathRef) (id : Nat) (s : State) : Out :=
  match s.named r with
  | some (c, p) => match accOf p.queue id with
    | some x => if s.loadReady c r.path x then .next (s.loadEffect c r.path x) else .next s
    | none => .next s
  | none => .next s

/-- A store takes effect at its home (R241, R242, R245). -/
def State.storeEffect (s : State) (c : Crew) (i : Nat) (x : Acc) : State :=
  s.atHome c i x fun s1 => match s1.observe c i x with
  | .error t => t.conflict c i x
  | .ok t => (((t.keepUndo c x).writeSpace c.team x.thr (s.lidOf c) x.space x.addr x.width x.data).releasedSys c i x).afterEffect c i x none

/-- STORE_TAKES_EFFECT (R241). -/
def execStoreTakesEffect (r : PathRef) (id : Nat) (s : State) : Out :=
  match s.named r with
  | some (c, p) => match accOf p.sbuf id with
    | some x => if s.writeReady c r.path x .store then .next (s.storeEffect c r.path x) else .next s
    | none => .next s
  | none => .next s

/-- An atomic is performed at its home (R241, R254, R255): the old value is the lane's result. -/
def State.atomicEffect (s : State) (c : Crew) (i : Nat) (x : Acc) : State :=
  s.atHome c i x fun s1 => match s1.observe c i x with
  | .error t => t.conflict c i x
  | .ok t =>
    let old := t.readSpace c.team x.space x.addr x.width
    let t1 := (((t.keepUndo c x).writeSpace c.team x.thr (s.lidOf c) x.space x.addr x.width
      (atomicNew x.op x.ty x.width old x.data x.expect)).releasedSys c i x).afterEffect c i x (some old)
    if x.acq && x.scope == 6 then t1.sysAcquire (s.partOf c) else t1

/-- RETURNING_ATOMIC (R255), and the FP32 atomic add (R241). -/
def execReturningAtomic (r : PathRef) (id : Nat) (s : State) : Out :=
  match s.named r with
  | some (c, p) => match accOf p.queue id with
    | some x => if s.writeReady c r.path x .atomic then .next (s.atomicEffect c r.path x) else .next s
    | none => .next s
  | none => .next s

/-! ### Leaving the store buffer (R246, R260) -/

/-- A contribution may enter the commutative buffer now. -/
def State.leaveReady (s : State) (c : Crew) (i : Nat) (x : Acc) : Bool :=
  (c.path i).mayEffect i x && (c.path i).granReady i x && s.hbReady c i x
  && (if s.detMode c && !s.ticket c then x.space == .mem && (x.kind == .store || x.kind == .comm)
      else x.kind == .comm && !s.behindTicket c)

/-- A store that enters the staging log conflicts with loads that crews of its team have made before (R250, R260). -/
def State.stageRace (s : State) (c : Crew) (i : Nat) (x : Acc) : Option DAcc :=
  let mine := (s.crewsOf c.team).map (·.id)
  match x.gran c.team with
  | some g =>
    let d := s.detOf g
    ({ d with writes := [], reads := d.reads.filter fun r => mine.contains r.crew } : Det).race (s.dacc c x) true ((c.path i).clockOf x)
  | none => none

/-- The entry leaves: into the staging log, or into the stand's commutative buffer. Its clock goes with it. A contribution is an access to
its page as it leaves (R210). -/
def State.leave (s : State) (c : Crew) (i : Nat) (x : Acc) : State :=
  let p := c.path i
  let y := p.freeze x
  let s1 := s.modPath c.id i fun p => p.drop x.id
  if s.detMode c && !s.ticket c then
    match s.stageRace c i x with
    | some q => (s.raise (s.partOf c) (s.accCause c x) (some q.who)).conflict c i x
    | none =>
    (((s1.modTeam c.team fun t => { t with log := t.log ++ [(y, s.locus c)] }).finishLane c.id x none).noteBytes
      c.team x.width x.space).settleCrew c.id
  else s.atHome c i x fun t =>
    let u := t.contribute (s.locus c).stand y (s.locus c)
    if u.stopping (s.partOf c) then u
    else (((((u.modPath c.id i fun p => p.drop x.id).finishLane c.id x none).noteBytes c.team x.width x.space).countFar c x)).settleCrew c.id

/-- STORE_BUFFER_LEAVE (R246, R260). -/
def execStoreBufferLeave (r : PathRef) (id : Nat) (s : State) : Out :=
  match s.named r with
  | some (c, p) => match accOf p.sbuf id with
    | some x => if s.leaveReady c r.path x then .next (s.leave c r.path x) else .next s
    | none => .next s
  | none => .next s

/-- An access other than a contribution that fits the entry waits for its granule, or a contributing path has a release to
make (R246). Where the buffer is full, the contribution itself makes the oldest entry merge. -/
def State.mergeDue (s : State) (e : CEnt) : Bool :=
  s.crews.any fun c => c.paths.any fun p => (p.queue ++ p.sbuf).any fun x =>
    (x.space == .mem && x.addr / 32 == e.gran && !(x.kind == .comm && x.op == e.op && x.ty == e.ty))
    || (x.writes && (x.rel || !x.fences.isEmpty) && e.items.any fun it => (p.threads 0 x).contains it.1.thr)

/-- COMMUTATIVE_MERGE (R246): entry k of a stand's buffer merges at its home. -/
def execCommutativeMerge (stand k : Nat) (s : State) : Out :=
  match s.stands[stand]? with
  | some d => match d.cbuf[k]? with
    | some e => if s.mergeDue e then .next (s.mergeEntry stand e) else .next s
    | none => .next s
  | none => .next s

/-! ### Deterministic mode (R260 to R262) -/

/-- A staged store passes the race detector at its home: loads of its own team have been compared when one of the two came second within
the team (R250, R260). -/
def State.observeStaged (s : State) (c : Crew) (x : Acc) : Except State State :=
  let mine := (s.crewsOf c.team).map (·.id)
  let i := c.entryOf x.thr
  match x.gran c.team with
  | none => .ok s
  | some g =>
    let d := s.detOf g
    let a := s.dacc c x
    match ({ d with reads := d.reads.filter fun r => !mine.contains r.crew } : Det).race a true ((c.path i).clockOf x) with
    | some q => .error (s.raise (s.partOf c) a.who (some q.who))
    | none => .ok (s.setDet ((d.note a true).stored (granBytes x.addr x.width) false (s.releases c (c.path i) x)))

/-- A staged entry takes effect at its home: what it releases moves out as at any other store, and it counts as traffic there (R210, R259,
R361). -/
def State.releaseEntry (s : State) (x : Acc) (loc : Locus) : State :=
  match s.crewOf loc.crew with
  | none => s
  | some c =>
    let i := c.entryOf x.thr
    s.atHome c i x fun t =>
      let s1 := (t.noteBytes c.team x.width x.space).countFar c x
      if x.kind = .comm then
        let s2 := s1.mergeGran (x.addr / 32)
        if s2.stopping (s.partOf c) then s2 else s2.mergeItem x loc
      else match s1.observeStaged c x with
        | .error t => t.conflict c i x
        | .ok t => ((t.keepLate x).writeSpace c.team x.thr (s.lidOf c) x.space x.addr x.width x.data).releasedSys c i x

/-- A log's entries take effect in order, until a conflicting pair stops the partition (R250, R261). -/
def State.releaseLog (team : Nat) : List (Acc × Locus) → State → State
  | [], s => s
  | e :: es, s =>
    if s.stopped? e.2 then s else State.releaseLog team es ((s.modTeam team fun t => { t with log := es }).releaseEntry e.1 e.2)

/-- The team that holds a launch's ticket (R261). -/
def State.holder (s : State) (l : Launch) : Option Team :=
  s.teams.find? fun t => t.part == l.part && t.launch == l.lid && t.rank == l.ticket

/-- STAGING_LOG_RELEASE (R261): the ticket's holder writes its log to the homes, in log order. -/
def execStagingLogRelease (r : LaunchRef) (s : State) : Out :=
  match s.launchOf r.part r.launch with
  | some l => match s.holder l with
    | some t =>
      if l.blk.det && !t.log.isEmpty && s.live r.part then .next (State.releaseLog t.id t.log s) else .next s
    | none => .next s
  | none => .next s

/-- A team's effects have all taken effect, but for contributions in a commutative buffer. -/
def State.quietTeam (s : State) (t : Team) : Bool :=
  t.log.isEmpty && (s.crewsOf t.id).all (fun c => c.paths.all fun p => p.queue.isEmpty && p.sbuf.isEmpty)
  && !s.jobs.any (fun j => j.team == t.id)

/-- TICKET_PASS (R261): the holder has retired and its effects have taken effect; its contributions merge. -/
def execTicketPass (r : LaunchRef) (s : State) : Out :=
  match s.launchOf r.part r.launch with
  | some l => match s.holder l with
    | some t =>
      if l.blk.det && t.retired && s.quietTeam t && s.live r.part then
        let u := s.mergeWhere fun e => e.items.any fun it => it.2.team == t.id
        .next (if u.stopping r.part then u else u.modLaunch r.part r.launch fun l => { l with ticket := l.ticket + 1 })
      else .next s
    | none => .next s
  | none => .next s

end Sys2Proof.Machine
end

