-- ==== Sys2Proof/Machine/MemWords.lean ====
section
/-! DEFINITION. The memory words: VLD, VST, VST.slc, VPFX (R196 to R203), VAT and VATR (R253 to R256), SLD, SST, SLDK
(R204), FENCE and CWAIT (R251, R252), HANDOVER (R214), VLDS and VSTS (R228, R229), FPUSH and FPOP (R233, R234), WAIT
(R236). -/

namespace Sys2Proof.Machine

/-! ### Lane words on global memory -/

/-- Issue a lane memory word: its reservation (R118), the room of the staging log for its lanes outside the private window (R260, R262),
then its accesses. -/
def memWord (s1 : State) (c : Crew) (p : Path) (sel : Mask) (info : LaneInfo) (bc : List Nat) (ops : List Operand) : Out :=
  let sp := memSpec info.instr
  match s1.reserveAll c (reservations c sel ((info.writes.filter (· < 1024)).map c.physical)) with
  | .error kept => waitWant s1 stRegs (.kept kept)
  | .ok rs =>
    if (sp.kind == .store || sp.kind == .comm || sp.kind == .atomic)
        && s1.logFull c (sp.width * (ops.filter fun o => (privOffset o.ea).isNone).length) then waitFor s1 stTicket
    else .next (s1.issueMem c.id s1.curPath { newWord s1 p c info sel with ops := ops, bcast := bc, resv := rs } ops true
      fun q => q.intoSegment c info)

/-- The registers a memory word's address reads (R196, R228). -/
def addrRegs (b : Base) (wide : Bool) (x : BitVec 2) (a : BitVec 8) : List Nat :=
  (match b with | .sreg _ => [] | .vreg v => regPair wide v) ++ (if x = 0 then [] else [a.toNat])

/-- The wrapper's view of a layout M word. -/
def infoM (i : Instr) (w : LaneM) (wide load long : Bool) (counter : Option Nat) : LaneInfo where
  instr := i
  h := w.h
  reads := addrRegs w.base wide w.x w.a ++ (if load then [] else regPair w.ty.is64 w.c)
  writes := if load && long then regPair w.ty.is64 w.d else []
  late := []
  long := long
  counter := counter

/-- The operands of a layout M word on global memory (R197). -/
def opsM (c : Crew) (p : Path) (w : LaneM) (store : Bool) (sel : Mask) : List Operand :=
  (maskLanes 1024 sel).map fun l =>
    ⟨l, laneEa c p w.base w.x w.y w.a w.off.toInt l, 0, if store then laneData c w.c.toNat (LaneM.width w) l else 0⟩

/-- VLD (R199). In the private window each lane reads its own slot, so that such a pass is lane-varying (R184, R200). -/
def execVld (w : LaneM) (s : State) : Out :=
  let info := infoM (.vld w) w true true true (some 0)
  laneWord s info (fun _ => false) fun c p sel s1 =>
    memWord s1 c p sel info
      ((bcastGroups c sel w.base true w.x w.a).filter fun g =>
        (privOffset (laneEa c p w.base w.x w.y w.a w.off.toInt (32 * (c.first + g)))).isNone)
      (opsM c p w false sel)

/-- VST (R199). -/
def execVst (w : LaneM) (s : State) : Out :=
  let info := infoM (.vst w) w true false false (some 0)
  laneWord s info (fun _ => false) fun c p sel s1 => memWord s1 c p sel info [] (opsM c p w true sel)

/-- The launch of a crew is a cruise. -/
def State.isCruise (s : State) (c : Crew) : Bool := match s.blkOf c with | some b => b.cruise | none => false

/-- VST.slc (R201): a lane outside the team's own slice raises CRUISE_XSTORE. -/
def execVstSlc (w : LaneM) (s : State) : Out :=
  let info := infoM (.vstSlc w) w true false false (some 0)
  laneWord s info (fun c => !s.isCruise c) fun c p sel s1 =>
    match s.blkOf c with
    | none => waitFor s1 stOther
    | some b =>
      let at_ := laneOffset c p w fun _ => 0
      let start := s.sliceStart c b
      match (maskLanes 1024 sel).find? fun l => decide (at_ l < 0) || decide ((b.stride : Int) < at_ l + LaneM.width w) with
      | some l => .next (s1.fatalCruise c p true fcXstore (BitVec.ofInt 64 (start + at_ l)).toNat)
      | none => memWord s1 c p sel info [] ((maskLanes 1024 sel).map fun l =>
          ⟨l, BitVec.ofInt 64 (start + at_ l), 0, laneData c w.c.toNat (LaneM.width w) l⟩)

/-- The grains that a VPFX brings in: a lane that fails a check, needs a walk or would touch another slice is dropped (R202, R323). -/
def State.grainsOf (s : State) (c : Crew) (p : Path) (w : LaneM) (sel : Mask) : List Nat :=
  let sp := memSpec (.vpfx w)
  distinct ((maskLanes 1024 sel).filterMap fun l =>
    let ea := laneEa c p w.base w.x w.y w.a w.off.toInt l
    match s.check c p (some l) l ea (LaneM.width w) false false with
    | .go .mem pa _ => if (s.cruiseFault c (.vpfx w) sp ea false).isSome then none else some (pa / 32)
    | _ => none)

/-- VPFX (R202): grains come into caches, which no result shows, as traffic of the team (R361); it changes no register or memory state. -/
def execVpfx (w : LaneM) (s : State) : Out :=
  let i := Instr.vpfx w
  laneWord s (infoM i w true true false none) (fun _ => false) fun c p sel s1 =>
    .next (((s1.grainsOf c p w sel).foldl (fun s _ => s.noteBytes c.team 32 .mem) s1).advanceLane i.size)

/-! ### Atomics (R253 to R256) -/

/-- The registers an atomic reads as data: one, a pair, or four. -/
def atData (w : LaneAt) : List Nat :=
  if w.op = 6 then [w.c.toNat, w.c.toNat + 1, w.c.toNat + 2, w.c.toNat + 3] else regPair w.ty.is64 w.c

/-- The wrapper's view of an atomic. `.cas` reads its destination as the expected value. -/
def infoAt (i : Instr) (w : LaneAt) (ret : Bool) : LaneInfo where
  instr := i
  h := w.h
  reads := addrRegs w.base true w.x w.a ++ atData w ++ (if w.op = 9 then regPair w.ty.is64 w.d else [])
  writes := if ret then regPair w.ty.is64 w.d else []
  late := []
  long := ret
  counter := some 0

/-- The operands of an atomic (R255). -/
def opsAt (c : Crew) (p : Path) (w : LaneAt) (sel : Mask) : List Operand :=
  (maskLanes 1024 sel).map fun l =>
    ⟨l, laneEa c p w.base w.x w.y w.a w.off.toInt l
      , if w.op = 9 then w64 (laneData c w.d.toNat (LaneAt.width w) l) else 0
      , laneData c w.c.toNat (LaneAt.width w) l⟩

/-- An atomic word: illegal as `.fadd` in deterministic mode (R256), CRUISE_XSTORE in a cruise (R323). -/
def atomicWord (s : State) (i : Instr) (w : LaneAt) (ret : Bool) : Out :=
  let info := infoAt i w ret
  laneWord s info (fun c => decide (w.op = 7) && s.detMode c) fun c p sel s1 =>
    let ops := opsAt c p w sel
    if s.isCruise c then .next (s1.fatalCruise c p true fcXstore (match ops with | o :: _ => o.ea.toNat | [] => 0))
    else memWord s1 c p sel info [] ops

/-- VAT (R255). -/
def execVat (w : LaneAt) (s : State) : Out := atomicWord s (.vat w) w false
/-- VATR (R255). -/
def execVatr (w : LaneAt) (s : State) : Out := atomicWord s (.vatr w) w true

/-! ### Scalar accesses (R204) -/

/-- A word in flight of a scalar access. -/
def scalarInFlight (s : State) (p : Path) (i : Instr) (o : Operand) : Word where
  wid := s.nextId
  path := s.curPath
  instr := i
  spc := p.spc
  lpc := p.lpc
  iss := p.iss
  depth := p.link.length
  lcnt := p.lcnt
  lanes := 0
  slot := false
  counter := some 0
  dests := []
  shadow := 0
  prop := 0
  bcast := []
  resv := []
  vals := []
  ops := [o]
  owed := 0
  open_ := []
  srcs := []
  undo := []
  done := false

/-- The lane whose private slot a scalar access reaches (R185). -/
def Path.slotLane (p : Path) : Nat := (maskLowest p.faultLanes).getD 0

/-- The sources of a scalar word as they stood when it first issued (R206). -/
def Path.sources (p : Path) (a b : W64) : W64 × W64 := match p.want with | some (.held x y) => (x, y) | _ => (a, b)

/-- A path that waits for a walk keeps the sources of its scalar word. -/
def State.holdSources (s : State) (a b : W64) : State :=
  s.modCurPath fun p => if p.walks.isEmpty then p else { p with want := some (.held a b) }

/-- A scalar load or store at an address (R204). -/
def scalarMem (s : State) (i : Instr) (regs : List (BitVec 6)) (a b : Crew → W64) : Out :=
  withCur s fun c p =>
    if c.pending regs then waitFor s stInterlock
    else if 255 ≤ c.inflight s.curPath 0 then waitFor s stInterlock
    else
      let v := (a c, b c)
      let sp := memSpec i
      let o : Operand := ⟨p.slotLane, v.1, 0, v.2.toNat % 2 ^ (8 * sp.width)⟩
      if sp.kind == .store && (privOffset v.1).isNone && s.logFull c sp.width then waitFor s stTicket
      else .next (s.issueMem c.id s.curPath (scalarInFlight s p i o) [o] true fun q => q)

/-- The address of SLD and SST. -/
def scalarEa (c : Crew) (a : BitVec 6) (w : BitVec 3) (off : BitVec 10) : W64 :=
  c.sget a + w64 (scalarBytes w) * off.signExtend 64

/-- SLD (R204). -/
def execSld (d a : BitVec 6) (w : BitVec 3) (off : BitVec 10) (s : State) : Out :=
  scalarMem s (.sld d a w off) [d, a] (fun c => scalarEa c a w off) fun _ => 0
/-- SST (R204). -/
def execSst (d a : BitVec 6) (w : BitVec 3) (off : BitVec 10) (s : State) : Out :=
  scalarMem s (.sst d a w off) [d, a] (fun c => scalarEa c a w off) fun c => c.sget d

/-- The kernel argument word at a byte offset (R204). -/
def State.kargWord (s : State) (c : Crew) (off : Nat) : Option W64 :=
  match s.launchOf (s.partOf c) (s.lidOf c) with | some l => l.karg[off / 8]? | none => none

/-- SLDK (R204): the copy of the argument block; a bad offset is never offered to fault service (R205). -/
def execSldk (d a : BitVec 6) (k : BitVec 13) (s : State) : Out :=
  withCur s fun c p =>
    if c.pending [d, a] then waitFor s stInterlock
    else
      let off := c.sget a + 8 * k.setWidth 64
      if off.toNat % 8 ≠ 0 then scalarPageFault s c p 5 off
      else match s.kargWord c off.toNat with
      | none => scalarPageFault s c p 1 off
      | some v => .next ((s.modCur fun c => c.sset d v).advance 4)

/-! ### FENCE (R251) -/

/-- Every earlier access of the path that has left it has taken effect (R244, R260). -/
def State.effectsDone (s : State) (c : Crew) (p : Path) : Bool :=
  match s.teamOf c.team with
  | some t => t.log.all fun e => !(p.thr :: p.kin).contains e.1.thr
  | none => true

/-- The edges a FENCE with acquire forms with the releases its path's loads have read (R248). -/
def Path.fenceAcquire (p : Path) (scope next : Nat) : Path :=
  p.acquire (next - 1) ((p.facq.filter fun e => e.1.reaches scope e.2).foldl (fun k e => Clock.join k e.1.clk) [])

/-- FENCE (R251): it holds the path until its constraints on earlier accesses are met. -/
def execFence (order : BitVec 2) (scope : BitVec 3) (s : State) : Out :=
  withCur s fun c p =>
    let sc := scopeOf scope 5
    let acq := order.getLsbD 0
    let rel := order.getLsbD 1
    if p.iss.isSome then waitIssue s p
    else if rel && !s.effectsDone c p then waitFor s stTicket
    else if (acq && !p.queue.isEmpty) || (rel && !(p.queue.isEmpty && p.sbuf.isEmpty)) then waitFor s stOther
    else
      let ts := p.thr :: p.kin
      (if rel then afterMerge s c ts else fun f => f s) fun s1 =>
      let s2 := if rel && sc == 6 then s1.sysRelease ts else s1
      let s3 := if acq && sc == 6 then s2.sysAcquire (s.partOf c) else s2
      let s4 := s3.modCurPath fun p =>
        let q := if acq then p.fenceAcquire sc s.nextId else p
        if rel then { q with relF := if q.relF.contains sc then q.relF else q.relF ++ [sc] } else q
      .next (s4.advance 4)

/-! ### Translation of a scalar word that runs more than one step -/

/-- The path parks at a scalar word for fault service or migration, or takes PAGE_FAULT at once (R204 to R208, R211). -/
def State.parkScalar (s : State) (c : Crew) (p : Path) (w : Word) (cause : Nat) (ea a b : W64) : State :=
  let o : Operand := ⟨p.slotLane, ea, 0, 0⟩
  let k := s.classify c [⟨o, cause⟩]
  let s1 := if serviced cause then (k.2.2.2).dropPages c [pageOf ea] else k.2.2.2
  if !k.1.isEmpty then s1.pageFault c.id s.curPath false 4 (scalarFaults p cause ea)
  else
    let recs := if cause = 3 ∧ k.2.2.1.contains (pageOf ea) then ([], s1)
      else s1.recordPages c s.curPath 4 (fun _ => p.faultLanes) [⟨o, cause⟩]
    recs.2.modCur fun c => (c.modPath s.curPath fun p => { p with
      st := .fault, wait := none, want := some (.held a b), walked := []
      park := some { word := some w, lanes := p.faultLanes, reject := [], tags := recs.1, far := k.2.2.1 } }).trapPoint s.curPath

/-- The path parks without a fault record at a scalar word whose walk has met a pending frame; the word keeps its operands, as a save
records them (R213, R385). -/
def State.parkPending (s : State) (w : Word) (a b : W64) (vpn : Nat) : State :=
  s.modCur fun c => (c.modPath s.curPath fun p => { p with
    st := .fault, wait := none, want := some (.held a b), walks := [(vpn, false)]
    park := some { word := some w, lanes := p.faultLanes, reject := [], tags := [], far := [] } }).trapPoint s.curPath

/-- A scalar word whose address needs a walk keeps the sources it has read; it parks where the walk meets a pending frame (R193, R213). -/
def State.walkScalar (s : State) (c : Crew) (w : Word) (a b : W64) (vpn : Nat) : State :=
  if s.walkPends c vpn false then s.parkPending w a b vpn
  else (s.modCurPath fun p => { p with walks := [(vpn, false)], wait := some stWalk }).holdSources a b

/-! ### CWAIT (R252) -/

/-- The access of one read of a CWAIT, whose word has this number. -/
def cwaitAcc (s : State) (p : Path) (wid pa scope : Nat) (va : W64) (acq : Bool) : Acc where
  id := s.nextId
  thr := p.thr
  entry := s.curPath
  clk := none
  wid := wid
  lane := 0
  kind := .cwait
  space := .mem
  addr := pa
  width := 8
  data := 0
  expect := 0
  op := 0
  ty := .n64
  acq := acq
  rel := false
  scope := scope
  fences := []
  quiet := false
  acode := 4
  va := va
  spc := p.spc
  lpc := p.lpc
  scalar := true

/-- The test of a CWAIT. -/
def cwaitPasses (eq : Bool) (v b : W64) : Bool := if eq then v == b else decide (b.toNat ≤ v.toNat)

/-- The word of a CWAIT that the path waits at. -/
def Crew.cwaitWord (c : Crew) (i : Nat) : Option Word :=
  c.words.find? fun w => w.path == i && !w.done && (match w.instr with | .cwait .. => true | _ => false)

/-- A step has changed a granule since it was read with these contents: a write at its home, or a contribution that has yet to merge there
(R246, R252). -/
def State.granChanged (s : State) (g : Nat) (seen : Option Nat) : Bool :=
  seen != some (s.homePA (32 * g) 32) || s.stands.any fun k => k.cbuf.any fun e => e.gran == g

/-- One read of a CWAIT at a translated address, when the accesses before it allow it (R243, R244, R252), and no other until a step changes
the granule from what the read has seen. The word, which counts on the global in-flight counter, returns with the read that passes. -/
def cwaitRead (s : State) (c : Crew) (p : Path) (wid : Nat) (d : BitVec 6) (eq : Bool) (scope pa : Nat) (a b : W64)
    (seen : Option Nat) : Out :=
  let x := cwaitAcc s p wid pa scope a true
  let park := fun (t : State) (g : Option Nat) => t.modCurPath fun p => { p with want := some (.cwait pa a b g), wait := some stCounted }
  if seen.isSome && !s.granChanged (pa / 32) seen then .next (park s seen)
  else if s.behindTicket c || !(p.mayEffect s.curPath x && p.granReady s.curPath x && s.hbReady c s.curPath x && s.effectsDone c p) then .next (park s none)
  else
    let s0 := s.mergeGran (pa / 32)
    if s0.stopping (s.partOf c) then .next s0 else
    let s1 := s0.cacheHost .mem pa 8
    let v := w64 (s1.readSpace c.team .mem pa 8)
    let ok := cwaitPasses eq v b
    match { s1 with nextId := s1.nextId + 1 }.observe c s.curPath { x with acq := ok } with
    | .error t => .next (t.conflict c s.curPath x)
    | .ok t0 =>
      let t := (t0.noteBytes c.team 8 .mem).countFar c x
      if ok then
        let t1 := (t.modCur fun c => (c.modWord wid fun w => { w with done := true, owed := 0 }).sset d v).advance 4
        .next (if scope = 6 then t1.sysAcquire (s.partOf c) else t1)
      else .next (park t (some (t.homePA (pa / 32 * 32) 32)))

/-- CWAIT (R252). Log 29 (DEDUCED). -/
def execCwait (d a b : BitVec 6) (eq : Bool) (scope : BitVec 3) (s : State) : Out :=
  withCur s fun c p =>
    let i := Instr.cwait d a b eq scope
    let sc := scopeOf scope 5
    if p.iss.isSome then waitIssue s p
    else if c.pending [d, a, b] then waitFor s stInterlock
    else match p.want, c.cwaitWord s.curPath with
    | some (.cwait pa x y g), some w => cwaitRead s c p w.wid d eq sc pa x y g
    | _, w =>
      let v := p.sources (c.sget a) (c.sget b)
      if w.isNone && decide (255 ≤ c.inflight s.curPath 0) then waitFor s stInterlock
      else match s.check c p none p.slotLane v.1 8 false false with
      | .miss vpn => .next (s.walkScalar c (scalarInFlight s p i ⟨p.slotLane, v.1, 0, 0⟩) v.1 v.2 vpn)
      | .bad cause => .next (s.parkScalar c p (scalarInFlight s p i ⟨p.slotLane, v.1, 0, 0⟩) cause v.1 v.1 v.2)
      | .go _ pa _ => match s.cruiseFault c i (memSpec i) v.1 false with
        | some f => .next (s.fatalCruise c p false f.1 f.2)
        | none => match w with
          | some w => cwaitRead s c p w.wid d eq sc pa v.1 v.2 none
          | none =>
            let w := scalarInFlight s p i ⟨p.slotLane, v.1, 0, 0⟩
            let s1 := { s with nextId := s.nextId + 1 }.modCur fun c => { c with words := c.words ++ [w] }
            match s1.crewOf c.id with
            | some c1 => cwaitRead s1 c1 p w.wid d eq sc pa v.1 v.2 none
            | none => .next s1

/-! ### HANDOVER (R214) -/

/-- The translations of the pages of a region, walked one by one: the ranges of home keys, or the address and cause of the
page that fails, none for a frame that is pending (R193, R213). Log 30 (DEDUCED). -/
def State.walkRegion (s : State) (c : Crew) (p : Path) : List (W64 × Nat) → List (Nat × Nat) → (Except (W64 × Option Nat) (List (Nat × Nat))) × State
  | [], out => (.ok out, s)
  | (ea, n) :: rest, out =>
    match s.check c p none 0 ea 1 false false with
    | .bad cause => (.error (ea, some cause), s)
    | .go _ pa _ => State.walkRegion s c p rest (out ++ [(pa, n)])
    | .miss vpn =>
      let sp := s.space c
      match s.walk (s.partOf c) sp.1 sp.2 vpn false with
      | (.ok t, s1) =>
        State.walkRegion (s1.modCore ((s.coreOf c.team).getD 0) fun k => k.install t) c p rest (out ++ [(t.phys ea, n)])
      | (.bad cause, s1) => (.error (ea, some cause), s1)
      | (.pending _, s1) => (.error (ea, none), s1)

/-- The parts of a byte range that lie in one 64 KiB page each: address and length. -/
def pageParts (lo hi : Nat) : List (W64 × Nat) :=
  if hi ≤ lo then []
  else (List.range ((hi - 1) / 65536 - lo / 65536 + 1)).map fun k =>
    let b := max lo ((lo / 65536 + k) * 65536)
    let e := min hi ((lo / 65536 + k + 1) * 65536)
    (w64 b, e - b)

/-- A HANDOVER over its ranges of home keys (R214, R259). -/
def State.handoverEffect (s : State) (out : Bool) (rs : List (Nat × Nat)) : State :=
  let inside := fun (pa : Nat) => rs.any fun r => decide (r.1 ≤ pa) && decide (pa < r.1 + r.2)
  if out then s.exportHost fun key _ => inside key else s.dropHost inside

/-- Both directions of HANDOVER: the path then waits for HANDOVER_COMPLETE. -/
def handoverWord (s : State) (i : Instr) (out : Bool) (a b : BitVec 6) : Out :=
  withCur s fun c p =>
    if p.want = some .handover then waitFor s stOther
    else if p.iss.isSome then waitIssue s p
    else if c.pending [a, b] then waitFor s stInterlock
    else if out && s.isCruise c then .next (s.fatalCruise c p false fcXstore (c.sget a).toNat)
    else
      let v := p.sources (c.sget a) (c.sget b)
      if v.2 = 0 then .next (s.advance 4)
      else if out && !s.effectsDone c p then waitFor s stTicket
      else if out && !((p.queue.all fun x => !x.writes) && p.sbuf.isEmpty) then waitFor s stOther
      else
        (if out then afterMerge s c (p.thr :: p.kin) else fun f => f s) fun s0 => match s0.walkRegion c p (pageParts (v.1.toNat / 512 * 512) (roundUp (v.1.toNat + v.2.toNat) 512)) [] with
        | (.ok rs, s1) => waitWant (s1.handoverEffect out rs) stOther .handover
        | (.error (ea, some cause), s1) => .next (s1.parkScalar c p (scalarInFlight s p i ⟨p.slotLane, ea, 0, 0⟩) cause ea v.1 v.2)
        | (.error (ea, none), s1) => .next (s1.parkPending (scalarInFlight s p i ⟨p.slotLane, ea, 0, 0⟩) v.1 v.2 (pageOf ea))

/-- HANDOVER.in (R214). -/
def execHandoverIn (a b : BitVec 6) (s : State) : Out := handoverWord s (.handoverIn a b) false a b
/-- HANDOVER.out (R214). -/
def execHandoverOut (a b : BitVec 6) (s : State) : Out := handoverWord s (.handoverOut a b) true a b

/-- HANDOVER_COMPLETE (R214): the link has acknowledged, and the path goes on. -/
def execHandoverComplete (r : PathRef) (s : State) : Out :=
  match s.named r with
  | some (c, p) =>
    if p.want = some .handover then
      .next (s.modPath c.id r.path Path.pastWord)
    else .next s
  | none => .next s

/-! ### Scratchpad words (R228, R229) -/

/-- Lanes of a word take SCRATCH_RANGE, with sr.faddr their offset (R229). -/
def State.scratchFault (s : State) (c : Crew) (fs : List (Nat × Int)) : State :=
  if fs.isEmpty then s
  else
    let s1 := s.modCur fun c => { c with faddr := fs.foldl (fun m f => SMap.set 0 m f.1 (BitVec.ofInt 64 f.2)) c.faddr }
    match s1.crewOf c.id with
    | none => s1
    | some c' => s1.defer c' (c'.path s.curPath) true fcScratch 0 (maskOf (fs.map (·.1)))

/-- The scratchpad pages of some operands that are not pinned on the team's stand (R226). -/
def Team.unpinned (t : Team) (ops : List Operand) : List Nat :=
  distinct ((ops.map fun o => o.ea.toNat / 4096).filter fun g => !t.pins.any fun q => q.page == g)

/-- The accesses of a scratchpad word: lanes out of range are deferred; those on pinned pages enter the path's queue; for the others
the path waits until their pages are pinned, and keeps the word with its operands (R206, R226, R229). -/
def scratchWord (s : State) (i : Instr) (w : LaneM) (load : Bool) : Out :=
  let info : LaneInfo := infoM i w false load load (some 1)
  laneWord s info (fun _ => false) fun c p sel s1 =>
    match s1.teamOf c.team with
    | none => waitFor s1 stOther
    | some t =>
      let sp := memSpec i
      let at_ := laneOffset c p w fun l => match w.base with | .vreg v => ((c.vget v.toNat l).toNat : Int) | .sreg _ => 0
      let bad := fun (l : Nat) => decide (at_ l < 0) || decide ((t.scrLen : Int) < at_ l + sp.width) || decide (at_ l % (sp.width : Int) ≠ 0)
      let lanes := maskLanes 1024 sel
      let fine := lanes.filter fun l => !bad l
      match s1.reserveAll c (reservations c sel ((info.writes.filter (· < 1024)).map c.physical)) with
      | .error kept => waitWant s1 stRegs (.kept kept)
      | .ok rs =>
        let ops : List Operand := fine.map fun l =>
          ⟨l, BitVec.ofInt 64 (at_ l), 0, if load then 0 else laneData c w.c.toNat sp.width l⟩
        let pages := t.unpinned ops
        let later := ops.filter fun o => pages.contains (o.ea.toNat / 4096)
        let now := ops.filter fun o => !pages.contains (o.ea.toNat / 4096)
        let word : Word := { newWord s1 p c info sel with
          lanes := maskOf fine, owed := maskOf fine, ops := ops, resv := rs, done := fine.isEmpty
          bcast := bcastGroups c sel w.base false w.x w.a }
        let out := maskOf (lanes.filter bad)
        if out ≠ 0 ∧ (c.deferFatal p out).isSome then .next (s1.scratchFault c ((lanes.filter bad).map fun l => (l, at_ l)))
        else
        let accs := now.zipIdx.map fun o => mkAcc p word sp (s1.nextId + 1 + o.2) o.1 .scr o.1.ea.toNat
        let s2 := { s1 with nextId := s1.nextId + 1 + now.length }.modCur fun c =>
          let c1 := c.modPath s.curPath fun q => { (q.intoSegment c info).enqueue accs with refill := pages, want := none }
          { c1 with words := if fine.isEmpty then c1.words else c1.words ++ [word] }
        let s3 := s2.scratchFault c ((lanes.filter bad).map fun l => (l, at_ l))
        if pages.isEmpty then .next (s3.afterIssue c.id s.curPath word false false false)
        else .next (s3.modCurPath fun p => { p with
          wait := some stRefill, want := some .refill
          park := some { word := some word, lanes := maskOf (later.map (·.lane)), reject := [], tags := [], far := [] } })

/-- VLDS (R229). -/
def execVlds (w : LaneM) (s : State) : Out := scratchWord s (.vlds w) w true
/-- VSTS (R229). -/
def execVsts (w : LaneM) (s : State) : Out := scratchWord s (.vsts w) w false

/-! ### FIFOs (R232 to R234) -/

/-- A FIFO of the crew's team. -/
def State.fifoOf (s : State) (c : Crew) (f : Nat) : Option Fifo := match s.teamOf c.team with | some t => t.fifos[f]? | none => none
/-- The team has no FIFO of this number (R233). -/
def State.noFifo (s : State) (f : BitVec 3) (c : Crew) : Bool := (s.fifoOf c f.toNat).isNone

/-- FPUSH (R234): the word returns once its entries are appended, in issue order with the FPOPs of its counter (R235). One with `.rel` acts after every earlier access of its path (R244). -/
def execFpush (h : Hdr) (ty : Ty) (v : BitVec 8) (rel : Bool) (f : BitVec 3) (s : State) : Out :=
  let i := Instr.fpush h ty v rel f
  let info : LaneInfo :=
    { instr := i, h := h, reads := [v.toNat], writes := [], late := [], long := false, counter := some 2 }
  laneWord s info (s.noFifo f) fun c p sel s1 =>
    match s1.fifoOf c f.toNat with
    | none => waitFor s1 stFifo
    | some q =>
      let gs := c.passes sel
      if 64 < q.entries.length + gs.length then waitFor s1 stFifo
      else if rel && !s1.effectsDone c p then waitFor s1 stTicket
      else if rel && !(p.queue.isEmpty && p.sbuf.isEmpty) then waitFor s1 stOther
      else
        (if rel then afterMerge s1 c (p.thr :: p.kin) else fun f => f s1) fun s1 =>
        let src : Option RelSrc := if rel then some ⟨s1.locus c, 2, p.clockNow s1.nextId, false⟩ else none
        let es : List FEnt := gs.map fun g =>
          ⟨(List.range 32).map fun j => if (c.groupWord sel g).getLsbD j then c.vget v.toNat (32 * (c.first + g) + j) else 0, src⟩
        let s2 := { s1 with nextId := s1.nextId + 1 }.modCur fun d =>
          ({ d with words := d.words ++ [{ newWord s1 p c info sel with done := true }] }).purge
        .next ((s2.modTeam c.team fun t =>
          { t with fifos := modAt t.fifos f.toNat fun q => { q with entries := q.entries ++ es } }).advanceLane i.size)

/-- FPOP (R234): the entries leave as it issues, and LONG_LATENCY_WRITEBACK writes them. -/
def execFpop (h : Hdr) (ty : Ty) (d : BitVec 8) (acq : Bool) (f : BitVec 3) (s : State) : Out :=
  let i := Instr.fpop h ty d acq f
  let info : LaneInfo :=
    { instr := i, h := h, reads := [], writes := [d.toNat], late := [], long := true, counter := some 2 }
  laneWord s info (s.noFifo f) fun c p sel s1 =>
    match s1.fifoOf c f.toNat with
    | none => waitFor s1 stFifo
    | some q =>
      let gs := c.passes sel
      let es := q.entries.take gs.length
      if es.length < gs.length then
        waitFor s1 (match s1.reserveAll c (reservations c sel [c.physical d.toNat]) with | .error _ => stRegs | .ok _ => stFifo)
      else
        let vals := (gs.zip es).foldl (fun m e => (List.range 32).foldl (fun m j =>
          if (c.groupWord sel e.1).getLsbD j then SMap.set 0 m (32 * (c.first + e.1) + j) (e.2.vals.getD j 0).toNat else m) m) []
        match launchWord s1 c i.size info { newWord s1 p c info sel with vals := vals, done := true } with
        | .next t =>
          if (match t.crewOf c.id with | some e => (e.path s.curPath).wait.isSome | none => false) then .next t
          else
            let t1 := t.modTeam c.team fun m =>
              { m with fifos := modAt m.fifos f.toNat fun q => { q with entries := q.entries.drop gs.length } }
            let k := es.foldl (fun k e => match e.rel with
              | some r => if acq then Clock.join k r.clk else k
              | none => k) []
            .next (if acq then t1.acquireNow c.id s.curPath k else t1)
        | o => o

/-! ### WAIT (R236) -/

/-- What happens before the jobs of a path whose completion it observes (R257): jobs are kept by thread and token. -/
def Crew.jobsClock (c : Crew) (p : Path) : Clock :=
  (c.jobClk.filter fun e => (p.thr :: p.kin).contains (e.1 / 2 ^ 32)).foldl (fun k e => Clock.join k e.2) []

/-- WAIT (R236). -/
def execWait (a : BitVec 6) (path : BitVec 3) (s : State) : Out :=
  withCur s fun c p =>
    if p.iss.isSome then waitIssue s p
    else if c.pending [a] then waitFor s stInterlock
    else if (c.sget a).toNat % 256 < c.inflight s.curPath path.toNat then waitFor s stCounted
    else
      let s1 := if path = 3 then s.acquireNow c.id s.curPath (c.jobsClock p) else s
      .next (s1.advance 4)

end Sys2Proof.Machine
end

