-- ==== Sys2Proof/Machine/Paging.lean ====
section
/-! DEFINITION. The steps of the translation system: the end of a walk (R193), replay (R206), invalidation (R194, R195,
R215), freed frames and their scrub (R213), and migration (R211, R216). -/

namespace Sys2Proof.Machine

/-! ### TRANSLATION_WALK_DONE (R193, R213) -/

/-- Jobs that wait for a frame or a migration try again (R213, R277). -/
def wakeJobs (js : List Job) : List Job := js.map fun (j : Job) => if j.fault = some 0 then { j with fault := none } else j

/-- One walk of a path. A pending frame parks the path, without a record, until the walk succeeds (R213); a scalar word that runs more than
one step is tried again, and parks itself. Log 21 (DEDUCED). -/
def State.walkOne (s : State) (c : Crew) (i : Nat) (v : Nat × Bool) : State :=
  let sp := s.space c
  let gone := fun (s : State) => s.modPath c.id i fun p => { p with walks := p.walks.filter fun w => w.1 != v.1 }
  match s.walk (s.partOf c) sp.1 sp.2 v.1 v.2 with
  | (.ok t, s1) => gone (s1.modCore ((s.coreOf c.team).getD 0) fun k => k.install t)
  | (.bad cause, s1) => (gone (s1.dropPages c [v.1])).modPath c.id i fun p => { p with walked := p.walked ++ [(v.1, cause)] }
  | (.pending fs, s1) =>
    let p := match s1.crewOf c.id with | some d => d.path i | none => Path.empty
    let word : Bool := p.park.isNone && match p.want with | some (.held ..) => true | _ => false
    let s2 := s1.hurryScrub fs
    if p.st == .fault then s2
    else if word then gone s2
    else s2.modCrew c.id fun c => (c.modPath i fun p => { p with
      st := .fault
      park := p.park.or (some { word := none, lanes := p.faultLanes, reject := [], tags := [], far := [] }) }).trapPoint i

/-- TRANSLATION_WALK_DONE (R193). -/
def execTranslationWalkDone (r : PathRef) (s : State) : Out :=
  match s.named r with
  | some (c, p) =>
    if p.walks.isEmpty then .next s
    else
      let s1 := p.walks.foldl (fun s v => s.walkOne c r.path v) s
      .next (s1.modPath c.id r.path fun p => if p.walks.isEmpty then { p with wait := none } else p)
  | none => .next s

/-! ### WORD_REPLAY (R206) -/

/-- The path leaves its park and is ready, or is held. -/
def State.unpark (s : State) (cid i : Nat) : State := s.modPath cid i fun p => { p with park := none }.wake

/-- A rejected word of a scalar access ends: its result is not written. -/
def Crew.cancelWord (c : Crew) (wid : Nat) : Crew :=
  { c with words := c.words.filter fun (w : Word) => w.wid != wid, sPend := c.sPend.filter fun q => q.2 != wid }

/-- A parked scalar word, every record answered: PAGE_FAULT where one was rejected, else `again` (R204, R206). -/
def State.replayScalar (s : State) (c : Crew) (i : Nat) (p : Path) (k : Park) (w : Word) (again : State → State) : State :=
  match k.reject with
  | [] => again s
  | (_, cause) :: _ =>
    let ea := match w.ops with | o :: _ => o.ea | [] => 0
    ((s.modCrew c.id fun c => c.cancelWord w.wid).modPath c.id i fun p => { p with park := none, want := none }).pageFault c.id i false 4
      (scalarFaults p cause ea)

/-- A scratchpad word is issued again, or goes on after a refill: its pages must be pinned on the stand (R226, R227, R390). -/
def State.reissueScratch (s : State) (c : Crew) (i : Nat) (w : Word) (todo : List Operand) : State :=
  let pages := match s.teamOf c.team with | some t => t.unpinned todo | none => []
  if !pages.isEmpty then s.modPath c.id i fun p => { p with refill := pages, wait := some stRefill, want := some .refill }
  else
    let accs := todo.zipIdx.map fun o => mkAcc (c.path i) w (memSpec w.instr) (s.nextId + o.2) o.1 .scr o.1.ea.toNat
    { s with nextId := s.nextId + todo.length }.modPath c.id i fun p => p.enqueue accs

/-- A scratchpad word that waits for pages goes on over its unfinished lanes (R206, R229). -/
def State.replayScratch (s : State) (c : Crew) (i : Nat) (k : Park) (w : Word) : State :=
  let s1 := s.reissueScratch c i w (w.ops.filter fun o => k.lanes.getLsbD o.lane)
  if (match s1.crewOf c.id with | some d => (d.path i).refill.isEmpty | none => false) then s1.afterIssue c.id i w false false true
  else s1

/-- The replay of a parked path (R206). -/
def State.replay (s : State) (c : Crew) (i : Nat) (p : Path) (k : Park) : State :=
  match k.word with
  | none =>
    if k.reject.isEmpty then s.unpark c.id i
    else
      (s.modPath c.id i fun p => { p with park := none }).pageFault c.id i p.iss.isSome 3
        (k.reject.map fun e => (e.1, e.2, k.ea))
  | some w0 =>
    let w := (c.word? w0.wid).getD w0
    let scalarAgain := fun (s : State) => s.issueMem c.id i w w.ops false fun q => q
    match w.instr with
    | .cwait .. => s.replayScalar c i p k w fun s => s.unpark c.id i
    | .handoverIn .. => s.replayScalar c i p k w fun s => s.unpark c.id i
    | .handoverOut .. => s.replayScalar c i p k w fun s => s.unpark c.id i
    | .yjob .. => s.replayScalar c i p k w fun s => s.unpark c.id i
    | .launch .. => s.replayScalar c i p k w fun s => s.unpark c.id i
    | .sld .. => s.replayScalar c i p k w scalarAgain
    | .sst .. => s.replayScalar c i p k w scalarAgain
    | .vlds .. => s.replayScratch c i k w
    | .vsts .. => s.replayScratch c i k w
    | _ =>
      let sp := memSpec w.instr
      let rej := maskOf (k.reject.map (·.1))
      let eaOf := fun (l : Nat) => match w.ops.find? (fun o => o.lane == l) with | some o => o.ea | none => 0
      let s1 := (s.modCrew c.id fun c => c.cutLanes w.wid rej).modPath c.id i fun p => { p with park := some { k with reject := [], lanes := k.lanes &&& ~~~rej } }
      let s2 := s1.pageFault c.id i true sp.acode (k.reject.map fun e => (e.1, e.2, eaOf e.1))
      let todo := w.ops.filter fun o => (k.lanes &&& ~~~rej).getLsbD o.lane
      let w2 := { w with lanes := w.lanes &&& ~~~rej, owed := w.owed &&& ~~~rej }
      if todo.isEmpty then s2.afterIssue c.id i w2 false true true else s2.issueMem c.id i w2 todo false fun q => q

/-- A restored path whose replay slots have all been issued again goes on where it was saved, or stands parked at its
word (R390). A path whose re-issued word has faulted in place goes on from the record instead. -/
def Path.settleReplay (p : Path) : Path :=
  match p.goOn with
  | none => p
  | some r =>
    if !p.replay.isEmpty || p.park.isSome || !p.walks.isEmpty || !p.refill.isEmpty then p
    else if p.trap.isSome then { p with goOn := none }
    else { p with spc := r.spc, lpc := r.lpc, iss := r.iss, link := r.link, lcnt := r.lcnt, park := r.park, goOn := none
                  st := if r.park.isSome then .fault else p.st }

/-- The first replay slot of a restored path is issued again, over its owed lanes, with its recorded operands and at its own point (R374,
R389, R390). A QPOP owes its entries as it did. -/
def State.reissue (s : State) (c : Crew) (i : Nat) (w0 : Word) : State :=
  match c.word? w0.wid with
  | none => s.modPath c.id i fun p => { p with replay := p.replay.drop 1 }
  | some w =>
    let s1 := s.modPath c.id i fun p => { p.atWord w with wait := none }
    let todo := w.ops.filter fun o => (memSpec w.instr).scalar || w.owed.getLsbD o.lane
    let s2 := match w.instr with
      | .qpop .. => s1
      | .vlds .. => s1.reissueScratch c i w todo
      | .vsts .. => s1.reissueScratch c i w todo
      | _ => s1.issueMem c.id i w todo false fun q => q
    let more := match s2.crewOf c.id with | some d => !(d.path i).walks.isEmpty || !(d.path i).refill.isEmpty | none => false
    if more then s2 else s2.modPath c.id i fun p => { p with replay := p.replay.drop 1 }

/-- WORD_REPLAY (R206, R390): a parked path whose records are all answered, or a restored path with replay slots. -/
def execWordReplay (r : PathRef) (s : State) : Out :=
  match s.named r with
  | some (c, p) => match p.park with
    | some k =>
      if k.tags.isEmpty && k.far.isEmpty && p.walks.isEmpty && p.refill.isEmpty then
        .next ((s.replay c r.path p k).modPath c.id r.path Path.settleReplay)
      else .next s
    | none => match p.replay with
      | w :: _ => if p.walks.isEmpty && p.refill.isEmpty then .next ((s.reissue c r.path w).modPath c.id r.path Path.settleReplay) else .next s
      | [] => .next (s.modPath c.id r.path Path.settleReplay)
  | none => .next s

/-! ### Invalidation (R194, R195, R215) -/

/-- INVALIDATION_GO (R215): a write to MC_INV_CTL. -/
def execInvalidationGo (part : Nat) (v : W64) (s : State) : Out :=
  .next (s.modPart part fun q =>
    let q1 := { q with invAsid := v.extractLsb' 0 12 }
    if !v.getLsbD 12 then q1
    else if 16 ≤ q.invQ.length then { q1 with full := true }
    else { q1 with full := false, issued := q.issued + 1
                   invQ := q.invQ ++ [(q.invBase, q.invLen, (v.extractLsb' 0 12).toNat)] })

/-- The byte lies in the range of an invalidation; a length of 0 means all ranges. -/
def inRange (r : W64 × W64 × Nat) (lo n : Nat) : Bool :=
  r.2.1 == 0 || (decide (lo < r.1.toNat % 2 ^ 52 + r.2.1.toNat) && decide (r.1.toNat % 2 ^ 52 < lo + n))

/-- The crew runs in this address space of this partition. -/
def State.inSpace (s : State) (part asid : Nat) (c : Crew) : Bool := s.partOf c == part && (s.space c).1 == asid

/-- An access to memory that passes a test stands in a queue or store buffer of some crews. -/
def State.inQueues (s : State) (ok : Crew → Bool) (hit : Acc → Bool) : Bool :=
  s.crews.any fun c => ok c && c.paths.any fun p => (p.queue ++ p.sbuf).any fun x => x.space == .mem && hit x

/-- An access that has been translated and has not reached its home passes a test: it stands in a queue of some crews, or in the staging
log of their team. -/
def State.flyingOf (s : State) (ok : Crew → Bool) (hit : Acc → Bool) : Bool :=
  s.inQueues ok hit || s.teams.any fun t => t.log.any fun e => e.1.space == .mem && hit e.1 && (match s.crewOf e.2.crew with | some c => ok c | none => false)

/-- A load of a crew has a lane's value, whose operand passes a test, and has not returned: its destination is still to be written, or its
other lanes are on their way (R235). A word at which its path is parked holds nothing back (R195). -/
def Crew.unreturned (c : Crew) (hit : Operand → Bool) : Bool :=
  c.words.any fun w => (w.slot || !w.done || c.sPend.any fun q => q.2 == w.wid)
    && (memSpec w.instr).kind == .load && !w.ops.isEmpty
    && (match (c.path w.path).park with | some k => (match k.word with | some v => v.wid != w.wid | none => true) | none => true)
    && w.ops.any fun o => (w.done || ((memSpec w.instr).scalar == false && (w.lanes &&& ~~~w.owed).getLsbD o.lane)) && hit o

/-- An access of an address space to a range of virtual bytes has been translated, and has not reached its home or has not returned
(R194). -/
def State.flying (s : State) (part asid : Nat) (r : W64 × W64 × Nat) : Bool :=
  s.flyingOf (s.inSpace part asid) (fun x => inRange r (x.va.toNat % 2 ^ 52) x.width)
  || s.crews.any fun c => s.inSpace part asid c && (s.coreOf c.team).isSome && c.unreturned fun o => inRange r (o.ea.toNat % 2 ^ 52) 8

/-- Mark the record of a tag stale, where it is held or stands unread in the ring (R195). -/
def State.markStale (s : State) (part tag : Nat) : State :=
  match s.part? part with
  | none => s
  | some q =>
    let n := q.fqSize.toNat
    let used := if n = 0 then 0 else (q.fqTail.toNat + n - q.fqHead.toNat % n) % n
    let at_ := fun (k : Nat) => q.fqBase.toNat % 2 ^ 52 + 32 * ((q.fqHead.toNat + k) % n)
    let s1 := (List.range used).foldl (fun s k => if s.rdPA (at_ k + 28) 4 = tag then s.wrPA (at_ k + 21) 1 1 else s) s
    let mark := fun (r : List Byte) => if natOfBytes ((r.drop 28).take 4) = tag then setAt r 21 1 else r
    s1.modPart part fun q => { q with fqHeld := q.fqHeld.map mark }

/-- Paths parked on a page of a range replay, jobs that wait for one try again, and their records are stale (R195). -/
def State.staleFaults (s : State) (part asid : Nat) (hit : Nat → Bool) : State :=
  let tags := s.crews.flatMap fun (c : Crew) => if s.inSpace part asid c then c.paths.flatMap fun (p : Path) =>
    match p.park with
    | some k => (k.tags.filter fun t => hit t.2.2.2).map (·.1)
    | none => [] else []
  let waits := fun (j : Job) => j.part == part && (match s.launchOf part j.lid with | some l => l.blk.asid == asid | none => false)
    && hit j.page && (match j.fault with | some (_ + 1) => true | _ => false)
  let jtags := s.jobs.filterMap fun (j : Job) => if waits j then j.fault.map (· - 1) else none
  let s1 := (tags ++ jtags).foldl (fun s t => s.markStale part t) s
  { s1 with
    jobs := s1.jobs.map fun (j : Job) => if waits j then { j with fault := none } else j
    crews := s1.crews.map fun (c : Crew) => if s.inSpace part asid c then { c with paths := c.paths.map fun (p : Path) =>
      match p.park with
      | some k => { p with park := some { k with tags := k.tags.filter fun t => !tags.contains t.1 } }
      | none => p } else c }

/-- INVALIDATION_COMPLETE (R194): the oldest invalidation has swept, and what was translated before it has reached its
home. Log 32 (DEDUCED). -/
def execInvalidationComplete (part : Nat) (s : State) : Out :=
  match s.part? part with
  | some q => match q.invQ with
    | r :: rest =>
      if s.flying part r.2.2 r then .next s
      else
        let s1 := s.mergeWhere fun e => e.items.any fun it => inRange r (it.1.va.toNat % 2 ^ 52) it.1.width
        let s2 := s1.sweep fun t => t.part == part && t.asid == r.2.2 && inRange r (t.vpn * 2 ^ 16) (pagesOf t.level * 2 ^ 16)
        let s3 := s2.staleFaults part r.2.2 fun v => inRange r (v * 2 ^ 16) (2 ^ 16)
        .next (s3.modPart part fun q => { q with invQ := rest, done := q.done + 1 })
    | [] => .next s
  | none => .next s

/-! ### Frames (R212, R213) -/

/-- A frame is freed: its translations are swept, and it waits for its scrub (R213). -/
def State.freeFrame (s : State) (part f : Nat) : State :=
  (s.sweep fun t => !t.pa.testBit 51 && decide (t.pa / 2 ^ 16 ≤ f) && decide (f < t.pa / 2 ^ 16 + pagesOf t.level)).pendFrame part f

/-- FRAME_FREE (R213): a write to MC_FRAME_FREE. -/
def execFrameFree (part : Nat) (v : W64) (s : State) : Out :=
  if 4 * 3145728 ≤ field v.toNat 35 0 then .next s else .next (s.freeFrame part (field v.toNat 35 0))

/-- The bytes of a range removed from a sparse memory: they read zero. -/
def clearRange {α : Type} (m : SMap α) (lo n : Nat) : SMap α := m.filter fun e => !(decide (lo ≤ e.1) && decide (e.1 < lo + n))

/-- A CWAIT that waits has been translated to an address of a frame. -/
def State.cwaitOn (s : State) (f : Nat) : Bool :=
  s.crews.any fun c => c.paths.any fun p => match p.want with | some (.cwait pa ..) => pa / 2 ^ 16 == f | _ => false

/-- An access has been translated to a frame, and has not reached its home or has not returned: a load that has its value counts whatever
its frame, and so does a CWAIT, which may read the frame again (R193, R194, R213). Log 32 (DEDUCED). -/
def State.frameFlying (s : State) (f : Nat) : Bool :=
  s.flyingOf (fun _ => true) (fun x => x.addr / 2 ^ 16 == f) || s.cwaitOn f
  || s.crews.any fun c => (s.coreOf c.team).isSome && c.unreturned fun _ => true

/-- SCRUB_COMPLETE (R213): a scrub job that a yarder runs ends: the frame reads zero, and nothing of what it held can be read again. -/
def execScrubComplete (frame : Nat) (s : State) : Out :=
  let mine := fun (j : Job) => j.kind == .scrub frame
  if s.jobs.any (fun j => mine j && j.at_.isSome) && !s.frameFlying frame then
    let s1 := s.mergeWhere fun e => e.gran / 2 ^ 11 == frame
    .next { s1.setFrame frame { s.frame frame with state := 0 } with
      past := s1.past.map fun e => if e.1 / 2 ^ 16 ≤ frame ∧ frame * 2 ^ 16 < e.1 + e.2.length then (e.1, []) else e
      mem := clearRange s1.mem (frame * 2 ^ 16) (2 ^ 16)
      jobs := wakeJobs (s1.jobs.filter fun j => !mine j) }
  else .next s

/-! ### Migration (R211, R216) -/

/-- NEAR_RING_SET (R216). -/
def execNearRingSet (part : Nat) (v : W64) (s : State) : Out :=
  .next (s.modPart part fun q => { q with nearReg := w64 (field v.toNat 51 0), nearHead := 0, nearTail := 0 })
/-- RELEASED_RING_SET (R216). -/
def execReleasedRingSet (part : Nat) (v : W64) (s : State) : Out :=
  .next (s.modPart part fun q => { q with relReg := w64 (field v.toNat 51 0), relHead := 0, relTail := 0 })

/-- An address of the old frame becomes one of the new. -/
def Mig.move (m : Mig) (pa : Nat) : Nat := if m.old ≤ pa ∧ pa < m.old + 2 ^ 16 then m.new_ + (pa - m.old) else pa

/-- The page's bytes in the new frame, as the device sees them (R211). -/
def State.copyPage (s : State) (m : Mig) : State :=
  let here := fun {α : Type} (lo : Nat) (xs : SMap α) => xs.filter fun e => decide (lo ≤ e.1) && decide (e.1 < lo + 2 ^ 16)
  let base := clearRange s.mem m.new_ (2 ^ 16)
  let mem1 := (here (m.old % 2 ^ 52) s.mem).foldl (fun x e => SMap.set 0 x (m.new_ + (e.1 - m.old % 2 ^ 52)) e.2) base
  let mem2 := (here m.old s.unseen).foldl (fun x e => match e.2 with | some b => SMap.set 0 x (m.move e.1) b | none => x) mem1
  let mem3 := (here m.old s.host).foldl (fun x e => match e.2 with | some h => SMap.set 0 x (m.move e.1) h.val | none => x) mem2
  { s with
    mem := mem3, host := clearRange s.host m.old (2 ^ 16), unseen := clearRange s.unseen m.old (2 ^ 16)
    past := s.past.map fun e => (m.move e.1, e.2) }

/-- What the machine keeps by physical address follows the page: staged stores, a CWAIT's address, the race detector's
records. Log 31 (DEDUCED). -/
def State.follow (s : State) (m : Mig) : State :=
  { s with
    teams := s.teams.map fun (t : Team) => { t with log := t.log.map fun e => ({ e.1 with addr := m.move e.1.addr }, e.2) }
    crews := s.crews.map fun (c : Crew) => { c with paths := c.paths.map fun (p : Path) =>
      { p with want := match p.want with | some (.cwait pa a b g) => some (.cwait (m.move pa) a b g) | w => w } }
    det := s.det.map fun (d : Det) => match d.gran with | .mem n => { d with gran := .mem (m.move (32 * n) / 32) } | _ => d }

/-- MIGRATION (R211): the job has copied the page; its leaf is rewritten, the old translation swept, the frame posted. -/
def execMigration (part leaf : Nat) (s : State) : Out :=
  match s.part? part with
  | some q => match q.migs.find? (fun m => m.leaf == leaf) with
    | some m =>
      let mine := fun (j : Job) => j.part == part && j.kind == .migrate leaf
      if s.jobs.any (fun j => mine j && j.at_.isSome) && !s.inQueues (fun _ => true) (fun x => x.addr / 2 ^ 16 == m.old / 2 ^ 16)
          && decide (0 < q.relFree) then
        let s1 := ((s.mergeWhere fun e => e.gran / 2 ^ 11 == m.old / 2 ^ 16).copyPage m).follow m
        let raw := s1.homePA leaf 8
        let s2 := s1.wrHome none part 0 leaf 8 (raw - bitAt (raw.testBit 5) 5 - field raw 51 12 * 4096 + m.new_)
        let s3 := (s2.sweep fun t => t.part == part && (m.pages.any (fun v => t.covers v.1 part v.2) || t.level == 0 && homeKey part t.pa == m.old)).postReleased
          part (m.old % 2 ^ 51)
        .next { s3 with
          farCnt := SMap.set 0 s3.farCnt leaf 0
          jobs := s3.jobs.filter fun j => !mine j }
      else .next s
    | none => .next s
  | none => .next s

/-- MIGRATION_COMPLETE (R211): accesses parked on the page replay. -/
def execMigrationComplete (part leaf : Nat) (s : State) : Out :=
  match s.part? part with
  | some q => match q.migs.find? (fun m => m.leaf == leaf) with
    | some m =>
      if s.jobs.any (fun j => j.part == part && j.kind == .migrate leaf) then .next s
      else
        let s1 := s.modPart part fun q => { q with migs := q.migs.filter fun n => n.leaf != leaf }
        let land := fun (asid : Nat) (p : Path) => { p with park := p.park.map fun k => { k with far := k.far.filter fun v => !m.pages.contains (asid, v) } }
        let each := fun (c : Crew) => if s.partOf c == part then { c with paths := c.paths.map (land (s.space c).1) } else c
        .next { s1 with crews := s1.crews.map each, jobs := wakeJobs s1.jobs }
    | none => .next s
  | none => .next s

end Sys2Proof.Machine
end

