-- ==== Sys2Proof/Machine/Scalar.lean ====
section
/-! DEFINITION. The scalar arithmetic words (R149 to R157) and the scalar mask words (R161). -/

namespace Sys2Proof.Machine

/-- A scalar word that reads and writes scalar registers only: it waits while one of them has a pending write (R48),
and then writes d and advances. -/
def scalarWord (s : State) (d : BitVec 6) (srcs : List (BitVec 6)) (size : Nat) (val : Crew → W64) : Out :=
  withCur s fun c _ =>
    if c.pending (d :: srcs) then waitFor s stInterlock
    else .next ((s.modCur fun c => c.sset d (val c)).advance size)

/-- A two-source scalar word (R149, R150). -/
def scalarAlu (s : State) (d a : BitVec 6) (b : SSrc) (f : W64 → W64 → W64) : Out :=
  scalarWord s d (a :: SSrc.regs b) (SSrc.size b) fun c => f (c.sget a) (c.srcS b)

/-- A two-source scalar word whose literal is zero-extended (R149). -/
def scalarAluN (s : State) (d a : BitVec 6) (b : SSrc) (f : W64 → W64 → W64) : Out :=
  scalarWord s d (a :: SSrc.regs b) (SSrc.size b) fun c => f (c.sget a) (c.srcN b)

/-- A scalar word over an immediate of 13 bits, sign-extended (R156). -/
def scalarImm (s : State) (d a : BitVec 6) (k : W64) (f : W64 → W64 → W64) : Out :=
  scalarWord s d [a] 4 fun c => f (c.sget a) k

/-- SADD (R150). -/
def execSadd (d a : BitVec 6) (b : SSrc) (s : State) : Out := scalarAlu s d a b (· + ·)
/-- SSUB (R150). -/
def execSsub (d a : BitVec 6) (b : SSrc) (s : State) : Out := scalarAlu s d a b (· - ·)
/-- SMUL (R150). -/
def execSmul (d a : BitVec 6) (b : SSrc) (s : State) : Out := scalarAlu s d a b (· * ·)
/-- SMULH (R150). -/
def execSmulh (d a : BitVec 6) (b : SSrc) (s : State) : Out := scalarAlu s d a b mulhS
/-- SMULHN (R150). -/
def execSmulhn (d a : BitVec 6) (b : SSrc) (s : State) : Out := scalarAluN s d a b mulhN
/-- SAND (R150). -/
def execSand (d a : BitVec 6) (b : SSrc) (s : State) : Out := scalarAlu s d a b (· &&& ·)
/-- SOR (R150). -/
def execSor (d a : BitVec 6) (b : SSrc) (s : State) : Out := scalarAlu s d a b (· ||| ·)
/-- SXOR (R150). -/
def execSxor (d a : BitVec 6) (b : SSrc) (s : State) : Out := scalarAlu s d a b (· ^^^ ·)
/-- SSHL (R150). -/
def execSshl (d a : BitVec 6) (b : SSrc) (s : State) : Out := scalarAlu s d a b shl64
/-- SSHR (R150). -/
def execSshr (d a : BitVec 6) (b : SSrc) (s : State) : Out := scalarAlu s d a b shr64
/-- SSAR (R150). -/
def execSsar (d a : BitVec 6) (b : SSrc) (s : State) : Out := scalarAlu s d a b sar64
/-- SMIN (R150). -/
def execSmin (d a : BitVec 6) (b : SSrc) (s : State) : Out := scalarAlu s d a b minS
/-- SMAX (R150). -/
def execSmax (d a : BitVec 6) (b : SSrc) (s : State) : Out := scalarAlu s d a b maxS
/-- SMINN (R150). -/
def execSminn (d a : BitVec 6) (b : SSrc) (s : State) : Out := scalarAluN s d a b minN
/-- SMAXN (R150). -/
def execSmaxn (d a : BitVec 6) (b : SSrc) (s : State) : Out := scalarAluN s d a b maxN

/-- A division (R151): a zero divisor raises DIVIDE_ZERO, and where m0 is empty writes a value of its own instead. -/
def scalarDiv (s : State) (d a : BitVec 6) (b : SSrc) (src : Crew → SSrc → W64) (zero : W64 → W64)
    (f : W64 → W64 → W64) : Out :=
  withCur s fun c p =>
    if c.pending (d :: a :: SSrc.regs b) then waitFor s stInterlock
    else if src c b = 0 ∧ p.m0 ≠ 0 then scalarFault s c p fcDivide 0
    else .next ((s.modCur fun c =>
      c.sset d (if src c b = 0 then zero (c.sget a) else f (c.sget a) (src c b))).advance (SSrc.size b))

/-- SDIV (R151). -/
def execSdiv (d a : BitVec 6) (b : SSrc) (s : State) : Out := scalarDiv s d a b Crew.srcS (fun _ => 0) divS
/-- SDIVN (R151). -/
def execSdivn (d a : BitVec 6) (b : SSrc) (s : State) : Out := scalarDiv s d a b Crew.srcN (fun _ => 0) divN
/-- SREM and SREM.n (R151); both sign-extend a literal (R149). -/
def execSrem (n : Bool) (d a : BitVec 6) (b : SSrc) (s : State) : Out :=
  scalarDiv s d a b Crew.srcS (fun x => x) (if n then remN else remS)

/-- SCMP (R152). -/
def execScmp (cc : BitVec 4) (d : BitVec 3) (a : BitVec 6) (b : SSrc) (s : State) : Out :=
  withCur s fun c _ =>
    if c.pending (a :: SSrc.regs b) then waitFor s stInterlock
    else .next ((s.modCur fun c => c.cset d (condValue (scmpHolds cc.toNat (c.sget a) (c.srcS b)))).advance (SSrc.size b))

/-- SSEL (R153). -/
def execSsel (d a : BitVec 6) (b : SSrc) (k : BitVec 3) (s : State) : Out :=
  scalarWord s d (a :: SSrc.regs b) (SSrc.size b) fun c => if (c.cget k).getLsbD 0 then c.sget a else c.srcS b
/-- SBFE (R154). -/
def execSbfe (sgn : Bool) (d a : BitVec 6) (b : SSrc) (s : State) : Out := scalarAlu s d a b (bfe64 sgn)
/-- SPOPC (R155). -/
def execSpopc (d a : BitVec 6) (s : State) : Out :=
  scalarWord s d [a] 4 fun c => w64 (popNat 64 (c.sget a).toNat)
/-- SCLZ (R155). -/
def execSclz (d a : BitVec 6) (s : State) : Out :=
  scalarWord s d [a] 4 fun c => w64 (clzNat 64 (c.sget a).toNat)
/-- SLIT (R157). -/
def execSlit (d : BitVec 6) (lit : W32) (s : State) : Out := scalarWord s d [] 8 fun _ => lit.signExtend 64
/-- SLIT.hi (R157). -/
def execSlitHi (d a : BitVec 6) (lit : W32) (s : State) : Out :=
  scalarWord s d [a] 8 fun c => litHi lit (c.sget a)
/-- SLI (R157). -/
def execSli (d : BitVec 6) (imm : BitVec 19) (s : State) : Out := scalarWord s d [] 4 fun _ => imm.signExtend 64
/-- SADDI (R156). -/
def execSaddi (d a : BitVec 6) (imm : BitVec 13) (s : State) : Out := scalarImm s d a (imm.signExtend 64) (· + ·)
/-- SANDI (R156). -/
def execSandi (d a : BitVec 6) (imm : BitVec 13) (s : State) : Out := scalarImm s d a (imm.signExtend 64) (· &&& ·)
/-- SORI (R156). -/
def execSori (d a : BitVec 6) (imm : BitVec 13) (s : State) : Out := scalarImm s d a (imm.signExtend 64) (· ||| ·)
/-- SXORI (R156). -/
def execSxori (d a : BitVec 6) (imm : BitVec 13) (s : State) : Out := scalarImm s d a (imm.signExtend 64) (· ^^^ ·)
/-- SSHLI (R156). -/
def execSshli (d a : BitVec 6) (k : BitVec 6) (s : State) : Out := scalarImm s d a (k.setWidth 64) shl64
/-- SSHRI (R156). -/
def execSshri (d a : BitVec 6) (k : BitVec 6) (s : State) : Out := scalarImm s d a (k.setWidth 64) shr64

/-! ### Mask words (R161) -/

/-- A mask word that writes m[d], after the wait of R158 (R161). -/
def maskWord (s : State) (d : BitVec 4) (f : Crew → Path → Mask) : Out :=
  withCur s fun c p => afterEarlier s c p <| .next ((s.setMask d (f c p)).advance 4)

/-- MAND (R161). -/
def execMand (d a b : BitVec 4) (s : State) : Out := maskWord s d fun c p => c.mget p a &&& c.mget p b
/-- MOR (R161). -/
def execMor (d a b : BitVec 4) (s : State) : Out := maskWord s d fun c p => c.mget p a ||| c.mget p b
/-- MXOR (R161). -/
def execMxor (d a b : BitVec 4) (s : State) : Out := maskWord s d fun c p => c.mget p a ^^^ c.mget p b
/-- MNOT (R161). -/
def execMnot (d a : BitVec 4) (s : State) : Out := maskWord s d fun c p => ~~~c.mget p a
/-- MEXEC (R161). -/
def execMexec (a : BitVec 4) (s : State) : Out := maskWord s 0 fun c p => c.mget p a
/-- MPOP (R161). -/
def execMpop (d : BitVec 6) (a : BitVec 4) (s : State) : Out :=
  withCur s fun c p => afterEarlier s c p <| scalarWord s d [] 4 fun c => w64 (maskCount (c.mget p a))

end Sys2Proof.Machine
end

