-- ==== Sys2Proof/Machine/RegStore.lean ====
section
/-! DEFINITION. The words of the register store: REGGROW, REGSHRINK, TAGOF, ROTSET (R117 to R123), and those of the
proposal bank: PROPOSE, ABANDON, PSTAT, ACCEPT (R136 to R141). -/

namespace Sys2Proof.Machine

/-- The crew with N raised to the target; its new group-registers are uniform zero (R117). -/
def Crew.grow (c : Crew) (d : BitVec 6) (target : Nat) : Crew :=
  { c with nRegs := target, v := c.v.filter fun e => decide (e.1 / 32 < c.nRegs) || decide (target ≤ e.1 / 32) }.sset d 0

/-- The units REGGROW asks for (R117). -/
def Crew.growNeed (c : Crew) (target : Nat) : Nat := (target - c.nRegs) * c.groups * 8

/-- REGGROW (R117). -/
def execReggrow (d : BitVec 6) (wait : Bool) (target : BitVec 9) (s : State) : Out :=
  withCur s fun c _ =>
    if c.pending [d] then waitFor s stInterlock
    else if target.toNat ≤ c.nRegs then .next ((s.modCur fun c => c.sset d 0).advance 4)
    else if c.growNeed target.toNat ≤ s.crewFree c then .next ((s.modCur fun c => c.grow d target.toNat).advance 4)
    else if wait then waitWant s stRegs (.grow d target.toNat)
    else .next ((s.modCur fun c => c.sset d 1).advance 4)

/-- The units of the live registers from `target` to N − 1 (R119). -/
def Crew.unitsFrom (c : Crew) (target : Nat) : Nat :=
  (List.range ((c.nRegs - target) * c.groups)).foldl (fun n k =>
    n + (c.liveReg (target + k / c.groups) (k % c.groups)).cost) 0

/-- REGSHRINK (R119). -/
def execRegshrink (d : BitVec 6) (target : BitVec 9) (s : State) : Out :=
  withCur s fun c p =>
    let t := target.toNat
    if c.busyRegs ((List.range (c.nRegs - t)).map (· + t)) then waitFor s stMarker
    else if c.pending [d] then waitFor s stInterlock
    else if (decide (0 < c.rot) && decide (t < 128 + c.rot))
        || (match c.prop with | some w => decide (t < w.base + w.len) | none => false) then
      scalarFault s c p fcIllegal 0
    else if c.nRegs ≤ t then .next ((s.modCur fun c => c.sset d 0).advance 4)
    else .next ((s.modCur fun c =>
      { c with nRegs := t, v := c.v.filter fun e => decide (e.1 / 32 < t) || decide (248 ≤ e.1 / 32) }.sset d
        (w64 (c.unitsFrom t))).advance 4)

/-- TAGOF (R120): the live group-register, also of a window register. -/
def execTagof (d a : BitVec 6) (v : BitVec 8) (s : State) : Out :=
  withCur s fun c p =>
    let r := c.physical v.toNat
    if p.iss.isSome then waitIssue s p
    else if c.owesWrite s.curPath r then waitFor s stMarker
    else if c.pending [d, a] then waitFor s stInterlock
    else
      let g := (c.sget a).toNat
      let x := c.liveReg r g
      .next ((s.modCur fun c => c.sset d
        (if c.groups ≤ g ∨ c.present r = false then 0 else w64 (x.tag + x.cls * 4 + x.cost * 16))).advance 4)

/-- The region v128 to v(127 + r) overlaps the open window (R123). -/
def Crew.rotOverlaps (c : Crew) (r : Nat) : Bool :=
  match c.prop with
  | some w => decide (0 < r) && decide (128 < w.base + w.len) && decide (w.base < 128 + r)
  | none => false

/-- ROTSET (R123). -/
def execRotset (size : BitVec 7) (s : State) : Out :=
  withCur s fun c p =>
    if p.iss.isSome then waitIssue s p
    else if c.rotOverlaps c.rot || c.rotOverlaps size.toNat then scalarFault s c p fcIllegal 0
    else if c.nRegs < 128 + size.toNat then scalarFault s c p fcRange 0
    else .next ((s.modCur fun c => { c with rot := size.toNat, rotb := 0 }).advance 4)

/-! ### The proposal bank -/

/-- The cost of a window in units (R136). -/
def Crew.windowCost (c : Crew) (base len : Nat) : Nat :=
  (List.range (len * c.groups)).foldl (fun n k => n + (c.liveReg (base + k / c.groups) (k % c.groups)).cost) 0

/-- Open a proposal over the lanes of a mask (R136): its shadow is a copy of the live window. -/
def Crew.openProp (c : Crew) (base len : Nat) (m0 : Mask) : Crew :=
  { c with
    propNo := c.propNo + 1
    prop := some { base := base, len := len, lanes := m0, defer := 0, touched := []
                   shadow := (List.range (len * c.groups)).foldl (fun m k =>
                     SMap.set (.uni 0) m (32 * (k / c.groups) + k % c.groups) (c.liveReg (base + k / c.groups) (k % c.groups))) [] } }

/-- A window that breaks R135 against the crew's R: it overlaps the rotating region. -/
def Crew.badWindow (c : Crew) (base len : Nat) : Bool :=
  decide (0 < c.rot) && decide (128 < base + len) && decide (base < 128 + c.rot)

/-- PROPOSE (R136). -/
def execPropose (base : BitVec 8) (len : BitVec 4) (s : State) : Out :=
  withCur s fun c p =>
    let b := base.toNat
    let n := len.toNat + 1
    if c.badWindow b n then scalarFault s c p fcIllegal 0 else noHandler s c p 0 <|
    if p.iss.isSome then waitIssue s p
    else if c.busyRegs ((List.range n).map (· + b)) then waitFor s stMarker
    else if p.m0 = 0 then .next (s.advance 4)
    else if c.prop.isSome then scalarFault s c p fcProposal 0
    else if c.nRegs < b + n then scalarFault s c p fcRange 0
    else if s.crewFree c < c.windowCost b n then waitWant s stRegs (.units (c.windowCost b n))
    else .next ((s.modCur fun c => c.openProp b n p.m0).advance 4)

/-- A long-latency write or late read of a register of the open window is outstanding (R139, R140). -/
def Crew.windowBusy (c : Crew) : Bool :=
  match c.prop with
  | some w => c.busyRegs ((List.range w.len).map (· + w.base))
  | none => false

/-- ABANDON (R140). -/
def execAbandon (s : State) : Out :=
  withCur s fun c p =>
    if p.iss.isSome then waitIssue s p
    else if c.windowBusy then waitFor s stMarker
    else .next ((s.modCur fun c => c.close p.m0 none).advance 4)

/-- The state word of PSTAT (R141). -/
def Crew.propWord64 (c : Crew) : W64 :=
  match c.prop with
  | some w => w64 (1 + bitAt (w.defer != 0) 1 + w.base * 2 ^ 8 + (w.len - 1) * 2 ^ 16 + maskCount w.lanes * 2 ^ 32)
  | none => 0

/-- PSTAT (R141). It follows every earlier ACCEPT of the path, so it waits for the pending ISSUE. -/
def execPstat (d : BitVec 6) (sel : BitVec 2) (s : State) : Out :=
  withCur s fun _ p =>
    if p.iss.isSome then waitIssue s p
    else scalarWord s d [] 4 fun c =>
      let sum := fun (m : SMap W32) => w64 ((maskLanes 1024 p.m0).foldl (fun n l => n + (SMap.get 0 m l).toNat) 0)
      match sel.toNat with
      | 0 => c.propWord64
      | 1 => sum c.propd
      | _ => sum c.acpt

/-! ### Random streams (R352, R353) -/

/-- A quarter round of ChaCha. -/
def quarter (x : List W32) (a b c d : Nat) : List W32 :=
  let va := x.getD a 0
  let vb := x.getD b 0
  let vc := x.getD c 0
  let vd := x.getD d 0
  let a1 := va + vb
  let d1 := (vd ^^^ a1).rotateLeft 16
  let c1 := vc + d1
  let b1 := (vb ^^^ c1).rotateLeft 12
  let a2 := a1 + b1
  let d2 := (d1 ^^^ a2).rotateLeft 8
  let c2 := c1 + d2
  let b2 := (b1 ^^^ c2).rotateLeft 7
  setAt (setAt (setAt (setAt x a a2) b b2) c c2) d d2

/-- A double round. -/
def doubleRound (x : List W32) : List W32 :=
  let x := quarter x 0 4 8 12
  let x := quarter x 1 5 9 13
  let x := quarter x 2 6 10 14
  let x := quarter x 3 7 11 15
  let x := quarter x 0 5 10 15
  let x := quarter x 1 6 11 12
  let x := quarter x 2 7 8 13
  quarter x 3 4 9 14

/-- The block function with 8 rounds (R352). -/
def chacha8 (x : List W32) : List W32 :=
  let y := doubleRound (doubleRound (doubleRound (doubleRound x)))
  (x.zip y).map fun p => p.1 + p.2

/-- Draw number n of a stream (R352). -/
def drawWord (seed : W32) (lane idx : Nat) (tag n : W32) : W32 :=
  (chacha8 [0x61707865, 0x3320646E, 0x79622D32, 0x6B206574, seed, 0, 0, 0, 0, 0, 0, 0,
    w32 (n.toNat / 16), w32 lane, w32 idx, tag]).getD (n.toNat % 16) 0

/-- Draw number D + k of a lane of the crew (R352). -/
def State.draw (s : State) (c : Crew) (lane k : Nat) : Nat :=
  let t := s.teamOf c.team
  let seed := match s.launchOf (s.partOf c) (s.lidOf c) with
    | some l => if l.blk.cruise then w32 l.blk.seed else 0
    | none => 0
  (drawWord seed lane (match t with | some t => t.idx | none => 0) c.rstream (SMap.get 0 c.draw lane + w32 k)).toNat

/-- The crew after these lanes have taken k draws each. -/
def Crew.drawn (c : Crew) (lanes : Mask) (k : Nat) : Crew :=
  { c with draw := (maskLanes 1024 lanes).foldl (fun m l => SMap.set 0 m l (SMap.get 0 m l + w32 k)) c.draw }

/-- RANDF as a natural number over 2^24 or 2^53: u = n / 2^24, in (0, 1] (R353). -/
def randF32 (x0 : Nat) : Nat := x0 / 2 ^ 8 + 1
/-- RANDF.f64 of two draws, over 2^53. -/
def randF64 (x0 x1 : Nat) : Nat := (x0 + 2 ^ 32 * x1) / 2 ^ 11 + 1

/-! ### ACCEPT (R139) -/

/-- The test of a lane: no NaN, and log2 u below r; with a hardware draw u = n / 2^24 (R139). -/
def acceptTest (r x : Nat) (n : Option Nat) : Bool :=
  let rv := FFmt.f32.value r
  match n with
  | some n => !rv.isNan && drawBelow n 24 rv
  | none => (FFmt.f32.value x).lt rv

/-- ACCEPT (R139). A void one waits for the window's registers too. Log 52 (DESIGN CHOICE). -/
def execAccept (h : Hdr) (d : BitVec 4) (a : BitVec 8) (b : Option (BitVec 8)) (s : State) : Out :=
  let i := Instr.accept h d a b
  let info : LaneInfo :=
    { instr := i, h := h, late := [], long := false, counter := none
      reads := a.toNat :: (match b with | some r => [r.toNat] | none => [])
      writes := if d = 0 then [] else [maskReg d.toNat] }
  withCur s fun c _ =>
    if c.windowBusy then waitFor s stMarker
    else laneWord s info (fun _ => false) fun c p sel s1 =>
      match c.prop with
      | none => laneFault s1 c p i.size fcProposal 0 sel
      | some w =>
        let lanes := sel &&& w.lanes
        let t := maskOf ((maskLanes 1024 lanes).filter fun l =>
          acceptTest (c.vget a.toNat l).toNat (match b with | some r => (c.vget r.toNat l).toNat | none => 0)
            (match b with | some _ => none | none => some (randF32 (s.draw c l 0))))
        let s2 := s1.modCur fun c => (if b.isNone then c.drawn lanes 1 else c).close lanes (some t)
        let s3 := if d = 0 then s2 else s2.setMaskBits d sel t
        .next (s3.advanceLane i.size)

end Sys2Proof.Machine
end

