-- ==== Sys2Proof/Machine/Stand.lean ====
section
/-! DEFINITION. The banks of a stand: their modes, lending and drains (R218 to R223), pinned scratchpad pages (R226),
accumulator tiles (R230, R231), FIFO slots (R232); and the grants that waiting words receive (R117, R118, R221, R226,
R231). -/

namespace Sys2Proof.Machine

/-! ### What a stand holds (R218 to R225) -/

/-- The teams resident on a stand. -/
def State.standTeams (s : State) (k : Nat) : List Team :=
  s.teams.filter fun t => match t.core with | some c => standOfCore c == k | none => false

/-- The mode of a bank. -/
def State.bankMode (s : State) (k b : Nat) : Nat := match s.stands[k]? with | some d => d.modes.getD b 0 | none => 0
/-- A bank is being drained (R221, R223). -/
def State.draining (s : State) (k b : Nat) : Bool := match s.stands[k]? with | some d => d.drains.contains b | none => false

/-- The banks that a waiting BANKSET is moving. -/
def State.moving (s : State) (k : Nat) : List Nat :=
  s.crews.flatMap fun c => match s.coreOf c.team with
    | some core => if standOfCore core == k then c.paths.flatMap fun (p : Path) => match p.want with
        | some (.banks _ _ ms _) => ms
        | _ => [] else []
    | none => []

/-- The frames of a team's pinned pages and tiles. -/
def Team.frames (t : Team) : List Nat := t.pins.map (·.frame) ++ t.tiles.flatMap (·.frames)
/-- The frames in use on a stand. -/
def State.usedFrames (s : State) (k : Nat) : List Nat := (s.standTeams k).flatMap Team.frames

/-- A team's part of reserved_total: its pages, and 64 for each allotted tile (R223, R225). -/
def Team.reserved (t : Team) : Nat := t.scrLen / 4096 + 64 * (t.tiles.filter (·.allot)).length
/-- reserved_total (R223). -/
def State.reservedTotal (s : State) (k : Nat) : Nat := (s.standTeams k).foldl (fun n t => n + t.reserved) 0
/-- The scratchpad-mode banks of a stand. -/
def State.scrBanks (s : State) (k : Nat) : List Nat := (List.range 32).filter fun b => s.bankMode k b == 1
/-- The pool (R223). -/
def State.pool (s : State) (k : Nat) : Nat := 32 * (s.scrBanks k).length
/-- The frames of the pool that no BANKSET is taking away: what placement and a tile count while it drains (R225, R230).
Log 55 (DESIGN CHOICE). -/
def State.keptPool (s : State) (k : Nat) : Nat := 32 * ((s.scrBanks k).filter fun b => !(s.moving k).contains b).length
/-- The lent count (R223). -/
def State.lentCount (s : State) (k : Nat) : Nat := (s.pool k - s.reservedTotal k) / 32
/-- The lent banks: the highest scratchpad-mode banks without a page or a tile frame, up to the lent count, but for
those being drained (R223). -/
def State.lentBanks (s : State) (k : Nat) : List Nat :=
  (((s.scrBanks k).filter fun b => !(s.usedFrames k).any fun f => f / 32 == b).reverse.take (s.lentCount k)).filter
    fun b => !s.draining k b

/-- The banks that were lent and are no more are drained before use (R223). -/
def State.reclaim (s : State) (k : Nat) (before : List Nat) : State :=
  let gone := before.filter fun b => !(s.lentBanks k).contains b
  s.modStand k fun d => { d with drains := d.drains ++ gone.filter fun b => !d.drains.contains b }

/-- The free frames of scratchpad-mode banks that are neither lent nor being moved, lowest bank first (R226, R230);
those of banks being drained last. -/
def State.freeFrames (s : State) (k : Nat) : List Nat :=
  let used := s.usedFrames k
  let ok := (s.scrBanks k).filter fun b => !(s.lentBanks k).contains b && !(s.moving k).contains b
  let all := (ok.filter fun b => !s.draining k b) ++ ok.filter fun b => s.draining k b
  (all.flatMap fun b => (List.range 32).map fun f => 32 * b + f).filter fun f => !used.contains f

/-- The FIFO slots of a stand in use (R232). -/
def State.usedSlots (s : State) (k : Nat) : List Nat := (s.standTeams k).flatMap fun t => t.fifos.map (·.place)
/-- The free FIFO slots of a stand (R225, R232). -/
def State.freeSlots (s : State) (k : Nat) : List Nat :=
  ((List.range 32).filter fun b => s.bankMode k b == 2 && !(s.moving k).contains b).flatMap (fun b =>
    (List.range 16).map fun i => 16 * b + i) |>.filter fun x => !(s.usedSlots k).contains x

/-! ### BANKSET (R221) -/

/-- Give these banks their new mode. -/
def State.setModes (s : State) (k : Nat) (bs : List Nat) (mode : Nat) : State :=
  s.modStand k fun d => { d with modes := d.modes.zipIdx.map fun m => if bs.contains m.2 then mode else m.1 }

/-- A BANKSET that waits for its drains: its number, crew and entry, its register, its banks and their new mode. -/
structure BankWait where
  no   : Nat
  crew : Nat
  path : Nat
  d    : BitVec 6
  ms   : List Nat
  mode : Nat
  deriving DecidableEq, Repr

/-- The BANKSETs that wait on a stand, in the order in which they came (R221). -/
def State.bankWaits (s : State) (k : Nat) : List BankWait :=
  sortBy (·.no) (s.crews.flatMap fun c => match s.coreOf c.team with
    | some core => if standOfCore core == k then c.paths.zipIdx.filterMap fun p => match p.1.want with
        | some (.banks no d ms mode) => some ⟨no, c.id, p.2, d, ms, mode⟩
        | _ => none
      else []
    | none => [])

/-- The mode that the BANKSETs so far leave a bank in: that of the last which still waits for it, else its own (R221). -/
def State.modeSoon (s : State) (k b : Nat) : Nat :=
  match ((s.bankWaits k).filter fun w => w.ms.contains b).getLast? with | some w => w.mode | none => s.bankMode k b

/-- The conditions under which BANKSET answers 1 (R221). -/
def State.bankBusy (s : State) (k : Nat) (moving : List Nat) : Bool :=
  moving.any (fun b => (s.modeSoon k b == 1 && (s.usedFrames k).any fun f => f / 32 == b)
    || (s.modeSoon k b == 2 && (s.usedSlots k).any fun x => x / 16 == b))
  || (moving.any (fun b => s.modeSoon k b == 1)
    && decide (32 * ((List.range 32).filter fun b => s.modeSoon k b == 1 && !moving.contains b).length < s.reservedTotal k))

/-- BANKSET (R221): it ends at once where no bank is drained for it and no earlier one still waits for a bank of its own. Log 47 (DEDUCED). -/
def execBankset (d a : BitVec 6) (mode : BitVec 2) (s : State) : Out :=
  withCur s fun c p =>
    let k := standOfCore ((s.coreOf c.team).getD 0)
    match p.want with
    | some (.banks ..) => waitFor s stOther
    | _ =>
      if p.iss.isSome then waitIssue s p
      else if c.pending [d, a] then waitFor s stInterlock
      else
        let answer := fun (s : State) (v : W64) => Host.Outcome.next ((s.modCur fun c => c.sset d v).advance 4)
        let moving := (List.range 32).filter fun b => (c.sget a).getLsbD b && s.modeSoon k b != mode.toNat
        if !(match s.blkOf c with | some b => b.bankctl | none => false) then answer s 2
        else if s.bankBusy k moving then answer s 1
        else
          let drains := moving.filter fun b => s.modeSoon k b == 0 || (s.lentBanks k).contains b || s.draining k b
          if drains.isEmpty && !(s.bankWaits k).any (fun w => moving.any w.ms.contains) then answer (s.setModes k moving mode.toNat) 0
          else
            let s1 := s.modStand k fun t => { t with drains := t.drains ++ drains.filter fun b => !t.drains.contains b }
            waitWant { s1 with nextId := s.nextId + 1 } stOther (.banks s.nextId d moving mode.toNat)

/-- A BANKSET whose banks are drained, and that no earlier one for one of them precedes, sets their modes, answers 0 and goes on. -/
def State.endBankset (s : State) (k : Nat) (w : BankWait) : State :=
  if w.ms.any (fun b => s.draining k b) || (s.bankWaits k).any (fun v => decide (v.no < w.no) && v.ms.any w.ms.contains) then s
  else (s.setModes k w.ms w.mode).modCrew w.crew fun c =>
    (c.modPath w.path Path.pastWord).sset w.d 0

/-- The jobs of a stand that wait for a free frame go on (R226). -/
def State.wakeStand (s : State) (k : Nat) : State :=
  { s with jobs := s.jobs.flatMap fun (j : Job) => if (s.standTeams k).any (fun t => t.id == j.team) then wakeJobs [j] else [j] }

/-- BANK_DRAIN_DONE (R221, R223): the BANKSETs that can end do so in the order in which they came, and yarder jobs that wait for a
frame go on. -/
def execBankDrainDone (stand bank : Nat) (s : State) : Out :=
  if s.draining stand bank then
    let s1 := (s.modStand stand fun d => { d with drains := d.drains.filter fun b => b != bank }).wakeStand stand
    .next ((s1.bankWaits stand).foldl (fun s w => s.endBankset stand w) s1)
  else .next s

/-! ### Who is first (R117, R231) -/

/-- The waiting paths of some cores whose want passes a test, in ascending core, crew slot and path index. -/
def State.waiters (s : State) (onCore : Nat → Bool) (ok : Want → Bool) : List (Nat × Nat) :=
  (sortBy (fun (w : Nat × Nat × Nat) => w.1)
    (s.crews.flatMap fun c => match s.coreOf c.team with
      | some core => if onCore core && !c.retired then
          ((List.range 8).filter fun i => (c.path i).st == .ready && match (c.path i).want with | some w => ok w | none => false).map
            fun i => (core * 128 + c.slot * 8 + i, c.id, i)
        else []
      | none => [])).map fun w => w.2

/-! ### Tiles (R230, R231) -/

/-- A tile of a team. -/
def Team.tile (t : Team) (k : Nat) : Tile := t.tiles.getD k ⟨false, false, 0, 0, [], []⟩
/-- Change a tile of a team. -/
def Team.modTile (t : Team) (k : Nat) (f : Tile → Tile) : Team := { t with tiles := modAt t.tiles k f }

/-- The pool has 64 frames for another tile (R231). -/
def State.tileRoom (s : State) (k : Nat) : Bool := decide (64 ≤ s.keptPool k - s.reservedTotal k)

/-- Allot a tile of a team: its frames, and the drain of the banks it takes back (R223, R230). -/
def State.allotTile (s : State) (k team t : Nat) : State :=
  let before := s.lentBanks k
  let s1 := s.modTeam team fun m => m.modTile t fun _ => ⟨true, false, 0, 0, [], []⟩
  let s2 := s1.reclaim k before
  s2.modTeam team fun m => m.modTile t fun x => { x with frames := (s2.freeFrames k).take 64 }

/-- A tile's frames have been drained. -/
def State.tileDrained (s : State) (k : Nat) (x : Tile) : Bool := !x.frames.any fun f => s.draining k (f / 32)

/-! ### Scratchpad pages (R226) -/

/-- Pin a page of a team: a free frame that needs no drain (R226). -/
def State.pinPage (s : State) (k team page : Nat) : Option State :=
  match s.teamOf team with
  | none => none
  | some t =>
    if t.pins.any fun q => q.page == page then some s
    else match (s.freeFrames k).find? fun f => !s.draining k (f / 32) with
    | some f => some (s.modTeam team fun t => { t with pins := t.pins ++ [⟨page, f, false⟩], bytes := t.bytes + 4096 })
    | none => none

/-- SCRATCH_REFILL_DONE (R226): the pages the path waits for are pinned, and its word runs again. -/
def execScratchRefillDone (r : PathRef) (s : State) : Out :=
  match s.named r with
  | some (c, p) =>
    if p.refill.isEmpty then .next s
    else match p.refill.foldl (fun o g => match o with
        | some s => State.pinPage s (standOfCore r.core) c.team g
        | none => none) (some s) with
      | some s1 => .next (s1.modPath c.id r.path fun p => { p with refill := [], want := none, wait := none })
      | none => .next s
  | none => .next s

/-! ### Register units (R117, R118) -/

/-- REGGROW_GRANT (R89, R117): the first waiting REGGROW of the core that can be granted, in a scalar slot. -/
def execReggrowGrant (r : PathRef) (s : State) : Out :=
  match s.named r with
  | some (c, p) => match p.want with
    | some (.grow d target) =>
      let can := fun (w : Nat × Nat) => match s.crewOf w.1 with
        | some e => (match (e.path w.2).want with
          | some (.grow _ t) => decide (e.growNeed t ≤ s.freeUnits r.core)
          | _ => false)
        | none => false
      if s.scalRoom r.core c.id r.path
          && (s.waiters (· == r.core) (fun w => match w with | .grow .. => true | _ => false)).find? can == some (c.id, r.path) then
        .next ((s.modCrew c.id fun c => c.grow d (max target c.nRegs)).grantWord r.core c.id r.path 0)
      else .next s
    | _ => .next s
  | none => .next s

/-- WRITE_RESERVATION_GRANT (R84, R118): the units a pass waits for are free: the word runs; or, where its first passes have written, the
next ones write in lane slots of their own, and with the last of them the path goes on. -/
def execWriteReservationGrant (r : PathRef) (s : State) : Out :=
  match s.named r with
  | some (c, p) => match p.want with
    | some (.units n) =>
      if n ≤ s.freeUnits r.core then .next (s.modPath c.id r.path fun p => { p with want := none, wait := none }) else .next s
    | some (.passes size e qs) =>
      let q := c.writePasses (s.freeUnits r.core) c.held qs
      let made := qs.length - q.2.length
      if made = 0 || !(match s.cores[r.core]? with | some k => k.laneRoom | none => false) then .next s
      else
        .next ((s.modCrew c.id fun d => ({ d with v := q.1.v, prop := q.1.prop }).modPath r.path fun p =>
          if q.2.isEmpty then p.pastLane size else { p with want := some (.passes size e q.2) }).noteSlots r.core c.id r.path true e made)
    | _ => .next s
  | none => .next s

end Sys2Proof.Machine
end

