-- ==== Sys2Proof/Machine/Yarder.lean ====
section
/-! DEFINITION. Yarders, the deck and queue registers (R265 to R288): YJOB, YSTAT, DECK, QPUSH, QPOP, and the steps of
the jobs. -/

namespace Sys2Proof.Machine

/-! ### Job cards (R267, R268) -/

/-- The n bytes of a card at an offset. -/
def cardNat (bs : List Byte) (off n : Nat) : Nat := natOfBytes ((bs.drop off).take n)
/-- The kind of a card. -/
def cardKind (bs : List Byte) : Nat := field (cardNat bs 0 8) 3 0
/-- The card asks for priority level P4. -/
def cardHigh (bs : List Byte) : Bool := (cardNat bs 0 8).testBit 4
/-- qie and qoe. -/
def cardQie (bs : List Byte) : Bool := (cardNat bs 0 8).testBit 5
def cardQoe (bs : List Byte) : Bool := (cardNat bs 0 8).testBit 6
/-- qin and qout. -/
def cardQin (bs : List Byte) : Nat := field (cardNat bs 0 8) 11 8
def cardQout (bs : List Byte) : Nat := field (cardNat bs 0 8) 15 12
/-- nin and nout. -/
def cardNin (bs : List Byte) : Nat := cardNat bs 8 4
def cardNout (bs : List Byte) : Nat := cardNat bs 12 4
/-- Parameter word k. -/
def cardParam (bs : List Byte) (k : Nat) : Nat := cardNat bs (16 + 8 * k) 8

/-- The space and address of a card address: global as a canonical address, scratchpad as an offset (R268). -/
def cardAddr (w : Nat) : Nat × Nat :=
  (w / 2 ^ 62, if w / 2 ^ 62 = 0 then ((BitVec.ofNat 52 w).signExtend 64).toNat else w % 2 ^ 52)
/-- A card address with a reserved space or a nonzero reserved bit. -/
def cardAddrBad (w : Nat) : Bool := decide (2 ≤ w / 2 ^ 62 % 4) || field w 61 52 != 0

/-- A region: its space, first byte and length. -/
structure Region where
  sp  : Nat
  lo  : Nat
  len : Nat
  deriving DecidableEq, Repr

/-- The four regions from an offset on, those in use. -/
def cardRegions (bs : List Byte) (off : Nat) : List Region :=
  ((List.range 4).map fun k =>
    let a := cardAddr (cardNat bs (off + 16 * k) 8)
    (⟨a.1, a.2, cardNat bs (off + 16 * k + 8) 8 % 2 ^ 40⟩ : Region)).filter fun r => decide (0 < r.len)
/-- The read regions. -/
def cardReads (bs : List Byte) : List Region := cardRegions bs 0x40
/-- The write regions. -/
def cardWrites (bs : List Byte) : List Region := cardRegions bs 0x80

/-- A range of a space lies inside a region. -/
def Region.holds (r : Region) (sp : Nat) (a : Int) (n : Nat) : Bool :=
  r.sp == sp && decide ((r.lo : Int) ≤ a) && decide (a + n ≤ (r.lo + r.len : Nat))
/-- Two regions share a byte of one space. -/
def Region.meets (r q : Region) : Bool := r.sp == q.sp && decide (r.lo < q.lo + q.len) && decide (q.lo < r.lo + r.len)

/-! ### Faulty cards (R269, R271 to R274) -/

/-- The lowest byte and the end of a span of rows (R271). -/
def spanRows (a : Nat) (stride : Int) (rows len : Nat) : Int × Int :=
  let last := (a : Int) + stride * ((rows - 1 : Nat) : Int)
  (min (a : Int) last, max (a : Int) last + len)

/-- A copy card breaks R271. -/
def copyBad (bs : List Byte) : Bool :=
  let src := cardAddr (cardParam bs 0)
  let dst := cardAddr (cardParam bs 1)
  let len := cardNat bs 0x20 4
  let rows := cardNat bs 0x24 4
  let x := spanRows src.2 (sextNat 64 (cardParam bs 3)) rows len
  let y := spanRows dst.2 (sextNat 64 (cardParam bs 4)) rows len
  cardAddrBad (cardParam bs 0) || cardAddrBad (cardParam bs 1) || len == 0 || rows == 0 || cardParam bs 5 != 0
  || (src.1 == dst.1 && decide (x.1 < y.2) && decide (y.1 < x.2))

/-- A gather card breaks R272. The reserved bits and the space of an address word count even where a queue takes its place (R269). -/
def gatherBad (bs : List Byte) : Bool :=
  let odd := fun (k : Nat) => (cardAddr (cardParam bs k)).2 % 4 != 0
  (List.range 3).any (fun k => cardAddrBad (cardParam bs k)) || odd 0 || (!cardQie bs && odd 1) || (!cardQoe bs && odd 2)
  || (if cardQie bs then cardParam bs 3 != 0 else decide (2 ^ 32 ≤ cardParam bs 3))
  || cardParam bs 4 != 0 || cardParam bs 5 != 0
  || (cardQie bs && cardNin bs == 0) || (cardQoe bs && cardNout bs == 0)
  || (cardQie bs && cardQoe bs && cardNin bs != cardNout bs)
  || (!cardQie bs && cardQoe bs && cardNout bs != cardNat bs 0x28 4)

/-- A DECOMP card breaks R273. -/
def decompBad (bs : List Byte) : Bool :=
  let p := cardParam bs 4
  let k := field p 31 16
  let n := field p 35 32
  let glob := fun (i : Nat) => cardAddrBad (cardParam bs i) || (cardAddr (cardParam bs i)).1 != 0
  glob 0 || glob 1 || glob 2 || cardAddrBad (cardParam bs 3) || (cardAddr (cardParam bs 3)).1 != 1
  || field p 15 0 == 0 || k == 0 || k % 8 != 0 || decide (n < 2) || decide (8 < n) || field p 63 36 != 0 || cardParam bs 5 != 0

/-- The element width of a collective's type code (R274). -/
def collWidth (ty : Nat) : Nat := if ty = 7 then 2 else 4

/-- The entry of the group table for a handle (R417): the members, this endpoint's rank and the time limit in µs. None where no entry
has the handle, or the entry has a nonzero reserved field. The member list says who the others are, and nothing here depends on it
(log 6, DEDUCED). -/
def State.group (s : State) (part handle : Nat) : Option (Nat × Nat × Nat) :=
  match s.part? part with
  | some q =>
    let base := field q.gtab.toNat 51 12 * 4096
    match (List.range (field q.gtab.toNat 11 0)).find? fun k => s.rdPA (base + 32 * k) 4 == handle with
    | some k =>
      let at_ := base + 32 * k
      if handle != 0 && s.rdPA (at_ + 0x18) 8 == 0 then some (s.rdPA (at_ + 4) 4, s.rdPA (at_ + 8) 4, s.rdPA (at_ + 12) 4) else none
    | none => none
  | none => none
/-- The group table has this handle, in an entry that is not faulty (R417). -/
def State.groupKnown (s : State) (part handle : Nat) : Bool := (s.group part handle).isSome

/-- A collective card breaks R274 or names no group (R417). -/
def State.collBad (s : State) (part : Nat) (bs : List Byte) : Bool :=
  let p := cardParam bs 1
  let ty := field p 35 32
  cardAddrBad (cardParam bs 0) || (cardAddr (cardParam bs 0)).1 != 0
  || !(ty == 0 || ty == 4 || ty == 7) || decide (2 < field p 39 36) || field p 63 40 != 0
  || field p 31 0 % collWidth ty != 0 || field (cardParam bs 2) 63 32 != 0
  || !s.groupKnown part (field (cardParam bs 2) 31 0)
  || cardParam bs 3 != 0 || cardParam bs 4 != 0 || cardParam bs 5 != 0

/-- A region word pair with a nonzero reserved field or a reserved space, be its length 0 too, or a scratchpad region beyond the team's
range (R268, R269). -/
def regionBad (bs : List Byte) (scr : Nat) (off : Nat) : Bool :=
  let a := cardNat bs off 8
  let n := cardNat bs (off + 8) 8
  field n 63 40 != 0 || cardAddrBad a || (n % 2 ^ 40 != 0 && (cardAddr a).1 == 1 && decide (scr < (cardAddr a).2 + n % 2 ^ 40))

/-- A queue register of a crew. -/
def Crew.q (c : Crew) (k : Nat) : QReg := SMap.get ⟨0, 0, 0, [], [], []⟩ c.qs k
/-- Change a queue register. -/
def Crew.modQ (c : Crew) (k : Nat) (f : QReg → QReg) : Crew := { c with qs := SMap.set ⟨0, 0, 0, [], [], []⟩ c.qs k (f (c.q k)) }

/-- A binding that R282 refuses. One card may not bind one register both ways. Log 48 (DEDUCED). -/
def bindBad (c : Crew) (bs : List Byte) : Bool :=
  (cardQie bs && (c.q (cardQin bs)).dir == 2) || (cardQoe bs && (c.q (cardQout bs)).dir == 1)
  || (cardQie bs && cardQoe bs && cardQin bs == cardQout bs)

/-- The card is faulty (R269). -/
def State.cardBad (s : State) (c : Crew) (bs : List Byte) : Bool :=
  let h := cardNat bs 0 8
  let k := cardKind bs
  let scr := match s.teamOf c.team with | some t => t.scrLen | none => 0
  field h 63 16 != 0 || h.testBit 7
  || (cardHigh bs && !(match s.blkOf c with | some b => b.yhigh | none => false))
  || ((cardQie bs || cardQoe bs) && k != 2)
  || (List.range 8).any (fun i => regionBad bs scr (0x40 + 16 * i))
  || (match k with
    | 1 => copyBad bs
    | 2 => gatherBad bs || bindBad c bs
    | 4 => decompBad bs
    | 5 => s.collBad (s.partOf c) bs
    | _ => true)

/-! ### Jobs in the deck (R265, R275, R276) -/

/-- The card of a job; none for the device's own. -/
def Job.card (j : Job) : List Byte := match j.kind with | .card bs => bs | _ => []
/-- The job is a crew's. -/
def Job.isCard (j : Job) : Bool := match j.kind with | .card _ => true | _ => false

/-- Change a job. -/
def State.modJob (s : State) (id : Nat) (f : Job → Job) : State :=
  { s with jobs := s.jobs.map fun (j : Job) => if j.id == id then f j else j }

/-- The address space of a job's launch. -/
def State.jobSpace (s : State) (j : Job) : Nat × Nat :=
  match s.launchOf j.part j.lid with | some l => (l.blk.asid, l.blk.root) | none => (0, 0)

/-- Two regions of two jobs overlap: global ones in one address space, scratchpad ones in one team (R275). -/
def State.jobsMeet (s : State) (a b : Job) (rs qs : List Region) : Bool :=
  rs.any fun r => qs.any fun q => r.meets q &&
    (if r.sp = 0 then (s.jobSpace a).1 == (s.jobSpace b).1 else a.team == b.team)

/-- The queue registers a card binds. -/
def cardQueues (bs : List Byte) : List Nat := (if cardQie bs then [cardQin bs] else []) ++ (if cardQoe bs then [cardQout bs] else [])

/-- The deck adds an edge from an incomplete job k to a job j that enters (R275). -/
def State.edge (s : State) (k j : Job) (fence : Nat) : Bool :=
  k.isCard && k.part == j.part &&
    (s.jobsMeet k j (cardWrites k.card) (cardReads j.card) || s.jobsMeet k j (cardReads k.card) (cardWrites j.card)
    || s.jobsMeet k j (cardWrites k.card) (cardWrites j.card)
    || (k.crew == j.crew && ((cardQueues k.card).any (cardQueues j.card).contains || decide (k.id < fence))))

/-- Enter the deck queue (R257, R275). -/
def State.enterDeck (s : State) (j : Job) (fence : Nat) : State :=
  { s with jobs := s.jobs ++ [{ j with edges := ((s.jobs.filter fun (k : Job) => s.edge k j fence).map fun (k : Job) => k.id) }] }

/-- The job waits for its team's ticket (R261). -/
def State.jobHeld (s : State) (j : Job) : Bool :=
  match s.launchOf j.part j.lid, s.teamOf j.team with
  | some l, some t => l.blk.det && (cardWrites j.card).any (fun r => r.sp == 0) && l.ticket != t.rank
  | _, _ => false

/-- Ready: no edge, no ticket to wait for, and not yet running (R275, R276). -/
def State.jobReady (s : State) (j : Job) : Bool := j.at_.isNone && j.edges.isEmpty && !(j.isCard && s.jobHeld j)

/-- The yarders of a die in use, by any job, and by a launch's (R265). -/
def State.busyYarders (s : State) (die : Nat) : Nat := (s.jobs.filter fun j => j.at_ == some die).length
def State.launchYarders (s : State) (j : Job) (die : Nat) : Nat :=
  (s.jobs.filter fun k => k.at_ == some die && k.isCard && k.part == j.part && k.lid == j.lid).length

/-- A yarder of a die may take the job (R265). -/
def State.mayTake (s : State) (j : Job) (die : Nat) : Bool :=
  decide (s.busyYarders die < 32) &&
    (!j.isCard || match s.launchOf j.part j.lid with | some l => decide (s.launchYarders j die < l.blk.yshare) | none => true)

/-- The first job of a partition by level, then entry, that passes a test (R265); none while it is stopped (R383). -/
def State.firstJob (s : State) (part : Nat) (ok : Job → Bool) : Option Job :=
  (sortBy (·.level) (s.jobs.filter fun j => s.live part && j.part == part && s.jobReady j && ok j)).head?

/-- The die that takes a job that has waited 64 clocks without a yarder at home: the first of the partition's with one (R265). Log 55
(DESIGN CHOICE). -/
def State.remoteDie (s : State) (part : Nat) (j : Job) : Option Nat :=
  if 64 ≤ j.age ∧ 32 ≤ s.busyYarders j.die then (partDies s.svc.split part).find? fun d => d != j.die && s.mayTake j d else none

/-- The die whose yarder would take the job now: that of the issuing core, else another once the job has waited (R265). -/
def State.jobDie (s : State) (part : Nat) (j : Job) : Option Nat := if s.mayTake j j.die then some j.die else s.remoteDie part j

/-- The job that is dispatched next, by level, then entry, among all that some yarder may take, and the die (R265). -/
def State.nextJob (s : State) (part : Nat) : Option (Job × Nat) :=
  match s.firstJob part fun j => (s.jobDie part j).isSome with
  | some j => (s.jobDie part j).map fun d => (j, d)
  | none => none

/-- The lowest yarder of a die that runs no job. -/
def State.freeYarder (s : State) (die : Nat) : Nat :=
  ((List.range 32).find? fun k => !s.jobs.any fun j => j.at_ == some die && j.yarder == k).getD 32

/-- A yarder of a die takes a job. -/
def State.startJob (s : State) (j : Job) (die : Nat) : State :=
  s.modJob j.id fun j => { j with at_ := some die, age := 0, began := s.time, yarder := s.freeYarder die }

/-- JOB_DISPATCH (R265): the next job goes to a free yarder of the die of the issuing core. -/
def execJobDispatch (part : Nat) (s : State) : Out :=
  match s.nextJob part with
  | some (j, d) => .next (if d = j.die then s.startJob j d else s)
  | none => .next s

/-- JOB_REMOTE_DISPATCH (R265): the next job, which has waited 64 clocks without a yarder there, goes to another die. -/
def execJobRemoteDispatch (part : Nat) (s : State) : Out :=
  match s.nextJob part with
  | some (j, d) => .next (if d = j.die then s else s.startJob j d)
  | none => .next s

/-! ### Queue registers (R282, R284) -/

/-- The lanes of a team that a pass of a crew group covers, among those of its word. -/
def Crew.passMask (c : Crew) (w : Word) (g : Nat) : Mask := w.lanes &&& maskRange (32 * (c.first + g)) 32

/-- The word of a served pass has its values (R284). -/
def Crew.serveWord (c : Crew) (q : QPass) (entry : List W32) : Crew :=
  match c.word? q.wid with
  | none => c
  | some w =>
    let m := c.passMask w q.group
    c.modWord q.wid fun w =>
      let owed := w.owed &&& ~~~m
      { w with owed := owed, done := owed == 0
               vals := (maskLanes 1024 m).foldl (fun v l => SMap.set 0 v l (entry.getD (l % 32) 0).toNat) w.vals }

/-- Owed passes take the oldest entries in issue order (R284). -/
def Crew.servePops (k : Nat) : Nat → Crew → Crew
  | 0, c => c
  | n + 1, c =>
    match (c.q k).pops, (c.q k).entries with
    | p :: ps, e :: es => Crew.servePops k n ((c.serveWord p e).modQ k fun q => { q with pops := ps, entries := es })
    | _, _ => c

/-- Waiting passes append while there is room (R284). A push word returns with its last entry (R285). -/
def Crew.servePushes (k : Nat) : Nat → Crew → Crew
  | 0, c => c
  | n + 1, c =>
    match (c.q k).pushes with
    | p :: ps =>
      if (c.q k).entries.length < 8 then
        let c1 := c.modQ k fun q => { q with pushes := ps, entries := q.entries ++ [p.entry] }
        Crew.servePushes k n (if ps.any (fun x => x.wid == p.wid) then c1 else c1.modWord p.wid fun w => { w with owed := 0, done := true })
      else c
    | [] => c

/-- The queue register is free again when nothing is in it or owed (R282). -/
def QReg.settle (q : QReg) : QReg :=
  if q.entries.isEmpty && q.demand == 0 && q.supply == 0 && q.pops.isEmpty && q.pushes.isEmpty then { q with dir := 0 } else q

/-- Serve what can be served. -/
def Crew.serveQ (c : Crew) (k : Nat) : Crew :=
  let q := c.q k
  ((c.servePops k q.pops.length).servePushes k q.pushes.length).modQ k QReg.settle

/-- Lanes take QUEUE_STATE with their word as the recorded point (R282, R284, R288, R374). -/
def State.queueFault (s : State) (cid i : Nat) (w : Word) (f : Mask) (cause q : Nat) : State :=
  let s1 := s.modCrew cid fun c => { c with qcause := (maskLanes 1024 f).foldl (fun m l => SMap.set 0 m l (BitVec.ofNat 7 (cause + 8 * q))) c.qcause }
  match s1.crewOf cid with
  | none => s1
  | some c =>
    let p := c.path i
    if f &&& p.mask = 0 ∨ 8 ≤ i then s1
    else s1.asPath cid i fun s => s.defer c (p.atWord w) true fcQueue (cause + 8 * q) (f &&& p.mask)

/-- A word loses the lanes of a withdrawn pass. A QPUSH returns once none of its passes waits (R282, R285). -/
def Crew.cutPass (c : Crew) (k : Nat) (p : QPass) : Crew :=
  let waits := (c.q k).pushes.any fun x => x.wid == p.wid
  c.modWord p.wid fun w =>
    let m := c.passMask w p.group
    let owed := if (match w.instr with | .qpush .. => true | _ => false) && !waits then 0 else w.owed &&& ~~~m
    { w with lanes := w.lanes &&& ~~~m, owed := owed, done := owed == 0 }

/-- Passes that have left their queue register are withdrawn: the lanes of each word take QUEUE_STATE with cause 4, and the words claim
their path-table entries in ascending path index (R282, R391). -/
def State.withdraw (s : State) (cid k : Nat) (ps : List QPass) : State :=
  match s.crewOf cid with
  | none => s
  | some c =>
    let ws := sortBy (·.path) (c.words.filter fun w => ps.any fun p => p.wid == w.wid)
    let lost := fun (w : Word) => (ps.filter fun p => p.wid == w.wid).foldl (fun m p => m ||| c.passMask w p.group) (0 : Mask)
    ws.foldl (fun s w => s.queueFault cid w.path w (lost w) 4 k)
      (s.modCrew cid fun c => ps.foldl (fun c p => c.cutPass k p) c)

/-- A job has given up demand or supply: the youngest passes that can be served no more leave the queue register and are
withdrawn (R282). -/
def State.trimQ (s : State) (cid k demand supply : Nat) : State :=
  match s.crewOf cid with
  | none => s
  | some c =>
    let q := c.q k
    let pops := if supply = 0 then q.pops.length else q.entries.length + q.supply
    let pushes := if demand = 0 then q.pushes.length else 8 - q.entries.length + q.demand
    (s.modCrew cid fun c => c.modQ k fun q => { q with pops := q.pops.take pops, pushes := q.pushes.take pushes }).withdraw cid k
      (q.pops.drop pops ++ q.pushes.drop pushes)

/-- An entry has moved, and a job has given up so much demand and supply: passes are served, those that cannot be are withdrawn (R282,
R284). -/
def State.updateQ (s : State) (cid k demand supply : Nat) : State :=
  (((s.modCrew cid fun c => c.serveQ k).trimQ cid k demand supply).modCrew cid fun c => c.modQ k QReg.settle)

/-- The path has a push word whose entries are not all appended (R284). -/
def Crew.pushing (c : Crew) (i : Nat) : Bool :=
  c.qs.any fun e => e.2.pushes.any fun p => c.words.any fun w => w.wid == p.wid && w.path == i

/-- QPUSH (R284). -/
def execQpush (h : Hdr) (ty : Ty) (v : BitVec 8) (k : BitVec 4) (s : State) : Out :=
  let i := Instr.qpush h ty v k
  let info : LaneInfo := { instr := i, h := h, reads := [v.toNat], writes := [], late := [], long := false, counter := some 3 }
  laneWord s info (fun _ => false) fun c p sel s1 =>
    let q := c.q k.toNat
    let gs := c.passes sel
    let cause := if q.dir = 2 then 1 else if 8 + q.demand < q.entries.length + gs.length then 2 else 0
    if cause ≠ 0 then
      laneFault (s1.modCur fun c => { c with qcause := (maskLanes 1024 sel).foldl (fun m l =>
        SMap.set 0 m l (BitVec.ofNat 7 (cause + 8 * k.toNat))) c.qcause }) c p i.size fcQueue (cause + 8 * k.toNat) sel
    else
      let passes : List QPass := gs.map fun g =>
        ⟨s1.nextId, g, (List.range 32).map fun j => if (c.groupWord sel g).getLsbD j then c.vget v.toNat (32 * (c.first + g) + j) else 0⟩
      .next (({ s1 with nextId := s1.nextId + 1 }.modCur fun c =>
        ({ c with words := c.words ++ [{ newWord s1 p c info sel with owed := sel }] }.modQ k.toNat fun q =>
          { q with dir := 1, pushes := q.pushes ++ passes }).serveQ k.toNat).advanceLane i.size)

/-- QPOP (R284). -/
def execQpop (h : Hdr) (ty : Ty) (d : BitVec 8) (k : BitVec 4) (s : State) : Out :=
  let i := Instr.qpop h ty d k
  let info : LaneInfo := { instr := i, h := h, reads := [], writes := [d.toNat], late := [], long := true, counter := some 3 }
  laneWord s info (fun _ => false) fun c p sel s1 =>
    let q := c.q k.toNat
    let gs := c.passes sel
    let cause := if q.dir = 1 then 1 else if q.entries.length + q.supply < q.pops.length + gs.length then 3 else 0
    if cause ≠ 0 then
      laneFault (s1.modCur fun c => { c with qcause := (maskLanes 1024 sel).foldl (fun m l =>
        SMap.set 0 m l (BitVec.ofNat 7 (cause + 8 * k.toNat))) c.qcause }) c p i.size fcQueue (cause + 8 * k.toNat) sel
    else match launchWord s1 c i.size info { newWord s1 p c info sel with owed := sel } with
      | .next t =>
        if (match t.crewOf c.id with | some e => (e.path s.curPath).wait.isSome | none => false) then .next t
        else .next (t.modCur fun c => (c.modQ k.toNat fun q =>
          { q with dir := 2, pops := q.pops ++ gs.map fun g => ⟨s1.nextId, g, []⟩ }).serveQ k.toNat)
      | o => o

/-! ### The status of a job (R266, R279, R280) -/

/-- A status word. -/
def statusWord (state result kind prog : Nat) : W64 := w64 (state + result * 2 ^ 4 + kind * 2 ^ 12 + prog % 2 ^ 32 * 2 ^ 32)

/-- The incomplete job in a slot of a crew. -/
def State.slotJob (s : State) (c : Crew) (slot : Nat) : Option Job :=
  s.jobs.find? fun j => j.isCard && j.crew == c.id && j.token.toNat % 32 == slot
/-- The status word of a slot. -/
def State.slotStatus (s : State) (c : Crew) (slot : Nat) : W64 :=
  match s.slotJob c slot with
  | some j => statusWord (if j.at_.isSome then 2 else 1) 0 (cardKind j.card) j.prog
  | none => SMap.get 0 c.slots slot

/-- The status of a token (R279). -/
def State.tokenStatus (s : State) (c : Crew) (t : W32) : W64 :=
  let q := (c.nextSeq - t).toNat
  if q = 0 ∨ 2 ^ 31 < q then 0
  else if q ≤ 32 then s.slotStatus c (t.toNat % 32)
  else 4

/-- YSTAT (R279). -/
def execYstat (d a : BitVec 6) (wait : Bool) (s : State) : Out :=
  withCur s fun c _ =>
    if c.pending [d, a] then waitFor s stInterlock
    else
      let t := (c.sget a).extractLsb' 0 32
      let w := s.tokenStatus c t
      let st := w.toNat % 8
      if wait && (st == 1 || st == 2) then waitFor s stYarder
      else
        let k := (c.jobClk.filter fun e => e.1 % 2 ^ 32 == t.toNat).foldl (fun k e => Clock.join k e.2) []
        let s1 := if st = 3 ∨ st = 4 then s.acquireNow c.id s.curPath k else s
        .next ((s1.modCur fun c => c.sset d w).advance 4)

/-! ### DECK (R281) -/

/-- DECK.fence (R281). -/
def execDeckFence (s : State) : Out :=
  withCur s fun _ p =>
    if p.iss.isSome then waitIssue s p else .next ((s.modCur fun c => { c with fence := s.nextId }).advance 4)

/-- DECK.query (R281). -/
def execDeckQuery (d : BitVec 6) (s : State) : Out :=
  withCur s fun c p =>
    if p.iss.isSome then waitIssue s p
    else if c.pending [d] then waitFor s stInterlock
    else
      let mine := s.jobs.filter fun j => j.part == s.partOf c
      let n := mine.length % 2 ^ 16 + (mine.filter fun j => j.isCard && j.lid == s.lidOf c).length % 2 ^ 16 * 2 ^ 16
        + s.busyYarders (s.dieOf c) * 2 ^ 32
      .next ((s.modCur fun c => c.sset d (w64 n)).advance 4)

/-! ### YJOB (R278) -/

/-- Where the three aligned 64-byte parts of a card lie, which may be in two pages; or the first check that one does not pass. -/
inductive CardAt where
  | at_ (parts : List Nat)
  | bad (cause : Nat) (ea : W64)
  | miss (vpn : Nat)
  deriving DecidableEq, Repr

/-- The checks of a card's 192 bytes as a scalar load (R183, R198, R204, R278). -/
def State.cardParts (s : State) (c : Crew) (p : Path) (ea : W64) : CardAt :=
  if !canonical ea || !canonical (ea + 191) then .bad 4 ea
  else (List.range 3).foldl (fun r k => match r with
    | .at_ xs =>
      let e := ea + w64 (64 * k)
      match s.check c p none 0 e 64 false false with
      | .go _ pa _ => .at_ (xs ++ [pa])
      | .bad cause => .bad cause e
      | .miss v => .miss v
    | r => r) (.at_ [])

/-- The reads of a card take effect, granule by granule (R210, R241, R246, R250, R361). -/
def State.observeCard (s : State) (c : Crew) (p : Path) (parts : List Nat) (ea : W64) : Except State State :=
  (List.range 6).foldl (fun r k => match r with
    | .error t => .error t
    | .ok t =>
      let pa := parts.getD (k / 2) 0 + 32 * (k % 2)
      let t0 := t.mergeGran (pa / 32)
      if t0.stopping (s.partOf c) then .error t0 else
      let t1 := t0.cacheHost .mem pa 32
      let x : Acc := { cwaitAcc t1 p t1.nextId pa 5 (ea + w64 (32 * k)) false with kind := .load, width := 32, acode := 0 }
      match { t1 with nextId := t1.nextId + 1 }.observe c s.curPath x with
      | .error u => .error (u.conflict c s.curPath x)
      | .ok u => .ok ((u.noteBytes c.team 32 .mem).countFar c x)) (.ok s)

/-- The bytes of a card. -/
def State.cardBytes (s : State) (c : Crew) (parts : List Nat) : List Byte :=
  (List.range 192).map fun k => s.seenByte c (parts.getD (k / 64) 0 + k % 64)

/-- The cruise fault of a card: a global write region, or a global read region in another slice (R323). -/
def State.cardCruise (s : State) (c : Crew) (bs : List Byte) : Option (Nat × Nat) :=
  match s.blkOf c with
  | none => none
  | some b =>
    if !b.cruise then none
    else match (cardWrites bs).find? (fun r => r.sp == 0) with
      | some r => some (fcXstore, r.lo)
      | none => match (cardReads bs).find? (fun r => r.sp == 0 && s.crossReads c b r.lo r.len) with
        | some r => some (fcXread, s.crossByte c b r.lo)
        | none => none

/-- A region in global space overlaps the private window. -/
def cardPrivate (bs : List Byte) : Option Region :=
  (cardReads bs ++ cardWrites bs).find? fun r => r.sp == 0 && decide (privBase < r.lo + r.len)

/-- The job of a card, entering the deck, and its word on the queue counter; a faulty card completes at once (R266,
R269, R282, R285). -/
def State.acceptCard (s : State) (c : Crew) (p : Path) (i : Instr) (d : BitVec 6) (ea : W64) (bs : List Byte) : State :=
  let t := c.nextSeq
  let s1 := s.modCur fun c => { c with nextSeq := c.nextSeq + 1 }.sset d (t.setWidth 64)
  let k := p.clockNow s.nextId
  if s.cardBad c bs then
    s1.modCur fun c => { c with
      slots := SMap.set 0 c.slots (t.toNat % 32) (statusWord 3 3 (cardKind bs) 0)
      jobClk := SMap.set [] c.jobClk (p.thr * 2 ^ 32 + t.toNat) k }
  else
    let w := scalarInFlight s p i ⟨0, ea, 0, 0⟩
    let j : Job := { id := s.nextId + 1, part := s.partOf c, lid := s.lidOf c, team := c.team, crew := c.id, path := s.curPath
                     wid := w.wid, token := t, kind := .card bs, addr := ea, die := s.dieOf c, at_ := none
                     level := if cardHigh bs then 4 else 5, age := 0, edges := [], prog := 0, popped := 0, pushed := 0
                     input := [], fault := none, page := 0, began := 0, yarder := 0, clk := k }
    let s2 := { s1 with nextId := s.nextId + 2 }.modCur fun c =>
      let c1 := { c with words := c.words ++ [{ w with counter := some 3 }] }
      let c2 := if cardQie bs then c1.modQ (cardQin bs) fun q => { q with dir := 1, demand := q.demand + cardNin bs } else c1
      if cardQoe bs then c2.modQ (cardQout bs) fun q => { q with dir := 2, supply := q.supply + cardNout bs } else c2
    s2.enterDeck j c.fence

/-- A card that has been read goes on (R278): the checks of its regions, the wait for its slot, which keeps the card, and the job. -/
def State.handCard (s : State) (c : Crew) (p : Path) (i : Instr) (d : BitVec 6) (ea : W64) (bs : List Byte) : Out :=
  match cardPrivate bs with
  | some r => scalarPageFault s c p 7 (w64 r.lo)
  | none => match s.cardCruise c bs with
    | some f => .next (s.fatalCruise c p false f.1 f.2)
    | none =>
      if (s.slotJob c (c.nextSeq.toNat % 32)).isSome then waitWant s stYarder (.card bs)
      else .next ((s.acceptCard c p i d ea bs).advance 4)

/-- YJOB (R278). -/
def execYjob (d a : BitVec 6) (s : State) : Out :=
  withCur s fun c p =>
    let i := Instr.yjob d a
    if p.iss.isSome then waitIssue s p
    else if c.pending [d, a] then waitFor s stInterlock
    else if 255 ≤ c.inflight s.curPath 3 then waitFor s stInterlock
    else if !s.effectsDone c p then waitFor s stTicket
    else if !(p.queue.isEmpty && p.sbuf.isEmpty) then waitFor s stOther
    else
      let v := p.sources (c.sget a) 0
      match p.want with
      | some (.card bs) => s.handCard c p i d v.1 bs
      | _ => match s.cardParts c p v.1 with
      | .miss vpn => .next (s.walkScalar c (scalarInFlight s p i ⟨p.slotLane, v.1, 0, 0⟩) v.1 v.2 vpn)
      | .bad cause ea => .next (s.parkScalar c p (scalarInFlight s p i ⟨p.slotLane, ea, 0, 0⟩) cause ea v.1 v.2)
      | .at_ parts => afterMerge s c (p.thr :: p.kin) fun s0 => match s0.observeCard c p parts v.1 with
        | .error t => .next t
        | .ok t => t.handCard c p i d v.1 (t.cardBytes c parts)

/-! ### What a running job does (R270 to R274, R277) -/

/-- Why a job stops before its end: its footprint, a page, a wait (0 for a frame, a migration or a bank's drain, else 1 + a record's
tag) for a page, or a conflicting pair. -/
inductive JobEnd where
  | footprint
  | page
  | wait (n page : Nat)
  | race
  deriving DecidableEq, Repr

/-- The outcome of a part of a job. -/
inductive JobRes (α : Type) where
  | ok (a : α) (s : State)
  | stop (e : JobEnd) (s : State)

/-- The crew of a job and its core. -/
def State.jobCore (s : State) (j : Job) : Nat := (s.coreOf j.team).getD 0

/-- A cause that a job's translation meets (R277): a record, the device's migration, or the end of the job. -/
def State.jobPage (s : State) (j : Job) (ea : W64) (cause : Nat) : JobEnd × State :=
  let sp := s.jobSpace j
  let m := if cause = 3 then s.farFault j.part sp.1 sp.2 (pageOf ea) else (false, s)
  if m.1 then (.wait 0 (pageOf ea), m.2)
  else if !serviced cause || m.2.noRing j.part then (.page, m.2)
  else
    let c := s.crewOf j.crew
    let r := m.2.faultRecord j.part ea j.lid (match s.teamOf j.team with | some t => t.index | none => 0) (s.jobCore j)
      (match c with | some c => c.slot | none => 0) j.path 5 cause 0 sp.1
    (.wait (r.1 + 1) (pageOf ea), r.2)

/-- The home of a byte of a job's access: scratchpad bytes by offset, their page pinned, for which the job waits while the free frames
are being drained (R226); global ones by a walk. -/
def State.jobHome (s : State) (j : Job) (sp : Nat) (a : Nat) (write : Bool) : JobRes (Space × Nat) :=
  if sp = 1 then
    match s.pinPage (standOfCore (s.jobCore j)) j.team (a / 4096) with
    | some t => .ok (.scr, a) t
    | none => .stop (.wait 0 (a / 4096)) s
  else
    let ea := w64 a
    if !canonical ea then .stop .page s
    else
      let x := s.jobSpace j
      match s.walk j.part x.1 x.2 (pageOf ea) write with
      | (.ok t, s1) =>
        if write && !t.write then let e := s1.jobPage j ea 2; .stop e.1 e.2
        else .ok (.mem, t.phys ea) s1
      | (.bad cause, s1) => let e := s1.jobPage j ea cause; .stop e.1 e.2
      | (.pending fs, s1) => .stop (.wait 0 (pageOf ea)) (s1.hurryScrub fs)

/-- What a stop record says of a job's access. -/
def State.jobCause (s : State) (j : Job) (addr : Nat) : Cause where
  code := 32
  detail := 5
  addr := addr / 32 * 32
  kind := 2
  launch := j.lid
  team := match s.teamOf j.team with | some t => t.index | none => 0
  core := s.jobCore j
  slot := match s.crewOf j.crew with | some c => c.slot | none => 0
  path := j.path
  spc := match s.crewOf j.crew with | some c => (match c.word? j.wid with | some w => w.spc | none => 0) | none => 0
  lpc := match s.crewOf j.crew with | some c => (match c.word? j.wid with | some w => w.lpc | none => 0) | none => 0

/-- A job's access to a byte passes the race detector (R249, R250). Every access of a job is one party's, and an edge of the deck (R275)
orders no two jobs for it, since R248 has none. Log 55 (DESIGN CHOICE). -/
def State.jobObserve (s : State) (j : Job) (sp : Space) (addr : Nat) (write : Bool) : Except State State :=
  let s0 := match sp with | .mem => s.mergeGran (addr / 32) | _ => s
  if s0.stopping j.part then .error s0 else
  let g := match sp with | .mem => Gran.mem (addr / 32) | _ => Gran.scr j.team (addr / 32)
  let d := s0.detOf g
  let a : DAcc := ⟨j.id, j.id, j.id, 2 ^ 40 + j.id, false, none, s0.jobCause j addr⟩
  match d.race a write j.clk with
  | some q => .error (s0.raise j.part a.who (some q.who))
  | none =>
    let d1 := d.note a write
    .ok (s0.setDet (if write then d1.stored (granBytes addr 1) false [] else d1))

/-- The path of a job, whose thread its writes to the host aperture count as. -/
def State.jobThread (s : State) (j : Job) : Nat :=
  match s.crewOf j.crew with
  | some c => (match c.word? j.wid with | some w => (c.path w.path).thr | none => 0)
  | none => 0

/-- A job's access to byte k of a datum counts as traffic, and its first byte as an access to its page (R210, R361). -/
def State.jobCounts (s : State) (j : Job) (home : Space × Nat) (a k : Nat) : State :=
  let s1 := s.noteBytes j.team 1 home.1
  if k = 0 ∧ home.1 = .mem ∧ home.2.testBit 51 then s1.countPage j.part (s.jobSpace j).1 (s.jobSpace j).2 (pageOf (w64 a)) else s1

/-- Read n bytes as a job, all within one of its regions (R270). -/
def State.jobRead (s : State) (j : Job) (sp : Nat) (a : Int) (n : Nat) : JobRes Nat :=
  if !((cardReads j.card ++ cardWrites j.card).any fun r => r.holds sp a n) then .stop .footprint s
  else (List.range n).foldl (fun r k => match r with
    | .stop e t => .stop e t
    | .ok x t => match t.jobHome j sp (a.toNat + k) false with
      | .stop e t => .stop e t
      | .ok home t => match t.jobObserve j home.1 home.2 false with
        | .error t => .stop .race t
        | .ok t =>
          let t1 := t.cacheHost home.1 home.2 1
          .ok (x + t1.readSpace j.team home.1 home.2 1 * 2 ^ (8 * k)) (t1.jobCounts j home (a.toNat + k) k)) (.ok 0 s)

/-- Write n bytes as a job, all within one of its write regions (R270). -/
def State.jobWrite (s : State) (j : Job) (sp : Nat) (a : Int) (n x : Nat) : JobRes Unit :=
  if !((cardWrites j.card).any fun r => r.holds sp a n) then .stop .footprint s
  else (List.range n).foldl (fun r k => match r with
    | .stop e t => .stop e t
    | .ok _ t => match t.jobHome j sp (a.toNat + k) true with
      | .stop e t => .stop e t
      | .ok home t => match t.jobObserve j home.1 home.2 true with
        | .error t => .stop .race t
        | .ok t =>
          .ok () ((t.writeSpace j.team (t.jobThread j) j.lid home.1 home.2 1 (x / 2 ^ (8 * k) % 256)).jobCounts j home (a.toNat + k) k)) (.ok () s)

/-- One after the other. -/
def JobRes.bind {α β : Type} (r : JobRes α) (f : α → State → JobRes β) : JobRes β :=
  match r with | .ok a s => f a s | .stop e s => .stop e s

/-- Byte k of a copy, row by row (R271): what an early stop leaves follows from this order. Log 55 (DESIGN CHOICE). -/
def State.copyUnit (s : State) (j : Job) (k : Nat) : JobRes Unit :=
  let bs := j.card
  let len := cardNat bs 0x20 4
  let row := ((k / len : Nat) : Int)
  let src := cardAddr (cardParam bs 0)
  let dst := cardAddr (cardParam bs 1)
  (s.jobRead j src.1 (src.2 + row * sextNat 64 (cardParam bs 3) + (k % len : Nat)) 1).bind fun x s =>
    s.jobWrite j dst.1 (dst.2 + row * sextNat 64 (cardParam bs 4) + (k % len : Nat)) 1 x

/-- The 32 indices of an entry: popped, or of the index array (R272). -/
def State.gatherIndices (s : State) (j : Job) (k : Nat) : JobRes (List Nat) :=
  match j.input with
  | e :: _ => .ok (e.map (·.toNat)) s
  | [] =>
    let a := cardAddr (cardParam j.card 1)
    (List.range 32).foldl (fun r i => r.bind fun xs s =>
      (s.jobRead j a.1 ((a.2 + 128 * k + 4 * i : Nat) : Int) 4).bind fun x s => .ok (xs ++ [x]) s) (.ok [] s)

/-- The 32 values of an entry. -/
def State.gatherValues (s : State) (j : Job) (k : Nat) : JobRes (List Nat) :=
  let base := cardAddr (cardParam j.card 0)
  (s.gatherIndices j k).bind fun is s =>
    is.foldl (fun r i => r.bind fun xs s =>
      (s.jobRead j base.1 ((base.2 + 4 * i : Nat) : Int) 4).bind fun x s => .ok (xs ++ [x]) s) (.ok [] s)

/-- Entry k of a gather whose output goes to memory. -/
def State.gatherUnit (s : State) (j : Job) (k : Nat) : JobRes Unit :=
  let dst := cardAddr (cardParam j.card 2)
  (s.gatherValues j k).bind fun xs s =>
    xs.zipIdx.foldl (fun r x => r.bind fun _ s => s.jobWrite j dst.1 ((dst.2 + 128 * k + 4 * x.2 : Nat) : Int) 4 x.1) (.ok () s)

/-- Element i of a DECOMP block: rne(m × 2^(E − 127 − (n − 1)) × scale) to BF16 (R273). -/
def decompElem (n e g i scale : Nat) : Nat := FFmt.bf16.rnd 0 false false ((bxValue n e g i).mul (FFmt.f32.value scale))

/-- Block k of a DECOMP (R273). -/
def State.decompUnit (s : State) (j : Job) (k : Nat) : JobRes Unit :=
  let bs := j.card
  let p := cardParam bs 4
  let kk := field p 31 16
  let n := field p 35 32
  let row := k / (kk / 8)
  let col := k % (kk / 8) * 8
  let at_ := fun (i : Nat) => (cardAddr (cardParam bs i)).2
  (s.jobRead j 0 ((at_ 0 + k * n : Nat) : Int) n).bind fun g s =>
    (s.jobRead j 0 ((at_ 1 + k : Nat) : Int) 1).bind fun e s =>
      (s.jobRead j 0 ((at_ 2 + 4 * (row * ceilDiv kk 128 + col / 128) : Nat) : Int) 4).bind fun scale s =>
        (List.range 8).foldl (fun r i => r.bind fun _ s =>
          s.jobWrite j 1 ((at_ 3 + 2 * (row * kk + col + i) : Nat) : Int) 2 (decompElem n e g i scale)) (.ok () s)

/-- Byte k of the buffer of a collective that has timed out: unspecified, a free value (R274; log 6, DEDUCED). -/
def State.collLost (s : State) (j : Job) (k : Nat) : JobRes Unit :=
  let a := cardAddr (cardParam j.card 0)
  s.jobWrite j a.1 ((a.2 + k : Nat) : Int) 1 (Config.fabric (2 * j.id + 1) k).toNat

/-- A reduction's node in the type and op of a collective: VADD.wrap, VMIN, VMAX, FADD, FMIN or FMAX, to nearest even (R274). -/
def collNode (ty op : Nat) (x y : Nat) : Nat :=
  let t := if ty = 0 then Ty.i32 else if ty = 4 then Ty.f32 else Ty.bf16
  let w : LaneA := ⟨⟨false, 0⟩, t, 0, 0, .reg 0, BitVec.ofNat 8 op, ⟨0, true, false, false, false, false, false, false, false⟩, 0⟩
  if ty = 0 then scanOp w x y else scanOp { w with m := { w.m with alt := false } } x y

/-- Element e of a collective: the R74 reduction over the ranks of the members, of which this endpoint's is its buffer's and the
others' are free values (R74, R274; log 6, DEDUCED). -/
def collElem (ty op members rank seed e own : Nat) : Nat :=
  let n := collWidth ty
  (treeReduce (collNode ty op) ((List.range members).map fun r =>
    some (if r = rank then own else natOfBytes ((List.range n).map fun b => Config.fabric seed ((members * e + r) * 4 + b))))).getD own

/-- Byte k of a collective: an element is reduced with its first byte (R274, R280). -/
def State.collUnit (s : State) (j : Job) (k : Nat) : JobRes Unit :=
  let a := cardAddr (cardParam j.card 0)
  let ty := field (cardParam j.card 1) 35 32
  let n := collWidth ty
  if k % n ≠ 0 then .ok () s
  else match s.group j.part (field (cardParam j.card 2) 31 0) with
    | none => .ok () s
    | some (m, rank, _) => (s.jobRead j a.1 ((a.2 + k : Nat) : Int) n).bind fun x s =>
        s.jobWrite j a.1 ((a.2 + k : Nat) : Int) n (collElem ty (field (cardParam j.card 1) 39 36) m rank (2 * j.id) (k / n) x)

/-- The number of units of a card: bytes, entries, blocks or bytes (R280). -/
def cardUnits (bs : List Byte) : Nat :=
  match cardKind bs with
  | 1 => cardNat bs 0x20 4 * cardNat bs 0x24 4
  | 2 => if cardQie bs then cardNin bs else cardNat bs 0x28 4
  | 4 => field (cardParam bs 4) 15 0 * (field (cardParam bs 4) 31 16 / 8)
  | _ => field (cardParam bs 1) 31 0

/-- One unit of a job. -/
def State.jobUnit (s : State) (j : Job) (k : Nat) : JobRes Unit :=
  match cardKind j.card with
  | 1 => s.copyUnit j k
  | 2 => s.gatherUnit j k
  | 4 => s.decompUnit j k
  | _ => s.collUnit j k

/-- Units from k on: how many are done, why it stopped, and the state. -/
def State.runUnits (unit : State → Nat → JobRes Unit) : Nat → Nat → State → Nat × Option JobEnd × State
  | 0, k, s => (k, none, s)
  | n + 1, k, s => match unit s k with
    | .ok _ t => State.runUnits unit n (k + 1) t
    | .stop e t => (k, some e, t)

/-! ### The end of a job (R275, R282, R285) -/

/-- What happens before an event that follows a job: what happens before the job, and its own accesses (R248). -/
def Job.after (j : Job) : Clock := SMap.set 0 j.clk j.id j.id

/-- Accesses of a team, which its commit and the launches that depend on its own follow (R248, R258). -/
def State.joinTeamClock (s : State) (team : Nat) (k : Clock) : State :=
  match s.teamOf team with
  | none => s
  | some t => (s.modTeam team fun t => { t with clk := Clock.join t.clk k }).modLaunch t.part t.launch fun l => { l with
      all := Clock.join l.all k
      commits := l.commits.map fun c => if c.rank == t.rank then { c with clk := Clock.join c.clk k } else c }

/-- A job is complete, with a result code: its slot holds its final status, jobs behind it lose their edge, its word
returns, and what it still owed its queues is given up. -/
def State.endJob (s : State) (j : Job) (result : Nat) : State :=
  let bs := j.card
  let key := s.jobThread j * 2 ^ 32 + j.token.toNat
  let s1 := { s.joinTeamClock j.team j.after with jobs := (s.jobs.filter fun (k : Job) => k.id != j.id).map fun (k : Job) => { k with edges := k.edges.filter fun e => e != j.id } }
  let demand := cardNin bs - j.popped
  let supply := cardNout bs - j.pushed
  let s2 := s1.modCrew j.crew fun c =>
    let c1 := { c with
      slots := SMap.set 0 c.slots (j.token.toNat % 32) (statusWord 3 result (cardKind bs) j.prog)
      jobClk := SMap.set [] c.jobClk key j.after }
    let c2 := if cardQie bs then c1.modQ (cardQin bs) fun q => { q with demand := q.demand - demand } else c1
    let c3 := if cardQoe bs then c2.modQ (cardQout bs) fun q => { q with supply := q.supply - supply } else c2
    c3.modWord j.wid fun w => { w with done := true }
  let s3 := if cardQie bs then s2.updateQ j.crew (cardQin bs) demand 0 else s2
  let s4 := if cardQoe bs then s3.updateQ j.crew (cardQout bs) 0 supply else s3
  s4.settleCrew j.crew

/-- A job that stopped early: it ends with a result code, waits, or stands still where a conflicting pair has halted the
partition (R270, R277). -/
def State.stopJob (s : State) (j : Job) (e : JobEnd) : State :=
  match e with
  | .footprint => s.endJob j 1
  | .page => s.endJob j 2
  | .wait n page => s.modJob j.id fun j => { j with fault := some n, page := page }
  | .race => s

/-- The job of this number that a yarder runs and that waits for nothing. -/
def State.running (s : State) (part id : Nat) : Option Job :=
  s.jobs.find? fun j => j.part == part && j.id == id && j.isCard && j.at_.isSome && j.fault.isNone

/-- The job moves entries through a queue register. -/
def queued (j : Job) : Bool := cardKind j.card == 2 && (cardQie j.card || cardQoe j.card)

/-- JOB_COMPLETE (R275): the rest of a job's accesses take effect, and it completes. A gather with queues completes when
its last entry is done. -/
def execJobComplete (part job : Nat) (s : State) : Out :=
  match s.running part job with
  | some j =>
    let n := cardUnits j.card
    if queued j then (if j.prog = n ∧ j.input.isEmpty then .next (s.endJob j 0) else .next s)
    else match State.runUnits (fun s k => s.jobUnit j k) (n - j.prog) j.prog s with
      | (k, none, t) => .next ((t.modJob j.id fun j => { j with prog := k }).endJob { j with prog := k } 0)
      | (k, some e, t) => .next ((t.modJob j.id fun j => { j with prog := k }).stopJob { j with prog := k } e)
  | none => .next s

/-- The queue register that a gather pushes to is full (R284). -/
def State.outFull (s : State) (j : Job) : Bool :=
  cardQoe j.card && match s.crewOf j.crew with | some c => decide (8 ≤ (c.q (cardQout j.card)).entries.length) | none => false

/-- GATHER_QUEUE_ENTRY (R272, R282): pop an index entry, once its output has room; or make an output entry of the one at hand, and push it or
write it. -/
def execGatherQueueEntry (part job : Nat) (s : State) : Out :=
  match s.running part job with
  | none => .next s
  | some j =>
    let bs := j.card
    if !queued j || j.prog == cardUnits bs then .next s
    else if cardQie bs && j.input.isEmpty then
      if s.outFull j then .next s
      else match s.crewOf j.crew with
      | none => .next s
      | some c => match (c.q (cardQin bs)).entries with
        | [] => .next s
        | e :: es =>
          let s1 := s.modCrew j.crew fun c => c.modQ (cardQin bs) fun q => { q with entries := es, demand := q.demand - 1 }
          .next ((s1.modJob j.id fun j => { j with input := [e], popped := j.popped + 1 }).updateQ j.crew (cardQin bs) 0 0)
    else if cardQoe bs then
      match s.crewOf j.crew with
      | none => .next s
      | some c =>
        if 8 ≤ (c.q (cardQout bs)).entries.length then .next s
        else match s.gatherValues j j.prog with
          | .stop e t => .next (t.stopJob j e)
          | .ok xs t =>
            let t1 := t.modCrew j.crew fun c => c.modQ (cardQout bs) fun q =>
              { q with entries := q.entries ++ [xs.map fun x => w32 x], supply := q.supply - 1 }
            .next ((t1.modJob j.id fun j => { j with input := [], prog := j.prog + 1, pushed := j.pushed + 1 }).updateQ j.crew (cardQout bs) 0 0)
    else match s.gatherUnit j j.prog with
      | .stop e t => .next (t.stopJob j e)
      | .ok _ t => .next (t.modJob j.id fun j => { j with input := [], prog := j.prog + 1 })

/-- The fabric time limit of a collective's group has passed since its yarder took it (R274, R417). -/
def State.collExpired (s : State) (j : Job) : Bool :=
  match s.group j.part (field (cardParam j.card 2) 31 0) with
  | some (_, _, us) => cardKind j.card == 5 && decide (j.began.toNat + 1000 * us ≤ s.time.toNat)
  | none => false

/-- COLLECTIVE_TIMEOUT (R274, R417): a member has not joined within the group's time limit. The buffer's contents are unspecified, and
the job stops with result code 5. -/
def execCollectiveTimeout (part job : Nat) (s : State) : Out :=
  match s.running part job with
  | some j =>
    if s.collExpired j then
      let r := State.runUnits (fun s k => s.collLost j k) (cardUnits j.card) 0 s
      .next (r.2.2.endJob { j with prog := 0 } 5)
    else .next s
  | none => .next s

end Sys2Proof.Machine
end

