-- ==== Sys2Proof/Machine/FaultQueue.lean ====
section
/-! DEFINITION. The driver's side of fault service (R207, R208, R215): the answer to a record, and the fault ring. -/

namespace Sys2Proof.Machine

/-- The path after the answer to a record (R206, R207). -/
def Path.answered (tag : Nat) (reject : Bool) (p : Path) : Path :=
  match p.park with
  | none => p
  | some k =>
    let hits := k.tags.filter fun t => t.1 == tag
    let lanes := hits.flatMap fun t => (maskLanes 1024 t.2.1).map fun l => (l, t.2.2.1)
    { p with park := some { k with
        tags := k.tags.filter fun t => t.1 != tag
        reject := if reject then lanes.foldl (fun m e => SMap.set 0 m e.1 e.2) k.reject else k.reject } }

/-- The answer to a record: its path may replay, or its job goes on or stops with result code 2 (R207, R277). -/
def State.answer (s : State) (part tag : Nat) (reject : Bool) : State :=
  let each := fun (c : Crew) => if s.partOf c == part then { c with paths := c.paths.map (Path.answered tag reject) } else c
  let s1 := { s with crews := s.crews.map each }
  match s1.jobs.find? fun j => j.part == part && j.fault == some (tag + 1) with
  | some j => if reject then s1.endJob j 2 else s1.modJob j.id fun j => { j with fault := none }
  | none => s1

/-- FAULT_ANSWER (R207): bits 31 to 0 the tag, bit 32 the verdict. -/
def execFaultAnswer (part : Nat) (v : W64) (s : State) : Out := .next (s.answer part (field v.toNat 31 0) (v.getLsbD 32))

/-- Held records go to the ring; where it has no size the device rejects them (R208). -/
def State.serveFq (s : State) (part : Nat) : State :=
  match s.part? part with
  | none => s
  | some q =>
    if q.fqSize = 0 then
      q.fqHeld.foldl (fun s r => s.answer part (natOfBytes ((r.drop 28).take 4)) true) (s.modPart part fun q => { q with fqHeld := [] })
    else s.flushFq part q.fqHeld.length

/-- FAULT_QUEUE_BASE (R208): both pointers become 0. -/
def execFaultQueueBase (part : Nat) (v : W64) (s : State) : Out :=
  .next ((s.modPart part fun q => { q with fqBase := w64 (field v.toNat 51 12 * 4096), fqHead := 0, fqTail := 0 }).serveFq part)

/-- FAULT_QUEUE_HEAD (R208, R215): a write to MC_FQ_PTRS sets the ring size and the head. -/
def execFaultQueueHead (part : Nat) (v : W64) (s : State) : Out :=
  .next ((s.modPart part fun q => { q with fqSize := v.extractLsb' 32 16, fqHead := v.extractLsb' 16 16 }).serveFq part)

end Sys2Proof.Machine
end

