-- ==== Sys2Proof/Machine/Matrix.lean ====
section
/-! DEFINITION. The matrix array (R289 to R312): the operand buffer, gangs, MMA and its joints, tiles and their words. -/

namespace Sys2Proof.Machine

/-! ### Formats and records (R290, R291) -/

/-- The format code is reserved. -/
def fmtReserved (f : Nat) : Bool := f == 3 || decide (10 < f)
/-- The bytes of one A slab. -/
def slabSize (f : Nat) : Nat := match f with | 0 => 8192 | 1 => 8192 | 2 => 16384 | _ => (f - 2 + 1) * 1024
/-- The vector registers of one B quarter. -/
def quarterRegs (f : Nat) : Nat := match f with | 0 => 16 | 1 => 16 | 2 => 32 | _ => 2 * (f - 2) + 2

/-- The fields of a record word. -/
def recFmt (r : W64) : Nat := field r.toNat 3 0
def recSlabs (r : W64) : Nat := field r.toNat 13 8 + 1
def recOffs (r : W64) : Int := sextNat 8 (field r.toNat 23 16) + sextNat 8 (field r.toNat 31 24)
def recAnchor (r : W64) : BitVec 10 := r.extractLsb' 32 10
/-- The bytes a record asks for. -/
def recSize (r : W64) : Nat := slabSize (recFmt r) * recSlabs r
/-- OBRES answers 3 (R293). -/
def recBad (r : W64) : Bool :=
  field r.toNat 63 42 != 0 || field r.toNat 15 14 != 0 || field r.toNat 7 4 != 0 || fmtReserved (recFmt r) || decide (512 * 1024 < recSize r)

/-! ### Matrix faults (R292) -/

/-- A scalar word takes MATRIX_STATE. -/
def matrixScalar (s : State) (c : Crew) (p : Path) (cause : Nat) : Out :=
  scalarFault (s.modCur fun c => c.noteMatrix p.faultLanes cause) c p fcMatrix cause

/-- A lane word takes MATRIX_STATE over its lanes. -/
def matrixLanes (s : State) (c : Crew) (p : Path) (size cause : Nat) (f : Mask) : Out :=
  laneFault (s.modCur fun c => c.noteMatrix f cause) c p size fcMatrix cause f

/-! ### OBRES and OBREL (R289, R293, R294) -/

/-- The reservations of the crews of a core. -/
def State.resvsOf (s : State) (core : Nat) : List Resv := (s.coreCrews core).flatMap fun c => c.resv.filterMap (·.2)
/-- The free units of a core's operand buffer. -/
def State.obufFree (s : State) (core : Nat) : Nat := 512 - (s.resvsOf core).foldl (fun n r => n + r.units) 0
/-- The lowest free range of n units. -/
def State.obufFit (s : State) (core n : Nat) : Option Nat :=
  let rs := s.resvsOf core
  (List.range (513 - n)).find? fun k => !rs.any fun r => decide (r.start < k + n) && decide (k < r.start + r.units)

/-- Take a reservation, its contents unspecified (R293; log 6, DEDUCED). -/
def State.takeResv (s : State) (cid : Nat) (res start : Nat) (r : W64) : State :=
  { s.modCrew cid fun c => { c with resv := SMap.set none c.resv res (some ⟨start, recSize r / 1024, r, [], s.free⟩) } with
    free := s.free + 1 }

/-- The record that a waiting OBRES asks for, else the register's. -/
def obresRec (p : Path) (v : W64) : W64 := match p.want with | some (.obres _ _ r) => r | _ => v

/-- OBRES (R293). -/
def execObres (d a : BitVec 6) (wait : Bool) (res : BitVec 3) (s : State) : Out :=
  withCur s fun c p =>
    if c.pending [d, a] then waitFor s stInterlock
    else
      let r := obresRec p (c.sget a)
      let answer := fun (s : State) (v : W64) => Host.Outcome.next ((s.modCur fun c => c.sset d v).advance 4)
      if recBad r then answer s 3
      else if (SMap.get none c.resv res.toNat).isSome then answer s 2
      else match s.obufFit ((s.coreOf c.team).getD 0) (recSize r / 1024) with
        | some k => answer (s.takeResv c.id res.toNat k r) 0
        | none => if wait then waitWant s stAllot (.obres d res.toNat r) else answer s 1

/-- OBRES_GRANT (R293): the first waiting OBRES of the core that fits. -/
def execObresGrant (r : PathRef) (s : State) : Out :=
  match s.named r with
  | some (c, p) => match p.want with
    | some (.obres d res rc) =>
      let can := fun (w : Nat × Nat) => match s.crewOf w.1 with
        | some e => (match (e.path w.2).want with
          | some (.obres _ _ x) => (s.obufFit r.core (recSize x / 1024)).isSome
          | _ => false)
        | none => false
      let first := (s.waiters (· == r.core) (fun w => match w with | .obres .. => true | _ => false)).find? can
      match s.obufFit r.core (recSize rc / 1024) with
      | some k =>
        if first == some (c.id, r.path) && s.scalRoom r.core c.id r.path then
          let held := (SMap.get none c.resv res).isSome
          let s1 := if held then s else s.takeResv c.id res k rc
          .next ((s1.modCrew c.id fun c => c.sset d (if held then 2 else 0)).grantWord r.core c.id r.path 0)
        else .next s
      | none => .next s
    | _ => .next s
  | none => .next s

/-- An OBLD of the crew into a reservation is outstanding, of those before a word. -/
def Crew.loading (c : Crew) (res before : Nat) : Bool :=
  c.words.any fun w => decide (w.wid < before) && !w.done && (match w.instr with | .obld m => m.d.toNat == res | _ => false)

/-- The joints of a team that name a reservation of a crew. -/
def Joint.names (j : Joint) (cid res : Nat) : Bool := match j.arrs with | a :: _ => a.crew == cid && a.res == res | [] => false
/-- The joints of a crew's team. -/
def State.jointsOf (s : State) (c : Crew) : List Joint := match s.teamOf c.team with | some t => t.joints | none => []

/-- OBREL (R294). -/
def execObrel (res : BitVec 3) (s : State) : Out :=
  withCur s fun c _ =>
    if c.loading res.toNat s.nextId || (s.jointsOf c).any (fun j => j.names c.id res.toNat) then waitFor s stOther
    else .next ((s.modCur fun c => { c with resv := SMap.set none c.resv res.toNat none }).advance 4)

/-! ### OBLD (R295, R296) -/

/-- Arrivals at gang position 0 of a crew, queued or in a joint, that name a slab of a reservation. -/
def State.slabsNamed (s : State) (c : Crew) (res : Nat) : List Nat :=
  match s.teamOf c.team with
  | none => []
  | some t => ((t.latches.flatMap (·.arrs) ++ t.joints.flatMap (·.arrs)).filter fun a =>
      a.pos == 0 && a.crew == c.id && a.res == res).map (·.slab)

/-- OBLD (R295). -/
def execObld (w : LaneM) (s : State) : Out :=
  let i := Instr.obld w
  let info : LaneInfo :=
    { instr := i, h := w.h, reads := addrRegs w.base true w.x w.a ++ [w.c.toNat], writes := [], late := [], long := false
      counter := some 5 }
  laneWord s info (fun _ => false) fun c p sel s1 =>
    match SMap.get none c.resv w.d.toNat with
    | none => matrixLanes s1 c p i.size 1 sel
    | some v =>
      let n := slabSize (recFmt v.rec_)
      let offs := (maskLanes 1024 sel).map fun l => (c.vget w.c.toNat l).toNat
      if (s1.slabsNamed c w.d.toNat).any fun k => offs.any fun o => decide (k * n < o + LaneM.width w) && decide (o < (k + 1) * n) then
        waitFor s1 stOther
      else memWord s1 c p sel info [] ((maskLanes 1024 sel).map fun l =>
        ⟨l, laneEa c p w.base w.x w.y w.a w.off.toInt l, (c.vget w.c.toNat l).setWidth 64, 0⟩)

/-! ### Gangs (R297) -/

/-- The members of a configuration, by position. -/
def gangMembers (v : BitVec 48) : List Nat := (List.range (field v.toNat 34 32)).map fun p => field v.toNat (5 * p + 4) (5 * p)
/-- The position that supplies a quarter. -/
def gangSupplier (v : BitVec 48) (q : Nat) : Nat := field v.toNat (36 + 3 * q + 2) (36 + 3 * q)
/-- The quarters that a position supplies, ascending. -/
def gangQuarters (v : BitVec 48) (pos : Nat) : List Nat := (List.range 4).filter fun q => gangSupplier v q == pos
/-- The position of a team group; none where it is no member. -/
def gangPos (v : BitVec 48) (group : Nat) : Option Nat := (gangMembers v).findIdx? fun m => m == group

/-- A configuration is valid for a team of some groups (R297). -/
def gangValid (v : W64) (groups : Nat) : Bool :=
  let n := field v.toNat 34 32
  let ms := gangMembers (v.extractLsb' 0 48)
  field v.toNat 63 48 == 0 && !v.toNat.testBit 35 && field v.toNat 31 30 == 0
  && decide (2 ≤ n) && decide (n ≤ 6) && (distinct ms).length == n && ms.all (fun m => decide (m < groups))
  && (List.range 4).all (fun q => decide (gangSupplier (v.extractLsb' 0 48) q < n))
  && (List.range 6).all (fun p => decide (p < n) || field v.toNat (5 * p + 4) (5 * p) == 0)

/-- GANG (R297). -/
def execGang (a : BitVec 6) (s : State) : Out :=
  withCur s fun c p =>
    if p.iss.isSome then waitIssue s p
    else if c.pending [a] then waitFor s stInterlock
    else
      let groups := match s.teamOf c.team with | some t => t.groups | none => 0
      if gangValid (c.sget a) groups then .next ((s.modCur fun c => { c with gang := (c.sget a).extractLsb' 0 48 }).advance 4)
      else matrixScalar s c p 8

/-! ### Allotment of tiles (R231, R301, R304) -/

/-- The waits for a tile on a stand, of words and of joints, in ascending core, crew slot and path index: crew, path
index, and the tile. -/
def State.tileWaits (s : State) (k : Nat) : List (Nat × Nat × Nat) :=
  let place := fun (cid : Nat) => match s.crewOf cid with | some c => ((s.coreOf c.team).getD 0) * 128 + c.slot * 8 | none => 0
  let words := (s.waiters (fun core => standOfCore core == k) (fun w => match w with | .tile _ => true | _ => false)).filterMap fun w =>
    match s.crewOf w.1 with
    | some c => (match (c.path w.2).want with | some (.tile t) => some (w.1, w.2, t) | _ => none)
    | none => none
  let joints := (s.standTeams k).flatMap fun t => t.joints.filterMap fun j =>
    if j.held then match j.arrs with | a :: _ => some (a.crew, a.path, a.tile) | [] => none else none
  sortBy (fun (w : Nat × Nat × Nat) => place w.1 + w.2.1) (words ++ joints)

/-- The tile that a wait asks for has been allotted to its team. -/
def State.tileHeld (s : State) (w : Nat × Nat × Nat) : Bool :=
  match s.crewOf w.1 with
  | some c => (match s.teamOf c.team with | some t => (t.tile w.2.2).allot | none => false)
  | none => false

/-- The first wait of a stand that can end: its tile is allotted, or the pool has room for it. -/
def State.nextTileWait (s : State) (k : Nat) : Option (Nat × Nat × Nat) :=
  (s.tileWaits k).find? fun w => s.tileHeld w || s.tileRoom k

/-- Give a word its tile: at once where it is allotted, or can be and nothing waits before it; else the path waits
(R231). -/
def withTile (s : State) (c : Crew) (t : Nat) (k : State → Out) : Out :=
  let stand := standOfCore ((s.coreOf c.team).getD 0)
  match s.teamOf c.team with
  | none => waitFor s stAllot
  | some m =>
    if (m.tile t).allot then (if s.tileDrained stand (m.tile t) then k s else waitFor s stAllot)
    else if s.tileRoom stand && (match s.tileWaits stand with | [] => true | w :: _ => w == (c.id, s.curPath, t)) then
      let s1 := s.allotTile stand c.team t
      match s1.teamOf c.team with
      | some m1 => if s1.tileDrained stand (m1.tile t) then k s1 else waitFor s1 stAllot
      | none => waitFor s1 stAllot
    else waitWant s stAllot (.tile t)

/-! ### MMA (R299, R300) -/

/-- The registers of a member's B block, by name; none for a group that is no member. -/
def mmaBlock (v : BitVec 48) (b : BitVec 8) (fmt group : Nat) : List Nat :=
  match gangPos v group with
  | some p => (List.range ((gangQuarters v p).length * quarterRegs fmt)).map fun i => b.toNat + i
  | none => []

/-- The current path of an arrival's word. -/
def State.arrPath (s : State) (a : Arrival) : Nat :=
  match s.crewOf a.crew with | some c => (match c.word? a.wid with | some w => w.path | none => a.path) | none => a.path

/-- A joint waits for the allotment of its tile: the path of the word of position 0, which names the tile, is not ready (R231, R300,
R301). Log 45 (DEDUCED). -/
def State.jointWaits (s : State) (c : Crew) (i : Nat) : Bool :=
  (s.jointsOf c).any fun j => j.held && match j.arrs with | a :: _ => a.crew == c.id && s.arrPath a == i | [] => false

/-- A path's MMA word has an arrival without room: the path is not ready (R300). -/
def State.crowded (s : State) (c : Crew) (i : Nat) : Bool :=
  match s.teamOf c.team with
  | none => false
  | some t => t.latches.any fun l => l.arrs.any fun a =>
      a.crew == c.id && !t.roomFor a && c.words.any fun w => w.wid == a.wid && w.path == i

/-- The arrival joins its team's latch for the gang. -/
def Team.arrive (t : Team) (v : BitVec 48) (a : Arrival) : Team :=
  if t.latches.any fun l => l.gang == v then
    { t with latches := t.latches.map fun l => if l.gang == v then { l with arrs := l.arrs ++ [a] } else l }
  else { t with latches := t.latches ++ [⟨v, [a]⟩] }

/-- MMA (R300): each pass of a member group is an arrival; the lanes of other groups take MATRIX_STATE. -/
def execMma (h : Hdr) (b : BitVec 8) (tile : BitVec 2) (res : BitVec 3) (slab : SlabSrc) (fmt : BitVec 4) (s : State) : Out :=
  withCur s fun c0 p0 =>
    let i := Instr.mma h b tile res slab fmt
    let v := c0.gang
    let groups := (c0.passes (selMask c0 p0 h)).map fun g => c0.first + g
    let info : LaneInfo :=
      { instr := i, h := h, reads := [], writes := [], late := distinct (groups.flatMap fun g => mmaBlock v b fmt.toNat g)
        long := true, counter := some 5 }
    laneWord s info (fun _ => false) fun c p sel s1 =>
      let outside := groupLanes (maskOf (groups.filter fun g => (gangPos v g).isNone)) &&& sel
      let inside := sel &&& ~~~outside
      if inside = 0 then matrixLanes s1 c p i.size 3 outside
      else
      let s2 := if outside = 0 then s1 else s1.modCur fun c => c.noteMatrix outside 3
      let s3 := if outside = 0 then s2 else s2.defer c p true fcMatrix 3 outside
      let c3 := (s3.crewOf c.id).getD c
      if outside ≠ 0 ∧ (c.deferFatal p outside).isSome then .next s3
      else if info.late.any fun v => !c.present (c.physical v) then laneFault s3 c3 (c3.path s.curPath) i.size fcRange 0 inside
      else
        let n := match slab with
          | .imm k => k.toNat
          | .sreg r => (p.scalar c r).toNat % 64
        let members := groups.filter fun g => (gangPos v g).isSome
        let word : Word := { newWord s3 p c info sel with
          lanes := inside, owed := inside, open_ := members, srcs := (members.flatMap fun g => mmaBlock v b fmt.toNat g).map c.physical }
        let arr := fun (g : Nat) => (
          { pos := (gangPos v g).getD 0, group := g, crew := c.id, path := s.curPath, wid := word.wid
            lanes := sel &&& maskRange (32 * g) 32, tile := tile.toNat, res := res.toNat, slab := n, fmt := fmt.toNat
            regs := (mmaBlock v b fmt.toNat g).map c.physical, shadow := word.shadow, acc := s3.nextId + 1, thr := p.thr
            clk := p.clockAt (s3.nextId + 1), latched := none } : Arrival)
        let s4 := { s3 with nextId := s3.nextId + 2 }.modCur fun c =>
          (c.modPath s.curPath fun q => (q.intoSegment c info).pastLane i.size)
        let s5 := s4.modCur fun c => { c with words := c.words ++ [word] }
        .next (s5.modTeam c.team fun t => members.foldl (fun t g => t.arrive v (arr g)) t)

/-! ### Joints (R300 to R303, R310) -/

/-- The value of a B register in the lanes of a team group: the shadow bank for the lanes that held it at issue (R133). -/
def Crew.bReg (c : Crew) (a : Arrival) (r : Nat) : List W32 :=
  let g := a.group - c.first
  (List.range 32).map fun j =>
    match c.prop, c.place r with
    | some w, some i => if a.shadow.getLsbD (32 * a.group + j) then (w.shadowReg i g).val j else (c.liveReg r g).val j
    | _, _ => (c.liveReg r g).val j

/-- The B block of an arrival: as latched, or read now (R301, R311). -/
def State.bBlock (s : State) (a : Arrival) : List (List W32) :=
  match a.latched with
  | some b => b
  | none => match s.crewOf a.crew with
    | some c => a.regs.map fun r => c.bReg a r
    | none => []

/-- The four quarters of a joint, from the blocks of its members in position order. -/
def State.quarters (s : State) (v : BitVec 48) (arrs : List Arrival) : List (List (List W32)) :=
  (List.range 4).map fun q =>
    let pos := gangSupplier v q
    match arrs[pos]? with
    | some a =>
      let n := quarterRegs a.fmt
      let k := ((gangQuarters v pos).findIdx? fun x => x == q).getD 0
      ((s.bBlock a).drop (k * n)).take n
    | none => []

/-- The oldest arrival of each member of a latch, in position order; none where a member has none. -/
def Latch.ready (l : Latch) : Option (List Arrival) :=
  (List.range (gangMembers l.gang).length).foldr (fun p r => match r, l.arrs.find? (fun a => a.pos == p) with
    | some xs, some a => some (a :: xs)
    | _, _ => none) (some [])

/-- An earlier tile effect of one of the paths of a joint has not ended: an arrival that is still queued, or a joint formed
before it; among joints, one whose MMA happens before counts too (R305). -/
def State.outOfTurn (s : State) (t : Team) (j : Joint) : Bool :=
  let own := fun (b : Arrival) => j.arrs.any fun a => a.crew == b.crew && decide (b.acc < a.acc) && s.arrPath a == s.arrPath b
  let hb := fun (b : Arrival) => j.arrs.any fun a => a.acc != b.acc && decide (b.acc ≤ SMap.get 0 a.clk b.thr)
  t.latches.any (fun l => l.arrs.any own) || t.joints.any fun k => decide (k.no < j.no) && k.arrs.any fun b => own b || hb b

/-- The words of these arrivals have been read: their slots end with their last arrival (R303). Until their joint has been judged they
hold back a switch marker (R292). -/
def State.readArrivals (s : State) (arrs : List Arrival) : State :=
  arrs.foldl (fun s a => s.modCrew a.crew fun c => c.modWord a.wid fun w =>
    let owed := w.owed &&& ~~~maskRange (32 * a.group) 32
    { w with owed := owed, slot := w.slot && owed != 0, srcs := if owed = 0 then [] else w.srcs, held := w.held ++ [a.group] }) s

/-- The joint of these arrivals has passed its checks (R301). -/
def State.judgeArrivals (s : State) (arrs : List Arrival) : State :=
  arrs.foldl (fun s a => s.modCrew a.crew fun c => c.modWord a.wid fun w => { w with held := w.held.filter (· != a.group) }) s

/-- The reservation that the word of position 0 names. -/
def State.jointResv (s : State) (a : Arrival) : Option Resv := match s.crewOf a.crew with | some c => SMap.get none c.resv a.res | none => none

/-- The checks of R301 before allotment: the cause of the first that fails. -/
def State.jointCheck (s : State) (t : Team) (v : BitVec 48) (arrs : List Arrival) : Option Nat :=
  match arrs with
  | [] => some 1
  | a :: _ => match s.jointResv a with
    | none => some 1
    | some r =>
      if recSlabs r.rec_ ≤ a.slab then some 2
      else if t.ntile ≤ a.tile then some 7
      else if !(arrs.all fun b => (gangQuarters v b.pos).isEmpty || b.fmt == a.fmt)
          || !(recFmt r.rec_ == a.fmt || (decide (recFmt r.rec_ < 2) && decide (a.fmt < 2))) then some 6
      else none

/-- The last check of R301: bind the tile, or none where its anchor differs. -/
def State.bindTile (s : State) (team : Nat) (a : Arrival) : Option State :=
  match s.teamOf team, s.jointResv a with
  | some t, some r =>
    let x := t.tile a.tile
    if !x.bound then some (s.modTeam team fun t => t.modTile a.tile fun x => { x with bound := true, anchor := recAnchor r.rec_ })
    else if x.anchor = recAnchor r.rec_ then some s else none
  | _, _ => none

/-- The joint of this number. -/
def Team.modJoint (t : Team) (no : Nat) (f : Joint → Joint) : Team :=
  { t with joints := t.joints.map fun j => if j.no == no then f j else j }
/-- The team without the joint of this number. -/
def Team.dropJoint (t : Team) (no : Nat) : Team := { t with joints := t.joints.filter fun j => j.no != no }

/-- A joint that fails a check is not performed (R301). -/
def State.failJoint (s : State) (team : Nat) (j : Joint) (cause : Nat) : State :=
  j.arrs.foldl (fun s a => s.settleCrew a.crew) ((s.modTeam team fun t => t.dropJoint j.no).cancelArrivals j.arrs cause)

/-- A formed joint goes on past its allotment: the tile is bound, or the joint fails with cause 5. -/
def State.startJoint (s : State) (team : Nat) (j : Joint) : State :=
  match j.arrs with
  | [] => s
  | a :: _ => match s.bindTile team a with
    | some s1 => (s1.judgeArrivals j.arrs).modTeam team fun t => t.modJoint j.no fun j => { j with held := false }
    | none => s.failJoint team j 5

/-- A joint forms from a latch: B is read, then the checks of R301. Its number is the next one. -/
def State.formJoint (s : State) (t : Team) (v : BitVec 48) (arrs : List Arrival) : State :=
  let j : Joint := ⟨s.nextId, v, arrs, s.quarters v arrs, 0, true⟩
  let s1 := ({ s with nextId := s.nextId + 1 }.readArrivals arrs).modTeam t.id fun t => { t with
    latches := (t.latches.map fun (l : Latch) => if l.gang == v then { l with arrs := l.arrs.filter fun a => !arrs.contains a } else l).filter
      fun (l : Latch) => !l.arrs.isEmpty
    joints := t.joints ++ [j] }
  match s1.jointCheck t v arrs, arrs with
  | some cause, _ => s1.failJoint t.id j cause
  | none, [] => s1
  | none, a :: _ =>
    let k := standOfCore (t.core.getD 0)
    if (t.tile a.tile).allot then s1.startJoint t.id j
    else if s1.tileRoom k && (s.tileWaits k).isEmpty then (s1.allotTile k t.id a.tile).startJoint t.id j
    else s1

/-- A team of a launch. -/
def State.teamRef (s : State) (r : TeamRef) : Option Team :=
  s.teams.find? fun t => t.part == r.part && t.launch == r.launch && t.index == r.team && !t.retired

/-- The first latch of a team in which every member has an arrival queued, with those arrivals (R300). -/
def Team.readyLatch (t : Team) : Option (BitVec 48 × List Arrival) :=
  (t.latches.take 4).findSome? fun l => l.ready.map fun arrs => (l.gang, arrs)

/-- JOINT_FORM (R300, R301). -/
def execJointForm (r : TeamRef) (s : State) : Out :=
  match s.teamRef r with
  | some t => match t.readyLatch with
    | some f => .next (s.formJoint t f.1 f.2)
    | none => .next s
  | none => .next s

/-- TILE_ALLOTMENT (R231, R301): the first wait of the stand that can end gets its tile: a word runs again, and the team's joints
that wait for the tile go on, in forming order. -/
def execTileAllotment (r : PathRef) (s : State) : Out :=
  let k := standOfCore r.core
  match s.named r, s.nextTileWait k with
  | some (c, _), some w =>
    if w.1 == c.id && w.2.1 == r.path then
      let s1 := if s.tileHeld w then s else s.allotTile k c.team w.2.2
      let held : List Joint := match s.teamOf c.team with
        | some t => t.joints.filter fun (j : Joint) => j.held && match j.arrs with | a :: _ => a.tile == w.2.2 | [] => false
        | none => []
      .next ((held.foldl (fun (s : State) (j : Joint) => s.startJoint c.team j) s1).modPath c.id r.path fun p => match p.want with
        | some (.tile _) => { p with want := none, wait := none }
        | _ => p)
    else .next s
  | _, _ => .next s

/-! ### The arithmetic of a joint (R66 to R71, R291, R298, R302) -/

/-- A value scaled by a power of two. -/
def FVal.scale (x : FVal) (k : Int) : FVal := match x with | .fin s m e => .fin s m (e + k) | y => y

/-- A byte of a reservation; one that nothing has written is a free value (R293; log 6, DEDUCED). -/
def Resv.byte (r : Resv) (i : Nat) : Byte := (SMap.get none r.data i).getD (Config.operand r.seed i)
/-- n bytes of a reservation. -/
def Resv.bytes (r : Resv) (i n : Nat) : Nat := natOfBytes ((List.range n).map fun k => r.byte (i + k))

/-- A[r][k] of slab s (R291). -/
def Resv.elem (v : Resv) (s r k : Nat) : FVal :=
  let f := recFmt v.rec_
  let base := s * slabSize f
  match f with
  | 0 => FFmt.f8e4.value (v.bytes (base + 64 * r + k) 1)
  | 1 => FFmt.f8e5.value (v.bytes (base + 64 * r + k) 1)
  | 2 => FFmt.bf16.value (v.bytes (base + 2 * (64 * r + k)) 2)
  | _ =>
    let n := f - 2
    let b := 8 * r + k / 8
    bxValue n (v.bytes (base + 1024 * n + b) 1) (v.bytes (base + n * b) n) (k % 8)

/-- B[k] of lane j of a quarter (R298). -/
def quarterElem (f : Nat) (regs : List (List W32)) (k j : Nat) : FVal :=
  let reg := fun (i : Nat) => ((regs.getD i []).getD j 0).toNat
  match f with
  | 0 => FFmt.f8e4.value (field (reg (k / 4)) (8 * (k % 4) + 7) (8 * (k % 4)))
  | 1 => FFmt.f8e5.value (field (reg (k / 4)) (8 * (k % 4) + 7) (8 * (k % 4)))
  | 2 => FFmt.bf16.value (field (reg (k / 2)) (16 * (k % 2) + 15) (16 * (k % 2)))
  | _ =>
    let n := f - 2
    let str := (List.range (2 * n)).foldl (fun x i => x + reg i * 2 ^ (32 * i)) 0
    let exps := reg (2 * n) + reg (2 * n + 1) * 2 ^ 32
    let b := k / 8
    bxValue n (field exps (8 * b + 7) (8 * b)) (field str (8 * n * b + 8 * n - 1) (8 * n * b)) (k % 8)

/-- The anchor of a tile as a number; 0 while it is unbound (R304). -/
def Tile.anchorVal (x : Tile) : Int := if x.bound then x.anchor.toInt else 0
/-- Element i of a tile. -/
def Tile.elem (x : Tile) (i : Nat) : W128 := SMap.get 0 x.elems i

/-- One element's step (R302). -/
def jointElem (v : Resv) (slab fmt : Nat) (b : List (List (List W32))) (anchor : Int) (old : W128) (r n : Nat) : W128 × TileFlags :=
  let off := recOffs v.rec_
  let p := (List.range 64).foldl (fun p k =>
    ProdSum.add anchor p ((v.elem slab r k).scale off) (quarterElem fmt (b.getD (n / 32) []) k (n % 32))) ProdSum.zero
  let z := ProdSum.apply p old.toInt
  (BitVec.ofInt 128 z.1, z.2)

/-- The tile after the bands of 16 rows from `from_` on, up to `to_` (R302, R310). -/
def Tile.multiply (x : Tile) (v : Resv) (slab fmt : Nat) (b : List (List (List W32))) (from_ to_ : Nat) : Tile :=
  (List.range (128 * 16 * (to_ - from_))).foldl (fun x k =>
    let i := 128 * 16 * from_ + k
    let z := jointElem v slab fmt b x.anchorVal (x.elem i) (i / 128) (i % 128)
    { x with elems := SMap.set 0 x.elems i z.1, flags := x.flags ||| BitVec.ofNat 3 z.2.code }) x

/-! ### Tile effects and the race detector (R305) -/

/-- What a stop record says of a tile effect. -/
def State.tileCause (s : State) (c : Crew) (i n : Nat) (spc lpc : W64) : Cause where
  code := 32
  detail := 1
  addr := 32 * n
  kind := 1
  launch := s.lidOf c
  team := match s.teamOf c.team with | some t => t.index | none => 0
  core := (s.coreOf c.team).getD 0
  slot := c.slot
  path := i
  spc := spc
  lpc := lpc

/-- A tile effect's access to one granule of a tile, of each of the crews named: they are one access, so that only
earlier ones are checked against them (R249, R305). -/
def State.tileAccess (s : State) (part team tile n : Nat) (as : List (DAcc × Clock)) (write : Bool) :
    Except State State :=
  let d := s.detOf (.tile team tile n)
  let bs := as.map fun a => ({ a.1 with who := { a.1.who with addr := 32 * n } }, a.2)
  match bs.findSome? (fun a => (d.race a.1 write a.2).map fun q => (a.1, q)) with
  | some (a, q) => .error (s.raise part a.who (some q.who))
  | none => .ok (s.setDet (bs.foldl (fun d a => d.note a.1 write) d))

/-- Its accesses to several granules. Log 45 (DEDUCED). -/
def State.tileAccesses (s : State) (part team tile : Nat) (ns : List Nat) (as : List (DAcc × Clock)) (write : Bool) :
    Except State State :=
  ns.foldl (fun r n => match r with
    | .error t => .error t
    | .ok t => t.tileAccess part team tile n as write) (.ok s)

/-- A joint's access of a member's crew. -/
def State.memberAccess (s : State) (a : Arrival) : Option (DAcc × Clock) :=
  match s.crewOf a.crew with
  | none => none
  | some c =>
    let w := c.word? a.wid
    some (⟨a.thr, a.acc, a.acc, c.id, false, none, s.tileCause c a.path 0 (match w with | some w => w.spc | none => 0)
      (match w with | some w => w.lpc | none => 0)⟩, a.clk)

/-- A joint's accesses, of every member's crew. -/
def State.jointAccesses (s : State) (team tile : Nat) (arrs : List Arrival) : Except State State :=
  let part := match s.teamOf team with | some t => t.part | none => 0
  s.tileAccesses part team tile (List.range 8192) (arrs.filterMap s.memberAccess) true

/-- The words of a joint's arrivals return (R303). -/
def State.returnArrivals (s : State) (arrs : List Arrival) : State :=
  arrs.foldl (fun s a => (s.modCrew a.crew fun c => c.modWord a.wid fun w =>
    let open_ := w.open_.filter (· != a.group)
    { w with open_ := open_, done := open_.isEmpty && w.owed == 0 }).settleCrew a.crew) s

/-- The OBLDs that a joint waits for (R296). -/
def State.jointLoading (s : State) (a : Arrival) : Bool := match s.crewOf a.crew with | some c => c.loading a.res a.wid | none => false

/-- A joint can begin: its tile is allotted and drained, its slab has been written, and it is its turn (R296, R305). -/
def State.jointReady (s : State) (core : Nat) (t : Team) (j : Joint) : Bool :=
  match j.arrs with
  | [] => false
  | a :: _ => !t.leaving && !s.outOfTurn t j && !s.jointLoading a && s.tileDrained (standOfCore core) (t.tile a.tile)

/-- The joint that the array of a core performs: the one that has made some bands, else the first formed of those that can begin
(R305, R306, R310). -/
def State.arrayJoint (s : State) (core : Nat) : Option (Team × Joint) :=
  let js := ((s.teams.filter fun t => t.core == some core).flatMap fun t => (t.joints.filter fun j => !j.held).map fun j => (t, j))
  match js.find? fun x => decide (0 < x.2.bands) with
  | some x => some x
  | none => (sortBy (fun (x : Team × Joint) => x.2.no) (js.filter fun x => s.jointReady core x.1 x.2)).head?

/-- Make the bands of a joint up to some number, with its accesses before the first (R302, R305, R310). -/
def State.makeBands (s : State) (core : Nat) (t : Team) (j : Joint) (to_ : Nat) : Except State State :=
  match j.arrs with
  | [] => .ok s
  | a :: _ => match s.jointResv a with
    | none => .ok s
    | some v => match (if j.bands = 0 then s.jointAccesses t.id a.tile j.arrs else .ok s) with
      | .error u => .error u
      | .ok u => .ok ((u.modTeam t.id fun t =>
          (t.modTile a.tile fun x => x.multiply v a.slab a.fmt j.b j.bands to_).modJoint j.no fun j => { j with bands := to_ }).modCore core
            fun k => { k with staged := some (t.id, a.tile) })

/-- One more band of the joint that the array of a core performs, but for its last; a joint whose team leaves the core has
stopped (R310). -/
def State.stepArray (s : State) (core : Nat) : State :=
  match s.arrayJoint core with
  | none => s
  | some (t, j) =>
    if t.leaving || 7 ≤ j.bands then s
    else match s.makeBands core t j (j.bands + 1) with
      | .error u => u
      | .ok u => u

/-- JOINT_COMPLETE (R302, R303): the joint that the core's array performs makes the bands it has left, and its words return. -/
def execJointComplete (core : Nat) (s : State) : Out :=
  match s.arrayJoint core with
  | none => .next s
  | some (t, j) =>
    if t.leaving then .next s
    else match s.makeBands core t j 8 with
      | .error u => .next u
      | .ok u => .next ((u.modTeam t.id fun t => t.dropJoint j.no).returnArrivals j.arrs)

/-! ### ACCZ, ACCRD and ACCX (R305 to R309) -/

/-- A joint of the path has not completed, so its later tile effects wait (R305). -/
def Crew.jointsOpen (c : Crew) (i : Nat) : Bool := c.words.any fun w => w.path == i && !w.open_.isEmpty

/-- A member of a gang that has no arrival queued in its latch. -/
def Latch.misses (l : Latch) : List Nat := (gangMembers l.gang).filter fun g => !l.arrs.any fun a => a.group == g

/-- A multiplication on the tile, whose MMA happens before an effect of the path at this point, has not completed: it has formed, or
its latch needs no arrival of the path's own groups (R248, R305). Log 45 (DEDUCED). -/
def State.tileBehind (s : State) (c : Crew) (i tile : Nat) : Bool :=
  let p := c.path i
  let k := p.clockAt s.nextId
  let named := fun (arrs : List Arrival) => match arrs.find? (fun a => a.pos == 0) with | some a => a.tile == tile | none => true
  let old := fun (arrs : List Arrival) => named arrs && arrs.any fun a => a.crew != c.id && decide (a.acc ≤ SMap.get 0 k a.thr)
  match s.teamOf c.team with
  | none => false
  | some t => t.joints.any (fun j => old j.arrs)
    || t.latches.any fun l => old l.arrs && !l.misses.any fun g => p.mask.extractLsb' (32 * g) 32 != 0

/-- A multiplication on the tile has reached it, and has not completed: its tile is allotted and no earlier effect of its paths holds it
back (R305). -/
def State.tileReached (s : State) (c : Crew) (tile : Nat) : Bool :=
  match s.teamOf c.team with
  | some t => t.joints.any fun j => !j.held && (match j.arrs with | a :: _ => a.tile == tile | [] => false) && !s.outOfTurn t j
  | none => false

/-- A tile effect of the path waits (R305). -/
def State.tileWaiting (s : State) (c : Crew) (i tile : Nat) : Bool := c.jointsOpen i || s.tileReached c tile || s.tileBehind c i tile

/-- The crew's team declares fewer tiles. -/
def State.noTile (s : State) (c : Crew) (tile : Nat) : Bool := match s.teamOf c.team with | some t => decide (t.ntile ≤ tile) | none => true
/-- A tile of the crew's team. -/
def State.tileOf (s : State) (c : Crew) (tile : Nat) : Tile := match s.teamOf c.team with | some t => t.tile tile | none => ⟨false, false, 0, 0, [], []⟩

/-- The issuing path's tile effect touches these granules; its place in program order is the next one. -/
def State.tileEffect (s : State) (c : Crew) (p : Path) (tile : Nat) (ns : List Nat) (write : Bool) : Except State State :=
  { s with nextId := s.nextId + 1 }.tileAccesses (s.partOf c) c.team tile (distinct ns)
    [(⟨p.thr, s.nextId, s.nextId, c.id, false, none, s.tileCause c s.curPath 0 p.spc p.lpc⟩, p.clockAt s.nextId)] write

/-- ACCZ (R307). -/
def execAccz (tile : BitVec 2) (res : BitVec 3) (s : State) : Out :=
  withCur s fun c p =>
    if p.iss.isSome then waitIssue s p
    else if s.noTile c tile.toNat then matrixScalar s c p 7
    else match SMap.get none c.resv res.toNat with
    | none => matrixScalar s c p 1
    | some v =>
      if s.tileWaiting c s.curPath tile.toNat then waitFor s stOther
      else withTile s c tile.toNat fun s1 =>
        match s1.tileEffect c p tile.toNat (List.range 8192) true with
        | .error t => .next t
        | .ok t =>
          let t1 := t.modTeam c.team fun m => m.modTile tile.toNat fun x => { x with bound := true, anchor := recAnchor v.rec_, flags := 0, elems := [] }
          .next ((t1.modCore ((s.coreOf c.team).getD 0) fun k => { k with staged := some (c.team, tile.toNat) }).advance 4)

/-- ACCZ.free (R307). -/
def execAcczFree (tile : BitVec 2) (s : State) : Out :=
  withCur s fun c p =>
    if p.iss.isSome then waitIssue s p
    else if s.noTile c tile.toNat then matrixScalar s c p 7
    else if s.tileWaiting c s.curPath tile.toNat then waitFor s stOther
    else match s.tileEffect c p tile.toNat (List.range 8192) true with
      | .error t => .next t
      | .ok t =>
        let t1 := t.modTeam c.team fun m => m.modTile tile.toNat fun _ => ⟨false, false, 0, 0, [], []⟩
        .next ((t1.modCore ((s.coreOf c.team).getD 0) fun k =>
          { k with staged := if k.staged = some (c.team, tile.toNat) then none else k.staged }).advance 4)

/-- The element index of a lane (R308, R309). -/
def elemIdx (c : Crew) (a : BitVec 8) (l : Nat) : Nat := (c.vget a.toNat l).toNat % 2 ^ 14

/-- Launch a long-latency word whose values are known, and then make its effect on the tile. -/
def tileWord (s1 : State) (c : Crew) (p : Path) (info : LaneInfo) (sel : Mask) (tile : Nat) (ns : List Nat) (write : Bool)
    (vals : SMap Nat) (bc : List Nat) (eff : Tile → Tile) : Out :=
  match launchWord s1 c info.instr.size info { newWord s1 p c info sel with vals := vals, bcast := bc, done := true } with
  | .next t =>
    if (match t.crewOf c.id with | some e => (e.path s1.curPath).wait.isSome | none => false) then .next t
    else match t.tileEffect c p tile ns write with
      | .error u => .next { s1 with raised := u.raised }
      | .ok u => .next (u.modTeam c.team fun m => if (m.tile tile).allot then m.modTile tile eff else m)
  | o => o

/-- The wrapper's view of a tile word. -/
def infoTile (i : Instr) (h : Hdr) (reads writes : List Nat) : LaneInfo where
  instr := i
  h := h
  reads := reads
  writes := writes
  late := []
  long := true
  counter := some 5

/-- ACCRD (R308). -/
def execAccrd (h : Hdr) (ty : Ty) (d a : BitVec 8) (rnd : BitVec 2) (alt ftz : Bool) (tile : BitVec 2) (z : Bool) (s : State) : Out :=
  let i := Instr.accrd h ty d a rnd alt ftz tile z
  let info := infoTile i h [a.toNat] (regPair ty.is64 d)
  laneWord s info (fun _ => false) fun c p sel s1 =>
    if s1.noTile c tile.toNat then matrixLanes s1 c p i.size 7 sel
    else if s1.tileWaiting c s1.curPath tile.toNat then waitFor s1 stOther
    else
      let x := s1.tileOf c tile.toNat
      let ls := maskLanes 1024 sel
      let idx := ls.map fun l => elemIdx c a l
      let vals := SMap.ofList 0 (ls.map fun l => (l, (FFmt.ofTy ty).rnd rnd.toNat alt ftz (accValue (x.elem (elemIdx c a l)).toInt x.anchorVal)))
      tileWord s1 c p info sel tile.toNat (idx.map (· / 2)) z vals [] fun x =>
        if z then { x with elems := idx.foldl (fun m i => SMap.set 0 m i 0) x.elems } else x

/-- A mode of ACCX that only reads. -/
def accxRead (s : State) (i : Instr) (h : Hdr) (tile : BitVec 2) (reads writes : List Nat) (ns : Crew → List Nat → List Nat)
    (val : Crew → Tile → Nat → Nat) (uniform : Bool) : Out :=
  let info := infoTile i h reads writes
  laneWord s info (fun _ => false) fun c p sel s1 =>
    if s1.noTile c tile.toNat then matrixLanes s1 c p i.size 7 sel
    else if s1.tileWaiting c s1.curPath tile.toNat then waitFor s1 stOther
    else
      let x := s1.tileOf c tile.toNat
      let ls := maskLanes 1024 sel
      tileWord s1 c p info sel tile.toNat (ns c ls) false (SMap.ofList 0 (ls.map fun l => (l, val c x l)))
        (if uniform then (c.passes sel).filter fun g => c.groupWord sel g == BitVec.allOnes 32 else []) fun x => x

/-- A mode of ACCX that writes, and allots an unallotted tile. -/
def accxWrite (s : State) (i : Instr) (h : Hdr) (tile : BitVec 2) (reads : List Nat) (ns : Crew → List Nat → List Nat)
    (eff : Crew → List Nat → Tile → Tile) : Out :=
  let info := infoTile i h reads []
  laneWord s info (fun _ => false) fun c p sel s1 =>
    if s1.noTile c tile.toNat then matrixLanes s1 c p i.size 7 sel
    else if s1.tileWaiting c s1.curPath tile.toNat then waitFor s1 stOther
    else withTile s1 c tile.toNat fun s2 =>
      let ls := maskLanes 1024 sel
      tileWord s2 c p info sel tile.toNat (ns c ls) true [] [] (eff c ls)

/-- Four registers from one on. -/
def quad (v : BitVec 8) : List Nat := [v.toNat, v.toNat + 1, v.toNat + 2, v.toNat + 3]
/-- The 128-bit value of a lane. -/
def Crew.vget128 (c : Crew) (v : BitVec 8) (l : Nat) : W128 := BitVec.ofNat 128 (laneData c v.toNat 16 l)

/-- ACCX.rd (R309). -/
def execAccxRd (h : Hdr) (tile : BitVec 2) (d a : BitVec 8) (s : State) : Out :=
  accxRead s (.accxRd h tile d a) h tile [a.toNat] (quad d) (fun c ls => ls.map fun l => elemIdx c a l / 2)
    (fun c x l => (x.elem (elemIdx c a l)).toNat) false
/-- ACCX.wr (R309). -/
def execAccxWr (h : Hdr) (tile : BitVec 2) (a v : BitVec 8) (s : State) : Out :=
  accxWrite s (.accxWr h tile a v) h tile (a.toNat :: quad v) (fun c ls => ls.map fun l => elemIdx c a l / 2) fun c ls x =>
    { x with elems := ls.foldl (fun m l => SMap.set 0 m (elemIdx c a l) (c.vget128 v l)) x.elems }
/-- One addition of ACCX.add (R70). -/
def Tile.add (x : Tile) (i : Nat) (v : W128) : Tile :=
  let r := accSat ((x.elem i).toInt + v.toInt)
  { x with elems := SMap.set 0 x.elems i (BitVec.ofInt 128 r.1), flags := x.flags ||| BitVec.ofNat 3 (bitAt r.2 1) }
/-- ACCX.add (R309). -/
def execAccxAdd (h : Hdr) (tile : BitVec 2) (a v : BitVec 8) (s : State) : Out :=
  accxWrite s (.accxAdd h tile a v) h tile (a.toNat :: quad v) (fun c ls => ls.map fun l => elemIdx c a l / 2) fun c ls x =>
    ls.foldl (fun x l => x.add (elemIdx c a l) (c.vget128 v l)) x
/-- The flags word of a tile (R309). -/
def Tile.flagWord (x : Tile) : Nat := if x.allot then x.flags.toNat + (if x.bound then x.anchor.toNat * 2 ^ 16 else 0) else 0
/-- ACCX.flg (R309). -/
def execAccxFlg (h : Hdr) (tile : BitVec 2) (d : BitVec 8) (s : State) : Out :=
  accxRead s (.accxFlg h tile d) h tile [] [d.toNat] (fun _ _ => List.range 8192) (fun _ x _ => x.flagWord) true
/-- ACCX.orf (R309). -/
def execAccxOrf (h : Hdr) (tile : BitVec 2) (v : BitVec 8) (s : State) : Out :=
  accxWrite s (.accxOrf h tile v) h tile [v.toNat] (fun _ _ => List.range 8192) fun c ls x =>
    { x with flags := ls.foldl (fun f l => f ||| (c.vget v.toNat l).extractLsb' 0 3) x.flags }

end Sys2Proof.Machine
end

