-- ==== Sys2Proof/Machine/Launch.lean ====
section
/-! DEFINITION. Launches: the parameter block and the kernel descriptor (R314, R315), the cruise order (R320), admission
(R316, R345), eligibility (R317, R335, R344), LAUNCH and CIDX (R329, R330). -/

namespace Sys2Proof.Machine

/-! ### The launch parameter block (R314) -/

/-- The fields of a block's 256 bytes. The root is held as the physical address of the table. -/
def parseBlock (bs : List Byte) : Block :=
  let q := fun (off : Nat) => cardNat bs off 8
  let c := q 0
  { version := field c 7 0, prio := field c 11 10, cls := field c 9 8, det := c.testBit 12, strict := c.testBit 13
    bankctl := c.testBit 14, yhigh := c.testBit 15, child := c.testBit 16, cruise := c.testBit 17, morton := c.testBit 18
    yshare := field c 29 24
    kdesc := w64 (q 0x08), teams := field (q 0x10) 31 0, gsize := field (q 0x10) 36 32 + 1
    asid := field (q 0x18) 11 0, root := field (q 0x18) 51 16 * 65536
    args := w64 (q 0x20), alen := field (q 0x28) 13 0, pwin := field (q 0x28) 24 16, log := field (q 0x28) 63 32
    vdem := field (q 0x30) 15 0, jobs := field (q 0x30) 31 16, tlim := field (q 0x38) 31 0, slice := field (q 0x38) 63 32
    sbase := w64 (q 0x40), stride := field (q 0x48) 39 0, seed := field (q 0x50) 31 0
    d0 := max 1 (field (q 0x58) 20 0), d1 := max 1 (field (q 0x58) 41 21), d2 := max 1 (field (q 0x58) 62 42)
    nmin := field (q 0x60) 31 0, energy := field (q 0x60) 63 32, deadline := w64 (q 0x68), est := field (q 0x70) 15 0
    prod := field (q 0x78) 31 0, dmode := field (q 0x78) 33 32, wthr := w64 (q 0x80)
    c0 := field (q 0x88) 31 0, k := field (q 0x88) 63 32
    regs := (List.range 8).map fun i => w64 (q (0xC0 + 8 * i)) }

/-- A field that R314 reserves is not zero, or a bit that none of its rows lists. Log 55 (DESIGN CHOICE). -/
def blockReserved (bs : List Byte) : Bool :=
  let q := fun (off : Nat) => cardNat bs off 8
  field (q 0) 63 30 != 0 || field (q 0) 23 19 != 0 || field (q 0x10) 63 37 != 0
  || field (q 0x18) 63 52 != 0 || field (q 0x18) 15 12 != 0 || field (q 0x28) 31 25 != 0 || field (q 0x28) 15 14 != 0 || field (q 0x30) 63 32 != 0
  || field (q 0x78) 63 34 != 0 || cardNat bs 0x90 48 != 0
  || (if (q 0).testBit 17 then
        field (q 0x48) 63 40 != 0 || field (q 0x50) 63 32 != 0 || (q 0x58).testBit 63 || field (q 0x70) 63 16 != 0
      else (q 0).testBit 18 || cardNat bs 0x40 56 != 0)

/-- Check 1 of R316. -/
def blockFormed (addr : Nat) (bs : List Byte) : Bool :=
  let b := parseBlock bs
  addr % 64 == 0 && b.version == 1 && !blockReserved bs && b.cls != 3 && decide (1 ≤ b.yshare) && decide (1 ≤ b.teams)
  && decide (1 ≤ b.pwin) && decide (b.pwin ≤ 256) && decide (b.alen ≤ 8192)
  && (b.alen == 0 || b.args.toNat % 8 == 0) && (!b.det || b.log != 0)

/-! ### The kernel descriptor (R315) -/

/-- A crew entry of a descriptor. -/
def parseKCrew (bs : List Byte) (c : Nat) : KCrew :=
  let a := cardNat bs (0x20 + 16 * c) 8
  let b := cardNat bs (0x28 + 16 * c) 8
  { role := field a 28 21, rot := field a 20 14, regs := field a 13 6, groups := field a 5 0
    lent := field b 63 32, sent := field b 31 0 }

/-- The number of crews of a descriptor. -/
def kdCrews (bs : List Byte) : Nat := field (cardNat bs 0x18 8) 6 4

/-- The fields of a descriptor's 96 bytes. -/
def parseKDesc (bs : List Byte) : KDesc :=
  let h := cardNat bs 0x18 8
  { scode := w64 (cardNat bs 0x08 8), lcode := w64 (cardNat bs 0x10 8), accum := field h 27 25, fifo := field h 24 21
    scr := field h 20 10, sclass := field h 1 0, crews := (List.range (kdCrews bs)).map (parseKCrew bs) }

/-- R115 and R121 on a crew entry, and its group count. -/
def KCrew.valid (k : KCrew) (ncrew : Nat) : Bool :=
  k.regs % 8 == 0 && decide (8 ≤ k.regs) && decide (k.regs ≤ 248)
  && (k.rot == 0 || (k.rot % 8 == 0 && decide (k.rot ≤ 64) && decide (128 + k.rot ≤ k.regs)))
  && (if k.groups = 0 then ncrew == 1 else decide (k.groups ≤ 32))

/-- The descriptor is valid (R315). -/
def kdValid (bs : List Byte) : Bool :=
  let h := cardNat bs 0x18 8
  let d := parseKDesc bs
  let n := kdCrews bs
  cardNat bs 0 8 == 1 && field h 63 28 == 0 && field h 9 7 == 0 && field h 3 2 == 0
  && d.scode.toNat % 64 == 0 && d.lcode.toNat % 64 == 0
  && decide (d.accum ≤ 4) && decide (d.fifo ≤ 8) && d.scr % 4 == 0 && decide (d.scr ≤ 1024)
  && decide (1 ≤ n) && decide (n ≤ 4) && decide (d.sclass ≤ 1)
  && d.crews.all (fun k => k.valid n)
  && (List.range 4).all fun c =>
    if c < n then field (cardNat bs (0x20 + 16 * c) 8) 63 29 == 0 else cardNat bs (0x20 + 16 * c) 16 == 0

/-- The groups of a crew entry: 0 stands for every group (R315). -/
def KCrew.size (k : KCrew) (gsize : Nat) : Nat := if k.groups = 0 then gsize else k.groups

/-- The register units a team asks for (R116). -/
def KDesc.units (d : KDesc) (gsize : Nat) : Nat := d.crews.foldl (fun n k => n + (k.regs + 8) * k.size gsize * 8) 0
/-- The frames a team reserves at its placement (R225). -/
def KDesc.frames (d : KDesc) : Nat := d.scr / 4 + (if d.accum = 0 then 0 else 64)

/-- Check 3 of R316. -/
def teamFits (d : KDesc) (b : Block) : Bool :=
  d.crews.foldl (fun n k => n + k.size b.gsize) 0 == b.gsize && decide (b.gsize ≤ 64)
  && decide (d.units b.gsize ≤ 49152) && decide (d.frames ≤ 640)

/-! ### The cruise order (R320) -/

/-- Assign the bits of v from bit 0 upward to three dimensions in turn, leaving out those whose bits are all assigned:
`dim` is the next one, `used` what each has. -/
def deinterGo (v : Nat) (e : Nat → Nat) : Nat → Nat → Nat → (Nat → Nat) → (Nat → Nat) → Nat × Nat × Nat
  | 0, _, _, _, x => (x 0, x 1, x 2)
  | n + 1, i, dim, used, x =>
    match [dim, dim + 1, dim + 2].find? (fun d => decide (used (d % 3) < e (d % 3))) with
    | none => (x 0, x 1, x 2)
    | some d' =>
      let d := d' % 3
      deinterGo v e n (i + 1) (d + 1) (fun k => if k = d then used d + 1 else used k)
        (fun k => if k = d then x d + bitAt (v.testBit i) (used d) else x k)

/-- deinterleave of R320, for m bits. -/
def deinterleave (v m e0 e1 e2 : Nat) : Nat × Nat × Nat :=
  deinterGo v (fun k => match k with | 0 => e0 | 1 => e1 | _ => e2) m 0 0 (fun _ => 0) (fun _ => 0)

/-- The number of bits that a cruise's order runs over. -/
def Block.orderBits (b : Block) : Nat :=
  if b.morton then ceilLog2 b.d0 + ceilLog2 b.d1 + ceilLog2 b.d2 else ceilLog2 b.teams

/-- The index that position k of the order names; none for a position that is left out. -/
def Block.visit (b : Block) (k : Nat) : Option Nat :=
  let m := b.orderBits
  let v := Nat.xor (revNat m k) (b.seed % 2 ^ m)
  if b.morton then
    let x := deinterleave v m (ceilLog2 b.d0) (ceilLog2 b.d1) (ceilLog2 b.d2)
    if x.1 < b.d0 ∧ x.2.1 < b.d1 ∧ x.2.2 < b.d2 then some (x.1 + b.d0 * (x.2.1 + b.d1 * x.2.2)) else none
  else if v < b.teams then some v else none

/-- Walk the order from position k on, with r ranks given out, to a rank or an index that passes the test. -/
def Block.seek (b : Block) (ok : Nat → Nat → Bool) : Nat → Nat → Nat → Option (Nat × Nat)
  | 0, _, _ => none
  | n + 1, k, r => match b.visit k with
    | some i => if ok r i then some (r, i) else b.seek ok n (k + 1) (r + 1)
    | none => b.seek ok n (k + 1) r

/-- order[r] (R320). -/
def Block.order (b : Block) (r : Nat) : Option Nat := (b.seek (fun q _ => q == r) (2 ^ b.orderBits) 0 0).map (·.2)
/-- The r with order[r] = i (R320). -/
def Block.rankOf (b : Block) (i : Nat) : Option Nat := (b.seek (fun _ j => j == i) (2 ^ b.orderBits) 0 0).map (·.1)

/-! ### Estimator handles (R332) and bindings (R335) -/

/-- An estimator that has never been allotted. -/
def Est.none : Est where
  allot := false
  n := 0
  mean := 0
  m2 := 0
  min := 0
  max := 0
  target := 0
  width := 0
  reason := 0
  closed := false
  nonfin := false
  conf := 0
  version := 0
  bound := 0
  last := 0

/-- The estimator of a handle; its key is 4,096 × die + slot. -/
def State.est (s : State) (h : Nat) : Est := SMap.get Est.none s.ests (h % 2 ^ 14)
/-- Change an estimator. -/
def State.modEst (s : State) (h : Nat) (f : Est → Est) : State :=
  { s with ests := SMap.set Est.none s.ests (h % 2 ^ 14) (f (s.est h)) }

/-- The handle is valid for the launches of a partition (R332). -/
def State.estValid (s : State) (part h : Nat) : Bool :=
  decide (h < 2 ^ 14) && partOfDie s.svc.split (h / 4096) == part && (s.est h).allot

/-- +∞ and −∞ in f64. -/
def f64Inf : W64 := 0x7FF0000000000000
def f64NegInf : W64 := 0xFFF0000000000000

/-- x ≤ y in f64, false when either is a NaN. -/
def leF64 (x y : W64) : Bool := floatHolds 3 (FFmt.f64.value x.toNat) (FFmt.f64.value y.toNat)

/-- The image a reset leaves, with a target and a confidence code (R335, R349). -/
def Est.reset (e : Est) (target : W64) (conf : Nat) : Est :=
  { e with n := 0, mean := 0, m2 := 0, min := f64Inf, max := f64NegInf, target := target, width := f64Inf
           reason := 0, closed := false, nonfin := false, conf := conf, version := 0, last := 0 }

/-- A cruise binds its stop estimator (R335). -/
def Est.bindStop (e : Est) (lid : Nat) : Est :=
  { e with n := 0, mean := 0, m2 := 0, min := f64Inf, max := f64NegInf, width := f64Inf, version := 0
           reason := 0, closed := false, nonfin := false, bound := lid, last := lid }

/-- The first ESTADD of a launch binds an unbound estimator (R335). -/
def Est.bindAdd (e : Est) (lid : Nat) : Est := { e with closed := false, reason := 0, version := 0, bound := lid, last := lid }

/-- The eight words of an image (R335). -/
def Est.image (e : Est) : List W64 :=
  [e.n, e.mean, e.m2, e.min, e.max, e.target, e.width
  , w64 (e.version.toNat + e.conf % 4 * 2 ^ 32 + bitAt e.nonfin 40 + bitAt e.closed 41 + e.reason % 8 * 2 ^ 42)]

/-- The estimator is the stop estimator of an admitted launch that has not retired (R333, R350). -/
def State.estStop (s : State) (part h : Nat) : Bool :=
  s.launches.any fun l => l.part == part && l.blk.cruise && l.blk.est == h && !l.retired

/-- The lines of an image without closed and reason (R345). -/
def Est.opened (e : Est) : Est := { e with closed := false, reason := 0 }

/-! ### Snapshots of a COUPLED consumer (R345) -/

/-- The reserved prefixes of the ranks from r on: they rise by k until they reach Np. -/
def Block.prefixesFrom (b : Block) (np : Nat) : Nat → Nat → List Nat
  | 0, _ => []
  | n + 1, r =>
    let p := min (b.c0 + r * b.k) np
    if p = np ∨ b.k = 0 then [p] else p :: b.prefixesFrom np n (r + 1)

/-- The distinct reserved prefixes of a COUPLED block whose producer has Np teams. -/
def Block.prefixes (b : Block) (np : Nat) : List Nat := b.prefixesFrom np b.teams 0

/-- The entries of a partition's snapshot pool in use. -/
def State.snapsUsed (s : State) (part : Nat) : List Nat :=
  (s.launches.filter fun l => l.part == part && !l.retired).flatMap fun l => l.snaps.map (·.place)

/-- The lowest free places of a partition's snapshot pool, which the prefixes take in ascending order and then the final entry (R345).
Log 55 (DESIGN CHOICE). -/
def State.snapsFree (s : State) (part need : Nat) : Option (List Nat) :=
  match s.part? part with
  | some q =>
    let used := s.snapsUsed part
    let free := ((List.range (need + used.length)).filter fun k => decide (k < q.snapLen.toNat) && !used.contains k).take need
    if free.length = need then some free else none
  | none => none

/-- Put an image into a snapshot entry, in the launch and in the pool. -/
def State.capture (s : State) (l : Launch) (ok : Snap → Bool) (img : List W64) : State :=
  let base := match s.part? l.part with | some q => q.snapBase.toNat | none => 0
  let s1 := (l.snaps.filter ok).foldl (fun s n => s.wrBytes (base + 64 * n.place) (img.flatMap fun w => bytesOfNat 8 w.toNat)) s
  s1.modLaunch l.part l.lid fun l => { l with snaps := l.snaps.map fun n => if ok n then { n with image := some img } else n }

/-! ### Eligibility (R317, R335, R344) -/

/-- The producer's dependence holds (R344). -/
def State.depHolds (s : State) (l : Launch) : Bool :=
  match l.blk.dmode with
  | 0 => true
  | 1 => match s.launchOf l.part l.blk.prod with | some p => p.retired | none => true
  | _ => match s.launchOf l.part l.blk.prod with
    | some p => (match p.least with | some w => leF64 w l.blk.wthr | none => false) || p.stopped || p.retired
    | none => true

/-- What a consumer's accesses happen after (R248, R344). -/
def State.depClock (s : State) (l : Launch) : Clock :=
  match s.launchOf l.part l.blk.prod with
  | some p => match l.blk.dmode with
    | 0 => []
    | 1 => p.all
    | _ => p.commClk.foldl (fun k e => if e.1 < p.n then Clock.join k e.2 else k) []
  | none => []

/-- A launch becomes eligible once its dependence holds and, for a cruise, its stop estimator is unbound; a cruise binds it
(R317, R335, R344). -/
def State.makeEligible (s : State) (part lid : Nat) : State :=
  match s.launchOf part lid with
  | none => s
  | some l =>
    if l.eligible || l.retired || !s.depHolds l then s
    else if l.blk.cruise && (s.est l.blk.est).bound != 0 then s
    else
      let s1 := if l.blk.cruise then s.modEst l.blk.est fun e => e.bindStop lid else s
      s1.modLaunch part lid fun l => { l with eligible := true, base := Clock.join l.base (s.depClock l) }

/-- The launches of a partition become eligible in admission order. -/
def State.settleEligible (s : State) (part : Nat) : State :=
  (s.launches.filter fun l => l.part == part).foldl (fun s l => s.makeEligible part l.lid) s

/-! ### Admission (R316) -/

/-- What the launch unit reads of an address space: bytes, none where an address cannot be read, or a wait for a frame that
is still to be scrubbed or a page that is being migrated (R211, R213). -/
inductive LuRead where
  | ok (bs : List Byte)
  | bad
  | pending
  deriving DecidableEq, Repr

/-- The launch unit reads a byte range of an address space, page by page. -/
def State.luRead (s : State) (part asid root : Nat) : List (W64 × Nat) → List Byte → LuRead × State
  | [], out => (.ok out, s)
  | (ea, n) :: rest, out =>
    if !canonical ea || !canonical (ea + w64 (n - 1)) || (privOffset ea).isSome then (.bad, s)
    else match s.walk part asid root (pageOf ea) false with
      | (.ok t, s1) => State.luRead (s1.countPage part asid root (pageOf ea)) part asid root rest
          (out ++ (List.range n).map fun k => s1.homeByte (t.phys ea + k))
      | (.bad cause, s1) =>
        let m := if cause = 3 then s1.farFault part asid root (pageOf ea) else (false, s1)
        (if m.1 then .pending else .bad, m.2)
      | (.pending fs, s1) => (.pending, s1.hurryScrub fs)

/-- The result of the checks of R316: a status, the descriptor and argument words of a launch that passes, or a wait. -/
inductive Checked where
  | refused (status : Nat)
  | passed (kd : KDesc) (karg : List W64)
  | waits
  deriving DecidableEq, Repr

/-- The words of an argument block. -/
def wordsOf (bs : List Byte) : List W64 := (List.range (bs.length / 8)).map fun k => w64 (cardNat bs (8 * k) 8)

/-- Check 5 of R316: the cruise fields. -/
def State.cruiseFormed (s : State) (part : Nat) (b : Block) : Bool :=
  let lo := b.sbase.toNat
  let hi := lo + b.teams * b.stride
  lo % 32 == 0 && b.stride % 32 == 0 && decide (32 ≤ b.stride)
  && (decide (hi ≤ 2 ^ 51) || (decide (2 ^ 64 - 2 ^ 51 ≤ lo) && decide (hi ≤ privBase)))
  && (!b.morton || b.d0 * b.d1 * b.d2 == b.teams) && s.estValid part b.est

/-- The launch identifiers issued since one was (R316). -/
def Part.issuedSince (q : Part) (lid : Nat) : Nat :=
  if lid < q.nextLid.toNat then q.nextLid.toNat - 1 - lid else q.nextLid.toNat + 2 ^ 32 - 2 - lid

/-- Check 7 of R316: the producer, and the snapshot entries of a COUPLED block (R345). -/
def State.producerKnown (s : State) (part : Nat) (b : Block) : Bool :=
  b.dmode == 0 ||
    (match s.part? part, s.launchOf part b.prod with
    | some q, some p =>
      decide (q.issuedSince b.prod < 2 ^ 31)
      && (b.dmode == 1 || p.blk.cruise)
      && (b.dmode != 3 ||
        (b.cruise && decide (p.n ≤ b.c0) && (s.snapsFree part ((b.prefixes p.blk.teams).length + 1)).isSome
        && (!(p.stopped || p.retired) || (s.est p.blk.est).last == p.lid)))
    | _, _ => false)

/-- Check 8 of R316: what a LAUNCH inherits from its parent. -/
def childAllowed (parent b : Block) : Bool :=
  parent.child && b.asid == parent.asid && b.root == parent.root
  && (!b.yhigh || parent.yhigh) && (!b.bankctl || parent.bankctl) && (!b.child || parent.child)

/-- The admitted launches that hold a queue entry: those that have not retired, or whose record waits (R316, R414). -/
def State.queued (s : State) (part : Nat) : Nat :=
  (s.launches.filter fun l => l.part == part && (!l.retired || l.recOwed)).length

/-- Checks 2 to 9 of R316 in order, on a block that passes check 1. Log 35 (DEDUCED). -/
def State.checkBlock (s : State) (part : Nat) (b : Block) (parent : Option Block) : Checked × State :=
  if b.kdesc.toNat % 64 ≠ 0 then (.refused 2, s)
  else match s.luRead part b.asid b.root (pageParts b.kdesc.toNat (b.kdesc.toNat + 96)) [] with
  | (.pending, s1) => (.waits, s1)
  | (.bad, s1) => (.refused 2, s1)
  | (.ok kb, s1) =>
    if !kdValid kb then (.refused 2, s1)
    else match s1.luRead part b.asid b.root (pageParts b.args.toNat (b.args.toNat + 8 * b.alen)) [] with
    | (.pending, s2) => (.waits, s2)
    | (.bad, s2) => (.refused 2, s2)
    | (.ok ab, s2) =>
      let kd := parseKDesc kb
      if !teamFits kd b then (.refused 3, s2)
      else if b.cruise && kd.sclass != 1 then (.refused 4, s2)
      else if b.cruise && !s2.cruiseFormed part b then (.refused 5, s2)
      else if !(match s2.part? part with | some q => q.cls == b.cls | none => false) then (.refused 6, s2)
      else if !s2.producerKnown part b then (.refused 7, s2)
      else if !(match parent with | some p => childAllowed p b | none => true) then (.refused 8, s2)
      else if 64 ≤ s2.queued part then (.refused 9, s2)
      else (.passed kd (wordsOf ab), s2)

/-- A launch as it is admitted. -/
def newLaunch (part lid : Nat) (b : Block) (kd : KDesc) (karg : List W64) (time : W64) (base : Clock) (snaps : List Snap) : Launch where
  part := part
  lid := lid
  blk := b
  kd := kd
  karg := karg
  admitAt := time
  eligible := false
  next := 0
  passed := none
  n := 0
  commits := []
  commClk := []
  least := none
  heldIn := false
  nRetired := 0
  aborted := 0
  kerf := 0
  energy := 0
  demand := 0
  ticket := 0
  base := base
  all := base
  snaps := snaps
  reason := 0
  stopped := false
  retired := false
  retireAt := 0
  halted := false
  recOwed := false
  extUs := 0
  mark := 0

/-- The snapshot entries a block reserves (R345). -/
def State.reserveSnaps (s : State) (part : Nat) (b : Block) : List Snap :=
  if b.dmode ≠ 3 then []
  else match s.launchOf part b.prod with
    | some p =>
      let ps := b.prefixes p.blk.teams
      let places := (s.snapsFree part (ps.length + 1)).getD []
      (ps.map some ++ [none]).zipIdx.map fun (e : Option Nat × Nat) => ⟨e.1, places.getD e.2 0, none⟩
    | none => []

/-- The captures of the landing step that admits a COUPLED block (R345): the producer's present prefix, and the final
entry of a producer that has stopped. -/
def State.captureAtAdmission (s : State) (part lid : Nat) : State :=
  match s.launchOf part lid with
  | none => s
  | some l =>
    if l.blk.dmode ≠ 3 then s
    else match s.launchOf part l.blk.prod with
      | none => s
      | some p =>
        let e := s.est p.blk.est
        let now := if p.n = 0 then { (e.bindStop 0) with bound := e.bound, last := e.last } else e.opened
        let s1 := s.capture l (fun n => n.prefix_ == some p.n) now.image
        if p.stopped || p.retired then s1.capture l (fun n => n.prefix_ == none) e.image else s1

/-- Take a block that passed into the launch queue: the next identifier, skipping 0 (R316). -/
def State.admitLaunch (s : State) (part : Nat) (b : Block) (kd : KDesc) (karg : List W64) (base : Clock) : Nat × State :=
  match s.part? part with
  | none => (0, s)
  | some q =>
    let lid := q.nextLid.toNat
    let l := newLaunch part lid b kd karg s.time base (s.reserveSnaps part b)
    let s1 := { s.modPart part fun q => { q with nextLid := if q.nextLid + 1 = 0 then 1 else q.nextLid + 1 } with
      launches := s.launches.filter (fun (m : Launch) => !(m.part == part && m.lid == lid)) ++ [l] }
    (lid, (s1.captureAtAdmission part lid).settleEligible part)

/-- The answer of an admission: to the crew that executed LAUNCH, or to LN_STAT (R329, R414). -/
def State.answerSubmit (s : State) (part : Nat) (u : Submit) (status lid : Nat) : State :=
  match u.crew with
  | some (cid, i) => s.modCrew cid fun c =>
      (c.sset (BitVec.ofNat 6 u.dest) (if status = 0 then w64 lid else w64 (2 ^ 63 + status))).modPath i Path.pastWord
  | none => s.modPart part fun q => { q with lnBusy := false, lnStatus := status, lnId := w32 lid }

/-- The parent of a LAUNCH. -/
def State.parentOf (s : State) (u : Submit) : Option Block :=
  match u.crew with | some (cid, _) => (match s.crewOf cid with | some c => s.blkOf c | none => none) | none => none

/-- ADMISSION (R316, R366): the oldest block submitted to a partition is admitted or refused. A class change holds it. -/
def execAdmission (part : Nat) (s : State) : Out :=
  match s.part? part with
  | some q => match q.subs with
    | u :: rest =>
      if !s.live part || q.newCls.isSome then .next s
      else
        let bs := if u.bytes.isEmpty then (List.range 256).map fun k => s.homeByte (homeKey part (u.block.toNat + k)) else u.bytes
        let b := parseBlock bs
        let s1 := s.modPart part fun q => { q with subs := rest }
        if !blockFormed u.block.toNat bs then .next (s1.answerSubmit part u 1 0)
        else match s1.checkBlock part b (s.parentOf u) with
          | (.waits, s2) => .next { s2 with parts := modAt s2.parts part fun q => { q with subs := u :: rest } }
          | (.refused k, s2) => .next (s2.answerSubmit part u k 0)
          | (.passed kd karg, s2) =>
            let base := match u.crew with
              | some (cid, i) => (match s.crewOf cid with | some c => (c.path i).clockNow s.nextId | none => [])
              | none => []
            let r := s2.admitLaunch part b kd karg base
            .next (r.2.answerSubmit part u 0 r.1)
    | [] => .next s
  | none => .next s

/-! ### LAUNCH (R329) -/

/-- A LAUNCH of this path waits for its admission. -/
def State.submitted (s : State) (c : Crew) (i : Nat) : Bool :=
  match s.part? (s.partOf c) with | some q => q.subs.any fun u => u.crew == some (c.id, i) | none => false

/-- The reads of a block take effect, granule by granule (R210, R241, R250, R361). -/
def State.observeBlock (s : State) (c : Crew) (p : Path) (rs : List (Nat × Nat)) (ea : W64) : Except State State :=
  (rs.flatMap fun r => (List.range (r.2 / 32)).map fun k => r.1 + 32 * k).foldl (fun r pa => match r with
    | .error t => .error t
    | .ok t =>
      let t0 := t.mergeGran (pa / 32)
      if t0.stopping (s.partOf c) then .error t0 else
      let t1 := t0.cacheHost .mem pa 32
      let x : Acc := { cwaitAcc t1 p t1.nextId pa 5 ea false with kind := .load, width := 32, acode := 0 }
      match { t1 with nextId := t1.nextId + 1 }.observe c s.curPath x with
      | .error u => .error (u.conflict c s.curPath x)
      | .ok u => .ok ((u.noteBytes c.team 32 .mem).countFar c x)) (.ok s)

/-- LAUNCH (R329): the block is read as a scalar load reads (R183, R198, R204); no part of it may lie in the private window, which only
VLD, VST, SLD and SST address (R185). -/
def execLaunch (d a : BitVec 6) (s : State) : Out :=
  withCur s fun c p =>
    let i := Instr.launch d a
    if s.submitted c s.curPath then waitFor s stOther
    else if p.iss.isSome then waitIssue s p
    else if c.pending [d, a] then waitFor s stInterlock
    else if s.isCruise c then .next (s.fatalCruise c p false fcXstore (p.sources (c.sget a) 0).1.toNat)
    else if !s.effectsDone c p then waitFor s stTicket
    else if !(p.queue.isEmpty && p.sbuf.isEmpty) then waitFor s stOther
    else
      let va := (p.sources (c.sget a) 0).1
      let submit := fun (s : State) (bs : List Byte) => Host.Outcome.next
        ((s.modPart (s.partOf c) fun q => { q with subs := q.subs ++ [⟨va, bs, some (c.id, s.curPath), d.toNat⟩] }).modCurPath fun p => { p with wait := some stOther, want := some .sent })
      if va.toNat % 64 ≠ 0 then scalarPageFault s c p 5 va
      else if !canonical va || !canonical (va + 255) then scalarPageFault s c p 4 va
      else
        if privBase < va.toNat + 256 then scalarPageFault s c p 7 va
        else afterMerge s c (p.thr :: p.kin) fun s0 => match s0.walkRegion c p (pageParts va.toNat (va.toNat + 256)) [] with
        | (.error (ea, some cause), s1) => .next (s1.parkScalar c p (scalarInFlight s p i ⟨p.slotLane, ea, 0, 0⟩) cause ea va 0)
        | (.error (ea, none), s1) => .next (s1.parkPending (scalarInFlight s p i ⟨p.slotLane, ea, 0, 0⟩) va 0 (pageOf ea))
        | (.ok rs, s1) => match s1.observeBlock c p rs va with
          | .error t => .next t
          | .ok t => submit t (rs.flatMap fun r => (List.range r.2).map fun k => t.seenByte c (r.1 + k))

/-! ### CIDX (R330) -/

/-- Both forms of CIDX: ILLEGAL_INSTRUCTION outside a cruise; all ones for an operand at or above N. -/
def cidxWord (s : State) (d a : BitVec 6) (f : Block → Nat → Option Nat) : Out :=
  withCur s fun c p =>
    match s.blkOf c with
    | none => scalarFault s c p fcIllegal 0
    | some b =>
      if !b.cruise then scalarFault s c p fcIllegal 0
      else if c.pending [d, a] then waitFor s stInterlock
      else
        let x := (c.sget a).toNat
        let v := if x < b.teams then (match f b x with | some y => w64 y | none => BitVec.allOnes 64) else BitVec.allOnes 64
        .next ((s.modCur fun c => c.sset d v).advance 4)

/-- CIDX (R330). -/
def execCidx (d a : BitVec 6) (s : State) : Out := cidxWord s d a Block.order
/-- CIDX.rank (R330). -/
def execCidxRank (d a : BitVec 6) (s : State) : Out := cidxWord s d a Block.rankOf

end Sys2Proof.Machine
end

