-- ==== Sys2Proof/Machine/Issue.lean ====
section
/-! DEFINITION. Fetching a word (R25 to R27, R190, R198), the words that are no instruction (R52), breakpoints (R399), and
the choice of the word that a core issues (R87 to R89). -/

namespace Sys2Proof.Machine

/-! ### Code bytes (R25 to R27, R198) -/

/-- What a fetch finds: the bytes, the need of a walk, or a cause at an address. -/
inductive CodeRes where
  | ok (bs : List Byte)
  | miss (vpn : Nat)
  | bad (cause : Nat) (ea : W64)
  deriving DecidableEq, Repr

/-- n bytes of code in one page (R190, R198, R205): of bytes written since the launch began, the old or the new (R27). -/
def State.codePart (s : State) (c : Crew) (p : Path) (ea : W64) (n : Nat) : CodeRes :=
  if !canonical ea || !canonical (ea + w64 (n - 1)) then .bad 4 ea
  else if (privOffset ea).isSome then .bad 7 ea
  else match s.checkPage c p none ea false true with
    | .go _ pa _ => .ok (pickView (Config.fetchView p.thr (s.cycOf c).toNat ea.toNat) (s.views (s.launchFor c) pa n))
    | .bad cause => .bad cause ea
    | .miss v => .miss v

/-- n bytes of code, which may lie in two pages. -/
def State.codeAt (s : State) (c : Crew) (p : Path) (ea : W64) (n : Nat) : CodeRes :=
  let m := 65536 - ea.toNat % 65536
  if n ≤ m then s.codePart c p ea n
  else match s.codePart c p ea m with
    | .ok xs => (match s.codePart c p (ea + w64 m) (n - m) with | .ok ys => .ok (xs ++ ys) | r => r)
    | r => r

/-- A fetched word: an instruction; an illegal encoding with its fault code, detail, size and mask field; or no bytes. -/
inductive Fetched where
  | word (i : Instr)
  | illegal (code detail size : Nat) (mask : BitVec 4)
  | miss (vpn : Nat)
  | bad (cause : Nat) (ea : W64)
  deriving DecidableEq, Repr

/-- The fault code and detail of an encoding that is no instruction (R52). -/
def Reject.fault : Reject → Nat × Nat
  | .illegalType k => (fcType, k.toNat)
  | _ => (fcIllegal, 0)

/-- The decoded word, or its fault. -/
def Fetched.ofDecode (size : Nat) (mask : BitVec 4) : Except Reject Instr → Fetched
  | .ok i => .word i
  | .error e => .illegal (Reject.fault e).1 (Reject.fault e).2 size mask

/-- The next scalar word of a path (R26, R32). -/
def State.fetchScalar (s : State) (c : Crew) (p : Path) : Fetched :=
  match s.codeAt c p p.spc 4 with
  | .miss v => .miss v
  | .bad k ea => .bad k ea
  | .ok bs =>
    let w := ofBytes 32 bs
    if scalarHasLit w then match s.codeAt c p (p.spc + 4) 4 with
      | .miss v => .miss v
      | .bad k ea => .bad k ea
      | .ok ls => .ofDecode 8 0 (decodeScalar w (ofBytes 32 ls))
    else .ofDecode 4 0 (decodeScalar w 0)

/-- The next lane word of a path (R26, R42). -/
def State.fetchLane (s : State) (c : Crew) (p : Path) : Fetched :=
  match s.codeAt c p p.lpc 12 with
  | .miss v => .miss v
  | .bad k ea => .bad k ea
  | .ok bs =>
    let w := ofBytes 96 bs
    let mask := (LaneFields.ofWord w).hdr.mask
    if laneHasLit w then match s.codeAt c p (p.lpc + 12) 12 with
      | .miss v => .miss v
      | .bad k ea => .bad k ea
      | .ok ls => .ofDecode 24 mask (decodeLane w (ofBytes 96 ls))
    else .ofDecode 12 mask (decodeLane w 0)

/-- The bytes a fetched word takes. -/
def Fetched.size : Fetched → Nat
  | .word i => i.size
  | .illegal _ _ n _ => n
  | _ => 0
/-- Its engine; a word that is no instruction counts as integer, and 7 is none (R407). -/
def Fetched.engine : Fetched → Nat
  | .word i => Instr.engine i
  | .illegal .. => 0
  | _ => 7

/-- A fetch that finds no code: the path parks for fault service or migration, or takes PAGE_FAULT (R205, R206). -/
def State.fetchFault (s : State) (c : Crew) (i : Nat) (lane : Bool) (cause : Nat) (ea : W64) : State :=
  let p := c.path i
  let o : Operand := ⟨p.slotLane, ea, 0, 0⟩
  let k := s.classify c [⟨o, cause⟩]
  let s1 := if serviced cause then (k.2.2.2).dropPages c [pageOf ea] else k.2.2.2
  if !k.1.isEmpty then (s1.modPath c.id i fun p => { p with walked := [] }).pageFault c.id i lane 3 (scalarFaults p cause ea)
  else
    let recs := if cause = 3 ∧ k.2.2.1.contains (pageOf ea) then ([], s1)
      else s1.recordPages c i 3 (fun _ => p.faultLanes) [⟨o, cause⟩]
    recs.2.modCrew c.id fun c => (c.modPath i fun p => { p with
      st := .fault, wait := none, walked := []
      park := some { word := none, lanes := p.faultLanes, reject := [], tags := recs.1, far := k.2.2.1, ea := ea } }).trapPoint i

/-! ### Words that are no instruction (R52) -/

/-- The fault of an illegal encoding of the issuing path. -/
def illegalWord (s : State) (lane : Bool) (code detail size : Nat) (mask : BitVec 4) : Out :=
  withCur s fun c p =>
    if lane then laneFault s c p size code detail (encodingLanes p (selMask c p ⟨false, mask⟩))
    else scalarFault s c p code detail

/-! ### ISSUE (R48, R91) -/

/-- The scalar registers that a lane word takes as sources (R40, R41, R299, R337). -/
def Instr.scalarSrcs (i : Instr) : List (BitVec 6) :=
  match i with
  | .estadd _ _ _ (.sreg r) => [r]
  | .mma _ _ _ _ (.sreg r) _ => [r]
  | .estadd .. | .mma .. | .accxRd .. | .accxWr .. | .accxAdd .. | .accxFlg .. | .accxOrf .. => []
  | i => match laneFields i with
    | some f => if f.1.mods.getLsbD 2 then [f.1.b.extractLsb' 0 6] else []
    | none => []

/-- The scalar sources of the next n lane words of a path, or the page of code that must be walked to know them. A word that
cannot be fetched ends the list: its own fetch will fault. -/
def State.issueSrcs (s : State) (c : Crew) : Nat → Path → Except Nat (List (BitVec 6))
  | 0, _ => .ok []
  | n + 1, p => match s.fetchLane c p with
    | .miss v => .error v
    | .bad _ _ => .ok []
    | .word i => (s.issueSrcs c n { p with lpc := p.lpc + w64 i.size }).map (Instr.scalarSrcs i ++ ·)
    | .illegal _ _ size _ => s.issueSrcs c n { p with lpc := p.lpc + w64 size }

/-- The pending ISSUE of n words and k repetitions at the path's lane PC (R91). -/
def Path.begin (p : Path) (c : Crew) (n k : Nat) : Path := { p with iss := some ⟨n, n, max k 1 - 1, k == 0, p.lpc, c.s⟩ }

/-- ISSUE with repetition count k: it waits for the registers it reads itself, and for the scalar sources of its lane words,
which void words do not read (R48, R49, R91). Log 46 (DEDUCED). -/
def issueWord (s : State) (n k : Nat) (srcs : List (BitVec 6)) : Out :=
  withCur s fun c p =>
    let go := Host.Outcome.next ((s.modCurPath fun p => p.begin c n k).advance 4)
    if p.iss.isSome then waitIssue s p
    else if c.pending srcs then waitFor s stInterlock
    else if c.sPend.isEmpty || k == 0 then go
    else match s.issueSrcs c n p with
    | .error v => .next (s.modCurPath fun p => { p with walks := [(v, false)], wait := some stWalk })
    | .ok rs => if c.pending rs then waitFor s stInterlock else go

/-- ISSUE with an immediate count (R91). -/
def execIssue (n : BitVec 7) (rep : BitVec 12) (s : State) : Out := issueWord s n.toNat (rep.toNat + 1) []
/-- ISSUE with its count in a register (R91). -/
def execIssueReg (rs : BitVec 6) (n : BitVec 7) (s : State) : Out :=
  withCur s fun c _ => issueWord s n.toNat ((c.sget rs).toNat % 2 ^ 16) [rs]

/-! ### Breakpoints (R399) -/

/-- The lowest enabled breakpoint at an address. -/
def Part.bpAt (q : Part) (spc : W64) : Option Nat :=
  (List.range 4).find? fun k =>
    let b := q.bps.getD k 0
    b.getLsbD 0 && b.extractLsb' 2 50 == spc.extractLsb' 2 50

/-- The breakpoint that holds a path before its next scalar word; none where it has held it already, or steps it (R405). -/
def State.bpHit (s : State) (c : Crew) (p : Path) : Option Nat :=
  match s.part? (s.partOf c) with
  | some q => if q.mode ≠ 0 && q.passesFilter (s.lidOf c) && !p.bpSkip && p.stepping.isNone then q.bpAt p.spc else none
  | none => none

/-- A breakpoint holds the path before its word, and is recorded (R398, R399). -/
def State.breakHit (s : State) (c : Crew) (i k : Nat) : State :=
  ((s.modPath c.id i fun p => { p with bpSkip := true }).holdHit c i).breakRecord c.id i 0 k

/-! ### Which paths can issue (R87, R89) -/

/-- A path that has nothing to wait for but what its next word finds. -/
def Path.runs (p : Path) : Bool :=
  p.st == .ready && !p.atHold && p.wait.isNone && p.replay.isEmpty && p.goOn.isNone && p.walks.isEmpty && p.refill.isEmpty
  && p.park.isNone && (match p.want with
    | none | some (.held ..) | some (.cwait ..) | some (.card ..) | some (.kept ..) => true
    | _ => false)

/-- The path is to pass over its next word (R382). -/
def Path.skips (p : Path) : Bool := p.skip.isSome && (p.st == .ready || p.st == .held) && p.walks.isEmpty && p.park.isNone

/-- The crews of a core whose teams run there: not chosen to leave, nor waiting for a drain (R223, R385). -/
def State.runCrews (s : State) (core : Nat) : List Crew :=
  (s.coreCrews core).filter fun c => match s.teamOf c.team with
    | some t => s.live t.part && !t.leaving && !t.waitBanks.any fun b => s.draining (standOfCore core) b
    | none => false

/-- A word that a core may issue: its pick, what the fetch found, and its crew's slot. -/
structure Cand where
  pick : Pick
  got  : Fetched
  slot : Nat
  deriving DecidableEq, Repr

/-- The place of a path in the order of R89: longest idle engine, lowest slot, first entry after the last picked. -/
def pickKey (idle slot last path : Nat) : Nat := ((255 - idle) * 16 + slot) * 8 + (path + 8 - (last + 1)) % 8

/-- The place of a candidate in the order of R89 as the core and the crew stand. -/
def State.candKey (s : State) (core : Nat) (k : Cand) : Nat :=
  match s.cores[core]?, s.crewOf k.pick.crew with
  | some d, some c => pickKey (d.idle.getD k.got.engine 255) k.slot c.lastE k.pick.path
  | _, _ => 0

/-- A lane issue slot is free for a path (R89). Log 15 (DESIGN CHOICE). -/
def Core.laneFree (k : Core) (crew path : Nat) : Bool := k.laneRoom && !k.laneBy.contains (crew, path)

/-- A slot of the core is free for a pick (R89). -/
def State.slotFree (s : State) (core : Nat) (k : Pick) : Bool :=
  match s.cores[core]? with
  | some d => if k.lane then d.laneFree k.crew k.path else d.scalFree k.crew k.path
  | none => false

/-- The path of a pick can issue a word of the pick's stream (R87, R91, R405). -/
def State.mayIssue (s : State) (k : Pick) : Bool :=
  match s.crewOf k.crew with
  | some c =>
    let p := c.path k.path
    p.runs && p.skip.isNone && !s.crowded c k.path && !c.pushing k.path && !s.jointWaits c k.path
    && (if k.lane then p.iss.isSome else (p.iss.isNone || k.ahead) && p.stepping != some true)
  | none => false

/-- The picks of a path: the lane word and, where `ahead` lets it, the scalar word of a path with a pending ISSUE; else its scalar
word. -/
def Path.picks (p : Path) (crew i : Nat) (ahead : Bool) : List Pick :=
  if p.iss.isSome then ⟨crew, i, true, false, false, 0⟩ :: (if ahead then [⟨crew, i, false, true, false, 0⟩] else [])
  else [⟨crew, i, false, false, false, 0⟩]

/-- A pick with what its fetch finds. -/
def State.candOf (s : State) (c : Crew) (k : Pick) : Cand :=
  ⟨k, if k.lane then s.fetchLane c (c.path k.path) else s.fetchScalar c (c.path k.path), c.slot⟩

/-- The words a core may issue in this clock (R87, R89). -/
def State.cands (s : State) (core : Nat) (ahead : Bool) : List Cand :=
  (s.runCrews core).flatMap fun c => (List.range 8).flatMap fun i =>
    (((c.path i).picks c.id i ahead).filter fun k => s.mayIssue k && s.slotFree core k).map (s.candOf c)

/-! ### Issuing (R84, R87 to R89) -/

/-- The passes a lane word takes (R84). -/
def laneSlots (c : Crew) (p : Path) (i : Instr) : Nat :=
  match laneFields i with
  | some f =>
    let sel := selMask c p f.1.hdr
    if isVoid p sel then 0 else (c.passes sel).length
  | none => 0

/-- The slots that a candidate takes: the passes of a lane word, one for a lane word that is no instruction (R84). -/
def Cand.slots (k : Cand) (c : Crew) : Nat :=
  if !k.pick.lane then 0 else match k.got with | .word i => laneSlots c (c.path k.pick.path) i | .illegal .. => 1 | _ => 0

/-- The core has issued a word: its engine is busy and its slots are taken, and a scalar word is done (R84, R89, R90, R370, R399, R402,
R405). -/
def State.noteIssue (s : State) (core : Nat) (k : Cand) (slots : Nat) : State :=
  (s.noteSlots core k.pick.crew k.pick.path k.pick.lane k.got.engine slots).modPath k.pick.crew k.pick.path fun p =>
    if k.pick.lane then p else p.wordDone

/-- The word has begun an effect for whose end its path waits: it has issued, and its step ends with the effect (R214, R221, R329). -/
def State.begins (s : State) (crew path : Nat) : Bool :=
  match s.crewOf crew with
  | some c => (match (c.path path).want with | some .handover | some (.banks ..) | some .sent => true | _ => false)
  | none => false

/-- The path waits before its word, which has not issued (R45, R87). A word that has parked its path has. -/
def State.waits (s : State) (crew path : Nat) : Bool :=
  match s.crewOf crew with
  | some c => (match (c.path path).st with
    | .ready => (c.path path).park.isNone && (match (c.path path).wait with | some w => w != stNext | none => false)
    | .marker => true
    | _ => false)
  | none => false

/-- A word's n bytes were an access to their page, or to the two in which they lie, which may be far ones (R210). -/
def State.countFetch (s : State) (c : Crew) (pc : W64) (n : Nat) : State :=
  let page := fun (s : State) (v : Nat) => s.countPage (s.partOf c) (s.space c).1 (s.space c).2 v
  let last := pageOf (pc + w64 (n - 1))
  if last = pageOf pc then page s last else page (page s (pageOf pc)) last

/-- The bytes of an issued word have been read for its team, and from their pages (R210, R361). -/
def State.fetched (s : State) (c : Crew) (pc : W64) (n : Nat) : State := (s.countFetch c pc n).noteBytes c.team n .mem

/-- Run a candidate: whether its word has issued, and the outcome. A breakpoint holds a path before any word of its scalar
stream, an illegal one too (R399). `run` is the meaning of the instructions. -/
def State.tryWord (s : State) (run : Instr → State → Out) (core : Nat) (k : Cand) : Bool × Out :=
  match s.crewOf k.pick.crew with
  | none => (false, .next s)
  | some c =>
    let i := k.pick.path
    let p := c.path i
    let go := fun (o : Out) => match o with
      | .next t =>
        let t1 := { t with cur := none }
        if t.waits c.id i then
          (false, Host.Outcome.next (if t.begins c.id i && !s.begins c.id i then
            t1.noteSlots core c.id i k.pick.lane k.got.engine (k.slots c) else t1))
        else (true, .next ((t1.noteIssue core k (k.slots c)).fetched c (if k.pick.lane then p.lpc else p.spc) k.got.size))
      | o => (true, o)
    let s1 := { s with cur := some ⟨c.id, i⟩ }
    match k.got, (if k.pick.lane then none else s.bpHit c p) with
    | .miss v, _ => (false, .next (s.modPath c.id i fun p => { p with walks := [(v, false)], wait := some stWalk }))
    | .bad cause ea, _ => (false, .next (s.fetchFault c i k.pick.lane cause ea))
    | _, some b => (false, .next (s.breakHit c i b))
    | .illegal code detail size mask, none => go (illegalWord s1 k.pick.lane code detail size mask)
    | .word w, none => go (run w s1)

/-! ### The picks of a clock (R88, R89) -/

/-- The candidate that R89 picks among some, and the others. -/
def State.firstCand (s : State) (core : Nat) : List Cand → Option (Cand × List Cand)
  | [] => none
  | k :: ks => match s.firstCand core ks with
    | none => some (k, [])
    | some (b, rest) => if s.candKey core k ≤ s.candKey core b then some (k, ks) else some (b, k :: rest)

/-- The core and the crew once a candidate is picked: its slots are taken, its engine is busy, its entry is the last picked (R89). -/
def State.picked (s : State) (core : Nat) (k : Cand) : State :=
  match s.crewOf k.pick.crew with
  | some c => (s.noteIssue core k (k.slots c)).modCrew k.pick.crew fun c => { c with lastE := k.pick.path }
  | none => s

/-- Pick among candidates until none is left, on the state of the clock's start: one that finds no free slot is not picked, and one whose
word has to wait takes no slot. Those picked in the order in which they were picked, and the core and the crews as the picks leave them. -/
def State.pickWords (run : Instr → State → Out) (core : Nat) (start : State) : Nat → List Cand → State → List Cand × State
  | 0, _, s => ([], s)
  | n + 1, ks, s => match s.firstCand core ks with
    | none => ([], s)
    | some (k, rest) =>
      if !s.slotFree core k.pick then State.pickWords run core start n rest s
      else match start.tryWord run core k with
        | (true, .next _) =>
          let r := State.pickWords run core start n rest (s.picked core k)
          ({ k with pick := { k.pick with sure := true } } :: r.1, r.2)
        | (false, .next t) =>
          let r := State.pickWords run core start n rest (if t.begins k.pick.crew k.pick.path then s.picked core k else s)
          ((if k.pick.ahead then [] else [k]) ++ r.1, r.2)
        | _ => State.pickWords run core start n rest s

/-- A scalar word that writes a mask register (R161). -/
def Cand.writesMask (k : Cand) : Bool :=
  match k.got with | .word (.mand ..) | .word (.mor ..) | .word (.mxor ..) | .word (.mnot ..) | .word (.mexec _) => true | _ => false
/-- An ESTSTAT.reset, which a landing takes before the reads of its clock (R351). -/
def Cand.resets (k : Cand) : Bool := match k.got with | .word (.eststatReset ..) => true | _ => false
/-- A word that can open a proposal or close its lanes (R143). -/
def Cand.proposes (k : Cand) : Bool :=
  match k.got with | .word (.propose ..) | .word .abandon | .word .exit => true | _ => false

/-- The place of a word among the effects of its clock. Resets of estimators come first (R351); then the words by crew slot and path
index (R88, R143, R234, R284, R376, R391); last the scalar words that write mask registers, which so come after every lane word (R162),
with the scalar words that follow them in their crew (R88). Log 53 (DEDUCED). -/
def Cand.place (ks : List Cand) (k : Cand) : Nat :=
  let after := !k.pick.lane && !k.proposes && ks.any fun m => m.writesMask && m.pick.crew == k.pick.crew && decide (m.pick.path < k.pick.path)
  k.slot * 8 + k.pick.path + (if k.resets then 0 else if k.writesMask || after then 256 else 128)

/-- A core picks its words of this clock, which then act in the order of their places (R88, R89). Picking changes nothing else
but the entry last picked in each crew. -/
def State.planCore (s : State) (run : Instr → State → Out) (core : Nat) (ahead : Bool) : State :=
  let ks := s.cands core ahead
  let r := State.pickWords run core s ks.length ks s
  { s.modCore core fun k => { k with plan := some (sortBy (·.place) (r.1.map fun k => { k.pick with place := k.place r.1 })) } with
    crews := s.crews.map fun (c : Crew) => match r.2.crewOf c.id with
      | some d => { c with lastE := d.lastE }
      | none => c }

/-- The cores with resident crews that have not yet picked in this clock. -/
def State.toPlan (s : State) : List Nat :=
  (List.range s.cores.length).filter fun k => match s.cores[k]? with
    | some d => d.plan.isNone && !(s.runCrews k).isEmpty
    | none => false

/-- The first pick of a core that is still to act, where it is a reset of an estimator or any may be, with the state in which it is no
longer to act. -/
def State.headPick (s : State) (resets : Bool) (core : Nat) : Option (Nat × Pick × State) :=
  match s.cores[core]? with
  | some d => (match d.plan with
    | some (x :: xs) => if resets && decide (128 ≤ x.place) then none else some (core, x, s.modCore core fun d => { d with plan := some xs })
    | _ => none)
  | none => none

/-- The next pick to act: a reset of an estimator on any core, else of the lowest core that has one (R88, R351). -/
def State.nextPick (s : State) : Option (Nat × Pick × State) :=
  let ks := List.range s.cores.length
  match ks.findSome? (s.headPick true) with
  | some r => some r
  | none => ks.findSome? (s.headPick false)

/-- A pick acts: the path's word issues, or it waits where the word has to wait. Where an earlier word of the clock has left the
path no word to issue, and where a word could not issue when it was picked but could now, nothing happens. Log 53 (DEDUCED). -/
def State.runPick (s : State) (run : Instr → State → Out) (core : Nat) (k : Pick) : Out :=
  match s.crewOf k.crew with
  | none => .next s
  | some c =>
    if !s.mayIssue k then .next s
    else match s.tryWord run core (s.candOf c k) with
      | (true, o) => if k.sure then o else .next s
      | (false, o) => if k.ahead then .next s else o

/-! ### Words passed over (R382) -/

/-- The paths of a core that are to pass over a word. -/
def State.skippers (s : State) (core : Nat) : List (Crew × Nat) :=
  (s.coreCrews core).flatMap fun c => ((List.range 8).filter fun i => (c.path i).skips).map fun i => (c, i)

/-- Pass over a path's next word: its literal and one word of its pending ISSUE, or the scalar word (R379, R382). -/
def State.passOver (s : State) (c : Crew) (i : Nat) : State :=
  let p := c.path i
  let lane := p.skip == some true
  match (if lane then s.fetchLane c p else s.fetchScalar c p) with
  | .miss v => s.modPath c.id i fun p => { p with walks := [(v, false)], wait := some stWalk }
  | .bad cause ea => s.fetchFault c i lane cause ea
  | f => s.modPath c.id i fun p =>
    if lane then { p.pastLane f.size with skip := none } else { p with spc := p.spc + w64 f.size, skip := none, wait := none }

end Sys2Proof.Machine
end

