-- ==== Sys2Proof/Machine/Save.lean ====
section
/-! DEFINITION. The save area (R385 to R389) with its sections (R128 to R130, R147, R237, R287, R311, R354), the path entry
that stop records and dumps share (R384, R388, R406), TEAM_SAVE, and the restore of a team on a core (R390). -/

namespace Sys2Proof.Machine

/-- Zero bytes. -/
def zeros (n : Nat) : List Byte := List.replicate n 0

/-! ### The path section (R388, R389) -/

/-- A link entry (R86). -/
def Link.bytes (l : Link) : List Byte :=
  bytesOfNat 8 (l.spc.toNat / 4 * 4 + bitAt l.blaze 0 + bitAt (l.slot.getLsbD 2) 1)
  ++ bytesOfNat 8 (l.lpc.toNat / 4 * 4 + l.slot.toNat % 4)

/-- The words of a path that a save cancels or a halt discards: those with lanes still owed, in issue order. Multiplications
keep their arrivals with the team (R311). -/
def Crew.openWords (c : Crew) (i : Nat) : List Word :=
  c.words.filter fun w => w.path == i && !w.done && match w.instr with | .mma .. => false | .yjob .. => false | .cwait .. => false | _ => true

/-- The word at which a path is parked. -/
def Path.parkedWord (p : Path) : Option Word :=
  match p.park with
  | some k => k.word
  | none => match p.goOn with | some r => (match r.park with | some k => k.word | none => none) | none => none

/-- The replay slots of a path (R388). -/
def Crew.replaySlots (c : Crew) (i : Nat) : List Word :=
  (c.openWords i).filter fun w => match (c.path i).parkedWord with | some v => v.wid != w.wid || w.slot | none => true

/-- The groups of a word that are still owed. -/
def Word.owedGroups (w : Word) : Nat := (List.range 32).foldl (fun n g => n + bitAt (w.owed.extractLsb' (32 * g) 32 != 0) g) 0

/-- The 96 bits of a lane word; 0 for a scalar one. -/
def laneBits (i : Instr) : Nat := match encodeLane i with | some (.lane w _) => w.toNat | _ => 0

/-- A replay operand record (R389). Log 40 (DEDUCED). -/
def Word.operandRecord (w : Word) : List Byte :=
  let b := laneBits w.instr
  let ops := match w.instr with
    | .qpop .. => []
    | _ => sortBy (fun (o : Operand) => o.lane) (w.ops.filter fun o => w.owed.getLsbD o.lane)
  pad64 (bytesOfNat 8 (field b 93 84 + field b 83 80 * 2 ^ 10 + ops.length % 2048 * 2 ^ 16)
    ++ bytesOfNat 128 (match w.instr with | .qpop .. => 0 | _ => w.owed.toNat)
    ++ ops.flatMap fun o => bytesOfNat 8 o.ea.toNat ++ bytesOfNat 8 o.aux.toNat ++ bytesOfNat 16 o.data)

/-- A replay slot (R388): its operand record lies `off` bytes into the path section. -/
def Word.slotBytes (w : Word) (off : Nat) : List Byte := bytesOfNat 8 w.lpc.toNat ++ bytesOfNat 4 w.owedGroups ++ bytesOfNat 4 off

/-- The first n bytes of a list, with zeros after its end. -/
def fit (n : Nat) (bs : List Byte) : List Byte := (bs ++ zeros n).take n

/-- A path entry of 1,280 bytes (R388). A parked word that holds a dependence slot is a replay slot, so the path goes on
past it. `all` are its replay slots; `offs` are the offsets of the operand records of its replay slots and then of its
parked slot; `live` that the words that have not returned still count, since nothing is cancelled (R235, R406). -/
def Crew.pathEntry (c : Crew) (i : Nat) (all : List Word) (offs : List Nat) (live : Bool) : List Byte :=
  let p := c.path i
  let slots := all.take 32
  let parked := p.parkedWord.filter fun v => !slots.any fun w => w.wid == v.wid
  let q := match p.parkedWord with | some w => if w.slot then p.pastLane w.instr.size else p | none => p
  let r := p.goOn.getD ⟨q.spc, q.lpc, q.iss, none, q.link, q.lcnt⟩
  let cancelled := (c.openWords i ++ all).map (·.wid)
  let count := fun (k : Nat) =>
    if live then c.inflight i k else (c.words.filter fun w => w.path == i && w.counter == some k && !cancelled.contains w.wid).length
  bytesOfNat 8 (p.st.code + bitAt p.held 3 + r.link.length % 32 * 2 ^ 4 + slots.length % 64 * 2 ^ 9 + bitAt p.trap.isSome 15
    + bitAt (match p.trap with | some t => t.inPlace | none => false) 16 + bitAt parked.isSome 17)
  ++ bytesOfNat 8 r.spc.toNat ++ bytesOfNat 8 r.lpc.toNat
  ++ bytesOfNat 4 r.lcnt.toNat ++ bytesOfNat 4 (issueCode r.iss).toNat
  ++ bytesOfNat 8 ((List.range 6).foldl (fun n k => n + count k % 256 * 2 ^ (8 * k)) 0)
  ++ (match p.trap with
    | some t => bytesOfNat 2 t.code ++ bytesOfNat 2 t.detail ++ bytesOfNat 4 (t.depth % 32)
        ++ bytesOfNat 8 t.spc.toNat ++ bytesOfNat 8 t.lpc.toNat ++ bytesOfNat 4 (issueCode t.iss).toNat ++ bytesOfNat 4 t.lcnt.toNat
    | none => zeros 32)
  ++ (match parked with | some w => w.slotBytes (offs.getD slots.length 0) | none => zeros 16)
  ++ zeros 40
  ++ bytesOfNat 128 p.owned.toNat ++ bytesOfNat 128 p.m0.toNat
  ++ bytesOfNat 128 (match p.trap with | some t => t.lanes.toNat | none => 0)
  ++ fit 256 (r.link.reverse.flatMap Link.bytes)
  ++ fit 512 (slots.zipIdx.flatMap fun w => w.1.slotBytes (offs.getD w.2 0))

/-- The operand records of a path: of its replay slots, then of its parked slot. -/
def Crew.operandRecords (c : Crew) (i : Nat) : List (List Byte) :=
  let slots := (c.replaySlots i).take 32
  let parked := ((c.path i).parkedWord.filter fun v => !slots.any fun w => w.wid == v.wid).map fun v => (c.word? v.wid).getD v
  (slots ++ parked.toList).map Word.operandRecord

/-- A crew's path section (R388). -/
def Crew.pathSection (c : Crew) : List Byte :=
  let recs := (List.range 8).map c.operandRecords
  let area := (recs.flatMap fun r => r.flatMap fun b => b)
  let start := fun (i : Nat) => 64 + 8 * 1280 + ((recs.take i).flatMap fun r => r.flatMap fun b => b).length
  let offs := fun (i : Nat) => ((recs.getD i []).foldl (fun (r : List Nat × Nat) b => (r.1 ++ [r.2], r.2 + b.length)) ([], start i)).1
  bytesOfNat 8 (match c.handler with | some h => h % 8 + 8 | none => 0)
  ++ bytesOfNat 8 c.ltvec.toNat ++ bytesOfNat 8 c.lastT.toNat ++ bytesOfNat 8 area.length ++ zeros 32
  ++ (List.range 8).flatMap (fun i => c.pathEntry i (c.replaySlots i) (offs i) false) ++ area

/-! ### Registers and proposals (R128 to R130, R147) -/

/-- A register's payload entry (R130). -/
def GReg.bytes (r : GReg) : List Byte :=
  match r with
  | .uni u => bytesOfNat 4 u.toNat
  | .aff b t => bytesOfNat 4 b.toNat ++ bytesOfNat 4 t.toNat
  | .gen _ => (List.range 32).flatMap fun j => bytesOfNat 4 (r.val j).toNat

/-- Bytes of 2-bit codes, four to a byte. -/
def codeBytes (n : Nat) (code : Nat → Nat) : List Byte :=
  (List.range n).map fun k => BitVec.ofNat 8 (code (4 * k) + code (4 * k + 1) * 4 + code (4 * k + 2) * 16 + code (4 * k + 3) * 64)

/-- A crew's register section (R128, R129). -/
def Crew.regSection (c : Crew) : List Byte :=
  let names := (List.range 256).filter c.present
  let payload := names.flatMap fun p => (List.range c.groups).flatMap fun g => (c.liveReg p g).bytes
  bytesOfNat 8 (c.nRegs % 256 + c.rot % 128 * 2 ^ 16 + c.rotb % 64 * 2 ^ 24 + (c.groups - 1) % 32 * 2 ^ 35)
  ++ bytesOfNat 8 payload.length
  ++ (List.range 64).flatMap (fun r => bytesOfNat 8 (c.sget (BitVec.ofNat 6 r)).toNat)
  ++ (List.range 8).map (fun r => c.cget (BitVec.ofNat 3 r)) ++ zeros 8
  ++ (List.range 15).flatMap (fun r => bytesOfNat 128 (SMap.get 0 c.m (r + 1)).toNat)
  ++ codeBytes 2048 (fun k => if c.present (k / 32) && decide (k % 32 < c.groups) then (c.liveReg (k / 32) (k % 32)).tag else 0)
  ++ payload

/-- A crew's proposal section (R147). -/
def Crew.propSection (c : Crew) : List Byte :=
  let g := c.groups
  let lanes := (List.range (32 * g)).map (· + 32 * c.first)
  let counters := lanes.flatMap fun l => bytesOfNat 4 (SMap.get 0 c.acpt l).toNat ++ bytesOfNat 4 (SMap.get 0 c.propd l).toNat
  match c.prop with
  | none => bytesOfNat 8 ((g - 1) % 32 * 2 ^ 35) ++ zeros (8 + 128 + 128 + 64) ++ counters ++ zeros 128
  | some w =>
    let payload := (List.range w.len).flatMap fun i => (List.range g).flatMap fun k => (w.shadowReg i k).bytes
    bytesOfNat 8 (1 + w.base % 256 * 2 ^ 8 + (w.len - 1) % 16 * 2 ^ 16 + (g - 1) % 32 * 2 ^ 35)
    ++ bytesOfNat 8 payload.length ++ bytesOfNat 128 w.lanes.toNat ++ bytesOfNat 128 w.defer.toNat
    ++ bytesOfNat 64 (w.touched.foldl (fun n k => n ||| 2 ^ k) 0) ++ counters
    ++ codeBytes 128 (fun k => if k / 32 < w.len ∧ k % 32 < g then (w.shadowReg (k / 32) (k % 32)).tag else 0)
    ++ payload

/-! ### Queues, matrix, landing, stand and barriers (R237, R287, R311, R354, R387) -/

/-- The jobs of a crew in the deck or running. -/
def State.crewJobs (s : State) (cid : Nat) : List Job := s.jobs.filter fun j => j.isCard && j.crew == cid

/-- A crew's queue section (R287). A cancelled QPOP has given back what it was owed, so no entry is pending (R385). -/
def State.queueSection (s : State) (c : Crew) : List Byte :=
  let js := (s.crewJobs c.id).take 32
  bytesOfNat 8 (c.nextSeq.toNat + js.length * 2 ^ 32)
  ++ (List.range 32).flatMap (fun k => bytesOfNat 8 (s.slotStatus c k).toNat)
  ++ (List.range 16).flatMap (fun k =>
    let q := c.q k
    bytesOfNat 8 (q.entries.length % 16 + q.dir % 4 * 2 ^ 4 + q.demand % 2 ^ 32 * 2 ^ 16) ++ bytesOfNat 8 (q.supply % 2 ^ 32))
  ++ js.flatMap (fun j => fit 192 j.card ++ bytesOfNat 4 j.token.toNat ++ bytesOfNat 4 j.prog
    ++ bytesOfNat 4 j.popped ++ bytesOfNat 4 j.pushed)
  ++ (List.range 16).flatMap fun k => (c.q k).entries.flatMap fun e => (List.range 32).flatMap fun j => bytesOfNat 4 (e.getD j 0).toNat

/-- The descriptor of an arrival (R311). -/
def State.arrWord (s : State) (a : Arrival) : Nat :=
  a.res % 8 + a.slab % 64 * 2 ^ 3 + a.fmt % 16 * 2 ^ 9
    + (match s.crewOf a.crew with | some c => c.slot % 16 | none => 0) * 2 ^ 13 + a.tile % 4 * 2 ^ 17

/-- Registers of B, lane by lane. -/
def regBytes (rs : List (List W32)) : List Byte := rs.flatMap fun r => r.flatMap fun v => bytesOfNat 4 v.toNat

/-- The joint that runs, as the matrix section names it: the one that has made some bands, else the first formed that waits for
no allotment (R310, R311). Log 45 (DEDUCED). -/
def Team.runningJoint (t : Team) : Option Joint :=
  let js := t.joints.filter fun j => !j.held
  (js.find? fun j => decide (0 < j.bands)).or js.head?

/-- A team's matrix section (R311). -/
def State.matrixSection (s : State) (t : Team) : List Byte :=
  let tiles := (List.range 4).map t.tile
  let run := t.runningJoint
  let head := match run with | some j => j.arrs.head? | none => none
  let bands := match run with | some j => j.bands | none => 0
  let latches := (t.latches.take 4).map fun l => { l with arrs := l.arrs.filter t.roomFor }
  let bits := fun (f : Tile → Bool) => (List.range 4).foldl (fun n k => n + bitAt (f (t.tile k)) k) 0
  bytesOfNat 8 (bits (·.allot) + bits (·.bound) * 2 ^ 4 + bands % 8 * 2 ^ 8 + bitAt head.isSome 11
    + (match head with | some a => a.tile % 4 | none => 0) * 2 ^ 12 + latches.length % 8 * 2 ^ 16)
  ++ tiles.flatMap (fun x => bytesOfNat 8 (x.flags.toNat + x.anchor.toNat * 2 ^ 16))
  ++ bytesOfNat 8 (match head with | some a => s.arrWord a | none => 0)
  ++ (match run with | some j => j.b.flatMap regBytes | none => [])
  ++ latches.flatMap (fun l => bytesOfNat 8 l.gang.toNat
    ++ bytesOfNat 8 ((List.range 6).foldl (fun n p => n + (l.arrs.filter fun a => a.pos == p).length % 8 * 2 ^ (3 * p)) 0))
  ++ latches.flatMap (fun l => (sortBy (fun (a : Arrival) => a.pos) l.arrs).flatMap fun a =>
    bytesOfNat 8 (s.arrWord a) ++ regBytes (s.bBlock a))
  ++ tiles.flatMap fun x => if x.allot then (List.range 16384).flatMap fun e => bytesOfNat 16 (SMap.get 0 x.elems e).toNat else []

/-- A crew's matrix section (R311). -/
def Crew.matrixSection (c : Crew) : List Byte :=
  let held := (List.range 8).filterMap fun k => SMap.get none c.resv k
  bytesOfNat 8 c.gang.toNat
  ++ bytesOfNat 8 ((List.range 8).foldl (fun n k => n + bitAt (SMap.get none c.resv k).isSome k) 0)
  ++ held.flatMap fun r => bytesOfNat 8 r.rec_.toNat
    ++ (List.range (1024 * r.units)).map fun k => (SMap.get none r.data k).getD (Config.operand r.seed k)

/-- A team's landing section (R354). -/
def Team.landingSection (t : Team) : List Byte :=
  bytesOfNat 8 (t.stage.length % 2 ^ 14)
  ++ t.stage.flatMap (fun x => bytesOfNat 8 x.x.toNat ++ bytesOfNat 2 x.handle ++ bytesOfNat 2 x.lane ++ bytesOfNat 4 x.seq.toNat)
  ++ (List.range (32 * t.groups)).flatMap fun l => bytesOfNat 4 (SMap.get 0 t.seqs l).toNat

/-- A crew's random section (R354). -/
def Crew.randomSection (c : Crew) : List Byte :=
  bytesOfNat 8 c.rstream.toNat ++ (List.range (32 * c.groups)).flatMap fun l => bytesOfNat 4 (SMap.get 0 c.draw (32 * c.first + l)).toNat

/-- A team's stand section (R237). -/
def Team.standSection (t : Team) : List Byte :=
  bytesOfNat 8 (t.scrLen / 1024 % 2048 + t.fifos.length % 16 * 2 ^ 11)
  ++ t.fifos.flatMap fun f => bytesOfNat 8 f.entries.length
    ++ f.entries.flatMap fun e => (List.range 32).flatMap fun j => bytesOfNat 4 (e.vals.getD j 0).toNat

/-- A team's barrier section (R387). -/
def State.barrierSection (s : State) (t : Team) : List Byte :=
  (List.range 4).flatMap (fun k => bytesOfNat 8 (match (s.crewsOf t.id).find? (fun c => c.num == k) with | some c => c.sig.toNat | none => 0))
  ++ (List.range 16).flatMap fun b =>
    let r := t.bar b
    bytesOfNat 8 (r.phase.toNat + bitAt r.opn 32) ++ bytesOfNat 128 r.memb.toNat ++ bytesOfNat 128 r.arr.toNat ++ zeros 8

/-! ### The save area (R386) -/

/-- The launch block of a team. -/
def State.teamBlk (s : State) (t : Team) : Option Block := match s.launchOf t.part t.launch with | some l => some l.blk | none => none
/-- The demand of a team that placement and kerf use (R362). -/
def State.usedDemand (s : State) (t : Team) : Nat :=
  match s.teamBlk t with | some b => if b.vdem = 0 then t.meas else b.vdem | none => 0

/-- The save area of a team: its header and its sections, each on a 64-byte boundary. -/
def State.saveImage (s : State) (t : Team) : List Byte :=
  let cs := s.crewsOf t.id
  let team := [s.barrierSection t, t.standSection, s.matrixSection t, t.landingSection].map pad64
  let per := cs.map fun c => [c.pathSection, c.regSection, c.propSection, s.queueSection c, c.matrixSection, c.randomSection].map pad64
  let all := team ++ per.flatMap fun x => x
  let offs := (all.foldl (fun (r : List Nat × Nat) b => (r.1 ++ [r.2], r.2 + b.length)) ([], 320))
  let off := fun (k : Nat) => bytesOfNat 8 (offs.1.getD k 0)
  bytesOfNat 8 (1 + cs.length % 8 * 2 ^ 8) ++ bytesOfNat 8 (t.launch % 2 ^ 32 + t.index * 2 ^ 32) ++ bytesOfNat 8 t.rank
  ++ bytesOfNat 8 t.kerf.toNat ++ bytesOfNat 8 t.energy.toNat ++ bytesOfNat 8 (t.meas % 2 ^ 16 + s.usedDemand t % 2 ^ 16 * 2 ^ 16)
  ++ bytesOfNat 8 offs.2 ++ bytesOfNat 8 0
  ++ (List.range 4).flatMap off
  ++ fit 192 ((List.range (6 * cs.length)).flatMap fun k => off (4 + k))
  ++ zeros 32
  ++ all.flatMap fun x => x

/-! ### TEAM_SAVE (R385) -/

/-- What happens before the end of every path of a team. -/
def State.teamClock (s : State) (team : Nat) : Clock :=
  (s.crewsOf team).foldl (fun k c => c.paths.foldl (fun k p => if p.st = .free then k else Clock.join k (p.clockNow s.nextId)) k) []

/-- The access can take effect now. -/
def State.accReady (s : State) (c : Crew) (i : Nat) (x : Acc) : Bool :=
  s.loadReady c i x || s.writeReady c i x .store || s.writeReady c i x .atomic || s.leaveReady c i x

/-- A store buffer has drained: what is left in it stands behind an access that cannot take effect yet (R263, R385). -/
def Path.sbufDrained (p : Path) : Bool := p.sbuf.all fun x => p.queue.any fun y => decide (y.id < x.id)

/-- A job can stop where it stands: no collective, and no gather between an index entry and its output, unless it waits for a page
(R286; log 40, DEDUCED). -/
def Job.atBoundary (j : Job) : Bool := cardKind j.card != 5 && (j.input.isEmpty || j.fault.isSome)

/-- Nothing of a team that can still complete is outstanding: no access can take effect and the store buffers have drained, no word
has a result to write, no walk can end but one that meets a pending frame, no multiplication can form, no word is in the middle of its
effect, and every job of the team can stop
(R263, R286, R310, R385). -/
def State.drained (s : State) (t : Team) : Bool :=
  (s.crewsOf t.id).all (fun c =>
    c.paths.zipIdx.all (fun p =>
      (p.1.queue ++ p.1.sbuf).all (fun x => !s.accReady c p.2 x) && p.1.sbufDrained
      && (match p.1.want with | some (.banks ..) => false | some .handover => false | _ => true)
      && p.1.walks.all (fun v => s.walkPends c v.1 v.2) && p.1.skip.isNone && !s.submitted c p.2)
    && c.words.all fun w => !(w.done && (w.slot || c.sPend.any fun q => q.2 == w.wid)))
  && t.readyLatch.isNone
  && s.jobs.all fun j => !(j.isCard && j.team == t.id) || j.atBoundary

/-- A path as it is saved: its accesses are cancelled, to be issued again; what it waited for is asked for again, but the passes that a
fixed-latency word has still to make, which it keeps. A code fetch that parked is made again. Log 52 (DESIGN CHOICE). -/
def Crew.savePath (c : Crew) (i : Nat) (p : Path) : Path :=
  let re := (c.openWords i).filter fun w => match p.parkedWord with | some v => v.wid != w.wid | none => true
  let park := match p.goOn with | some r => r.park | none => p.park
  let park' := match park with
    | some k => match k.word with
      | some w => some { k with tags := [], far := [], lanes := ((c.word? w.wid).getD w).owed ||| (k.lanes &&& maskOf (k.reject.map (·.1))) }
      | none => none
    | none => none
  let q : Path := { p with
    queue := [], sbuf := [], walks := [], walked := [], refill := [], wait := none
    want := match p.want with
      | some (.held a b) => some (.held a b)
      | some (.card bytes) => some (.card bytes)
      | some (.passes size e qs) => some (.passes size e qs)
      | _ => none
    newSeg := true, segW := [], segB := [] }
  let back := match p.goOn with | some r => r | none => ⟨p.spc, p.lpc, p.iss, none, p.link, p.lcnt⟩
  if re.isEmpty && p.goOn.isNone then
    { q with park := park', st := if p.st = .fault ∧ p.trap.isNone ∧ park'.isNone then .ready else p.st }
  else { q with
    replay := re, park := none, goOn := some { back with park := park' }
    st := if p.st = .fault ∧ p.trap.isNone then .ready else p.st }

/-- The crew as it is saved. -/
def Crew.saved (c : Crew) : Crew := { c with
  paths := c.paths.zipIdx.map fun p => if p.2 < 8 then c.savePath p.2 p.1 else p.1
  words := c.words.filter fun w => w.done || (match w.instr with | .cwait .. => false | _ => true)
  lastPg := [] }

/-- Every path of a crew acquires a clock. -/
def Crew.after (c : Crew) (k : Clock) : Crew := { c with
  paths := c.paths.map fun (p : Path) => if p.st = .free then p else { p with base := Clock.join p.base k } }

/-- Save a team that has stopped (R263, R286, R311, R385): its arrivals latch B, the stand's commutative entries merge, its
jobs leave the deck, its pages are written back, the sections are written, its resources are free, its accesses so far come before those after
its restore (R248), and it is queued again.
Log 11 (DEDUCED). -/
def State.saveTeam (s : State) (t0 : Team) : State :=
  let k := standOfCore (t0.core.getD 0)
  let s1 := (((s.stands[k]?).map (·.cbuf)).getD []).foldl (fun s e => s.mergeEntry k e) s
  let s2 := s1.modTeam t0.id fun t => { t with
    latches := t.latches.map fun l => { l with arrs := l.arrs.map fun a => { a with latched := some (s1.bBlock a) } } }
  match s2.teamOf t0.id with
  | none => s2
  | some t =>
    let img := s2.saveImage t
    let k0 := Clock.join t.clk (s2.teamClock t.id)
    let mine := fun (j : Job) => j.isCard && j.team == t.id
    let s3 := { s2 with
      jobs := s2.jobs.filter fun j => !mine j
      crews := s2.crews.map fun (c : Crew) => if c.team == t.id && !c.retired then c.saved.after k0 else c }
    let s4 := (s3.modCore (t.core.getD 0) fun k => { k with staged := k.staged.filter fun x => x.1 != t.id }).modTeam t.id fun t => { t with
      core := none, saved := true, leaving := false, saves := t.saves + 1, image := img
      jobs := (s2.jobs.filter mine).map fun (j : Job) => { j with at_ := none, age := 0, fault := none }
      bytes := t.bytes + 4096 * (t.pins.filter (·.dirty)).length
      pins := [], fifos := t.fifos.map fun f => { f with place := 0 }
      tiles := t.tiles.map fun x => { x with frames := [] }
      waitBanks := [], heldNs := 0 }
    s4.modPart t.part fun q => { q with requeue := q.requeue ++ [t.id], departed := q.departs t.launch }

/-- TEAM_SAVE (R385): a team chosen for pre-emption is saved once it has stopped. Log 39 (DEDUCED). -/
def execTeamSave (r : TeamRef) (s : State) : Out :=
  match s.teamRef r with
  | some t => if t.leaving && t.core.isSome && s.live r.part && s.drained t then .next (s.saveTeam t) else .next s
  | none => .next s

/-! ### Restore (R390) -/

/-- The free crew slots of a core, ascending. -/
def State.freeCrewSlots (s : State) (core : Nat) : List Nat :=
  let used := (s.coreCrews core).map (·.slot)
  (List.range 16).filter fun k => !used.contains k

/-- A reservation of the crew at a new place of a core's operand buffer (R289, R312): the first fit beside those that have theirs,
since one not yet placed begins after the buffer's end. -/
def State.placeResv (s : State) (core cid : Nat) (k : Nat) : State :=
  match s.crewOf cid with
  | none => s
  | some c => match SMap.get none c.resv k with
    | none => s
    | some v =>
      let s1 := s.modCrew cid fun c => { c with resv := SMap.set none c.resv k none }
      match s1.obufFit core v.units with
      | some a => s1.modCrew cid fun c => { c with resv := SMap.set none c.resv k (some { v with start := a }) }
      | none => s

/-- Saved jobs enter the deck again, in their order (R286). -/
def State.backJob (s : State) (j : Job) : State :=
  let fence := match s.crewOf j.crew with | some c => if c.fence ≤ j.id then c.fence else 0 | none => 0
  let es := (s.jobs.filter fun (k : Job) => (s.edge k j fence || j.edges.contains k.id) && !k.edges.contains j.id).map fun (k : Job) => k.id
  { s with jobs := s.jobs ++ [{ j with edges := es }] }

/-- Give a team its place on a stand: frames for its allotted tiles, slots for its FIFOs, and the drain of the banks it takes
back (R223, R225, R230, R232). -/
def State.takeStand (s : State) (team core : Nat) : State :=
  let k := standOfCore core
  let before := s.lentBanks k
  let s1 := (s.modTeam team fun t => { t with core := some core, lastCore := core }).modCore core fun k => { k with gated := false }
  let s2 := s1.reclaim k before
  let slots := s.freeSlots k
  let s3 := s2.modTeam team fun t => { t with
    fifos := t.fifos.zipIdx.map fun f => { f.1 with place := slots.getD f.2 0 }
    waitBanks := before.filter fun b => s2.draining k b }
  (List.range 4).foldl (fun s n => s.modTeam team fun t =>
    if (t.tile n).allot then t.modTile n fun x => { x with frames := (s.freeFrames k).take 64 } else t) s3

/-- Restore a saved team on a core (R390, R312). -/
def State.restoreTeam (s : State) (team core : Nat) : State :=
  match s.teamOf team with
  | none => s
  | some t =>
    let slots := s.freeCrewSlots core
    let cs := (s.crewsOf team).filter fun c => !c.retired
    let s1 := (cs.zipIdx).foldl (fun s c => s.modCrew c.1.id fun d => { d with
      slot := slots.getD c.2 0, quiet := 0, stuck := 0, resv := d.resv.map fun e => (e.1, e.2.map fun r => { r with start := 512 }) }) s
    let s2 := s1.takeStand team core
    let s3 := cs.foldl (fun s c => (List.range 8).foldl (fun s k => s.placeResv core c.id k) s) s2
    let s4 := t.jobs.foldl (fun s j => s.backJob j) s3
    let s5 := s4.modTeam team fun t => { t with saved := false, image := [], jobs := [], placed := s.time, present := true }
    s5.modPart t.part fun q => { q with
      requeue := q.requeue.filter fun x => x != team, reqPassed := SMap.set 0 q.reqPassed team 0, lastCore := core }

end Sys2Proof.Machine
end

