-- ==== Sys2Proof/Machine/Placement.lean ====
section
/-! DEFINITION. The scheduler: heads and placement decisions (R78, R81, R116, R225, R317, R324, R362 to R364), pre-emption
(R318), time slices and limits (R326, R327), evictions (R90), YIELD (R394), and the completion of a launch (R335, R414). -/

namespace Sys2Proof.Machine

/-! ### The vault test (R359, R362, R363) -/

/-- The refresh class of a vault: that of its pair; a vault being recalibrated counts as refresh-bound (R358, R421). -/
def State.vaultClass (s : State) (v : Nat) : Nat :=
  match s.pairs[v / 4]? with
  | some p => if p.recal.contains v then 3 else p.cls
  | none => 3
/-- The share of a refresh class in percent (R358). -/
def refreshPct (cls : Nat) : Nat := match cls with | 0 => 3 | 1 => 6 | 2 => 12 | _ => 24
/-- The raw bandwidth left to a vault in MB/s (R358). -/
def rawLeft (cls : Nat) : Nat := 512000 * (100 - refreshPct cls) / 100

/-- The teams resident on a core. -/
def State.coreTeams (s : State) (core : Nat) : List Team := s.teams.filter fun t => t.core == some core

/-- The core passes the vault test for a demand, with the teams in `gone` removed (R359, R363). -/
def State.vaultTest (s : State) (part core demand : Nat) (gone : List Nat) : Bool :=
  let load := ((s.coreTeams core).filter fun t => !gone.contains t.id).foldl (fun n t => n + s.usedDemand t) 0
  let floor := match s.part? part with | some q => q.floor.toNat | none => 0
  (homeVaults core).all fun v =>
    let cls := s.vaultClass v
    cls != 3 && decide (1000 * floor + 500 * demand + 500 * load ≤ rawLeft cls)

/-! ### Heads (R317) -/

/-- A head: the lowest unplaced team of a launch, or a team that waits to be placed again. -/
structure Head where
  lid  : Nat
  team : Option Nat
  deriving DecidableEq, Repr

/-- The head as R326 and R394 remember it: the launch, and 0 or the team. -/
def Head.key (h : Head) : Nat × Nat := (h.lid, match h.team with | some t => t + 1 | none => 0)

/-- A path of the launch is held. -/
def State.launchHeld (s : State) (part lid : Nat) : Bool := s.teams.any fun t => t.part == part && t.launch == lid && s.teamHeld t.id
/-- In all-stop mode a launch with a held path is not placed (R398). -/
def State.allStopped (s : State) (part lid : Nat) : Bool :=
  (match s.part? part with | some q => q.mode == 2 | none => false) && s.launchHeld part lid

/-- The launch of a team. -/
def State.teamLaunch (s : State) (t : Team) : Option Launch := s.launchOf t.part t.launch
/-- The priority of a head. -/
def State.headPrio (s : State) (part : Nat) (h : Head) : Nat := match s.launchOf part h.lid with | some l => l.blk.prio | none => 3

/-- The teams of a partition that wait to be placed again, in the order in which they rejoined (R317). -/
def State.requeued (s : State) (part : Nat) : List Team :=
  match s.part? part with | some q => q.requeue.filterMap fun id => s.teamOf id | none => []

/-- The launch offers its unplaced head (R317, R324). -/
def State.offers (s : State) (l : Launch) : Bool :=
  l.eligible && !l.stopped && !l.retired && decide (l.next < l.blk.teams)
  && (!l.blk.cruise || decide (l.next < l.n + 256))
  && !(s.requeued l.part).any fun t => t.launch == l.lid

/-- The heads of a priority in order: launches in admission order, then teams that rejoined (R317). -/
def State.headsOf (s : State) (part prio : Nat) : List Head :=
  ((s.launches.filter fun l => l.part == part && l.blk.prio == prio && s.offers l).map fun l => ⟨l.lid, none⟩)
  ++ ((s.requeued part).filter fun t => s.headPrio part ⟨t.launch, none⟩ == prio).map fun t => ⟨t.launch, some t.id⟩

/-- Every head of a partition in order. -/
def State.heads (s : State) (part : Nat) : List Head := [0, 1, 2, 3].flatMap fun k => s.headsOf part k

/-! ### What a head needs, and the tests of a core (R78, R116, R225, R312) -/

/-- What a placement asks for. -/
structure Need where
  groups : Nat
  crews  : Nat
  units  : Nat
  frames : Nat
  fifos  : Nat
  obuf   : List Nat
  demand : Nat
  deriving DecidableEq, Repr

/-- The units that a saved crew asks for: its registers at the raw width, its open window too (R116, R147). -/
def Crew.needUnits (c : Crew) : Nat :=
  (c.nRegs + 8) * c.groups * 8 + (match c.prop with | some w => 8 * w.len * c.groups | none => 0)

/-- The frames that a saved team asks for: its pages, and its allotted tiles or, where it has none, its first (R225, R312). -/
def Team.needFrames (t : Team) : Nat := t.scrLen / 4096 + 64 * max ((t.tiles.filter (·.allot)).length) (if 0 < t.ntile then 1 else 0)

/-- What a head needs. -/
def State.needOf (s : State) (part : Nat) (h : Head) : Option Need :=
  match s.launchOf part h.lid with
  | none => none
  | some l =>
    let demand := if l.blk.vdem = 0 then l.demand else l.blk.vdem
    match h.team with
    | none => some ⟨l.blk.gsize, l.kd.crews.length, l.kd.units l.blk.gsize, l.kd.frames, l.kd.fifo, [], demand⟩
    | some id => match s.teamOf id with
      | none => none
      | some t =>
        let cs := (s.crewsOf id).filter fun c => !c.retired
        some ⟨cs.foldl (fun n c => n + c.groups) 0, cs.length, cs.foldl (fun n c => n + c.needUnits) 0, t.needFrames, t.fifos.length,
          cs.flatMap fun c => c.resv.filterMap fun e => e.2.map (·.units), demand⟩

/-- Reservations of these sizes fit one after another beside those in use (R289, R312). -/
def obufHolds : List (Nat × Nat) → List Nat → Bool
  | _, [] => true
  | used, n :: ns =>
    match (List.range (513 - n)).find? fun k => !used.any fun r => decide (r.1 < k + n) && decide (k < r.1 + r.2) with
    | some k => obufHolds ((k, n) :: used) ns
    | none => false

/-- The position is in use: neither fenced nor being swapped (R17, R421). -/
def State.usable (s : State) (core : Nat) : Bool := match s.cores[core]? with | some k => !k.fenced && !k.swap | none => false

/-- The core passes every test of R317 for a need, with the teams in `gone` removed. -/
def State.passes (s : State) (part core : Nat) (n : Need) (gone : List Nat) : Bool :=
  let k := standOfCore core
  let here := (s.coreCrews core).filter fun c => !gone.contains c.team
  let stand := (s.standTeams k).filter fun t => !gone.contains t.id
  let off := s.teams.filter fun t => gone.contains t.id && t.core.isSome
  let slotsOff := (off.filter fun t => match t.core with | some c => standOfCore c == k | none => false).foldl (fun m t => m + t.fifos.length) 0
  s.usable core
  && decide (here.foldl (fun m c => m + c.groups) 0 + n.groups ≤ 64)
  && decide (here.length + n.crews ≤ 16)
  && decide (here.foldl (fun m c => m + c.held + c.reserved) 0 + n.units ≤ 49152)
  && decide (stand.foldl (fun m t => m + t.reserved) 0 + n.frames ≤ s.keptPool k)
  && decide (n.fifos ≤ (s.freeSlots k).length + slotsOff)
  && obufHolds (here.flatMap fun c => c.resv.filterMap fun e => e.2.map fun r => (r.start, r.units)) n.obuf
  && s.vaultTest part core n.demand gone

/-- The head would pass every test on a core once some teams were gone. -/
def State.headFits (s : State) (part core : Nat) (h : Head) (gone : List Nat) : Bool :=
  match s.needOf part h with | some n => !s.allStopped part h.lid && s.passes part core n gone | none => false

/-! ### The choice of a core (R364) -/

/-- Core a is better than core b: a lower class, then a greater thermal allowance, then nearer after the last core chosen. -/
def State.coreRank (s : State) (last core : Nat) : Nat × Nat × Nat :=
  let p := s.pairs[pairOfCore core]?
  ((homeVaults core).foldl (fun n v => max n (s.vaultClass v)) 0
  , 2 ^ 32 - (match p with | some p => (p.allow (pairOfCore core)).toNat | none => 0)
  , (core + 144 - (last + 1)) % 144)

/-- A rank lies before another. -/
def rankLt (a b : Nat × Nat × Nat) : Bool :=
  decide (a.1 < b.1) || (a.1 == b.1 && (decide (a.2.1 < b.2.1) || (a.2.1 == b.2.1 && decide (a.2.2 < b.2.2))))

/-- The best of some cores. -/
def State.bestCore (s : State) (last : Nat) (cores : List Nat) : Option Nat :=
  cores.foldl (fun best k => match best with
    | none => some k
    | some b => if rankLt (s.coreRank last k) (s.coreRank last b) then some k else some b) none

/-- The core a head would be placed on (R317, R363, R364). -/
def State.coreFor (s : State) (part : Nat) (h : Head) : Option Nat :=
  match s.part? part with
  | some q => s.bestCore q.lastCore ((partCores s.svc.split part).filter fun k => s.headFits part k h [])
  | none => none

/-- The first head that fits some core, the core, and the heads passed over before it; or every head passed over. -/
def State.decideGo (s : State) (part : Nat) : List Head → List Head → Option (Head × Nat) × List Head
  | out, [] => (none, out)
  | out, h :: hs => match s.coreFor part h with
    | some k => (some (h, k), out)
    | none => State.decideGo s part (out ++ [h]) hs

/-- A placement decision. -/
def State.placeChoice (s : State) (part : Nat) : Option (Head × Nat) × List Head := s.decideGo part [] (s.heads part)

/-- The partition makes placements now: no class change is in progress (R366). -/
def State.places (s : State) (part : Nat) : Bool :=
  s.live part && (match s.part? part with | some q => q.newCls.isNone | none => false)

/-! ### A first placement (R78, R81, R109, R224, R230 to R232) -/

/-- A crew as it starts (R81, R109). -/
def newCrew (id team num slot first : Nat) (k : KCrew) (l : Launch) (thr : Nat) : Crew where
  id := id
  team := team
  num := num
  slot := slot
  role := k.role
  first := first
  groups := k.size l.blk.gsize
  retired := false
  paths := (List.range 9).map fun i =>
    if i = 0 then { Path.empty with
      st := .ready, spc := l.kd.scode + 4 * w64 k.sent, lpc := l.kd.lcode + 12 * w64 k.lent
      mask := maskRange (32 * first) (32 * k.size l.blk.gsize), m0 := maskRange (32 * first) (32 * k.size l.blk.gsize)
      thr := thr, base := l.base }
    else Path.empty
  s := SMap.ofList 0 (l.blk.regs.zipIdx.map fun r => (r.2 + 1, r.1))
  sPend := []
  c := []
  m := []
  v := []
  nRegs := k.regs
  rot := k.rot
  rotb := 0
  sig := 0
  sigClk := []
  ltvec := 0
  handler := none
  defSeq := 0
  lastT := 0
  lastE := 7
  due := []
  prop := none
  propNo := 0
  propd := []
  acpt := []
  faddr := []
  mcause := []
  qcause := []
  mxcause := []
  ecause := []
  draw := []
  rstream := w32 l.lid
  lastPg := []
  words := []
  gang := 0
  resv := []
  qs := []
  nextSeq := 0
  slots := []
  jobClk := []
  fence := 0
  stalls := []
  stsel := 0
  issued := false
  quiet := 0
  stuck := 0

/-- A team as it is placed for the first time. -/
def newTeam (id : Nat) (l : Launch) (core : Nat) (time : W64) : Team where
  id := id
  part := l.part
  launch := l.lid
  index := l.next
  rank := l.next
  idx := if l.blk.cruise then (l.blk.order l.next).getD 0 else l.next
  core := some core
  groups := l.blk.gsize
  ncrew := l.kd.crews.length
  bars := []
  scrLen := l.kd.scr * 1024
  scr := []
  pins := []
  fifos := List.replicate l.kd.fifo ⟨0, []⟩
  ntile := l.kd.accum
  tiles := (List.range 4).map fun k => ⟨decide (k = 0 ∧ 0 < l.kd.accum), false, 0, 0, [], []⟩
  latches := []
  joints := []
  priv := []
  backing := []
  stage := []
  seqs := []
  log := []
  kerf := 0
  energy := 0
  meas := 0
  bytes := 0
  touches := 0
  slotsUsed := 0
  present := true
  saves := 0
  placed := time
  first := time
  heldNs := 0
  saved := false
  leaving := false
  retired := false
  clk := []
  image := []
  jobs := []
  waitBanks := []
  lastCore := core
  sampled := false

/-- The crews of a new team, in crew order. -/
def startCrews (l : Launch) (team base : Nat) (slots : List Nat) : List Crew :=
  (l.kd.crews.zipIdx).map fun k =>
    newCrew (base + 2 * k.2) team k.2 (slots.getD k.2 0) ((l.kd.crews.take k.2).foldl (fun n j => n + j.size l.blk.gsize) 0) k.1 l
      (base + 2 * k.2 + 1)

/-- Place the head of a launch on a core. -/
def State.placeNew (s : State) (l : Launch) (core : Nat) : State :=
  let id := s.nextId
  let crews := startCrews l id (id + 1) (s.freeCrewSlots core)
  let t := newTeam id l core s.time
  let fs := s.cleanFrames (dieOfCore core) (ceilDiv (32 * l.blk.gsize * l.blk.pwin * 1024) (2 ^ 16))
  let s1 := { s.takePrivate l.part fs with teams := s.teams ++ [{ t with core := none, backing := fs }], crews := s.crews ++ crews, nextId := id + 1 + 2 * crews.length }
  let s2 := (s1.takeStand id core).modLaunch l.part l.lid fun m => { m with
    next := m.next + 1, passed := none, mark := if m.next = 0 then s.past.length else m.mark }
  s2.modPart l.part fun q => { q with lastCore := core }

/-- Place a head on a core. -/
def State.placeHead (s : State) (part : Nat) (h : Head) (core : Nat) : State :=
  match h.team with
  | some id => s.restoreTeam id core
  | none => match s.launchOf part h.lid with | some l => s.placeNew l core | none => s

/-- Note the heads that a decision passed over, and since when each has been (R317, R318). -/
def State.noteHeads (s : State) (part : Nat) (over_ : List Head) : State :=
  let s1 := s.modPart part fun q => { q with
    passedOver := over_.map Head.key
    reqPassed := over_.foldl (fun m h => match h.team with
      | some id => if SMap.get 0 m id = 0 then SMap.set 0 m id (s.time + 1) else m
      | none => m) q.reqPassed }
  over_.foldl (fun s h => match h.team with
    | none => s.modLaunch part h.lid fun l => { l with passed := l.passed.or (some s.time) }
    | some _ => s) s1

/-- PLACEMENT (R317): the first head that some core takes is placed there. -/
def execPlacement (part : Nat) (s : State) : Out :=
  if !s.places part then .next s
  else match s.placeChoice part with
    | (some (h, core), over_) => .next ((s.noteHeads part over_).placeHead part h core)
    | (none, over_) => .next (s.noteHeads part over_)

/-- TEAM_RESTORE (R390): the placement decision that takes a saved team to a core. -/
def execTeamRestore (r : TeamRef) (core : Nat) (s : State) : Out :=
  match s.teamRef r with
  | some t =>
    if !s.places r.part then .next s
    else match s.placeChoice r.part with
      | (some (h, k), over_) =>
        if h.team = some t.id ∧ k = core then .next ((s.noteHeads r.part over_).restoreTeam t.id core) else .next s
      | (none, _) => .next s
  | none => .next s

/-! ### Pre-emption (R318, R326, R394, R400) -/

/-- A team stops, to be saved and queued again (R90, R318, R326, R421). -/
def State.evict (s : State) (team : Nat) : State := s.modTeam team fun t => { t with leaving := true }

/-- The team may be chosen as a victim: it is resident, not already leaving, and none of its paths is held (R400). -/
def State.choosable (s : State) (t : Team) : Bool := t.core.isSome && !t.retired && !t.leaving && !s.teamHeld t.id

/-- The priority of a team. -/
def State.teamPrio (s : State) (t : Team) : Nat := match s.teamBlk t with | some b => b.prio | none => 0

/-- The team with the greatest key. -/
def greatest (key : Team → Nat × Nat × Nat) (ts : List Team) : Option Team :=
  ts.foldl (fun best t => match best with
    | none => some t
    | some b => if rankLt (key b) (key t) then some t else some b) none

/-- The teams of a core that leave. -/
def State.leavers (s : State) (core : Nat) : List Nat := ((s.coreTeams core).filter (·.leaving)).map (·.id)

/-- The victims of a core, least important first: greatest priority number, highest team index, highest launch. -/
def State.victim (s : State) (cores : List Nat) (prio : Nat) : Option Team :=
  greatest (fun t => (s.teamPrio t, t.index, t.launch))
    ((cores.flatMap s.coreTeams).filter fun t => s.choosable t && decide (prio < s.teamPrio t))

/-- Take victims of one core until the head would fit once they have left (R318). -/
def State.takeVictims (s : State) (part core prio : Nat) (h : Head) : Nat → State
  | 0 => s
  | n + 1 =>
    if s.headFits part core h (s.leavers core) then s
    else match s.victim [core] prio with
      | some t => (s.evict t.id).takeVictims part core prio h n
      | none => s

/-- The head has been passed over for 20 µs (R318). -/
def State.overdue (s : State) (part : Nat) (h : Head) : Bool :=
  let since := match h.team with
    | none => match s.launchOf part h.lid with | some l => l.passed | none => none
    | some id => match s.part? part with
      | some q => if SMap.get 0 q.reqPassed id = 0 then none else some (SMap.get 0 q.reqPassed id - 1)
      | none => none
  match since with | some t => decide (t.toNat + 20000 ≤ s.time.toNat) | none => false

/-- The cores that qualify for a head: it would pass once their teams of a greater priority number were gone (R318). -/
def State.qualify (s : State) (part prio : Nat) (h : Head) : List Nat :=
  (partCores s.svc.split part).filter fun k => s.headFits part k h (((s.coreTeams k).filter fun t => decide (prio < s.teamPrio t)).map (·.id))

/-- A head that needs victims: it is overdue and fits no core, even once those that already leave are gone. -/
def State.needsVictims (s : State) (part : Nat) (h : Head) : Bool :=
  s.overdue part h && !(partCores s.svc.split part).any fun k => s.headFits part k h (s.leavers k)

/-- PRIORITY_PREEMPT (R318): the victims of the first head that has been passed over for 20 µs. -/
def execPriorityPreempt (part : Nat) (s : State) : Out :=
  if !s.places part then .next s
  else match (s.heads part).find? fun h => s.needsVictims part h && (s.victim (s.qualify part (s.headPrio part h) h) (s.headPrio part h)).isSome with
    | none => .next s
    | some h =>
      let prio := s.headPrio part h
      match s.victim (s.qualify part prio h) prio with
      | some t => match t.core with
        | some core => .next ((s.evict t.id).takeVictims part core prio h 16)
        | none => .next s
      | none => .next s

/-- In the latest placement decision a head of the same or a smaller priority number was passed over, and would fit the
team's core once the team is gone (R326, R394). -/
def State.displaced (s : State) (t : Team) : Bool :=
  match t.core, s.part? t.part with
  | some core, some q => (s.heads t.part).any fun h =>
      q.passedOver.contains h.key && decide (s.headPrio t.part h ≤ s.teamPrio t) && s.headFits t.part core h [t.id]
  | _, _ => false

/-- A path of the team has parked at a page fault in the clock in which its slice has run out: the pre-emption waits until the path is
runnable (R391). -/
def State.parkedTeam (s : State) (t : Team) : Bool :=
  (s.crewsOf t.id).any fun c => c.paths.any fun p => p.st == .fault && match p.park with | some k => k.fresh || k.slice | none => false
/-- The paths of a team that have parked in this clock make its pre-emption wait (R391). -/
def State.holdSlice (s : State) (t : Team) : State :=
  (s.crewsOf t.id).foldl (fun s c => s.modCrew c.id fun c => { c with
    paths := c.paths.map fun (p : Path) => { p with park := p.park.map fun k => { k with slice := k.slice || k.fresh } } }) s

/-- SLICE_EXPIRY (R326, R391). -/
def execSliceExpiry (r : TeamRef) (s : State) : Out :=
  match s.teamRef r with
  | some t => match s.teamBlk t with
    | some b =>
      if s.live r.part && b.slice != 0 && s.choosable t
          && decide (t.placed.toNat + 1000 * b.slice + t.heldNs ≤ s.time.toNat) && s.displaced t then
        .next (if s.parkedTeam t then s.holdSlice t else s.evict t.id)
      else .next s
    | none => .next s
  | none => .next s

/-- YIELD (R394). -/
def execYield (s : State) : Out :=
  withCur s fun c p =>
    if p.iss.isSome then waitIssue s p
    else trapGate s c <|
      let s1 := s.advance 4
      match s.teamOf c.team with
      | some t => .next (if s.choosable t && s.displaced t then s1.evict t.id else s1)
      | none => .next s1

/-! ### Time limits (R327) -/

/-- What a stop record says of a fault of the launch unit of a partition, which stands on the partition's first die (R384). -/
def launchCause (core code : Nat) (lid : Nat) : Cause where
  code := code
  detail := 0
  addr := 0
  kind := 4
  launch := lid
  team := 0
  core := core
  slot := 0
  path := 0
  spc := 0
  lpc := 0

/-- The first core of a partition. -/
def State.firstCore (s : State) (part : Nat) : Nat := 36 * (partDies s.svc.split part).headD 0

/-- Some team of the launch is resident, saved or unplaced. -/
def State.unfinished (s : State) (l : Launch) : Bool :=
  !l.stopped && (decide (l.next < l.blk.teams) || s.teams.any fun t => t.part == l.part && t.launch == l.lid && !t.retired)

/-- The launch has reached its time limit, extended by the microseconds in which its paths were held, the one that has yet to be counted
in the sample among them (R327, R400). -/
def State.pastLimit (s : State) (l : Launch) : Bool :=
  l.blk.tlim != 0 && !l.retired && s.unfinished l && decide (l.admitAt.toNat + 1000 * (l.blk.tlim + l.extUs + b2n l.heldIn) ≤ s.time.toNat)

/-- TIME_LIMIT (R327). -/
def execTimeLimit (r : LaunchRef) (s : State) : Out :=
  match s.launchOf r.part r.launch with
  | some l => if s.live r.part && s.pastLimit l then .next (s.raise r.part (launchCause (s.firstCore r.part) fcTimeLimit r.launch)) else .next s
  | none => .next s

/-! ### Evictions (R90) -/

/-- The team that R90 evicts from a core: the highest index, then the highest launch; none where it is held. -/
def State.evictee (s : State) (core : Nat) : Option Team :=
  greatest (fun t => (t.index, t.launch, 0)) ((s.coreTeams core).filter s.choosable)

/-- A head waits to be placed on a core: it fails a test there, and would pass once the victim were gone (R90). -/
def State.waitsFor (s : State) (part core : Nat) (victim : Nat) : Bool :=
  (s.heads part).any fun h => !s.headFits part core h [] && s.headFits part core h [victim]

/-- The partition of a core. -/
def State.corePart (s : State) (core : Nat) : Nat := partOfDie s.svc.split (dieOfCore core)

/-- The path waits for register units or for an allotment (R90, R117, R118, R231, R289). -/
def Path.starved (p : Path) : Bool :=
  match p.want with
  | some (.grow ..) | some (.units ..) | some (.passes ..) | some (.kept ..) | some (.tile ..) | some (.obres ..) => true
  | _ => p.wait == some stAllot

/-- The crew is blocked on register units or on an allotment, with nothing that could issue: an allotment is that of a path's word or of
the joint it waits for (R90, R231). -/
def State.crewBlocked (s : State) (c : Crew) : Bool :=
  let starved := fun (i : Nat) => (c.path i).starved || s.jointWaits c i
  let ready := fun (i : Nat) => (c.path i).st == .ready
  !c.issued && (List.range 8).any (fun i => ready i && starved i)
    && !(List.range 8).any fun i => ready i && !starved i && (c.path i).wait.isNone

/-- FORWARD_PROGRESS_EVICTION (R90): no crew of the core has issued for 4,096 clocks, and a head waits for the core. -/
def execForwardProgressEviction (core : Nat) (s : State) : Out :=
  match s.evictee core with
  | some t =>
    if s.live t.part && (s.coreCrews core).all (fun c => !c.issued && decide (4096 ≤ c.quiet)) && (s.leavers core).isEmpty
        && s.waitsFor t.part core t.id then .next (s.evict t.id)
    else .next s
  | none => .next s

/-- ALLOTMENT_DEADLOCK_EVICTION (R90): every crew blocked on REGGROW or allotment for 1,024 clocks. -/
def execAllotmentDeadlockEviction (core : Nat) (s : State) : Out :=
  match s.evictee core with
  | some t =>
    if s.live t.part && (s.coreCrews core).all (fun c => s.crewBlocked c && decide (1024 ≤ c.stuck)) && (s.leavers core).isEmpty then
      .next (s.evict t.id)
    else .next s
  | none => .next s

/-! ### The completion of a launch (R335, R345, R414) -/

/-- The completion record of a launch (R414). -/
def Launch.record (l : Launch) : List Byte :=
  let status := if l.halted then 2 else if 1 ≤ l.reason ∧ l.reason ≤ 3 then 1 else 0
  bytesOfNat 4 l.lid ++ bytesOfNat 1 status ++ bytesOfNat 1 l.reason ++ bytesOfNat 2 0
  ++ bytesOfNat 4 (if l.blk.cruise then l.n else l.nRetired - l.aborted) ++ bytesOfNat 4 l.nRetired
  ++ bytesOfNat 8 l.admitAt.toNat ++ bytesOfNat 8 l.retireAt.toNat ++ bytesOfNat 8 l.kerf.toNat ++ bytesOfNat 8 l.energy.toNat
  ++ bytesOfNat 16 0

/-- Write the completion records that wait, oldest first, while the ring has room (R414). A ring of size 0 has none. -/
def State.flushRecords (s : State) (part : Nat) : List Launch → State
  | [] => s
  | l :: ls =>
    match s.part? part with
    | none => s
    | some q => match q.cring.slot 1 with
      | none => s
      | some (at_, tail) =>
        let s1 := (s.wrBytes (q.cring.base + 64 * at_) l.record).modPart part fun q => { q with cring := { q.cring with tail := w32 tail } }
        State.flushRecords { s1.modLaunch part l.lid fun m => { m with recOwed := false } with msix := s1.msix ++ [4 * part] } part ls

/-- Write what waits for the completion ring of a partition. -/
def State.serveRing (s : State) (part : Nat) : State := s.flushRecords part (s.launches.filter fun l => l.part == part && l.recOwed)

/-- The estimators that a launch has bound are closed and unbound (R335). -/
def State.unbind (s : State) (part lid : Nat) : State :=
  { s with ests := s.ests.map fun e =>
      if e.2.bound == lid && partOfDie s.svc.split (e.1 / 4096) == part then (e.1, { e.2 with bound := 0, closed := true }) else e }

/-- The lines that the teams and jobs of a launch have written move out through the host window (R259). -/
def State.exportLaunch (s : State) (l : Launch) : State :=
  let ids := (s.teams.filter fun t => t.part == l.part && t.launch == l.lid).map (·.id)
  (s.mergeWhere fun e => e.items.any fun it => ids.contains it.2.team).exportLines fun h => h.part == l.part && h.writers.any fun w => w.2 == l.lid

/-- The launch retires: its writes move out, its bindings end, its snapshot entries are free, its record is written or waits,
and others may become eligible (R259, R335, R344, R345, R414). -/
def State.retireLaunch (s : State) (l : Launch) : State :=
  let s1 := ((s.exportLaunch l).unbind l.part l.lid).modLaunch l.part l.lid fun l => { l with
    retired := true, retireAt := s.time, snaps := [], recOwed := true }
  ((s1.serveRing l.part).settleEligible l.part).dropPast

/-- Every team of the launch has retired or been stopped, and every rank that will commit has; its jobs are done. -/
def State.finished (s : State) (l : Launch) : Bool :=
  !l.retired && (l.stopped || (!l.blk.cruise && l.n == l.blk.teams))
  && s.teams.all (fun t => !(t.part == l.part && t.launch == l.lid) || t.retired)
  && !s.jobs.any (fun j => j.isCard && j.part == l.part && j.lid == l.lid)

/-- LAUNCH_COMPLETION (R414). -/
def execLaunchCompletion (r : LaunchRef) (s : State) : Out :=
  match s.launchOf r.part r.launch with
  | some l => if s.live r.part && s.finished l then .next (s.retireLaunch l) else .next s
  | none => .next s

/-- COMPLETION_RING_HEAD (R412, R414): the driver advances the head, and records that wait are written. -/
def execCompletionRingHead (part : Nat) (v : W64) (s : State) : Out :=
  .next ((s.modPart part fun q => { q with cring := { q.cring with head := v.extractLsb' 32 32 } }).serveRing part)

/-- COMPLETION_RING_SET (R412): a write to LN_CRING sets both pointers to 0. -/
def execCompletionRingSet (part : Nat) (v : W64) (s : State) : Out :=
  .next ((s.modPart part fun q => { q with cring := ⟨v &&& 0x000FFFFFFFFFFFFF, 0, 0⟩ }).serveRing part)

end Sys2Proof.Machine
end

