-- ==== Sys2Proof/Machine/Clock.lean ====
section
/-! DEFINITION. The clock of a core: idle counters, issue slots, forward-progress counts (R89, R90, R392), stall accounting
(R402), and samples (R407). -/

namespace Sys2Proof.Machine

/-! ### Stall reasons (R402) -/

/-- The reason of an occupied entry. `runs` says that its crew's team runs on its core. Log 49 (DEDUCED). -/
def State.entryReason (s : State) (c : Crew) (i : Nat) (runs : Bool) : Nat :=
  let p := c.path i
  match p.st with
  | .marker => stMarker
  | .join | .barrier | .rolesig => stSync
  | .fault => if p.walks.isEmpty then stOther else stWalk
  | .held => stOther
  | _ =>
    if !p.walks.isEmpty then stWalk
    else if !p.refill.isEmpty then stRefill
    else match p.want with
    | some (.grow ..) => stRegs
    | some (.units ..) => stRegs
    | some (.passes ..) => stRegs
    | some .refill => stRefill
    | some (.tile ..) => stOther
    | some (.obres ..) => stOther
    | some .handover => stOther
    | some .sent => stOther
    | some (.banks ..) => stOther
    | _ =>
      if c.pushing i then stFifo
      else if s.crowded c i || s.jointWaits c i || !runs || !p.replay.isEmpty || p.goOn.isSome then stOther
      else match p.wait with
        | some w => if w ≤ stOther then w else stOther
        | none => 0

/-- The occupied entry of the lowest index, which stands for its crew (R402). -/
def Crew.lowestEntry (c : Crew) : Option Nat := (List.range 8).find? fun i => (c.path i).st != .free

/-- The reason that a crew which has issued nothing counts in this clock; a crew with no entry left counts 15 (R402). -/
def State.reason (s : State) (core : Nat) (c : Crew) : Nat :=
  match c.lowestEntry with
  | some i => s.entryReason c i ((s.runCrews core).any fun d => d.id == c.id)
  | none => stOther

/-! ### CORE_CLOCK (R89, R90, R392, R402) -/

/-- The sample period of a core in clocks; 0 where sampling is off (R408). -/
def State.samplePeriod (s : State) (core : Nat) : Nat :=
  match s.part? (s.corePart core) with
  | some q => if q.dbgCtl.getLsbD 3 && q.sper != 0 then max q.sper.toNat 256 else 0
  | none => 0

/-- The clock's end for a crew of the core: its stall counter, by the reason given, and its paths try their words again, or
stand held at their word boundary (R398). `more`
says that a word of it has passes left to issue in the next clock, which issues them, `stuck` that it is blocked (R84, R89, R90, R402). -/
def Crew.tick (c : Crew) (r : Nat) (more stuck : Bool) : Crew :=
  { c with
    stalls := if c.issued then c.stalls else SMap.set 0 c.stalls r (satInc (SMap.get 0 c.stalls r))
    issued := more
    quiet := if c.issued then 0 else c.quiet + 1
    stuck := if stuck then c.stuck + 1 else 0
    defSeq := c.defSeq + 1
    paths := c.paths.map fun (p : Path) => { p with
      wait := none
      st := if p.atHold then .held else p.st
      park := p.park.map fun k => { k with fresh := false }
      trap := p.trap.map fun t => if t.due then t else { t with age := t.age + 1 } } }

/-- The core after a clock. A swap of its position completes once no crew is resident (R421); the position's sr.cyc and TLB go on
across it, whichever core serves it. Log 52 (DESIGN CHOICE). -/
def Core.tick (k : Core) (empty sampling : Bool) : Core := { k with
  swap := k.swap && !empty
  cyc := k.cyc + 1
  idle := k.idle.map fun n => min (n + 1) 255
  laneUsed := k.laneUsed - 4
  laneBy := if 4 < k.laneUsed then k.laneBy.drop (k.laneBy.length - 1) else []
  scalBy := []
  plan := none
  count := if sampling then k.count + 1 else 0 }

/-- The job has been ready for another clock of the core whose clocks it counts: the issuing core, or the first of its die
for a job of the device (R265). -/
def State.ageJob (s : State) (core : Nat) (j : Job) : Job :=
  if (if j.isCard then s.coreOf j.team == some core else core == 36 * j.die) then
    { j with age := if s.jobReady j then j.age + 1 else 0 }
  else j

/-- Reference time passes: teams and launches with a held path stand still meanwhile (R400). -/
def State.passTime (s : State) (n : Nat) : State :=
  { s with
    time := s.time + w64 n
    teams := s.teams.map fun (t : Team) => if t.core.isSome && s.teamHeld t.id then { t with heldNs := t.heldNs + n } else t
    launches := s.launches.map fun (l : Launch) => if s.launchHeld l.part l.lid then { l with heldIn := true } else l }

/-- The end of a clock of a core that runs: the evaluations of R88, and the core's counts. -/
def State.endCoreClock (s : State) (core : Nat) (k : Core) : State :=
  let cs := s.coreCrews core
  let s1 := (s.coreTeams core).foldl (fun s t => s.endClock t.id) s
  let k1 := k.tick cs.isEmpty (s.samplePeriod core ≠ 0)
  let tick := fun (c : Crew) => match cs.find? fun d => d.id == c.id with
    | some d => c.tick (s.reason core d) (k1.laneBy.any fun r => r.1 == c.id) (s.crewBlocked d)
    | none => c
  let s2 := ((s1.modCore core fun _ => k1).flushRecs core).passTime (Config.ticks core k.cyc.toNat)
  { s2 with
    msix := s2.msix ++ (if k.swap && cs.isEmpty then [16] else [])
    crews := s1.crews.map tick
    jobs := s1.jobs.map (s.ageJob core) }

/-- CORE_CLOCK (R88, R89, R310, R392, R402): a band of the matrix array, the evaluations of the clock's end, and its counts. The clock of
a gated core does not run. -/
def execCoreClock (core : Nat) (s : State) : Out :=
  match s.cores[core]? with
  | none => .next s
  | some k =>
    if k.gated then .next s
    else
      let s1 := s.stepArray core
      .next { s1.endCoreClock core ((s1.cores[core]?).getD k) with homeLast := 0 }

/-- CORE_CLOCK_GATING (R392): only while no crew is resident. A core that stops writes the records that it still holds (R397). -/
def execCoreClockGating (core : Nat) (gate : Bool) (s : State) : Out :=
  if gate && !(s.coreCrews core).isEmpty then .next s
  else
    let done := gate && (match s.cores[core]? with | some k => k.swap | none => false)
    .next (((if done then s.serviceEvent else s).flushRecs core).modCore core fun k => { k with gated := gate, swap := k.swap && !gate })

/-! ### PROFILE_SAMPLE (R407) -/

/-- The first resident crew after the slot sampled last, cyclically. -/
def State.sampled? (s : State) (core last : Nat) : Option Crew :=
  ((List.range 16).map fun k => (last + 1 + k) % 16).findSome? fun n => (s.coreCrews core).find? fun c => c.slot == n

/-- The engine of a path's next word; 7 where it has none (R407). -/
def State.nextEngine (s : State) (c : Crew) (i : Nat) : Nat :=
  (if (c.path i).iss.isSome then s.fetchLane c (c.path i) else s.fetchScalar c (c.path i)).engine

/-- The sample of a crew. -/
def State.sampleRecord (s : State) (core : Nat) (c : Crew) (cyc : W64) : State :=
  match c.lowestEntry with
  | none => s
  | some i => s.emit (s.recKey c i) (s.partOf c) 16 (dieOfCore core)
      (s.pathName c i ++ bytesOfNat 1 (if c.issued then 0xFF else s.reason core c) ++ bytesOfNat 1 (c.path i).st.code
        ++ bytesOfNat 6 (s.nextEngine c i) ++ bytesOfNat 8 cyc.toNat)

/-- The count of a core has reached its period. -/
def State.sampleDue (s : State) (core : Nat) : Bool :=
  match s.cores[core]? with
  | some k => decide (s.samplePeriod core ≠ 0) && decide (s.samplePeriod core ≤ k.count)
  | none => false

/-- PROFILE_SAMPLE (R407). -/
def execProfileSample (core : Nat) (s : State) : Out :=
  match s.cores[core]? with
  | none => .next s
  | some k =>
    if s.sampleDue core then
      match s.sampled? core k.lastS with
      | some c => .next ((s.sampleRecord core c k.cyc).modCore core fun k => { k with count := 0, lastS := c.slot })
      | none => .next (s.modCore core fun k => { k with count := 0 })
    else .next s

end Sys2Proof.Machine
end

