-- ==== Sys2Proof/Machine/CrossLane.lean ====
section
/-! DEFINITION. The cross-lane words (R180, R181) and the random words (R353). -/

namespace Sys2Proof.Machine

/-- Source a in lane j of group g, a pair where `wide`, as that lane reads it, active or not (R133, R180). -/
def Crew.laneSrc (c : Crew) (wide : Bool) (v g j : Nat) : Nat :=
  (c.readLane (c.physical v) g j).toNat + (if wide then (c.readLane (c.physical (v + 1)) g j).toNat * 2 ^ 32 else 0)

/-- The larger tag code of source a in a pass. -/
def Crew.tagSrc (c : Crew) (wide : Bool) (act : W32) (v g : Nat) : Nat :=
  let x := c.srcReg wide act v g
  if wide then max x.lo.tag x.hi.tag else x.lo.tag

/-- The tag of a pass that R180 gives the tag t: that of a pair is uniform only where every source is, in both halves (R112). -/
def pairTag (wide : Bool) (sources : List Nat) (t : Nat) : Nat := if wide && !sources.all (· == 1) then 3 else t
/-- The larger tag code of a source. -/
def GSrc.tag (x : GSrc) (wide : Bool) : Nat := if wide then max x.lo.tag x.hi.tag else x.lo.tag

/-- VSHUF and VROT: lane j of a group takes source a from lane `from_ j b` of the same group (R112, R180). -/
def shuffle (s : State) (i : Instr) (o : OpA) (w : LaneA) (from_ : Nat → Nat → Nat) : Out :=
  laneWord s (infoA i o w false) (fun _ => false) fun c p sel s1 =>
    let wide := w.ty.is64
    writeFixed s1 c i ((c.passes sel).map fun g =>
      let act := c.groupWord sel g
      let b := srcBG c p w wide act g
      let xs := lanePats act fun j => c.laneSrc wide w.a.toNat g (from_ j (b.lo.val j).toNat)
      let t := c.tagSrc wide act w.a.toNat g
      passOut c g act (OpA.writes o w) (shapesOf act wide (pairTag wide [t, b.tag wide] (if t = 1 then 1 else 3)) xs))

/-- VSHUF (R180). -/
def execVshuf (w : LaneA) (s : State) : Out := shuffle s (.vshuf w) .vshuf w fun _ b => b % 32
/-- VROT (R180). -/
def execVrot (w : LaneA) (s : State) : Out := shuffle s (.vrot w) .vrot w fun j b => (j + b) % 32

/-- The value VBCAST sends: that of a team lane, zero where it is no lane of the crew (R180). -/
def Crew.bcastVal (c : Crew) (wide : Bool) (v l : Nat) : Nat :=
  if 32 * c.first ≤ l ∧ l < 32 * (c.first + c.groups) then c.laneSrc wide v (l / 32 - c.first) (l % 32) else 0

/-- The tags of VBCAST's source a: that of the group of the team lane it is read in; none where that is no lane of the crew (R112, R180). -/
def Crew.bcastTags (c : Crew) (wide : Bool) (sel : Mask) (v l : Nat) : List Nat :=
  if 32 * c.first ≤ l ∧ l < 32 * (c.first + c.groups) then
    [c.tagSrc wide (c.groupWord sel (l / 32 - c.first)) v (l / 32 - c.first)] else []

/-- VBCAST (R112, R180). -/
def execVbcast (w : LaneA) (s : State) : Out :=
  laneWord s (infoA (.vbcast w) .vbcast w false) (fun _ => false) fun c p sel s1 =>
    let wide := w.ty.is64
    writeFixed s1 c (Instr.vbcast w) ((c.passes sel).map fun g =>
      let act := c.groupWord sel g
      let b := srcBG c p w wide act g
      let l := (b.lo.val 0).toNat % 1024
      passOut c g act (OpA.writes .vbcast w)
        (shapesOf act wide (pairTag wide (b.tag wide :: c.bcastTags wide sel w.a.toNat l) 1) (lanePats act fun _ => c.bcastVal wide w.a.toNat l)))

/-! ### Scans and reductions (R181) -/

/-- The positions of the crew span, or of the span that is group g: the active lanes' n-bit values, the others absent. -/
def Crew.spanVals (c : Crew) (n : Nat) (sel : Mask) (v : Nat) (gs : List Nat) : List (Option Nat) :=
  gs.flatMap fun g =>
    let act := c.groupWord sel g
    let x := c.srcReg (decide (n = 64)) act v g
    (List.range 32).map fun j => if act.getLsbD j then some (x.val j % 2 ^ n) else none

/-- The tag of a pass over the span of groups gs: a pair is uniform only where its source is, in both halves (R112, R181). -/
def Crew.spanTag (c : Crew) (wide : Bool) (tag : Nat) (sel : Mask) (v : Nat) (gs : List Nat) : Nat :=
  if wide && !gs.all (fun g => c.tagSrc wide (c.groupWord sel g) v g == 1) then 3 else tag

/-- The results of a scan or reduction: the span of each group, or of the crew (R181). -/
def spanWord (s : State) (i : Instr) (o : OpA) (w : LaneA) (tag : Nat)
    (val : (Nat → Bool) → List (Option Nat) → Nat → Nat) : Out :=
  laneWord s (infoA i o w false) (fun _ => false) fun c p sel s1 =>
    let wide := w.ty.is64
    let crewSpan := w.x.getLsbD 31
    let k := match w.b with | .reg r => r | _ => 0
    let m := c.mget p (k.extractLsb' 0 4)
    writeFixed s1 c i ((c.passes sel).map fun g =>
      let act := c.groupWord sel g
      let g0 := if crewSpan then 0 else g
      let starts := fun (n : Nat) => n == 0 || (decide (k ≠ 0) && m.getLsbD (32 * (c.first + g0) + n))
      let gs := if crewSpan then List.range c.groups else [g]
      let xs := c.spanVals (ecount w.ty * ewidth w.ty) sel w.a.toNat gs
      passOut c g act (OpA.writes o w) (shapesOf act wide (c.spanTag wide tag sel w.a.toNat gs) (lanePats act fun j => val starts xs (32 * (g - g0) + j))))

/-- VSCAN (R181). -/
def execVscan (w : LaneA) (s : State) : Out := spanWord s (.vscan w) .vscan w 3 fun st xs n => scanAt w (w.x.getLsbD 30) st xs n
/-- VRED (R181): the broadcast class without segments, lane-varying with them. -/
def execVred (w : LaneA) (s : State) : Out :=
  spanWord s (.vred w) .vred w (match w.b with | .reg r => if r = 0 then 1 else 3 | _ => 1) fun st xs n => redAt w st xs n

/-! ### Random words (R353) -/

/-- A word of layout O that writes a vector register or pair, and reads none. -/
def infoO (i : Instr) (h : Hdr) (ty : Ty) (d : BitVec 8) (long : Bool) : LaneInfo where
  instr := i
  h := h
  reads := []
  writes := regPair ty.is64 d
  late := []
  long := long
  counter := none

/-- The path's word has not begun: it waits, with no pass made (R118). -/
def State.unbegun (s : State) (cid i : Nat) : Bool :=
  match s.crewOf cid with
  | some c => (c.path i).wait.isSome && (match (c.path i).want with | some (.passes ..) => false | _ => true)
  | none => false

/-- A random word: each active lane takes k draws and a value of them (R353). The draw counts are advanced as the word
begins to issue, whether it has a fixed or a long latency. -/
def randomWord (s : State) (i : Instr) (h : Hdr) (ty : Ty) (d : BitVec 8) (long : Bool) (k : Nat)
    (val : List Nat → Nat) : Out :=
  laneWord s (infoO i h ty d long) (fun _ => false) fun c p sel s1 =>
    let at_ := fun (l : Nat) => val ((List.range k).map (s.draw c l))
    let fin := fun (o : Out) => match o with
      | .next t => if t.unbegun c.id s.curPath then .next t else .next (t.modCur fun c => c.drawn sel k)
      | o => o
    if long then
      fin (launchWord s1 c i.size (infoO i h ty d long) { newWord s1 p c (infoO i h ty d long) sel with
        vals := SMap.ofList 0 ((maskLanes 1024 sel).map fun l => (l, at_ l))
        done := true })
    else fin (writeFixed s1 c i ((c.passes sel).map fun g =>
      let act := c.groupWord sel g
      passOut c g act (regPair ty.is64 d) (shapesOf act ty.is64 3 (lanePats act fun j => at_ (32 * (c.first + g) + j)))))

/-- RAND (R353). -/
def execRand (h : Hdr) (ty : Ty) (d : BitVec 8) (s : State) : Out :=
  randomWord s (.rand h ty d) h ty d false (if ty.is64 then 2 else 1) fun xs => xs.getD 0 0 + 2 ^ 32 * xs.getD 1 0

/-- A dyadic fraction n / 2^k of (0, 1] as a pattern. -/
def fracPat (f : FFmt) (n k : Nat) : Nat := f.rnd 0 false false (.fin false n (-(k : Int)))

/-- RANDF (R353). -/
def execRandf (h : Hdr) (ty : Ty) (d : BitVec 8) (s : State) : Out :=
  randomWord s (.randf h ty d) h ty d ty.is64 (if ty.is64 then 2 else 1) fun xs =>
    if ty.is64 then fracPat .f64 (randF64 (xs.getD 0 0) (xs.getD 1 0)) 53 else fracPat .f32 (randF32 (xs.getD 0 0)) 24

/-- RANDN (R353). -/
def execRandn (h : Hdr) (ty : Ty) (d : BitVec 8) (s : State) : Out :=
  randomWord s (.randn h ty d) h ty d ty.is64 4 fun xs =>
    (FFmt.ofTy ty).normal (randF64 (xs.getD 0 0) (xs.getD 1 0)) (randF64 (xs.getD 2 0) (xs.getD 3 0))

end Sys2Proof.Machine
end

