-- ==== Sys2Proof/Machine/Landing.lean ====
section
/-! DEFINITION. The landings: ESTADD, ESTRD, ESTWAIT and ESTSTAT (R336 to R338, R346 to R350), commit steps and the fold
(R324, R339 to R341), stop rules and the stop of a cruise (R325, R342), and the driver's allotment of estimators and of the
snapshot pool (R333, R356). -/

namespace Sys2Proof.Machine

/-! ### ESTADD (R336 to R338) -/

/-- Leave a cause in sr.ecause of lanes (R338). -/
def Crew.noteEst (c : Crew) (f : Mask) (cause : Nat) : Crew :=
  { c with ecause := (maskLanes 1024 f).foldl (fun m l => SMap.set 0 m l (BitVec.ofNat 3 cause)) c.ecause }

/-- A scalar word takes ESTIMATOR_STATE (R338). -/
def estScalar (s : State) (c : Crew) (p : Path) (cause : Nat) : Out :=
  scalarFault (s.modCur fun c => c.noteEst p.faultLanes cause) c p fcEstimator cause

/-- The exact value of a sample as f64 (R337). -/
def sampleOf (ty : Ty) (x : Nat) : W64 :=
  match ty with
  | .i32 => w64 (FFmt.f64.rnd 0 false false (FVal.ofInt (sextNat 32 x)))
  | .n32 => w64 (FFmt.f64.rnd 0 false false (FVal.ofInt (x : Int)))
  | .f32 => w64 (FFmt.f64.rnd 0 false false (FFmt.f32.value x))
  | _ => w64 x

/-- Stage one sample per lane, each with its lane's next seq (R337). -/
def Team.stageLanes (t : Team) (h : Nat) (xs : List (Nat × W64)) : Team :=
  xs.foldl (fun t x => { t with
    stage := t.stage ++ [⟨h, x.1, SMap.get 0 t.seqs x.1, x.2⟩]
    seqs := SMap.set 0 t.seqs x.1 (SMap.get 0 t.seqs x.1 + 1) }) t

/-- ESTADD (R337): the word returns once its entries are staged. -/
def execEstadd (hd : Hdr) (ty : Ty) (a : BitVec 8) (hs : HandleSrc) (s : State) : Out :=
  let i := Instr.estadd hd ty a hs
  let info : LaneInfo :=
    { instr := i, h := hd, reads := regPair ty.is64 a, writes := [], late := [], long := false, counter := some 4 }
  laneWord s info (fun _ => false) fun c p sel s1 =>
    let h := match hs with | .imm k => k.toNat | .sreg r => (p.scalar c r).toNat % 2 ^ 16
    let lid := s.lidOf c
    let fault := fun (cause : Nat) => laneFault (s1.modCur fun c => c.noteEst sel cause) c p i.size fcEstimator cause sel
    match s1.teamOf c.team with
    | none => waitFor s1 stOther
    | some t =>
      if !s1.estValid (s1.partOf c) h then fault 1
      else if (s1.est h).bound ≠ 0 ∧ (s1.est h).bound ≠ lid then fault 2
      else if 8192 < t.stage.length + maskCount sel then fault 3
      else
        let s2 := if (s1.est h).bound = 0 then s1.modEst h fun e => e.bindAdd lid else s1
        let xs := (maskLanes 1024 sel).map fun l =>
          (l, sampleOf ty (if ty.is64 then (c.vget64 a.toNat l).toNat else (c.vget a.toNat l).toNat))
        .next ((s2.modTeam c.team fun t => t.stageLanes h xs).advanceLane i.size)

/-! ### ESTRD, ESTWAIT and ESTSTAT (R346 to R350) -/

/-- What happens before a read of a prefix of length n of a launch (R258). -/
def State.prefixClock (s : State) (part lid n : Nat) : Clock :=
  match s.launchOf part lid with
  | some l => l.commClk.foldl (fun k e => if e.1 < n then Clock.join k e.2 else k) []
  | none => []

/-- Write the eight words of an image from register d on (R347). -/
def Crew.setImage (c : Crew) (d : BitVec 6) (img : List W64) : Crew :=
  (List.range 8).foldl (fun c i => c.sset (d + BitVec.ofNat 6 i) (img.getD i 0)) c

/-- The eight destinations. -/
def imageRegs (d : BitVec 6) : List (BitVec 6) := (List.range 8).map fun i => d + BitVec.ofNat 6 i

/-- The version an image carries. -/
def imageVersion (img : List W64) : Nat := (img.getD 7 0).toNat % 2 ^ 32

/-- ESTRD (R347). -/
def execEstrd (d a : BitVec 6) (s : State) : Out :=
  withCur s fun c p =>
    if p.iss.isSome then waitIssue s p
    else if c.pending (a :: imageRegs d) then waitFor s stInterlock
    else
      let h := (c.sget a).toNat % 2 ^ 16
      if !s.estValid (s.partOf c) h then estScalar s c p 1
      else
        let e := s.est h
        let s1 := s.acquireNow c.id s.curPath (s.prefixClock (s.partOf c) e.last e.version.toNat)
        .next ((s1.modCur fun c => c.setImage d e.image).advance 4)

/-- The snapshot that the team of a rank reads: that of prefix c0 + rank × k, or the final one of a producer that stopped
below it; none while it does not exist (R346). -/
def State.snapshotFor (s : State) (l : Launch) (rank : Nat) : Option (List W64) :=
  let p := l.blk.c0 + rank * l.blk.k
  let final := match l.snaps.find? fun n => n.prefix_ == none with | some n => n.image | none => none
  match final with
  | some img => if imageVersion img < p then some img
    else (match l.snaps.find? fun n => n.prefix_ == some p with | some n => n.image | none => none)
  | none => match l.snaps.find? fun n => n.prefix_ == some p with | some n => n.image | none => none

/-- ESTRD.cpl (R346, R347). -/
def execEstrdCpl (d : BitVec 6) (s : State) : Out :=
  withCur s fun c p =>
    if p.iss.isSome then waitIssue s p
    else if c.pending (imageRegs d) then waitFor s stInterlock
    else match s.launchOf (s.partOf c) (s.lidOf c) with
    | none => estScalar s c p 4
    | some l =>
      if l.blk.dmode ≠ 3 then estScalar s c p 4
      else match s.snapshotFor l (match s.teamOf c.team with | some t => t.rank | none => 0) with
        | none => waitFor s stLanding
        | some img =>
          let s1 := s.acquireNow c.id s.curPath (s.prefixClock l.part l.blk.prod (imageVersion img))
          .next ((s1.modCur fun c => c.setImage d img).advance 4)

/-- The test of ESTWAIT; every test passes once the estimator is closed (R348). -/
def estPasses (test : Nat) (e : Est) (v : W64) : Bool :=
  e.closed || (match test with
    | 0 => decide (v.toNat % 2 ^ 32 ≤ e.version.toNat)
    | 1 => leF64 e.width v
    | _ => false)

/-- ESTWAIT (R348). -/
def execEstwait (d a : BitVec 6) (test : BitVec 2) (s : State) : Out :=
  withCur s fun c p =>
    if p.iss.isSome then waitIssue s p
    else if c.pending [d, a] then waitFor s stInterlock
    else
      let h := (c.sget a).toNat % 2 ^ 16
      if !s.estValid (s.partOf c) h then estScalar s c p 1
      else
        let e := s.est h
        if estPasses test.toNat e (c.sget d) then
          let s1 := s.acquireNow c.id s.curPath (s.prefixClock (s.partOf c) e.last e.version.toNat)
          .next ((s1.modCur fun c => c.sset d (e.version.setWidth 64)).advance 4)
        else waitFor s stLanding

/-- The status word of an estimator (R350). -/
def Est.status (e : Est) (stop : Bool) : W64 :=
  w64 (b2n stop + e.conf % 4 * 2 ^ 6 + bitAt e.nonfin 8 + bitAt e.closed 9 + e.reason % 8 * 2 ^ 10 + e.bound % 2 ^ 32 * 2 ^ 32)

/-- ESTSTAT (R349). -/
def execEststat (d a : BitVec 6) (s : State) : Out :=
  withCur s fun c p =>
    if c.pending [d, a] then waitFor s stInterlock
    else
      let h := (c.sget a).toNat % 2 ^ 16
      if !s.estValid (s.partOf c) h then estScalar s c p 1
      else .next ((s.modCur fun c => c.sset d ((s.est h).status (s.estStop (s.partOf c) h))).advance 4)

/-- ESTSTAT.reset (R349): a release at `.dev` scope first. -/
def execEststatReset (d a : BitVec 6) (conf : BitVec 2) (s : State) : Out :=
  withCur s fun c p =>
    if p.iss.isSome then waitIssue s p
    else if c.pending [d, a] then waitFor s stInterlock
    else
      let h := (c.sget a).toNat % 2 ^ 16
      if !s.estValid (s.partOf c) h then estScalar s c p 1
      else if !s.effectsDone c p then waitFor s stTicket
      else if !(p.queue.isEmpty && p.sbuf.isEmpty) then waitFor s stOther
      else
        afterMerge s c (p.thr :: p.kin) fun s1 =>
        if (s.est h).bound ≠ 0 then .next ((s1.modCur fun c => c.sset d 1).advance 4)
        else .next (((s1.modEst h fun e => e.reset (c.sget d) conf.toNat).modCur fun c => c.sset d 0).advance 4)

/-! ### The fold (R340, R341) -/

/-- An f64 pattern that is a NaN or an infinity. -/
def nonFinite (x : W64) : Bool := field x.toNat 62 52 == 2047

/-- The lesser and the greater of two f64 patterns as FMIN and FMAX give them (R174), for numbers. -/
def fminF64 (x y : W64) : W64 :=
  if (FFmt.f64.value x.toNat).lt (FFmt.f64.value y.toNat) then x
  else if (FFmt.f64.value y.toNat).lt (FFmt.f64.value x.toNat) then y
  else if x.getLsbD 63 then x else y
def fmaxF64 (x y : W64) : W64 :=
  if (FFmt.f64.value x.toNat).lt (FFmt.f64.value y.toNat) then y
  else if (FFmt.f64.value y.toNat).lt (FFmt.f64.value x.toNat) then x
  else if x.getLsbD 63 then y else x

/-- Fold one sample (R340). -/
def Est.fold1 (e : Est) (x : W64) : Est :=
  if nonFinite x then { e with nonfin := true }
  else
    let f := FFmt.f64
    let n := e.n + 1
    let nf := f.ofNatNear n.toNat
    let delta := f.subNear x.toNat e.mean.toNat
    let mean := f.addNear e.mean.toNat (f.divNear delta nf)
    let m2 := f.addNear e.m2.toNat (f.mulNear delta (f.subNear x.toNat mean))
    { e with n := n, mean := w64 mean, m2 := w64 m2, min := fminF64 e.min x, max := fmaxF64 e.max x }

/-- z of R341 as an f64 pattern. -/
def zOf (conf : Nat) : Nat :=
  match conf with
  | 0 => 0x3FFA515209676ABB
  | 1 => 0x3FFF5C0331EEFF84
  | 2 => 0x40049B4C64D69160
  | _ => 0x400A52FFADD2F8C0

/-- The width after a fold (R341). -/
def Est.widthNow (e : Est) : W64 :=
  if e.n.toNat < 2 then f64Inf
  else
    let f := FFmt.f64
    let q := f.divNear e.m2.toNat (f.ofNatNear (e.n.toNat - 1))
    w64 (f.mulNear (zOf e.conf) (f.divNear (f.sqrtNear q) (f.sqrtNear (f.ofNatNear e.n.toNat))))

/-- Fold the entries of a rank that name an estimator, in ascending lane and seq (R340), and give it its width anew where
its n changed (R339). -/
def Est.foldRank (e : Est) (xs : List Sample) : Est :=
  let e1 := (sortBy (fun (x : Sample) => x.lane * 2 ^ 32 + x.seq.toNat) xs).foldl (fun e x => e.fold1 x.x) e
  if e1.n = e.n then e1 else { e1 with width := e1.widthNow }

/-! ### Stop rules (R342) and the stop (R325) -/

/-- The energy attributed to a launch in µJ: to its retired teams and to those that still run (R370). -/
def State.launchEnergy (s : State) (l : Launch) : Nat :=
  l.energy.toNat + (s.teams.filter fun t => t.part == l.part && t.launch == l.lid && !t.retired).foldl (fun n t => n + t.energy.toNat) 0

/-- The first stop rule that holds (R342). -/
def State.stopReason (s : State) (l : Launch) : Option Nat :=
  if !l.blk.cruise || !l.eligible || l.stopped || l.retired then none
  else
    let e := s.est l.blk.est
    if leF64 e.width e.target && decide (l.blk.nmin ≤ e.n.toNat) then some 1
    else if l.blk.deadline != 0 && decide (l.blk.deadline.toNat < s.time.toNat) then some 2
    else if l.blk.energy != 0 && decide (l.blk.energy < s.launchEnergy l / 1000) then some 3
    else if l.n = l.blk.teams then some 4
    else none

/-- The entries of a path's store buffer take effect (R263, R325). -/
def State.drainPath (s : State) (cid i : Nat) : State :=
  match s.crewOf cid with
  | none => s
  | some c => (c.path i).sbuf.foldl (fun s x => match s.crewOf cid with
      | some c =>
        if s.detMode c && !s.ticket c then s
        else if x.kind = .comm then s.leave c i x else s.storeEffect c i x
      | none => s) s

/-- A team ends for good: its resources are free, its stage and log are discarded (R325, R415). -/
def State.freeTeam (s : State) (team : Nat) : State :=
  match s.teamOf team with
  | none => s
  | some t =>
    if t.retired then s
    else
      let k := (s.jobs.filter fun j => j.isCard && j.team == team).foldl (fun k j => Clock.join k j.after) (s.teamClock team)
      let s2 := s.modTeam team fun t => { t with
        retired := true, core := none, bars := [], pins := [], fifos := [], tiles := [], latches := [], joints := [], scr := []
        priv := [], backing := [], saved := false, leaving := false, image := [], jobs := [], stage := [], log := [], waitBanks := [] }
      let gone := fun (j : Job) => j.isCard && j.team == team
      let dead := (s2.jobs.filter gone).map fun (j : Job) => j.id
      let s3 := { s2 with
        jobs := (s2.jobs.filter fun j => !gone j).map fun (j : Job) => { j with edges := j.edges.filter fun e => !dead.contains e }
        crews := s2.crews.map fun (c : Crew) => if c.team == team then
          { c.released with paths := List.replicate 9 Path.empty, words := [], sPend := [], handler := none, qs := [] } else c }
      ((t.backing.foldl (fun s f => s.pendFrame t.part f) s3).modLaunch t.part t.launch fun l => { l with
        nRetired := l.nRetired + 1
        aborted := l.aborted + 1
        kerf := w64 (min (l.kerf.toNat + t.kerf.toNat) (2 ^ 64 - 1))
        energy := w64 (min (l.energy.toNat + t.energy.toNat) (2 ^ 64 - 1))
        all := Clock.join l.all (Clock.join t.clk k) }).modPart t.part fun q => { q with
          requeue := q.requeue.filter fun x => x != team, departed := q.departs t.launch }

/-- A team is aborted: its record says so, and it ends (R325, R404). Log 33 (DEDUCED). -/
def State.abortTeam (s : State) (team : Nat) : State :=
  match s.teamOf team with
  | some t => if t.retired then s else (s.teamRecord t (t.core.getD 0) true).freeTeam team
  | none => s

/-- Copy an image into the snapshot entries of a producer's COUPLED consumers that pass a test (R345). -/
def State.captureAll (s : State) (l : Launch) (ok : Snap → Bool) (img : List W64) : State :=
  (s.launches.filter fun m => m.part == l.part && m.blk.dmode == 3 && m.blk.prod == l.lid && !m.retired).foldl
    (fun s m => s.capture m ok img) s

/-- A stop rule has held (R325, R342, R345). The staging logs of the ranks that have not committed are discarded, those of retired teams
too. -/
def State.stopLaunch (s : State) (l : Launch) (reason : Nat) : State :=
  let s1 := (s.modEst l.blk.est fun e => { e with reason := reason, closed := true }).modLaunch l.part l.lid fun l =>
    { l with reason := reason, stopped := true, commits := [] }
  let ts := (s1.teams.filter fun t => t.part == l.part && t.launch == l.lid && !t.retired).map (·.id)
  let s2 := ts.foldl (fun s t => (s.crewsOf t).foldl (fun s c => (List.range 9).foldl (fun s i => s.drainPath c.id i) s) s) s1
  let s3 := ts.foldl (fun s t => s.abortTeam t) s2
  let s4 := { s3.modLaunch l.part l.lid fun l => { l with commits := [] } with
    teams := s3.teams.map fun (t : Team) => if t.part == l.part && t.launch == l.lid && decide (l.n ≤ t.rank) then { t with log := [] } else t }
  (s4.captureAll l (fun n => n.prefix_ == none) (s4.est l.blk.est).image).settleEligible l.part

/-- Evaluate the stop rules of a launch in a landing step. -/
def State.evalStop (s : State) (part lid : Nat) : State :=
  match s.launchOf part lid with
  | some l => match s.stopReason l with | some r => s.stopLaunch l r | none => s
  | none => s

/-! ### Commit steps (R324, R339) -/

/-- The next rank of a launch that is ready to commit: queued, with every access of its team done (R258). -/
def State.readyCommit (s : State) (l : Launch) : Option Commit :=
  if l.stopped || l.retired then none
  else match l.commits.find? fun c => c.rank == l.n with
    | some c => match s.teams.find? fun t => t.part == l.part && t.launch == l.lid && t.rank == l.n with
      | some t => if s.quietTeam t then some c else none
      | none => some c
    | none => none

/-- The least width so far; a NaN is below no threshold (R344). -/
def leastWidth (w : Option W64) (x : W64) : Option W64 :=
  if !leF64 x x then w else match w with | some y => if leF64 x y then some x else some y | none => some x

/-- What the team of the next rank contributed takes effect before the rank commits (R246, R258). -/
def State.mergeRank (s : State) (l : Launch) : State :=
  let team := match s.teams.find? fun t => t.part == l.part && t.launch == l.lid && t.rank == l.n with | some t => t.id | none => 0
  s.mergeWhere fun e => e.items.any fun it => it.2.team == team

/-- Commit one rank (R339, R340, R344, R345, R351), unless a contribution of its team has stopped the partition (R250). -/
def State.commitRank (s : State) (l : Launch) (c : Commit) : State :=
  let s1 := s.mergeRank l
  if s1.stopping l.part then s1
  else
  let s2 := (distinct (c.stage.map (·.handle))).foldl (fun s h => s.modEst h fun e => e.foldRank (c.stage.filter fun x => x.handle == h)) s1
  let n := l.n + 1
  let s3 := { s2 with ests := s2.ests.map fun (e : Nat × Est) =>
    if e.2.bound == l.lid && partOfDie s.svc.split (e.1 / 4096) == l.part then (e.1, { e.2 with version := w32 n }) else e }
  let s4 := s3.modLaunch l.part l.lid fun m => { m with
    n := n, commits := m.commits.filter fun d => d.rank != l.n, commClk := SMap.set [] m.commClk l.n c.clk
    least := if m.blk.cruise then leastWidth m.least (s3.est m.blk.est).width else m.least }
  let s5 := if l.blk.cruise then s4.captureAll l (fun k => k.prefix_ == some n) ((s4.est l.blk.est).opened).image else s4
  (s5.evalStop l.part l.lid).settleEligible l.part

/-- Commit every contiguous rank that is ready. -/
def State.commitAll (s : State) (part lid : Nat) : Nat → State
  | 0 => s
  | k + 1 => match s.launchOf part lid with
    | some l => match s.readyCommit l with
      | some c => (s.commitRank l c).commitAll part lid k
      | none => s
    | none => s

/-- COMMIT_STEP (R324, R339): a landing step that commits. -/
def execCommitStep (r : LaunchRef) (s : State) : Out :=
  match s.launchOf r.part r.launch with
  | some l => if s.live r.part then .next (s.commitAll r.part r.launch l.commits.length) else .next s
  | none => .next s

/-- STOP_RULE_FIRE (R342): a landing step in which a stop rule holds, whether or not it commits. -/
def execStopRuleFire (r : LaunchRef) (s : State) : Out :=
  if s.live r.part then .next (s.evalStop r.part r.launch) else .next s

/-! ### The driver's registers (R333, R356) -/

/-- The lowest free slot of a landing. -/
def State.freeEst (s : State) (die : Nat) : Option Nat := (List.range 4096).find? fun k => !(s.est (4096 * die + k)).allot

/-- A read of LD_ALLOC_d allots the lowest free estimator of a die of the partition (R333). -/
def State.allotEst (s : State) (part die : Nat) : W64 × State :=
  if die < 4 ∧ partOfDie s.svc.split die = part then
    match s.freeEst die with
    | some k => (w64 (4096 * die + k), s.modEst (4096 * die + k) fun _ => { Est.none.reset f64Inf 1 with allot := true })
    | none => (0xFFFF, s)
  else (0xFFFF, s)

/-- ESTIMATOR_ALLOC (R333). -/
def execEstimatorAlloc (part die : Nat) (s : State) : Out := .next (s.allotEst part die).2

/-- ESTIMATOR_FREE (R333): refused for a bound estimator and for a stop estimator in use. Log 38 (DEDUCED). -/
def execEstimatorFree (part : Nat) (v : W64) (s : State) : Out :=
  let h := v.toNat % 2 ^ 16
  if !s.estValid part h then .next (s.modPart part fun q => { q with ldRefused := false })
  else if (s.est h).bound ≠ 0 ∨ s.estStop part h then .next (s.modPart part fun q => { q with ldRefused := true })
  else .next ((s.modEst h fun _ => Est.none).modPart part fun q => { q with ldRefused := false })

/-- A COUPLED launch of the partition is admitted and has not retired (R356). -/
def State.coupled (s : State) (part : Nat) : Bool := s.launches.any fun l => l.part == part && l.blk.dmode == 3 && !l.retired

/-- SNAPSHOT_POOL_SET (R356): LD_SNAP_LEN where `len`, else LD_SNAP_BASE. -/
def execSnapshotPoolSet (part : Nat) (len : Bool) (v : W64) (s : State) : Out :=
  if s.coupled part then .next s
  else .next (s.modPart part fun q =>
    if len then { q with snapLen := v.setWidth 32 } else { q with snapBase := v &&& 0x000FFFFFFFFFFFC0 })

end Sys2Proof.Machine
end

