-- ==== Sys2Proof/Machine/Power.lean ====
section
/-! DEFINITION. Sensors and refresh classes (R357 to R360), kerf and measured demand (R361, R362), the thermal allowance
(R365), operating classes (R366), shares, lending and slope episodes (R367 to R370), and their registers (R371). -/

namespace Sys2Proof.Machine

/-! ### Sensors and refresh classes (R357 to R360, R365) -/

/-- The readings of the valid sensors of a list, in 0.25 °C. -/
def readings (time : Nat) (ns : List Nat) : List Int :=
  (ns.filter fun n => Config.sensorValid n time).map fun n => (Config.sensor n time).toInt

/-- The sensors of the cores of a pair (R371). -/
def pairSensors (p : Nat) : List Nat := (List.range 8).map fun i => 8 * p + i
/-- The layer sensors of a vault (R371). -/
def vaultSensors (v : Nat) : List Nat := (List.range 12).map fun i => 1024 + 12 * v + i

/-- The greatest of some readings; `dflt` where there is none. -/
def maxOf (dflt : Int) (xs : List Int) : Int := match xs with | [] => dflt | x :: r => r.foldl max x

/-- The refresh class of a temperature (R358). -/
def bandOf (t : Int) : Nat := if t ≤ 340 then 0 else if t ≤ 380 then 1 else if t ≤ 420 then 2 else 3
/-- The highest temperature that counts towards a fall from a class: the lower bound of its band minus 2 °C (R358). -/
def coolBound (cls : Nat) : Int := match cls with | 1 => 332 | 2 => 372 | _ => 412
/-- The upper limit of a class (R365). -/
def classLimit (cls : Nat) : Int := match cls with | 0 => 340 | 1 => 380 | _ => 420

/-- The thermal allowance of a pair (R365). -/
def allowance (cap : Nat) (cls : Nat) (q : Int) : W32 :=
  if cls = 3 then 0 else BitVec.ofInt 32 ((cap : Int) * (classLimit cls - q) / 4)

/-- A pair after a sample: its temperature, a class that may rise, the count towards a fall, its layers and its allowance. -/
def Pair.sample (k : Pair) (p time : Nat) : Pair :=
  let t := maxOf 421 (readings time (pairSensors p))
  let cls := max k.cls (bandOf t)
  { k with
    temp := BitVec.ofInt 12 t
    cls := cls
    cool := if cls = k.cls ∧ 0 < cls ∧ t ≤ coolBound cls then k.cool + 1 else 0
    layer := (List.range 4).map fun i => match readings time (vaultSensors (4 * p + i)) with
      | [] => none
      | x :: xs => some (BitVec.ofInt 12 (xs.foldl max x))
    tar := some (allowance (Config.heatCap p).toNat cls t) }

/-- The stretch of a pair's cores after a sample: above 110 °C it begins, at 105 °C or less everywhere it ends (R360). -/
def stretchAfter (was : Bool) (p time : Nat) : Bool :=
  let xs := readings time (pairSensors p ++ (List.range 4).flatMap fun i => vaultSensors (4 * p + i))
  if xs.any fun x => decide (440 < x) then true else if xs.all fun x => decide (x ≤ 420) then false else was

/-- Every pair and core after a sample. -/
def State.sampleSensors (s : State) (time : Nat) : State :=
  { s with
    pairs := s.pairs.zipIdx.map fun (k : Pair × Nat) => k.1.sample k.2 time
    cores := s.cores.zipIdx.map fun (k : Core × Nat) => { k.1 with stretch := stretchAfter k.1.stretch (k.2 / 2) time } }

/-! ### Kerf and demand (R361, R362) -/

/-- The kerf of a team for a microsecond (R361). -/
def kerfCharge (pct vdem bytes : Nat) : Nat := if vdem = 0 then bytes * pct / 100 else 10 * pct * vdem

/-- A 64-bit counter that saturates. -/
def satAdd64 (w : W64) (n : Nat) : W64 := w64 (min (w.toNat + n) (2 ^ 64 - 1))

/-- Charge a team that was resident since the last sample; one that has retired since is charged to its launch as well.
Log 34 (DEDUCED). -/
def State.chargeKerf (s : State) (t : Team) : State :=
  if !t.present then s
  else
    let pct := refreshPct (match s.pairs[pairOfCore t.lastCore]? with | some p => p.cls | none => 0)
    let n := kerfCharge pct (match s.teamBlk t with | some b => b.vdem | none => 0) t.bytes
    let s1 := s.modTeam t.id fun t => { t with
      kerf := satAdd64 t.kerf n, meas := min (t.bytes / 1000) 65535, sampled := true }
    if t.retired then s1.modLaunch t.part t.launch fun l => { l with kerf := satAdd64 l.kerf n } else s1

/-- The mean of the measured demands of a launch's teams (R362). -/
def State.meanDemand (s : State) (l : Launch) : Nat :=
  let ts := s.teams.filter fun t => t.part == l.part && t.launch == l.lid && t.sampled
  if ts.isEmpty then 0 else ts.foldl (fun n t => n + t.meas) 0 / ts.length

/-! ### Energy (R370) -/

/-- The µJ of a part `num / den` of an energy: exact but for the rounding of a fraction (R370; log 7, DEDUCED). -/
def energyPart (num den time : Nat) : Nat := num / den + bitAt (num % den != 0 && Config.energyUp num den time) 0

/-- The energy a team is charged for a microsecond: its part of its core's, by lane issue slots, or an equal part where none
issued; and that of its bytes. -/
def State.teamEnergy (s : State) (t : Team) (time : Nat) : Nat :=
  let here := s.teams.filter fun u => u.present && u.lastCore == t.lastCore
  let total := here.foldl (fun n u => n + u.slotsUsed) 0
  let e := Config.coreEnergy t.lastCore time
  (if total = 0 then energyPart e here.length time else energyPart (e * t.slotsUsed) total time)
    + energyPart (t.bytes * (Config.dramPj (pairOfCore t.lastCore)).toNat) 1000000 time

/-- Charge a team with its energy; one that has retired since the last sample is charged to its launch as well. -/
def State.chargeEnergy (s : State) (t : Team) (time : Nat) : State :=
  if !t.present then s
  else
    let n := s.teamEnergy t time
    let s1 := s.modTeam t.id fun t => { t with energy := satAdd64 t.energy n }
    if t.retired then s1.modLaunch t.part t.launch fun l => { l with energy := satAdd64 l.energy n } else s1

/-- The filler energy of a partition's slope episodes of a microsecond, of one that has ended in it too, goes in equal parts to the
launches whose teams' departures began each. -/
def State.chargeFillers (s : State) (p time : Nat) : State :=
  match s.part? p with
  | some q =>
    ((q.slopeOwed ++ if q.slope then [q.slopeLids] else []).zipIdx.foldl (fun s e => e.1.foldl (fun s lid => s.modLaunch p lid fun l =>
      { l with energy := satAdd64 l.energy (energyPart (Config.fillerEnergy p time e.2) e.1.length time) }) s) s).modPart p fun q =>
        { q with slopeOwed := [], calm := if q.slope || !q.slopeOwed.isEmpty then 0 else min 1000 (q.calm + 1) }
  | none => s

/-! ### Lending (R367) -/

/-- A partition's allotment (R367). -/
def Part.allotment (q : Part) : Nat := q.share.toNat + q.borrowed.toNat - q.lent.toNat

/-- What each partition lends and borrows at a sample: the difference below its share; a part of the pool in proportion to
its share and not beyond its excess. Log 37 (DEDUCED). -/
def State.lend (s : State) (time : Nat) : State :=
  let ds := s.parts.zipIdx.map fun (q : Part × Nat) => (q.1.share.toNat, Config.powerDemand q.2 time)
  let pool := ds.foldl (fun n d => n + (d.1 - d.2)) 0
  let want := (ds.filter fun d => decide (d.1 < d.2)).foldl (fun n d => n + d.1) 0
  { s with parts := s.parts.zipIdx.map fun (q : Part × Nat) =>
      let sh := q.1.share.toNat
      let d := Config.powerDemand q.2 time
      { q.1 with
        lent := BitVec.ofNat 12 (sh - d)
        borrowed := BitVec.ofNat 12 (if sh < d ∧ want ≠ 0 then min (d - sh) (pool * sh / want) else 0) } }

/-! ### SENSOR_SAMPLE (R357) -/

/-- A microsecond during which a path of a launch was held extends its time limit (R400). -/
def State.countHeld (s : State) : State :=
  { s with launches := s.launches.map fun (l : Launch) =>
      if l.heldIn && !l.retired then { l with heldIn := false, extUs := l.extUs + 1 } else { l with heldIn := false } }

/-- A new microsecond begins. -/
def State.newMicrosecond (s : State) : State :=
  { s with
    teams := s.teams.map fun (t : Team) => { t with bytes := 0, slotsUsed := 0, present := t.core.isSome }
    parts := s.parts.map fun (q : Part) => { q with departed := [], allots := (q.allotTop :: q.allots).take 1000, allotTop := q.allotment }
    launches := s.launches.map fun (l : Launch) => if l.retired then l else { l with demand := s.meanDemand l }
    sampled := s.sampled + 1 }

/-- SENSOR_SAMPLE (R357, R358, R360 to R362, R365, R367, R370): at each multiple of 1,000 ticks, 0 among them. Kerf is charged at the class
in force before the sample. Log 16 (DEDUCED). -/
def execSensorSample (s : State) : Out :=
  let time := 1000 * s.sampled
  if time ≤ s.time.toNat then
    let s1 := s.teams.foldl (fun s t => s.chargeKerf t) s
    let s2 := s1.teams.foldl (fun u t => u.chargeEnergy t time) s1
    let s3 := (List.range 4).foldl (fun s p => s.chargeFillers p time) s2
    .next (((s3.countHeld.sampleSensors time).lend time).newMicrosecond)
  else .next s

/-- REFRESH_CLASS_FALL (R358): after 1,000 cool samples in a row. -/
def execRefreshClassFall (pair : Nat) (s : State) : Out :=
  .next { s with pairs := modAt s.pairs pair fun k =>
    if 1000 ≤ k.cool ∧ 0 < k.cls then
      { k with cls := k.cls - 1, cool := 0, tar := some (allowance (Config.heatCap pair).toNat (k.cls - 1) k.temp.toInt) }
    else k }

/-- DRAM_REFRESH (R358): no register, no byte and no result changes; it takes vault bandwidth, which is timing. -/
def execDramRefresh (_vault _bank : Nat) (s : State) : Out := .next s

/-- SLOPE_EPISODE (R369): fillers begin or end; the departures of this microsecond began it. -/
def execSlopeEpisode (part : Nat) (on : Bool) (s : State) : Out :=
  .next (s.modPart part fun q => { q with
    slope := on
    slopeLids := if on then (if q.slope then q.slopeLids else q.departed) else []
    slopeOwed := if q.slope && !on then q.slopeOwed ++ [q.slopeLids] else q.slopeOwed
    calm := if on then 0 else q.calm })

/-- VOLTAGE_DROOP (R370): it stretches the stand's clock, and no result changes. -/
def execVoltageDroop (stand : Nat) (on : Bool) (s : State) : Out := .next (s.modStand stand fun k => { k with droop := on })

/-! ### The power registers (R366, R367, R371) -/

/-- A write that is refused (R371). -/
def State.refuse (s : State) (part : Nat) : State := s.modPart part fun q => { q with refused := true }
/-- The sum of the shares. -/
def State.shareSum (s : State) : Nat := s.parts.foldl (fun n q => n + q.share.toNat) 0

/-- POWER_CAP_SET (R367, R371): PW_CAP, through the window of the partition that holds die 0, which no partition is during a start. -/
def execPowerCapSet (part : Nat) (v : W64) (s : State) : Out :=
  let cap := v.toNat % 2 ^ 12
  if part ≠ 0 ∨ s.parts.isEmpty then .next s
  else if cap < 600 ∨ 2600 < cap then .next (s.refuse part)
  else
    let sum := s.shareSum
    .next { s with
      svc := { s.svc with cap := BitVec.ofNat 12 cap }
      parts := if cap < sum then s.parts.map fun (q : Part) => { q with share := BitVec.ofNat 12 (q.share.toNat * cap / sum) } else s.parts }

/-- POWER_SHARE_SET (R367). -/
def execPowerShareSet (part : Nat) (v : W64) (s : State) : Out :=
  match s.part? part with
  | some q =>
    let share := v.toNat % 2 ^ 12
    if s.svc.cap.toNat < s.shareSum - q.share.toNat + share then .next (s.refuse part)
    else .next (s.modPart part fun q =>
      let q1 := { q with share := BitVec.ofNat 12 share }
      { q1 with allotTop := max q.allotTop q1.allotment })
  | none => .next s

/-- VAULT_FLOOR_SET (R371). -/
def execVaultFloorSet (part : Nat) (v : W64) (s : State) : Out :=
  let f := v.toNat % 2 ^ 10
  if 512 < f then .next (s.refuse part) else .next (s.modPart part fun q => { q with floor := BitVec.ofNat 10 f })

/-- An admitted launch of the partition has not retired. -/
def State.anyLaunch (s : State) (part : Nat) : Bool := s.launches.any fun l => l.part == part && !l.retired

/-- CLASS_CHANGE (R366): a write to PW_CLASS. -/
def execClassChange (part : Nat) (v : W64) (s : State) : Out :=
  let k := v.toNat % 4
  if k = 3 ∨ s.anyLaunch part then .next (s.refuse part) else .next (s.modPart part fun q => { q with newCls := some k })

/-- CLASS_CHANGE_DONE (R366). -/
def execClassChangeDone (part : Nat) (s : State) : Out :=
  .next (s.modPart part fun q => match q.newCls with | some k => { q with cls := k, newCls := none } | none => q)

/-- The mean power of a partition over the last 1 ms, in W: at most the mean of its allotment over that window, unless a part of the window
belongs to a slope episode (R368, R371). The bound takes the greatest allotment of each microsecond. Log 7 (DEDUCED). -/
def Part.meanPower (q : Part) (part time : Nat) : Nat :=
  let n := (Config.powerMean part time).toNat
  let sum := fun (xs : List Nat) => xs.foldl (· + ·) 0
  if q.calm < 1000 || q.slope then n else min n (max (sum q.allots) (sum (q.allotTop :: q.allots.take 999)) / 1000)

/-- PW_STAT as it reads (R371). -/
def State.powerStatus (s : State) (part : Nat) : W64 :=
  match s.part? part with
  | some q => w64 (q.meanPower part s.time.toNat + q.lent.toNat * 2 ^ 16 + q.borrowed.toNat * 2 ^ 32
      + bitAt q.slope 48 + bitAt q.newCls.isSome 49 + bitAt q.refused 50)
  | none => 0

/-- POWER_STATUS_READ (R371): a read of PW_STAT clears the refused bit. -/
def execPowerStatusRead (part : Nat) (s : State) : Out := .next (s.modPart part fun q => { q with refused := false })

end Sys2Proof.Machine
end

