-- ==== Sys2Proof/Machine/Special.lean ====
section
/-! DEFINITION. Special registers: SRD, SWR, TIME and VLANE (R158 to R160, R173), over the maps of R107, R124, R142, R217,
R238, R264, R288, R313, R331, R355, R372, R395 and R409. -/

namespace Sys2Proof.Machine

/-! ### Reading -/

/-- A per-lane register in a team lane; none for a register that is not per lane (R107, R142, R217, R288, R313, R355). -/
def State.srLane (s : State) (c : Crew) (a : Nat) (lane : Nat) : Option W64 :=
  match a with
  | 0x010 => some (w64 lane)
  | 0x011 => some (w64 (lane / 32 + (match s.teamOf c.team with | some t => t.groups - 1 | none => 0) * 2 ^ 16))
  | 0x030 => some (SMap.get 0 c.propd lane ++ SMap.get 0 c.acpt lane)
  | 0x041 => some (SMap.get 0 c.faddr lane)
  | 0x042 => some ((SMap.get 0 c.mcause lane).setWidth 64)
  | 0x093 => some ((SMap.get 0 c.qcause lane).setWidth 64)
  | 0x0A4 => some ((SMap.get 0 c.mxcause lane).setWidth 64)
  | 0x0D0 => some ((SMap.get 0 c.draw lane).setWidth 64)
  | 0x0D3 => some ((SMap.get 0 c.ecause lane).setWidth 64)
  | _ => none

/-- The execution registers of R107 that belong to a crew or a path. -/
def State.srExec (s : State) (c : Crew) (i : Nat) (a : Nat) : W64 :=
  let p := c.path i
  let core := (s.coreOf c.team).getD 0
  match a with
  | 0x012 => w64 (match s.teamOf c.team with | some t => t.index | none => 0)
  | 0x013 => w64 (c.num % 4 + (match s.teamOf c.team with | some t => t.ncrew - 1 | none => 0) * 2 ^ 2 + c.slot * 2 ^ 4
      + c.first * 2 ^ 8 + (c.groups - 1) * 2 ^ 16)
  | 0x014 => w64 c.role
  | 0x015 => w64 core
  | 0x016 => w64 (standOfCore core)
  | 0x017 => w64 (dieOfCore core)
  | 0x018 => w64 (i + p.summary * 2 ^ 32)
  | 0x019 => (match p.link with
      | k :: _ => w64 ((if k.blaze then k.slot.toNat else 0) + bitAt k.blaze 3 + p.link.length * 2 ^ 4)
      | [] => 0)
  | 0x01A => p.lcnt.setWidth 64
  | _ => c.sig.setWidth 64

/-- The trap registers of R395: time, cycles, the handler, and the path's own record. -/
def State.srTrap (s : State) (c : Crew) (i : Nat) (a : Nat) : W64 :=
  let t := (c.path i).trap
  let field_ := fun (f : TrapRec → W64) => match t with | some r => f r | none => 0
  match a with
  | 0x000 => s.time
  | 0x001 => s.cycOf c
  | 0x002 => c.ltvec
  | 0x004 => field_ fun r => w64 (r.code % 2 ^ 16 + r.detail % 2 ^ 16 * 2 ^ 16 + bitAt r.inPlace 32)
  | 0x005 => field_ fun r => r.spc
  | 0x006 => field_ fun r => r.lpc
  | _ => field_ fun r => (issueCode r.iss).setWidth 64

/-- Registers, memory and stand: R124, R217, R238 and R264. -/
def State.srStore (s : State) (c : Crew) (i : Nat) (a : Nat) : W64 :=
  let core := (s.coreOf c.team).getD 0
  let k := standOfCore core
  match a with
  | 0x020 => w64 (c.nRegs + c.rot * 2 ^ 8 + c.held * 2 ^ 32)
  | 0x021 => w64 c.rotb
  | 0x022 => 0xFFFFFF0000000000
  | 0x023 => w64 (s.freeUnits core)
  | 0x040 => w64 (match s.blkOf c with | some b => b.pwin | none => 0)
  | 0x043 => w64 (match s.blkOf c with | some b => b.alen | none => 0)
  | 0x060 => w64 ((List.range 32).foldl (fun n b => n + s.bankMode k b % 4 * 2 ^ (2 * b)) 0)
  | 0x061 => w64 ((List.range 6).foldl (fun n q => n + c.inflight i q % 256 * 2 ^ (8 * q)) 0)
  | 0x062 => (match s.teamOf c.team with
      | some t => w64 (bitAt (!t.pins.isEmpty) 8 + (t.pins.length - 1) * 2 ^ 9 + t.fifos.length * 2 ^ 17
          + (t.tiles.filter (·.allot)).length * 2 ^ 21)
      | none => 0)
  | 0x063 => w64 (s.pool k + (s.pool k - s.reservedTotal k) * 2 ^ 11 + (s.lentBanks k).length * 2 ^ 22)
  | 0x080 => (match s.teamOf c.team with
      | some t => w64 (bitAt (s.detMode c) 0 + bitAt (s.detMode c && s.ticket c) 1 + t.logBytes / 32 * 2 ^ 32)
      | none => 0)
  | _ => (match s.stands[k]? with
      | some d => w64 (d.cbuf.length + d.evict.toNat * 2 ^ 16)
      | none => 0)

/-- Queues and the matrix: R288 and R313. -/
def State.srQueue (s : State) (c : Crew) (a : Nat) : W64 :=
  let core := (s.coreOf c.team).getD 0
  match a with
  | 0x090 => w64 (c.nextSeq.toNat + (s.jobs.filter fun (j : Job) => j.isCard && j.crew == c.id).length * 2 ^ 32)
  | 0x091 => w64 ((List.range 16).foldl (fun n k => n + (c.q k).entries.length % 16 * 2 ^ (4 * k)) 0)
  | 0x092 => w64 ((List.range 16).foldl (fun n k => n + (c.q k).dir % 4 * 2 ^ (2 * k)) 0)
  | 0x0A0 => (match s.arrayJoint core with
      | some (t, j) => if t.id == c.team then w64 (j.bands % 8 + 2 ^ 3 + (match j.arrs with | x :: _ => x.tile % 4 | [] => 0) * 2 ^ 4) else 0
      | none => 0)
  | 0x0A1 => c.gang.setWidth 64
  | 0x0A2 =>
    let mine := c.resv.filterMap fun e => e.2.map fun r => (e.1, r.units)
    w64 (mine.foldl (fun n r => n + 2 ^ r.1) 0 + mine.foldl (fun n r => n + r.2) 0 * 2 ^ 16 + s.obufFree core * 2 ^ 32)
  | _ => (match s.teamOf c.team with
      | some t => w64 ((List.range 4).foldl (fun n k =>
          let x := t.tile k
          n + bitAt x.allot k + bitAt x.bound (4 + k)
            + bitAt (match s.cores[core]? with | some d => d.staged == some (t.id, k) | none => false) (8 + k)
            + x.flags.toNat * 2 ^ (16 + 3 * k)) 0)
      | none => 0)

/-- Launches and landings: R331 and R355. -/
def State.srLaunch (s : State) (c : Crew) (a : Nat) : W64 :=
  match s.launchOf (s.partOf c) (s.lidOf c), s.teamOf c.team with
  | some l, some t =>
    let b := l.blk
    match a with
    | 0x0C0 => w64 (l.lid % 2 ^ 32 + (bitAt b.det 0 + bitAt b.strict 1 + bitAt b.bankctl 2 + bitAt b.yhigh 3 + bitAt b.child 4
        + bitAt b.cruise 5 + bitAt b.morton 6) * 2 ^ 32)
    | 0x0C1 => w64 t.idx
    | 0x0C2 => w64 t.rank
    | 0x0C3 => w64 b.teams
    | 0x0C4 => if b.cruise then b.sbase + w64 (t.idx * b.stride) else 0
    | 0x0C5 => w64 (b.cls % 4 + b.prio % 4 * 2 ^ 2 + b.yshare * 2 ^ 32)
    | 0x0D1 => c.rstream.setWidth 64
    | 0x0D2 => w64 t.stage.length
    | _ => w64 l.n
  | _, _ => if a = 0x0D1 then c.rstream.setWidth 64 else 0

/-- The highest valid layer sensor of a core's home vaults at the latest sample (R372). -/
def State.layerMax (s : State) (core : Nat) (k : Pair) : BitVec 12 :=
  match k.layer.getD (2 * (core % 2)) none, k.layer.getD (2 * (core % 2) + 1) none with
  | some x, some y => if x.slt y then y else x
  | some x, none => x
  | none, some y => y
  | none, none => Config.noLayer core (1000 * (s.sampled - 1))

/-- Heat, kerf and debug: R372 and R409. -/
def State.srPower (s : State) (c : Crew) (a : Nat) : W64 :=
  let core := (s.coreOf c.team).getD 0
  match a with
  | 0x0E0 => (match s.pairs[pairOfCore core]? with
      | some k => w64 ((k.allow (pairOfCore core)).toNat + k.cls % 4 * 2 ^ 34)
      | none => 0)
  | 0x0E1 => (match s.teamOf c.team with | some t => t.kerf | none => 0)
  | 0x0E2 => (match s.pairs[pairOfCore core]?, s.cores[core]? with
      | some k, some d =>
        w64 (k.temp.toNat + (s.layerMax core k).toNat * 2 ^ 16 + bitAt d.stretch 32)
      | _, _ => 0)
  | 0x0E3 => (match s.teamOf c.team with | some t => t.energy | none => 0)
  | 0x0E4 => (match s.teamOf c.team with | some t => w64 (t.meas % 2 ^ 16 + s.usedDemand t % 2 ^ 16 * 2 ^ 16) | none => 0)
  | 0x0F0 => w64 c.stsel
  | 0x0F1 => (SMap.get 0 c.stalls c.stsel).setWidth 64
  | _ => w64 ((match s.part? (s.partOf c) with | some q => q.mode | none => 0)
      + (List.range 8).foldl (fun n i => n + bitAt (decide ((c.path i).st ≠ .free) && (c.path i).held) (2 + i)) 0)

/-- A register as the path at entry i of the crew sees it, or, for a per-lane register, as the lowest lane of its m0 does
(R107, R158). -/
def State.srRead (s : State) (c : Crew) (i : Nat) (addr : BitVec 12) : W64 :=
  let a := addr.toNat
  match s.srLane c a 0 with
  | some _ => (match maskLowest (c.path i).m0 with
      | some l => (s.srLane c a l).getD 0
      | none => 0)
  | none =>
    if a < 0x010 then s.srTrap c i a
    else if a < 0x020 then s.srExec c i a
    else if a < 0x090 then s.srStore c i a
    else if a < 0x0C0 then s.srQueue c a
    else if a < 0x0E0 then s.srLaunch c a
    else s.srPower c a

/-- The read of sr.time that a crew keeps, so that no later one is smaller (R392). -/
def Crew.noteTime (c : Crew) (addr : BitVec 12) (t : W64) : Crew := if addr = 0 then { c with lastT := t } else c

/-- The crew has read a greater time than the source shows (R392). -/
def State.timeBehind (s : State) (c : Crew) (addr : BitVec 12) : Bool := addr == 0 && s.time.ult c.lastT

/-- SRD and TIME: the waits of R158, and then the read. -/
def readWord (s : State) (d : BitVec 6) (addr : BitVec 12) : Out :=
  withCur s fun c p => afterEarlier s c p <|
    if c.pending [d] then waitFor s stInterlock
    else if s.timeBehind c addr then waitFor s stOther
    else .next ((s.modCur fun c => (c.noteTime addr s.time).sset d (s.srRead c s.curPath addr)).advance 4)

/-- SRD (R158). -/
def execSrd (d : BitVec 6) (addr : BitVec 12) (s : State) : Out := readWord s d addr
/-- TIME (R160). -/
def execTime (d : BitVec 6) (s : State) : Out := readWord s d 0
/-- TIME.cyc (R160). -/
def execTimeCyc (d : BitVec 6) (s : State) : Out := readWord s d 1

/-! ### Writing -/

/-- Write a per-lane register in every lane of a mask. -/
def setLanes {α : Type} [DecidableEq α] (d : α) (m : SMap α) (lanes : Mask) (v : α) : SMap α :=
  (maskLanes 1024 lanes).foldl (fun m l => SMap.set d m l v) m

/-- Change the record of a path. -/
def Crew.modTrap (c : Crew) (i : Nat) (f : TrapRec → TrapRec) : Crew := c.modPath i fun p => { p with trap := p.trap.map f }

/-- Write the RW fields of a register (R158 and each map). -/
def Crew.srWrite (c : Crew) (i : Nat) (addr : BitVec 12) (v : W64) : Crew :=
  let m0 := (c.path i).m0
  let lo := v.extractLsb' 0 32
  match addr.toNat with
  | 0x002 => { c with ltvec := v }
  | 0x005 => c.modTrap i fun t => { t with spc := v, iss := none }
  | 0x006 => c.modTrap i fun t => { t with lpc := v, iss := none }
  | 0x007 => c.modTrap i fun t => { t with iss := issueOf t.iss t.lpc c.s lo }
  | 0x01A => c.modPath i fun p => { p with lcnt := lo }
  | 0x01B => { c with sig := lo }
  | 0x021 => { c with rotb := if c.rot = 0 then 0 else v.toNat % 64 % c.rot }
  | 0x030 => { c with propd := setLanes 0 c.propd m0 (v.extractLsb' 32 32), acpt := setLanes 0 c.acpt m0 lo }
  | 0x042 => { c with mcause := setLanes 0 c.mcause m0 (v.extractLsb' 0 7) }
  | 0x093 => { c with qcause := setLanes 0 c.qcause m0 (v.extractLsb' 0 7) }
  | 0x0A4 => { c with mxcause := setLanes 0 c.mxcause m0 (v.extractLsb' 0 4) }
  | 0x0D0 => { c with draw := setLanes 0 c.draw m0 lo }
  | 0x0D1 => { c with rstream := lo }
  | 0x0D3 => { c with ecause := setLanes 0 c.ecause m0 (v.extractLsb' 0 3) }
  | 0x0F0 => { c with stsel := v.toNat % 16 }
  | _ => c

/-- SWR (R158). A new signal count is evaluated at the end of the clock, as a post's is (R88, R106). -/
def execSwr (addr : BitVec 12) (r : BitVec 6) (s : State) : Out :=
  withCur s fun c p => afterEarlier s c p <|
    if c.pending [r] then waitFor s stInterlock
    else .next ((s.modCur fun c => c.srWrite s.curPath addr (c.sget r)).advance 4)

/-! ### VLANE (R173) -/

/-- The 32 bits that VLANE writes in a team lane. -/
def State.laneReg (s : State) (c : Crew) (i : Nat) (addr : BitVec 12) (hi : Bool) (lane : Nat) : Nat :=
  (((s.srLane c addr.toNat lane).getD (s.srRead c i addr)).toNat / (if hi then 2 ^ 32 else 1)) % 2 ^ 32

/-- The tag of VLANE's full pass: affine for sr.lane, general for other per-lane registers, else uniform (R173). -/
def State.laneTag (s : State) (c : Crew) (addr : BitVec 12) : Nat :=
  if addr = 0x010 then 2 else if (s.srLane c addr.toNat 0).isSome then 3 else 1

/-- VLANE (R173). -/
def execVlane (w : LaneA) (s : State) : Out :=
  let i := Instr.vlane w
  let addr := w.x.extractLsb' 0 12
  laneWord s (infoA i .vlane w false) (fun _ => false) fun c _ sel s1 =>
    let qs := (c.passes sel).map fun g =>
      let act := c.groupWord sel g
      passOut c g act (OpA.writes .vlane w)
        [GReg.mk (s.laneTag c addr) ((List.range 32).map fun j =>
          w32 (s.laneReg c s.curPath addr (w.x.getLsbD 12) (32 * (c.first + g) + j)))]
    if s.timeBehind c addr && (match qs with | q :: _ => decide (c.passNeed q ≤ s1.crewFree c) | [] => true) then waitFor s stOther
    else writeFixed (s1.modCur fun c => c.noteTime addr s.time) c i qs

end Sys2Proof.Machine
end

