-- ==== Sys2Proof/Machine/Debug.lean ====
section
/-! DEFINITION. The halt line and its stop records (R263, R343, R383, R384), uncorrectable errors (R373), the debug agent's
commands, steps and breakpoints (R398 to R401, R405, R406), and its rings (R408). -/

namespace Sys2Proof.Machine

/-! ### Stop records (R384) -/

/-- A stop record without its number: type, die and body. -/
structure StopRec where
  ty   : Nat
  die  : Nat
  body : List Byte
  deriving DecidableEq, Repr

/-- The body of a cause or partner record. -/
def Cause.body (z : Cause) (secondary : Bool) : List Byte :=
  bytesOfNat 2 z.code ++ bytesOfNat 2 (b2n secondary) ++ bytesOfNat 4 z.launch ++ bytesOfNat 4 z.team ++ bytesOfNat 2 z.core
  ++ bytesOfNat 1 (z.path % 8 + z.slot % 16 * 16) ++ bytesOfNat 1 z.kind ++ bytesOfNat 8 z.spc.toNat ++ bytesOfNat 8 z.lpc.toNat
  ++ bytesOfNat 8 z.addr ++ bytesOfNat 8 z.detail

/-- The place of a cause among those of one clock: words by core, crew slot and path, then yarders, landings and the launch unit
(R383). -/
def Cause.order (z : Cause) : Nat := (if z.kind < 2 then 0 else z.kind) * 2 ^ 32 + z.core * 128 + z.slot % 16 * 8 + z.path % 8

/-- The cause and partner records of a clock, in the order of R383. -/
def causeRecs (zs : List (Cause × Option Cause)) : List StopRec :=
  (sortBy (fun (e : Cause × Option Cause) => e.1.order) zs).zipIdx.flatMap fun (e : (Cause × Option Cause) × Nat) =>
    let z := e.1.1
    ⟨1, dieOfCore z.core, z.body (e.2 ≠ 0)⟩ :: (match e.1.2 with | some y => [⟨2, dieOfCore y.core, y.body false⟩] | none => [])

/-- The crew with its results that are not yet written counted among the words that a halt discards (R383, log 10, DESIGN CHOICE). -/
def Crew.unwritten (c : Crew) : Crew := { c with
  words := c.words.map fun (w : Word) =>
    if w.done && (w.slot || c.sPend.any fun q => q.2 == w.wid) then { w with done := false, owed := w.lanes } else w }

/-- The long-latency words of a path that a halt discards, in issue order: multiplications whose joint has not formed too (R303, R383). -/
def Crew.haltSlots (c : Crew) (i : Nat) : List Word :=
  let parked := fun (w : Word) => match (c.path i).parkedWord with | some v => v.wid != w.wid || w.slot | none => true
  c.words.filter fun w => w.path == i && parked w && match w.instr with
    | .mma .. => w.slot
    | .yjob .. => false
    | .cwait .. => false
    | _ => !w.done

/-- The path records of every resident crew of a partition. -/
def State.pathRecs (s : State) (cs : List Crew) : List StopRec :=
  (cs.map Crew.unwritten).flatMap fun c => ((List.range 8).filter fun i => (c.path i).st != .free).map fun i =>
    ⟨3, s.dieOf c, c.pathEntry i (c.haltSlots i) [] false ++ zeros 48⟩

/-- The job records. -/
def State.jobRecs (s : State) (part : Nat) : List StopRec :=
  (s.jobs.filter fun (j : Job) => j.part == part).map fun (j : Job) =>
    ⟨4, (j.at_).getD j.die, bytesOfNat 4 j.lid ++ bytesOfNat 4 j.token.toNat ++ bytesOfNat 1 (if j.isCard then cardKind j.card else 0)
      ++ bytesOfNat 1 (match s.crewOf j.crew with | some c => c.slot | none => 0) ++ bytesOfNat 8 j.prog ++ bytesOfNat 8 j.addr.toNat⟩

/-- The operation and type of a discarded entry: 0xFF for a plain store, else the op; then the type, and the source. -/
def discardCode (x : Acc) (source : Nat) : Nat :=
  (if x.kind == .store then 0xFF else x.op) + (Ty.code x.ty).toNat * 2 ^ 8 + source * 2 ^ 12

/-- The discard records of one source: one for each granule and operation, with the count. -/
def discardRecs (die source : Nat) (xs : List Acc) : List StopRec :=
  let keys := (xs.map fun x => (x.addr / 32 * 32, discardCode x source)).foldl (fun ks k => if ks.contains k then ks else ks ++ [k]) []
  keys.map fun (k : Nat × Nat) => ⟨5, die, bytesOfNat 8 k.1 ++ bytesOfNat 4 k.2
    ++ bytesOfNat 4 (xs.filter fun x => (x.addr / 32 * 32, discardCode x source) == k).length⟩

/-- What the store buffers, staging logs and commutative buffers of a partition discard (R263). -/
def State.allDiscards (s : State) (part : Nat) (cs : List Crew) (ts : List Team) : List StopRec :=
  (cs.flatMap fun c => c.paths.flatMap fun (p : Path) => discardRecs (s.dieOf c) 0 p.sbuf)
  ++ (ts.flatMap fun t => discardRecs (dieOfCore (t.core.getD t.lastCore)) 1 (t.log.map (·.1)))
  ++ (partStands s.svc.split part).flatMap fun k => match s.stands[k]? with
    | some d => discardRecs (k / 9) 2 (d.cbuf.flatMap fun e => e.items.map (·.1))
    | none => []

/-- The landing records: for each landing, each launch that has not retired, with what is discarded there. -/
def State.landingRecs (s : State) (part : Nat) : List StopRec :=
  (partDies s.svc.split part).flatMap fun d => (s.launches.filter fun l => l.part == part && !l.retired).map fun l =>
    let here := fun (xs : List Sample) => (xs.filter fun (x : Sample) => x.handle / 4096 == d).length
    let staged := (s.teams.filter fun t => t.part == part && t.launch == l.lid && !t.retired).foldl (fun n t => n + here t.stage) 0
      + l.commits.foldl (fun n k => n + here k.stage) 0
    ⟨6, d, bytesOfNat 4 l.lid ++ bytesOfNat 4 l.n ++ bytesOfNat 4 staged ++ bytesOfNat 4 l.commits.length⟩

/-- The matrix records of the resident teams (R311). -/
def State.matrixRecs (s : State) (ts : List Team) : List StopRec :=
  (ts.filter fun t => t.core.isSome).map fun t => ⟨7, dieOfCore (t.core.getD 0), s.matrixSection t⟩

/-- A global region of a running job maps to the granule of a physical address. -/
def State.jobTouches (s : State) (j : Job) (pa : Nat) : Bool :=
  (cardReads j.card ++ cardWrites j.card).any fun r => r.sp == 0
    && (List.range (ceilDiv (r.lo % 32 + r.len) 32)).any fun k =>
      match s.jobHome j 0 (r.lo / 32 * 32 + 32 * k) false with
      | .ok h _ => h.2 % 2 ^ 52 / 32 == pa / 32
      | .stop _ _ => false

/-- The requesters that wait on a granule of memory: the accesses to it that have not taken effect, and the running jobs that name
it (log 27, DEDUCED). -/
def State.memRequesters (s : State) (cs : List Crew) (pa : Nat) : List Cause :=
  (cs.flatMap fun c => (List.range 9).flatMap fun i =>
    ((c.path i).queue.filter fun x => x.space == .mem && x.addr % 2 ^ 52 / 32 == pa / 32).map fun x => s.accCause c x)
  ++ ((s.jobs.filter fun j => j.isCard && j.at_.isSome && cs.any (fun c => c.id == j.crew) && s.jobTouches j pa).map fun j => s.jobCause j pa)

/-- What a stop record says of a word in flight. -/
def State.wordCause (s : State) (c : Crew) (w : Word) : Cause :=
  { s.causeHere c (c.path w.path) true fcUncorr 0 0 with path := w.path, spc := w.spc, lpc := w.lpc }

/-- The arrivals of the teams of some crews that a joint or a rendezvous latch holds. -/
def State.arrivalsOf (s : State) (cs : List Crew) : List (Crew × Arrival) :=
  cs.flatMap fun c => match s.teamOf c.team with
    | some t => ((t.latches.flatMap (·.arrs) ++ t.joints.flatMap (·.arrs)).filter fun a => a.crew == c.id).map fun a => (c, a)
    | none => []

/-- The words of some arrivals that a test picks. -/
def State.arrivalCauses (s : State) (cs : List Crew) (ok : Crew → Arrival → Bool) : List Cause :=
  (s.arrivalsOf cs).filterMap fun e => match e.1.word? e.2.wid with
    | some w => if ok e.1 e.2 then some (s.wordCause e.1 w) else none
    | none => none

/-- The requesters that wait on a byte of stand SRAM (4 MiB a stand): the scratchpad accesses to its granule in the frame pinned there,
and the multiplications into a tile that holds the frame. -/
def State.sramRequesters (s : State) (cs : List Crew) (at_ : Nat) : List Cause :=
  let k := at_ / 2 ^ 22
  let f := at_ / 4096 % 1024
  let mine := cs.filter fun c => match s.coreOf c.team with | some core => standOfCore core == k | none => false
  (mine.flatMap fun c => match s.teamOf c.team with
    | some t => (List.range 9).flatMap fun i =>
      ((c.path i).queue.filter fun x => x.space == .scr && x.addr % 4096 / 32 == at_ % 4096 / 32
        && t.pins.any fun q => q.page == x.addr / 4096 && q.frame == f).map fun x => s.accCause c x
    | none => [])
  ++ s.arrivalCauses mine fun c a => match s.teamOf c.team with | some t => (t.tile a.tile).frames.contains f | none => false

/-- The requesters that wait on an error of some kind at an address (R384). An error in DRAM or the L2 names a physical address, and so
does one in a stand's SRAM that holds a cached line; the SRAM itself is named by 2^50 and its place in the package, a group-register by
its core, crew slot, number and group, a byte of an operand buffer by its core and place. Log 27 (DESIGN CHOICE). -/
def State.requesters (s : State) (cs : List Crew) (kind pa : Nat) : List Cause :=
  let on := fun (c : Crew) => s.coreOf c.team == some (pa / 2 ^ 20)
  if kind = 1 ∧ pa.testBit 50 then s.sramRequesters cs (pa % 2 ^ 50)
  else if kind = 3 then
    (cs.filter fun c => on c && c.slot == pa / 2 ^ 16 % 16).flatMap fun c =>
      (c.words.filter fun w => w.srcs.contains (pa / 32 % 256) && c.groupWord w.lanes (pa % 32) != 0).map (s.wordCause c)
  else if kind = 4 then
    s.arrivalCauses (cs.filter on) fun c a => match SMap.get none c.resv a.res with
      | some v => decide (1024 * v.start ≤ pa % 2 ^ 20) && decide (pa % 2 ^ 20 < 1024 * (v.start + v.units))
      | none => false
  else s.memRequesters cs pa

/-- The consumer records of uncorrectable errors: one for each requester that waits on the address (R384). -/
def State.consumerRecs (s : State) (cs : List Crew) (zs : List (Cause × Option Cause)) : List StopRec :=
  (zs.filter fun e => e.1.code == fcUncorr).flatMap fun e => (s.requesters cs e.1.detail e.1.addr).map fun y =>
    ⟨8, dieOfCore y.core, bytesOfNat 8 e.1.addr ++ (y.body false).take 40⟩

/-- Write stop records one after another, keeping 64 bytes for the summary: how many were written and dropped, and where
the next goes (R384, R412). -/
def State.putStops (base size : Nat) : List StopRec → Nat → Nat → Nat → State → State × Nat × Nat × Nat
  | [], at_, n, d, s => (s, at_, n, d)
  | r :: rs, at_, n, d, s =>
    let bs := record r.ty r.die n s.time r.body
    if at_ + bs.length + 64 ≤ size then State.putStops base size rs (at_ + bs.length) (n + 1) d (s.wrBytes (base + at_) bs)
    else State.putStops base size rs at_ n (d + 1) s

/-- Write every stop record of a partition, the summary last (R384). The skid is 0 (log 10, DESIGN CHOICE). -/
def State.writeStops (s : State) (part : Nat) (rs : List StopRec) : State :=
  match s.part? part with
  | none => s
  | some q =>
    let base := q.stopA.toNat % 2 ^ 52 / 4096 * 4096
    let size := q.stopA.toNat % 4096 * 4096
    if size = 0 then s
    else
      let w := State.putStops base size rs 0 0 0 s
      w.1.wrBytes (base + w.2.1)
        (record 15 ((partDies s.svc.split part).headD 0) w.2.2.1 s.time (bytesOfNat 4 w.2.2.1 ++ bytesOfNat 4 w.2.2.2 ++ bytesOfNat 4 0))

/-! ### HALT_LINE (R263, R343, R383) -/

/-- A path in a stopped partition: what it had not finished is discarded. -/
def Path.stopped (p : Path) : Path := { p with queue := [], sbuf := [], walks := [], refill := [], replay := [], goOn := none, wait := none }

/-- The partition stands still: nothing of it is outstanding, and its estimators close. -/
def State.stopPart (s : State) (part : Nat) : State :=
  let mine := fun (k : Nat) => partOfDie s.svc.split (k / 9) == part
  { s with
    raised := SMap.set [] s.raised part []
    crews := s.crews.map fun (c : Crew) => if s.partOf c == part then
      { c with paths := c.paths.map Path.stopped, words := [], sPend := [], qs := c.qs.map fun e => (e.1, { e.2 with pops := [], pushes := [] }) } else c
    teams := s.teams.map fun (t : Team) => if t.part == part then { t with log := [], stage := [], latches := [], joints := [] } else t
    stands := s.stands.zipIdx.map fun (k : Stand × Nat) => if mine k.2 then { k.1 with cbuf := [] } else k.1
    jobs := (s.jobs.filter fun (j : Job) => !(j.part == part && j.isCard)).map fun (j : Job) => if j.part == part then { j with at_ := none } else j
    launches := s.launches.map fun (l : Launch) => if l.part == part && !l.retired then { l with halted := true, commits := [] } else l
    ests := s.ests.map fun (e : Nat × Est) =>
      if e.2.bound ≠ 0 ∧ partOfDie s.svc.split (e.1 / 4096) = part then
        let stop := s.launches.any fun l => l.part == part && l.lid == e.2.bound && l.blk.cruise && l.blk.est == e.1
        (e.1, { e.2 with closed := true, reason := if stop then 5 else e.2.reason })
      else e }

/-- The records of a partition that have arisen in this clock are written before it stops (R104, R397, R407). -/
def State.flushPart (s : State) (part : Nat) : State :=
  (sortBy (·.key) (s.recs.filter fun x => x.part == part)).foldl State.putRec { s with recs := s.recs.filter fun x => x.part != part }

/-- HALT_LINE (R104, R383, R384): the partition stops, its records are written, those of the debug rings before the stop records, and
vector 4p + 2 is raised (R411). Log 27 (DEDUCED). -/
def execHaltLine (part : Nat) (s0 : State) : Out :=
  let s := s0.flushPart part
  let zs := SMap.get [] s.raised part
  match s.part? part with
  | none => .next s0
  | some q =>
    if zs.isEmpty || q.halted then .next s0
    else
      let cs := s.crews.filter fun c => s.partOf c == part && !c.retired && (s.coreOf c.team).isSome
      let ts := s.teams.filter fun t => t.part == part && !t.retired
      let rs := causeRecs zs ++ s.pathRecs cs ++ s.jobRecs part ++ s.allDiscards part cs (s.teams.filter fun t => t.part == part) ++ s.landingRecs part ++ s.matrixRecs ts
        ++ s.consumerRecs cs zs
      let s1 := (s.writeStops part rs).stopPart part
      .next { s1.modPart part fun q => { q with halted := true } with msix := s1.msix ++ [4 * part + 2] }

/-- Who meets an uncorrectable error: the first requester that waits on the address, else no word, at the first core of the die that
is the address's home, or of the partition's first die (R373, R384; log 27, DESIGN CHOICE). -/
def State.errorCause (s : State) (part kind pa : Nat) : Cause :=
  let cs := s.crews.filter fun c => s.partOf c == part && !c.retired && (s.coreOf c.team).isSome
  match (sortBy Cause.order (s.requesters cs kind pa)).head? with
  | some z => z
  | none =>
    let ds := partDies s.svc.split part
    { launchCause 0 fcUncorr 0 with core := 36 * (if ds.contains (pa / 2 ^ 16 / 3145728) then pa / 2 ^ 16 / 3145728 else ds.headD 0) }

/-- UNCORRECTABLE (R373, R384): kind 0 DRAM, 1 stand SRAM, 2 L2, 3 register store, 4 operand buffer. The unit that finds
the error is outside the machine. -/
def execUncorrectable (part kind pa : Nat) (s : State) : Out :=
  if s.live part && decide (kind ≤ 4) then
    .next (s.raise part { s.errorCause part kind pa with code := fcUncorr, detail := kind, addr := pa })
  else .next s

/-! ### Commands (R401) -/

/-- The path that a command names (R408). -/
def cmdPath (cmd : W64) : PathRef := ⟨field cmd.toNat 19 12, field cmd.toNat 11 8, field cmd.toNat 6 4⟩

/-- A command runs unless another is busy: on a core of the partition, and on a path that exists, held where it must be
(R401, R408). Log 26 (DEDUCED). -/
def command (s : State) (part : Nat) (cmd : W64) (held : Bool) (k : Part → Crew → Nat → Path → State) : Out :=
  match s.part? part with
  | none => .next s
  | some q =>
    if (match q.dbgBusy with | some b => b != cmd | none => false) then .next s
    else if !(partCores s.svc.split part).contains (cmdPath cmd).core then .next (s.cmdDone part 3)
    else match s.at? (cmdPath cmd) with
    | none => .next (s.cmdDone part 1)
    | some (c, p) =>
      if p.st == .free then .next (s.cmdDone part 1)
      else if held && !p.held then .next (s.cmdDone part 2)
      else .next (k q c (cmdPath cmd).path p)

/-- DEBUG_HOLD (R398, R401). -/
def execDebugHold (part : Nat) (cmd : W64) (s : State) : Out :=
  command s part cmd false fun q c i _ =>
    if q.mode = 0 then s.cmdDone part 4 else ((s.holdHit c i).breakRecord c.id i 3 0).cmdDone part 0

/-- A path that a release frees from a step as well. -/
def Path.free (p : Path) : Path := { p.release with stepping := none }

/-- DEBUG_RELEASE (R398, R400, R401): in all-stop mode of every path of the launch, those of teams that were saved while they were held
too. -/
def execDebugRelease (part : Nat) (cmd : W64) (s : State) : Out :=
  command s part cmd false fun q c i _ =>
    let s1 := if q.mode = 2 then (s.modPath c.id i Path.free).modLaunchPaths part (s.lidOf c) true Path.free else s.modPath c.id i Path.free
    s1.cmdDone part 0

/-- DEBUG_STEP (R401, R405): the path in state 7 runs one scalar word, its held bit kept. The command stays busy until the
step completes. -/
def execDebugStep (part : Nat) (cmd : W64) (s : State) : Out :=
  command s part cmd true fun q c i p =>
    if q.dbgBusy.isSome then s
    else if p.st != .held then s.cmdDone part 2
    else (s.modPath c.id i fun p => { p with st := .ready, wait := some stNext, stepping := some false }).modPart part fun q =>
      { q with dbgBusy := some cmd }

/-- The step of a path is over: its word has taken effect, with every lane word of an ISSUE, or it has parked (R405). -/
def Path.stepOver (p : Path) : Bool :=
  match p.stepping with
  | some done => (done && p.iss.isNone && p.st == .ready && !p.begun) || (p.st != .ready && p.st != .free)
  | none => false

/-- STEP_COMPLETE (R405): the path is held again, and a record with source 2 is written. -/
def execStepComplete (r : PathRef) (s : State) : Out :=
  match s.at? r with
  | some (c, p) =>
    if p.stepOver then
      let s1 := s.modPath c.id r.path fun p => { p with
        stepping := none, st := if p.st = .ready then .held else p.st, wait := if p.st = .ready then none else p.wait }
      let s2 := s1.breakRecord c.id r.path 2 0
      match s2.part? (s.partOf c) with
      | some q => match q.dbgBusy with
        | some b => if b.toNat % 16 = 3 ∧ cmdPath b = r then .next (s2.cmdDone (s.partOf c) 0) else .next s2
        | none => .next s2
      | none => .next s2
    else .next s
  | none => .next s

/-- The dump of a crew: the entry of R388, then its register and proposal sections on 64-byte boundaries (R406). -/
def State.dumpBody (s : State) (c : Crew) (i : Nat) : List Byte :=
  s.pathName c i ++ zeros 16 ++ pad64 (c.pathEntry i (c.replaySlots i) [] true) ++ pad64 c.regSection ++ pad64 c.propSection

/-- DEBUG_DUMP (R401, R406). -/
def execDebugDump (part : Nat) (cmd : W64) (s : State) : Out :=
  command s part cmd true fun _ c i _ => (s.emit (s.recKey c i) part 20 (s.dieOf c) (s.dumpBody c i)).cmdDone part 0

/-- The group-register with one lane's value replaced: general (R111, R401). -/
def GReg.poke (r : GReg) (j : Nat) (x : W32) : GReg := .gen ((List.range 32).map fun k => if k = j then x else r.val k)

/-- Write a vector register of a lane, in the bank that the lane reads (R148, R401); the units it adds. -/
def Crew.poke (c : Crew) (p lane : Nat) (x : W32) : Crew :=
  let g := lane / 32 - c.first
  let j := lane % 32
  match c.prop, c.place p with
  | some w, some k => if w.lanes.getLsbD lane then c.setShadow k g ((w.shadowReg k g).poke j x) else c.setLive p g ((c.liveReg p g).poke j x)
  | _, _ => c.setLive p g ((c.liveReg p g).poke j x)

/-- DEBUG_WRITE_VREG (R401): it waits for a long-latency write to its target. -/
def execDebugWriteVreg (part : Nat) (cmd : W64) (s : State) : Out :=
  command s part cmd true fun q c _ p =>
    let lane := field q.dbgArg.toNat 17 8
    let r := c.physical (field q.dbgArg.toNat 7 0)
    if !p.mask.getLsbD lane || !c.present r then s.cmdDone part 3
    else if c.words.any fun w => w.slot && w.dests.contains r then s.modPart part fun q => { q with dbgBusy := some cmd }
    else
      let d := c.poke r lane (q.dbgData.extractLsb' 0 32)
      if s.crewFree c + c.held < d.held then s.cmdDone part 3
      else (s.modCrew c.id fun c => { c with v := d.v, prop := d.prop }).cmdDone part 0

/-- DEBUG_WRITE_SREG (R401). -/
def execDebugWriteSreg (part : Nat) (cmd : W64) (s : State) : Out :=
  command s part cmd true fun q c _ _ =>
    let n := field q.dbgArg.toNat 7 0
    let r := BitVec.ofNat 6 n
    if n = 0 ∨ 63 < n then s.cmdDone part 3
    else if c.pending [r] then s.modPart part fun q => { q with dbgBusy := some cmd }
    else (s.modCrew c.id fun c => c.sset r q.dbgData).cmdDone part 0

/-- A command of another operation ends with result 3 (R408). -/
def State.badCommand (s : State) (part : Nat) : State :=
  match s.part? part with
  | some q => if q.dbgBusy.isSome then s else s.cmdDone part 3
  | none => s

/-- BREAKPOINT_HIT (R399): the path is about to execute the scalar word at an enabled address. -/
def execBreakpointHit (r : PathRef) (s : State) : Out :=
  match s.named r with
  | some (c, p) =>
    if p.runs && p.iss.isNone && p.skip.isNone then
      match s.bpHit c p with
      | some k => .next (s.breakHit c r.path k)
      | none => .next s
    else .next s
  | none => .next s

/-! ### The rings (R408) -/

/-- EVENT_RING_SET (R408): a write to DBG_ERING, or to DBG_TRING where `team`, sets both pointers to 0. -/
def execEventRingSet (part : Nat) (team : Bool) (v : W64) (s : State) : Out :=
  let ring : Ring := ⟨v &&& 0x000FFFFFFFFFFFFF, 0, 0⟩
  .next (s.modPart part fun q => if team then { q with tring := ring } else { q with ering := ring })

/-- DROP_COUNT_CLEAR (R408). -/
def execDropCountClear (part : Nat) (s : State) : Out := .next (s.modPart part fun q => { q with dropE := 0, dropT := 0 })

end Sys2Proof.Machine
end

