-- ==== Sys2Proof/Machine/Digest.lean ====
section
/-! DEFINITION. The standards that the service block names (R419, R422): the SHA-384 digest, and ECDSA signatures on
brainpoolP384r1. The specification gives the names only. Log 54 (PRESUMED). -/

namespace Sys2Proof.Machine

/-! ### SHA-384 -/

/-- The greatest number whose k-th power is at most n, of 72 bits. -/
def rootOf (k n : Nat) : Nat := (List.range 72).foldl (fun r i => if (r + 2 ^ (71 - i)) ^ k ≤ n then r + 2 ^ (71 - i) else r) 0

/-- The first 80 primes. -/
def primes80 : List Nat := (List.range 410).filter fun n => decide (2 ≤ n) && (List.range n).all fun d => decide (d < 2) || n % d != 0

/-- The 80 constants: 64 bits of the fractions of the primes' cube roots. -/
def shaConsts : List W64 := primes80.map fun p => w64 (rootOf 3 (p * 2 ^ 192))
/-- The chaining value before the first block: 64 bits of the fractions of the square roots of the 9th to 16th primes. -/
def shaInit : List W64 := ((primes80.drop 8).take 8).map fun p => w64 (rootOf 2 (p * 2 ^ 128))

/-- A number of big-endian bytes, and the n bytes of a number. -/
def natOfBE (bs : List Byte) : Nat := bs.foldl (fun n b => n * 256 + b.toNat) 0
def bytesBE (n x : Nat) : List Byte := (bytesOfNat n x).reverse

/-- The message with its padding: one bit, zeros, and its length in bits in 16 bytes, to whole blocks of 128 bytes. -/
def shaPad (bs : List Byte) : List Byte :=
  bs ++ 0x80 :: (List.replicate ((239 - bs.length % 128) % 128) (0 : Byte) ++ bytesBE 16 (8 * bs.length))

/-- The 80 words of a block's schedule, newest first, from its 16. -/
def shaSchedule : Nat → List W64 → List W64
  | 0, ws => ws
  | n + 1, ws =>
    let at_ := fun (k : Nat) => ws.getD k 0
    let a := (at_ 14).rotateRight 1 ^^^ (at_ 14).rotateRight 8 ^^^ at_ 14 >>> 7
    let b := (at_ 1).rotateRight 19 ^^^ (at_ 1).rotateRight 61 ^^^ at_ 1 >>> 6
    shaSchedule n ((b + at_ 6 + a + at_ 15) :: ws)

/-- One round with the sum of its constant and its word. -/
def shaRound (x : List W64) (kw : W64) : List W64 :=
  let at_ := fun (k : Nat) => x.getD k 0
  let e := at_ 4
  let a := at_ 0
  let t1 := at_ 7 + (e.rotateRight 14 ^^^ e.rotateRight 18 ^^^ e.rotateRight 41) + ((e &&& at_ 5) ^^^ (~~~e &&& at_ 6)) + kw
  let t2 := (a.rotateRight 28 ^^^ a.rotateRight 34 ^^^ a.rotateRight 39) + ((a &&& at_ 1) ^^^ (a &&& at_ 2) ^^^ (at_ 1 &&& at_ 2))
  [t1 + t2, a, at_ 1, at_ 2, at_ 3 + t1, e, at_ 5, at_ 6]

/-- The chaining value after a block. -/
def shaBlock (h : List W64) (block : List Byte) : List W64 :=
  let ws := (List.range 16).map fun k => w64 (natOfBE ((block.drop (8 * k)).take 8))
  let sched := (shaSchedule 64 ws.reverse).reverse
  let x := ((shaConsts.zip sched).map fun p => p.1 + p.2).foldl shaRound h
  (h.zip x).map fun p => p.1 + p.2

/-- The SHA-384 digest of some bytes: 48 bytes. -/
def sha384 (bs : List Byte) : List Byte :=
  let m := shaPad bs
  let h := (List.range (m.length / 128)).foldl (fun h k => shaBlock h ((m.drop (128 * k)).take 128)) shaInit
  (h.take 6).flatMap fun w => bytesBE 8 w.toNat

/-! ### ECDSA on brainpoolP384r1 -/

/-- The curve y² = x³ + a·x + b over the field of p elements, and the order n of its base point. -/
def bpP : Nat := 0x8CB91E82A3386D280F5D6F7E50E641DF152F7109ED5456B412B1DA197FB71123ACD3A729901D1A71874700133107EC53
def bpA : Nat := 0x7BC382C63D8C150C3C72080ACE05AFA0C2BEA28E4FB22787139165EFBA91F90F8AA5814A503AD4EB04A8C7DD22CE2826
def bpB : Nat := 0x04A8C7DD22CE28268B39B55416F0447C2FB77DE107DCD2A62E880EA53EEB62D57CB4390295DBC9943AB78696FA504C11
def bpN : Nat := 0x8CB91E82A3386D280F5D6F7E50E641DF152F7109ED5456B31F166E6CAC0425A7CF3AB6AF6B7FC3103B883202E9046565
/-- The base point. -/
def bpG : Nat × Nat :=
  (0x1D1C64F068CF45FFA2A63A81B7C13F6B8847A3E77EF14FE3DB7FCAFE0CBD10E8E826E03436D646AAEF87B2E247D4AF1E,
   0x8ABE1D7520F9C2A45CB1EB8E95CFD55262B70B29FEEC5864E19C054FF99129280E4646217791811142820341263C5315)

/-- x to a power below 2^k, modulo m. -/
def powMod (m x e : Nat) : Nat → Nat
  | 0 => 1 % m
  | k + 1 =>
    let r := powMod m x (e / 2) k
    if e % 2 = 1 then r * r % m * x % m else r * r % m
/-- The inverse of x modulo a prime of 384 bits. -/
def invMod (m x : Nat) : Nat := powMod m (x % m) (m - 2) 384

/-- The sum of two points; none is the point at infinity. -/
def ecAdd (p q : Option (Nat × Nat)) : Option (Nat × Nat) :=
  match p, q with
  | none, q => q
  | p, none => p
  | some (x1, y1), some (x2, y2) =>
    if x1 = x2 ∧ (y1 + y2) % bpP = 0 then none
    else
      let l := if x1 = x2 then (3 * x1 * x1 + bpA) * invMod bpP (2 * y1) % bpP
        else (y2 + bpP - y1) * invMod bpP (x2 + bpP - x1) % bpP
      let x3 := (l * l + 2 * bpP - x1 - x2) % bpP
      some (x3, (l * (x1 + bpP - x3) + bpP - y1) % bpP)

/-- A multiple below 2^k of a point. -/
def ecMul (e : Nat) (p : Option (Nat × Nat)) : Nat → Option (Nat × Nat)
  | 0 => none
  | k + 1 =>
    let r := ecMul (e / 2) p k
    let d := ecAdd r r
    if e % 2 = 1 then ecAdd d p else d

/-- The signature r, s of 48 bytes each, big-endian, of a digest, verifies under a public key. -/
def ecdsaVerify (key : Nat × Nat) (digest sig : List Byte) : Bool :=
  let r := natOfBE (sig.take 48)
  let s := natOfBE ((sig.drop 48).take 48)
  let w := invMod bpN s
  decide (0 < r) && decide (r < bpN) && decide (0 < s) && decide (s < bpN)
  && match ecAdd (ecMul (natOfBE digest * w % bpN) (some bpG) 384) (ecMul (r * w % bpN) (some key) 384) with
    | some (x, _) => x % bpN == r
    | none => false

/-- The signature of a digest under a private key, with a number of the signer's choice for this signature. -/
def ecdsaSign (key k : Nat) (digest : List Byte) : List Byte :=
  let r := match ecMul k (some bpG) 384 with | some (x, _) => x % bpN | none => 0
  bytesBE 48 r ++ bytesBE 48 (invMod bpN k * ((natOfBE digest + r * key) % bpN) % bpN)

end Sys2Proof.Machine
end

