-- ==== Sys2Proof/Machine/Service.lean ====
section
/-! DEFINITION. The service block (R17, R418 to R422): starts, firmware, the split, microcode, spare cores, recalibration and
attestation. -/

namespace Sys2Proof.Machine

/-! ### Images (R419) -/

/-- The bytes of an image in host memory. -/
def State.imageBytes (s : State) (addr len : Nat) : List Byte := (List.range len).map fun k => s.rdByte (2 ^ 51 + addr + k)

/-- The image at SV_FWADDR: its digest, where its signature verifies. -/
def State.verifyImage (s : State) : Option (List Byte) :=
  let len := s.svc.fwLen.toNat
  if len < 96 then none
  else
    let d := sha384 (s.imageBytes s.svc.fwAddr.toNat (len - 96))
    if ecdsaVerify Config.fusedKey d (s.imageBytes (s.svc.fwAddr.toNat + (len - 96)) 96) then some d else none

/-! ### Starts (R418) -/

/-- The partitions of a split, at reset (R15). -/
def resetParts (split : Nat) : List Part :=
  match split with
  | 0 => [Part.reset 4]
  | 1 => [Part.reset 2, Part.reset 2]
  | _ => List.replicate 4 (Part.reset 1)

/-- The retained values pass the monitor check (R418): every ring oscillator reads within 2% of its calibrated value, and every core
sensor that passes its self-check within 5 °C of the value recorded with the calibration. Log 7 (DEDUCED). -/
def State.monitorPass (s : State) : Bool :=
  let near := fun (x y d : Int) => decide (x ≤ y + d) && decide (y ≤ x + d)
  let now := s.time.toNat
  let cal := s.svc.calAt.toNat
  ((List.range Config.oscCount).all fun k =>
    near (100 * (Config.oscillator k now : Int)) (100 * (Config.oscillator k cal : Int)) (2 * (Config.oscillator k cal : Int)))
  && (List.range 576).all fun k => !Config.sensorValid k now || near (Config.sensor k now).toInt (Config.sensor k cal).toInt 20

/-- A start begins with its first step: everything is as after reset but host memory, the ports, and the positions in use; and in a warm
start what is marked kept: reference time (R395), the split (R422), the banks' modes (R218) and the debug modes (R409). Where the
firmware lies is known until step 5 has read it (R419). No partition works until the start is complete. Log 14 (DEDUCED). -/
def State.start (s : State) (warm skip : Bool) : State :=
  { State.reset with
    time := if warm then s.time else 0
    sampled := if warm then s.sampled else 0
    mem := s.mem.filter fun e => decide (2 ^ 51 ≤ e.1)
    cores := s.cores.map fun (k : Core) => { Core.reset with fenced := k.fenced, spare := k.spare }
    stands := if warm then s.stands.map fun (k : Stand) => { Stand.reset with modes := k.modes } else State.reset.stands
    parts := []
    svc := { Service.reset with
      split := if warm then s.svc.split else 0, boot := 1, bootErr := 0, skipped := skip
      kept := if warm then (if s.parts.isEmpty then s.svc.kept else s.parts.map fun (q : Part) => q.dbgCtl.toNat % 4) else []
      calAt := if warm then s.svc.calAt else 0, ports := s.svc.ports, fwAddr := s.svc.fwAddr, fwLen := s.svc.fwLen }
    msix := s.msix
    cur := s.cur
    inputs := s.inputs
    free := s.free
    nextId := s.nextId }

/-- START_COLD (R418). -/
def execStartCold (s : State) : Out := .next (s.start false false)

/-- START_WARM (R418): steps 2 and 3 are skipped where the retained values pass the monitor check. -/
def execStartWarm (s : State) : Out := .next (s.start true s.monitorPass)

/-- A start is at a step, but for that of the firmware, that is to end (R418). -/
def Service.booting (v : Service) : Bool := v.bootErr == 0 && (decide (1 ≤ v.boot) && decide (v.boot ≤ 4) || v.boot == 6)

/-- The current step of a start, 1 to 4 or 6, ends (R418): one that fails stops the start; calibration records when it was made; after
step 6, whose scrubbed frames the start has emptied already, the device runs. -/
def State.bootStep (s : State) : State :=
  let k := s.svc.boot
  if k = 6 then { s.serviceEvent with
    svc := { s.svc with boot := 7, kept := [] }
    parts := (resetParts s.svc.split).zipIdx.map fun (q : Part × Nat) => { q.1 with dbgCtl := w64 (s.svc.kept.getD q.2 0) } }
  else if Config.startStep k s.time.toNat ≠ 0 then
    { s.serviceEvent with svc := { s.svc with bootErr := (Config.startStep k s.time.toNat).toNat } }
  else { s with svc := { s.svc with
    boot := if k = 1 ∧ s.svc.skipped then 4 else k + 1
    calAt := if k = 3 then s.time else s.svc.calAt } }

/-- FIRMWARE_VERIFY (R418, R419): step 5; where the image verifies, step 6 is the current one. SV_FWADDR and SV_FWLEN then read 0, as after
a start. -/
def execFirmwareVerify (s : State) : Out :=
  if s.svc.boot = 5 ∧ s.svc.bootErr = 0 then
    match s.verifyImage with
    | some d => .next { s with svc := { s.svc with boot := 6, measure := d, fwAddr := 0, fwLen := 0 } }
    | none => .next { s.serviceEvent with svc := { s.svc with bootErr := 5, fwAddr := 0, fwLen := 0 } }
  else .next s

/-! ### The split (R15, R422) -/

/-- A new split: the registers of its partitions are at reset, their shares cut to the module cap as a lower cap would cut them, and
identifiers begin again (R15, R367). Device copies of host bytes stay under the numbers of the old partitions. Log 14 (DEDUCED). Log 37
(DEDUCED). Log 55 (DESIGN CHOICE). -/
def State.resplit (s : State) (k : Nat) : State :=
  { s.sweep (fun _ => true) with
    svc := { s.svc with split := k }
    parts := if s.svc.boot = 7 then (resetParts k).map fun (q : Part) => { q with
      share := BitVec.ofNat 12 (if s.svc.cap.toNat < 2600 then q.share.toNat * s.svc.cap.toNat / 2600 else q.share.toNat) } else []
    raised := []
    launches := []
    past := []
    ests := s.ests.map fun (e : Nat × Est) => (e.1, { e.2 with bound := 0, last := 0 })
    jobs := s.jobs.map fun (j : Job) => { j with part := partOfDie k j.die } }

/-- PARTITION_SPLIT (R422): accepted only while no admitted launch has not retired. -/
def execPartitionSplit (v : W64) (s : State) : Out :=
  let k := v.toNat % 4
  if k = 3 ∨ k = s.svc.split ∨ s.launches.any (fun l => !l.retired) then .next s else .next (s.resplit k)

/-! ### Microcode (R420) -/

/-- MICROCODE_UPDATE (R420): the image of a unit class verifies, and its units are to switch; or error 5. -/
def execMicrocodeUpdate (v : W64) (s : State) : Out :=
  if s.svc.uBusy then .next s
  else
    let cls := v.toNat % 256
    match s.verifyImage with
    | some d =>
      let units := List.range (Config.unitCount cls)
      .next { s with svc := { s.svc with uBusy := !units.isEmpty, uErr := 0, uClass := cls, uPend := units, uDig := SMap.set [] s.svc.uDig cls d } }
    | none => .next { s.serviceEvent with svc := { s.svc with uErr := 5, uClass := cls } }

/-- A unit is at an operation boundary: a yarder runs no job (R420). Any other unit is between two steps of the machine. -/
def State.unitIdle (s : State) (unit : Nat) : Bool :=
  match Config.unitYarder s.svc.uClass unit with
  | some (die, k) => !s.jobs.any fun j => j.at_ == some die && j.yarder == k
  | none => true

/-- MICROCODE_SWITCH (R420): at its operation boundary a unit takes the new copy; no result changes. -/
def execMicrocodeSwitch (unit : Nat) (s : State) : Out :=
  let left := s.svc.uPend.filter fun u => u != unit
  if !s.unitIdle unit then .next s
  else .next { (if s.svc.uBusy && left.isEmpty then s.serviceEvent else s) with svc := { s.svc with uPend := left, uBusy := s.svc.uBusy && !left.isEmpty } }

/-! ### Spare cores and recalibration (R17, R421) -/

/-- The spare of a die serves one of its positions. -/
def State.spareUsed (s : State) (die : Nat) : Bool :=
  (List.range 36).any fun k => match s.cores[36 * die + k]? with | some c => c.spare | none => false

/-- SPARE_SWAP (R421): the position takes no team from now on, its teams are evicted, and the spare takes it over; or it is
fenced. -/
def execSpareSwap (v : W64) (s : State) : Out :=
  let die := field v.toNat 9 8
  let core := 36 * die + field v.toNat 5 0
  if 36 ≤ field v.toNat 5 0 then .next s
  else
    let s1 := (s.coreTeams core).foldl (fun s t => s.evict t.id) s
    if s.spareUsed die then .next (s1.serviceEvent.modCore core fun k => { k with fenced := true })
    else .next (s1.modCore core fun k => { k with spare := true, swap := true })

/-- VAULT_RECAL (R421): the vault counts as refresh-bound meanwhile. -/
def execVaultRecal (v : W64) (s : State) : Out :=
  let k := v.toNat % 512
  .next { s with pairs := modAt s.pairs (k / 4) fun p => if p.recal.contains k then p else { p with recal := p.recal ++ [k] } }

/-- VAULT_RECAL_DONE (R421). -/
def execVaultRecalDone (vault : Nat) (s : State) : Out :=
  let done := match s.pairs[vault / 4]? with | some p => p.recal.contains vault | none => false
  .next { (if done then s.serviceEvent else s) with pairs := modAt s.pairs (vault / 4) fun p => { p with recal := p.recal.filter fun k => k != vault } }

/-! ### Attestation (R422) -/

/-- The fenced positions of a die. -/
def State.fencedOn (s : State) (die : Nat) : Nat :=
  ((List.range 36).filter fun k => match s.cores[36 * die + k]? with | some c => c.fenced | none => false).length

/-- The unit-image digests in ascending unit class. -/
def State.unitDigests (s : State) : List Byte :=
  (List.range 256).flatMap fun k => match SMap.get [] s.svc.uDig k with | [] => Config.unitDigest k | d => d

/-- The signed part of the report. -/
def State.reportBody (s : State) : List Byte :=
  bytesOfNat 8 1 ++ (List.range 16).map Config.serial
  ++ bytesOfNat 1 s.svc.split ++ (List.range 4).flatMap (fun d => bytesOfNat 1 (s.fencedOn d)) ++ zeros 3
  ++ fit 48 s.svc.nonce ++ fit 48 s.svc.measure ++ fit 48 (sha384 s.unitDigests) ++ zeros 80

/-- The device's signature of a digest: its choice for each signature lies in 1 to n − 1 (R422; log 54, PRESUMED). -/
def deviceSign (digest : List Byte) : List Byte := ecdsaSign Config.identityKey (1 + Config.signChoice digest % (bpN - 1)) digest

/-- ATTESTATION (R422): bit 0 go. -/
def execAttestation (v : W64) (s : State) : Out :=
  if v.getLsbD 0 then
    .next { s.serviceEvent with svc := { s.svc with attDone := true, report := s.reportBody ++ deviceSign (sha384 s.reportBody) } }
  else .next s

end Sys2Proof.Machine
end

