-- ==== Sys2Proof/Machine/Host.lean ====
section
/-! DEFINITION. The host's side of a partition (R410 to R417): reset, kicks of the host window, submissions, the registers
of BAR0 with their windows, and BAR2. -/

namespace Sys2Proof.Machine

/-! ### Partition reset (R412, R415) -/

/-- PARTITION_RESET (R412, R415): a write to PC_RESET, ignored unless the partition is halted. Log 42 (DEDUCED). -/
def execPartitionReset (part : Nat) (v : W64) (s : State) : Out :=
  .next (s.modPart part fun q => if q.halted && v.getLsbD 0 then { q with resetting := true } else q)

/-- Every team of the partition ends, and every launch retires with record status 2. -/
def State.endAll (s : State) (part : Nat) : State :=
  let s1 := (s.teams.filter fun t => t.part == part).foldl (fun s t => s.freeTeam t.id) s
  let live := s1.launches.filter fun l => l.part == part && !l.retired
  live.foldl (fun s l => (s.modLaunch part l.lid fun m => { m with halted := true, commits := [] }).retireLaunch l) s1

/-- Every frame that the partition owned is pending (R213). -/
def State.pendFrames (s : State) (part : Nat) : State :=
  ((s.frames.filter fun e => (e.2.state == 1 || e.2.state == 2) && e.2.owner == part).map (·.1)).foldl (fun s f => s.freeFrame part f) s

/-- What is cleared in a partition, its fault queue and debug agent among it; the registers of R412 stay, and with them a submission of
the host that has no result yet and a kick that runs. -/
def Part.cleared (q : Part) : Part := { q with
  halted := false, resetting := false, subs := q.subs.filter (·.crew.isNone), requeue := [], reqPassed := [], passedOver := []
  departed := [], slopeLids := [], slopeOwed := [], migs := [], fqBase := 0, fqSize := 0, fqHead := 0, fqTail := 0, fqHeld := []
  dbgCtl := 0, ering := Ring.reset, tring := Ring.reset, sper := 0, dropE := 0, dropT := 0, seqE := 0, seqT := 0
  bps := List.replicate 4 0, dbgArg := 0, dbgData := 0, dbgBusy := none, dbgRes := 0 }

/-- PARTITION_RESET_DONE (R415). -/
def execPartitionResetDone (part : Nat) (s : State) : Out :=
  match s.part? part with
  | some q =>
    if q.resetting then
      let s1 := s.endAll part
      let s2 := { s1 with
        jobs := s1.jobs.filter fun (j : Job) => !(j.part == part) || (match j.kind with | .scrub _ => true | _ => false)
        raised := SMap.set [] s1.raised part [] }
      .next ((s2.pendFrames part).modPart part Part.cleared)
    else .next s
  | none => .next s

/-! ### Kicks (R413) -/

/-- The region of a kick as home keys of its partition: its first byte and length, widened to 512-byte boundaries. -/
def Part.kickRegion (q : Part) (part : Nat) : Nat × Nat :=
  let lo := q.kbase.toNat / 512 * 512
  (homeKey part (2 ^ 51 + lo), roundUp (q.kbase.toNat + q.klen.toNat) 512 - lo)

/-- A go of PC_KCTL: ignored while a kick runs; a length of 0 completes at once. Log 41 (DEDUCED). -/
def State.kick (s : State) (part : Nat) (out : Bool) : State :=
  match s.part? part with
  | some q =>
    if q.kbusy || q.klen == 0 then s.modPart part fun q => { q with kdir := out }
    else
      let s0 := if out then s.mergeWhere fun e => decide ((q.kickRegion part).1 ≤ 32 * e.gran) && decide (32 * e.gran < (q.kickRegion part).1 + (q.kickRegion part).2) else s
      (s0.handoverEffect out [q.kickRegion part]).modPart part fun q => { q with kbusy := true, kdir := out }
  | none => s

/-- KICK_IN (R413). -/
def execKickIn (part : Nat) (s : State) : Out := .next (s.kick part false)
/-- KICK_OUT (R413). -/
def execKickOut (part : Nat) (s : State) : Out := .next (s.kick part true)
/-- KICK_COMPLETE (R413). -/
def execKickComplete (part : Nat) (s : State) : Out := .next (s.modPart part fun q => { q with kbusy := false })

/-! ### Submissions, the stop area and ports (R412, R414, R416) -/

/-- LAUNCH_SUBMIT (R414): a write to LN_GO, ignored while busy. -/
def execLaunchSubmit (part : Nat) (v : W64) (s : State) : Out :=
  .next (s.modPart part fun q =>
    if q.lnBusy || !v.getLsbD 0 then q else { q with lnBusy := true, subs := q.subs ++ [⟨q.lnBlock, [], none, 0⟩] })

/-- STOP_AREA_SET (R412): a write to PC_STOPA. -/
def execStopAreaSet (part : Nat) (v : W64) (s : State) : Out :=
  .next (s.modPart part fun q => { q with stopA := v &&& 0x000FFFFFFFFFFFFF })

/-- PORT_TRAINED_AND_UP (R412). -/
def execPortTrainedAndUp (port : Nat) (up : Bool) (s : State) : Out :=
  let b : BitVec 12 := 1 <<< port
  .next { s with svc := { s.svc with ports := if up then s.svc.ports ||| b else s.svc.ports &&& ~~~b } }

/-- The ports of a partition (R416). -/
def partPorts (split p : Nat) : BitVec 12 :=
  match split, p with
  | 0, 0 => 0xFFF
  | 1, 0 => 0x03F
  | 1, 1 => 0xFC0
  | 2, 0 => 0x007
  | 2, 2 => 0x038
  | 2, 1 => 0x1C0
  | 2, 3 => 0xE00
  | _, _ => 0

/-! ### BAR0: writes (R3, R4, R411, R412, R413, R215, R356, R371, R408, R422) -/

/-- Replace bits 63 to 32 of the head of a ring. -/
def Ring.setHead (r : Ring) (v : W64) : Ring := { r with head := v.extractLsb' 32 32 }

/-- A write to the control window of a partition (R412). -/
def writeControl (part off : Nat) (v : W64) (s : State) : Out :=
  match off with
  | 0x008 => execPartitionReset part v s
  | 0x010 => execStopAreaSet part v s
  | 0x020 => .next (s.modPart part fun q => { q with kbase := v })
  | 0x028 => .next (s.modPart part fun q => { q with klen := v })
  | 0x030 =>
    if v.getLsbD 0 then (if v.getLsbD 1 then execKickOut part s else execKickIn part s)
    else .next (s.modPart part fun q => { q with kdir := v.getLsbD 1 })
  | 0x040 => .next (s.modPart part fun q => { q with lnBlock := v })
  | 0x048 => execLaunchSubmit part v s
  | 0x058 => execCompletionRingSet part v s
  | 0x060 => execCompletionRingHead part v s
  | 0x080 => .next (s.modPart part fun q => { q with gtab := v &&& 0x000FFFFFFFFFFFFF })
  | _ => .next s

/-- A write to the memory window of a partition (R215). -/
def writeMemory (part off : Nat) (v : W64) (s : State) : Out :=
  match off with
  | 0x000 => .next (s.modPart part fun q => { q with invBase := v })
  | 0x008 => .next (s.modPart part fun q => { q with invLen := v })
  | 0x010 => execInvalidationGo part v s
  | 0x020 => execFaultQueueBase part v s
  | 0x028 => execFaultQueueHead part v s
  | 0x030 => execFaultAnswer part v s
  | 0x040 => .next (s.modPart part fun q => { q with
      migMode := v.getLsbD 16, thresh := v.extractLsb' 8 8, mblock := v.extractLsb' 0 5 })
  | 0x048 => .next (s.modPart part fun q => { q with migCost := v.extractLsb' 0 32 })
  | 0x050 => execNearRingSet part v s
  | 0x058 => execFrameFree part v s
  | 0x060 => .next (s.modPart part fun q => { q with nearTail := v.extractLsb' 0 32 })
  | 0x068 => execReleasedRingSet part v s
  | 0x070 => .next (s.modPart part fun q => { q with relHead := v.extractLsb' 32 32 })
  | _ => .next s

/-- A write to the landing window of a partition (R356). -/
def writeLanding (part off : Nat) (v : W64) (s : State) : Out :=
  match off with
  | 0x020 => execEstimatorFree part v s
  | 0x030 => execSnapshotPoolSet part false v s
  | 0x038 => execSnapshotPoolSet part true v s
  | 0x040 => .next (s.modPart part fun q => { q with rsel := v.extractLsb' 0 16 })
  | _ => .next s

/-- A write to the power window of a partition (R371). -/
def writePower (part off : Nat) (v : W64) (s : State) : Out :=
  match off with
  | 0x000 => execPowerCapSet part v s
  | 0x008 => execPowerShareSet part v s
  | 0x010 => execVaultFloorSet part v s
  | 0x018 => execClassChange part v s
  | 0x028 => .next (s.modPart part fun q => { q with tsel := v.extractLsb' 0 13 })
  | _ => .next s

/-- A write to DBG_CMD (R401, R408). -/
def writeCommand (part : Nat) (v : W64) (s : State) : Out :=
  match v.toNat % 16 with
  | 1 => execDebugHold part v s
  | 2 => execDebugRelease part v s
  | 3 => execDebugStep part v s
  | 4 => execDebugDump part v s
  | 5 => execDebugWriteVreg part v s
  | 6 => execDebugWriteSreg part v s
  | _ => .next (s.badCommand part)

/-- A write to the debug window of a partition (R408). -/
def writeDebug (part off : Nat) (v : W64) (s : State) : Out :=
  match off with
  | 0x000 => .next (s.modPart part fun q => { q with dbgCtl := v &&& 0xFFFFFFFF0000000F })
  | 0x008 => execEventRingSet part false v s
  | 0x010 => .next (s.modPart part fun q => { q with ering := q.ering.setHead v })
  | 0x018 => execEventRingSet part true v s
  | 0x020 => .next (s.modPart part fun q => { q with tring := q.tring.setHead v })
  | 0x028 => .next (s.modPart part fun q => { q with sper := v.extractLsb' 0 24 })
  | 0x030 => execDropCountClear part s
  | 0x060 => writeCommand part v s
  | 0x068 => .next (s.modPart part fun q => { q with dbgArg := v &&& 0x3FFFF })
  | 0x070 => .next (s.modPart part fun q => { q with dbgData := v })
  | _ =>
    if 0x040 ≤ off ∧ off < 0x060 ∧ off % 8 = 0 then
      .next (s.modPart part fun q => { q with bps := setAt q.bps ((off - 0x040) / 8) (v &&& 0x000FFFFFFFFFFFFD) })
    else .next s

/-- A write to the service window (R422). SV_START takes the whole value: one with further bits set starts nothing. Log 55 (DESIGN
CHOICE). -/
def writeService (off : Nat) (v : W64) (s : State) : Out :=
  match off with
  | 0x008 => if v = 1 then execStartCold s else if v = 2 then execStartWarm s else .next s
  | 0x010 => .next { s with svc := { s.svc with fwAddr := v } }
  | 0x018 => .next { s with svc := { s.svc with fwLen := v } }
  | 0x020 => execPartitionSplit v s
  | 0x028 => execMicrocodeUpdate v s
  | 0x038 => execSpareSwap v s
  | 0x040 => execVaultRecal v s
  | 0x130 => execAttestation v s
  | _ =>
    if 0x100 ≤ off ∧ off < 0x130 ∧ off % 8 = 0 then
      let k := off - 0x100
      .next { s with svc := { s.svc with nonce := s.svc.nonce.take k ++ bytesOfNat 8 v.toNat ++ s.svc.nonce.drop (k + 8) } }
    else .next s

/-- REGISTER_WRITE (R3, R4, R411): a 64-bit write at an offset of BAR0. A window of a partition that does not exist ignores it,
as do read-only and reserved fields. Log 22 (DEDUCED). -/
def execRegisterWrite (off : Nat) (v : W64) (s : State) : Out :=
  let part := off / 0x1000000
  let reg := off % 0x10000
  if part = 4 then (if off % 0x1000000 < 0x10000 then writeService reg v s else .next s)
  else if (s.part? part).isNone then .next s
  else match off % 0x1000000 / 0x10000 with
    | 0 => writeControl part reg v s
    | 1 => writeMemory part reg v s
    | 2 => writeLanding part reg v s
    | 3 => writePower part reg v s
    | 4 => writeDebug part reg v s
    | _ => .next s

/-! ### BAR0: what the registers read as (R3, R411) -/

/-- PC_STAT (R412). Log 23 (DEDUCED). -/
def State.controlStat (s : State) (part : Nat) (q : Part) : W64 :=
  let dies := partDies s.svc.split part
  let n := dies.foldl (fun n d => n + s.fencedOn d) 0
  w64 (bitAt q.halted 0 + bitAt q.resetting 1 + bitAt (decide (n ≠ 0)) 2 + min n 15 * 2 ^ 4 + dies.foldl (fun m d => m + 2 ^ (8 + d)) 0)

/-- Two 32-bit pointers. -/
def ptrs (hi lo : W32) : W64 := w64 (hi.toNat * 2 ^ 32 + lo.toNat)

/-- A register of the control window (R412, R413). -/
def readControl (s : State) (part off : Nat) (q : Part) : W64 :=
  match off with
  | 0x000 => s.controlStat part q
  | 0x010 => q.stopA
  | 0x020 => q.kbase
  | 0x028 => q.klen
  | 0x030 => w64 (bitAt (!q.kbusy) 32 + bitAt q.kdir 1)
  | 0x040 => q.lnBlock
  | 0x050 => w64 (bitAt q.lnBusy 63 + q.lnStatus % 16 * 2 ^ 32 + q.lnId.toNat)
  | 0x058 => q.cring.reg
  | 0x060 => ptrs q.cring.head q.cring.tail
  | 0x080 => q.gtab
  | 0x088 => (s.svc.ports &&& partPorts s.svc.split part).setWidth 64
  | _ => 0

/-- A register of the memory window (R215). -/
def readMemory (off : Nat) (q : Part) : W64 :=
  match off with
  | 0x000 => q.invBase
  | 0x008 => q.invLen
  | 0x010 => w64 (bitAt q.full 33 + bitAt (decide (q.done = q.issued)) 32 + q.issued.toNat * 2 ^ 16 + q.invAsid.toNat)
  | 0x018 => q.done.setWidth 64
  | 0x020 => q.fqBase
  | 0x028 => w64 (q.fqSize.toNat * 2 ^ 32 + q.fqHead.toNat * 2 ^ 16 + q.fqTail.toNat)
  | 0x040 => w64 (bitAt q.migMode 16 + q.thresh.toNat * 2 ^ 8 + q.mblock.toNat)
  | 0x048 => q.migCost.setWidth 64
  | 0x050 => q.nearReg
  | 0x060 => ptrs q.nearHead q.nearTail
  | 0x068 => q.relReg
  | 0x070 => ptrs q.relHead q.relTail
  | _ => 0

/-- The free estimator slots of a partition's landings. -/
def State.freeSlotsOf (s : State) (part : Nat) : Nat :=
  4096 * (partDies s.svc.split part).length
  - (s.ests.filter fun e => e.2.allot && partOfDie s.svc.split (e.1 / 4096) == part).length

/-- The image that LD_RSEL selects, latched at the read of offset 0x080 (R356); zero where the handle is not valid. -/
def State.selected (s : State) (part : Nat) (q : Part) : List W64 :=
  if s.estValid part q.rsel.toNat then (s.est q.rsel.toNat).image else List.replicate 8 0

/-- A register of the landing window, and the state after its read (R333, R356). -/
def readLanding (s : State) (part off : Nat) (q : Part) : W64 × State :=
  match off with
  | 0x028 => (w64 (bitAt q.ldRefused 0 + s.freeSlotsOf part * 2 ^ 16), s)
  | 0x030 => (q.snapBase, s)
  | 0x038 => (q.snapLen.setWidth 64, s)
  | 0x040 => (q.rsel.setWidth 64, s)
  | 0x080 => ((s.selected part q).getD 0 0, s.modPart part fun q => { q with ldImage := s.selected part q })
  | _ =>
    if off < 0x020 ∧ off % 8 = 0 then s.allotEst part (off / 8)
    else if 0x080 < off ∧ off < 0x0C0 ∧ off % 8 = 0 then (q.ldImage.getD ((off - 0x080) / 8) 0, s)
    else (0, s)

/-- The core pair of a sensor number, and the die it is on; none for an unassigned number (R371). -/
def sensorDie (n : Nat) : Option Nat :=
  if n < 576 then some (n / 144) else if 1024 ≤ n ∧ n < 4480 then some ((n - 1024) / 864) else none

/-- PW_TREAD (R357, R371): the sensor's latest sample. -/
def State.sensorRead (s : State) (part n : Nat) : W64 :=
  match sensorDie n with
  | some d =>
    if partOfDie s.svc.split d = part ∧ 0 < s.sampled ∧ Config.sensorValid n (1000 * (s.sampled - 1)) then
      w64 ((Config.sensor n (1000 * (s.sampled - 1))).toNat + 2 ^ 12)
    else 0
  | none => 0

/-- A register of the power window (R371). -/
def readPower (s : State) (part off : Nat) (q : Part) : W64 × State :=
  match off with
  | 0x000 => (s.svc.cap.setWidth 64, s)
  | 0x008 => (q.share.setWidth 64, s)
  | 0x010 => (q.floor.setWidth 64, s)
  | 0x018 => (w64 q.cls, s)
  | 0x020 => (s.powerStatus part, s.modPart part fun q => { q with refused := false })
  | 0x028 => (q.tsel.setWidth 64, s)
  | 0x030 => (s.sensorRead part q.tsel.toNat, s)
  | 0x038 => (if q.tsel.toNat < 576 then
      w64 ((Config.heatCap (q.tsel.toNat / 8)).toNat + (Config.dramPj (q.tsel.toNat / 8)).toNat * 2 ^ 16) else 0, s)
  | _ => (0, s)

/-- A register of the debug window (R408). -/
def readDebug (off : Nat) (q : Part) : W64 :=
  match off with
  | 0x000 => q.dbgCtl
  | 0x008 => q.ering.reg
  | 0x010 => ptrs q.ering.head q.ering.tail
  | 0x018 => q.tring.reg
  | 0x020 => ptrs q.tring.head q.tring.tail
  | 0x028 => q.sper.setWidth 64
  | 0x030 => ptrs q.dropT q.dropE
  | 0x068 => q.dbgArg
  | 0x070 => q.dbgData
  | 0x078 => w64 (bitAt q.dbgBusy.isSome 0 + q.dbgRes % 8 * 2)
  | _ => if 0x040 ≤ off ∧ off < 0x060 ∧ off % 8 = 0 then q.bps.getD ((off - 0x040) / 8) 0 else 0

/-- A register of the service window (R422). -/
def readService (s : State) (off : Nat) : W64 :=
  let v := s.svc
  match off with
  | 0x000 => w64 (v.boot % 16 + v.bootErr % 16 * 2 ^ 8 + bitAt v.skipped 16)
  | 0x010 => v.fwAddr
  | 0x018 => v.fwLen
  | 0x020 => w64 v.split
  | 0x030 => w64 (bitAt v.uBusy 0 + v.uErr % 16 * 2 ^ 8)
  | 0x130 => w64 (bitAt v.attDone 32)
  | _ =>
    if off % 8 ≠ 0 then 0
    else if 0x100 ≤ off ∧ off < 0x130 then w64 (natOfBytes ((v.nonce.drop (off - 0x100)).take 8))
    else if 0x200 ≤ off ∧ off < 0x360 then w64 (natOfBytes ((v.report.drop (off - 0x200)).take 8))
    else if 0x400 ≤ off ∧ off < 0xC00 then w64 (natOfBytes ((List.range 8).map fun k => Config.certificate (off - 0x400 + k)))
    else 0

/-- What a 64-bit host read at an offset of BAR0 returns, and the state after it (R3, R411). -/
def State.readReg (s : State) (off : Nat) : W64 × State :=
  let part := off / 0x1000000
  let reg := off % 0x10000
  if part = 4 then (if off % 0x1000000 < 0x10000 then (readService s reg, s) else (0, s))
  else match s.part? part with
    | none => (0, s)
    | some q => match off % 0x1000000 / 0x10000 with
      | 0 => (readControl s part reg q, s)
      | 1 => (readMemory reg q, s)
      | 2 => readLanding s part reg q
      | 3 => readPower s part reg q
      | 4 => (readDebug reg q, s)
      | _ => (0, s)

/-! ### BAR2 (R246, R249, R410) -/

/-- The bytes a host write stores no longer carry a release; it is part of no conflicting pair (R248, R249). -/
def State.hostStored (s : State) (pa : Nat) : State :=
  if s.det.any (fun d => d.gran == .mem (pa / 32)) then s.setDet ((s.detOf (.mem (pa / 32))).stored (granBytes pa 1) false []) else s

/-- What a host read through BAR2 returns. -/
def State.bar2Read (s : State) (addr len : Nat) : List Byte := (List.range len).map fun k => s.rdByte (addr + k)

/-- BAR2_ACCESS (R410): a host write of bytes, or a read of `len`, at a device DRAM address. Contributions to the granules it
touches merge before it (R246). -/
def execBar2Access (addr : Nat) (w : Option (List Byte)) (len : Nat) (s : State) : Out :=
  let n := match w with | some bs => bs.length | none => len
  if 4 * 0x003000000000 < addr + n ∨ s.svc.boot ≠ 7 then .next s
  else
    let s1 := s.mergeWhere fun e => decide (addr < 32 * e.gran + 32) && decide (32 * e.gran < addr + n)
    match w with
    | some bs => .next (((List.range n).foldl (fun s k => s.hostStored (addr + k)) s1).wrBytes addr bs)
    | none => .next s1

end Sys2Proof.Machine
end

