-- ==== Sys2Proof/Machine/Agenda.lean ====
section
/-! DEFINITION. What the machine does next (log 1, DESIGN CHOICE): the input that is named; else the steps that can happen of themselves, one
by one; else the picks of a clock, each core's words of which then act before anything else; else a clock of every core. The meaning of the instructions is the parameter `run`. -/

namespace Sys2Proof.Machine

/-! ### Waits -/

/-- A path tries its word again; a path that is ready from the next clock on keeps its wait (R88). -/
def Path.unwait (p : Path) : Path := if p.wait = some stNext then p else { p with wait := none }
/-- Every path tries its word again. -/
def State.clearWaits (s : State) : State :=
  { s with crews := s.crews.map fun (c : Crew) => { c with paths := c.paths.map Path.unwait } }
/-- The outcome with the waits ended. -/
def retry (o : Out) : Out := match o with | .next t => .next t.clearWaits | o => o

/-! ### The steps that can happen of themselves -/

/-- The event of an access of a path. -/
def accEvent (r : PathRef) (x : Acc) : Instr :=
  match x.kind with
  | .load => .loadTakesEffect r x.id
  | .store => .storeTakesEffect r x.id
  | .comm => .storeBufferLeave r x.id
  | .atomic => .returningAtomic r x.id
  | .cwait => .loadTakesEffect r x.id

/-- The events of a path. -/
def pathEvents (c : Crew) (core i : Nat) : List Instr :=
  let r : PathRef := ⟨core, c.slot, i⟩
  let p := c.path i
  ((p.queue ++ p.sbuf).map (accEvent r))
  ++ (if i < 8 ∧ p.st ≠ .free then
    [.trapDispatch r, .deferralHoldExpiry r, .switchMarkerWaitEnd r, .reggrowGrant r, .writeReservationGrant r, .tileAllotment r
     , .obresGrant r, .scratchRefillDone r, .translationWalkDone r, .wordReplay r, .handoverComplete r, .stepComplete r] else [])

/-- The events of a crew on a core. -/
def crewEvents (core : Nat) (c : Crew) : List Instr :=
  ((List.range 9).flatMap fun i => pathEvents c core i) ++ c.words.map fun w => .longLatencyWriteback core c.slot w.wid

/-- The events of a core with a crew on it. -/
def State.coreEvents (s : State) (core : Nat) : List Instr :=
  match s.coreCrews core with
  | [] => []
  | cs => (cs.flatMap fun c => crewEvents core c) ++ [.forwardProgressEviction core, .allotmentDeadlockEviction core]
    ++ match s.arrayJoint core with | some (_, j) => if 7 ≤ j.bands then [.jointComplete core] else [] | none => []

/-- The events of a stand. -/
def standEvents (k : Nat) (d : Stand) : List Instr :=
  (d.drains.map fun b => .bankDrainDone k b) ++ (List.range d.cbuf.length).map fun i => .commutativeMerge k i

/-- The events of a team that has not retired. -/
def teamEvents (t : Team) : List Instr :=
  let r : TeamRef := ⟨t.part, t.launch, t.index⟩
  if t.retired then [] else [.jointForm r, .sliceExpiry r, .teamSave r]

/-- The events of a launch that has not retired. Its stop rules are tested in every landing step (R342). -/
def launchEvents (l : Launch) : List Instr :=
  let r : LaunchRef := ⟨l.part, l.lid⟩
  if l.retired then [] else [.stagingLogRelease r, .ticketPass r, .timeLimit r, .commitStep r, .stopRuleFire r, .launchCompletion r]

/-- The events of a job. -/
def jobEvents (j : Job) : List Instr :=
  match j.kind with
  | .scrub f => [.scrubComplete f]
  | .migrate leaf => [.migration j.part leaf]
  | .card _ => [.gatherQueueEntry j.part j.id, .jobComplete j.part j.id]

/-- A command that waits is tried again (R401). -/
def commandEvents (part : Nat) (q : Part) : List Instr :=
  match q.dbgBusy with
  | some b => if b.toNat % 16 = 5 then [.debugWriteVreg part b] else if b.toNat % 16 = 6 then [.debugWriteSreg part b] else []
  | none => []

/-- The events of a partition. -/
def partEvents (part : Nat) (q : Part) : List Instr :=
  [.invalidationComplete part, .jobDispatch part, .jobRemoteDispatch part, .admission part, .placement part, .priorityPreempt part
   , .classChangeDone part, .kickComplete part, .partitionResetDone part]
  ++ (q.migs.map fun m => .migrationComplete part m.leaf) ++ commandEvents part q

/-- The events of a core pair. -/
def pairEvents (k : Nat) (p : Pair) : List Instr :=
  (if 1000 ≤ p.cool then [.refreshClassFall k] else []) ++ p.recal.map fun v => .vaultRecalDone v

/-! ### The order of a clock's accesses at their homes (R242) -/

/-- The place of an access to memory: by package core number, crew slot and path index; 0 for an access to another space. -/
def State.accPlace (s : State) (r : PathRef) (id : Nat) : Nat :=
  match s.named r with
  | some (_, p) => if (p.queue ++ p.sbuf).any fun x => x.id == id && x.space == .mem then 1 + 256 * r.core + 16 * r.slot + r.path else 0
  | none => 0

/-- The launch has a COUPLED consumer, whose snapshots its landing writes to memory (R345). -/
def State.snapped (s : State) (r : LaunchRef) : Bool :=
  s.launches.any fun m => m.part == r.part && m.blk.dmode == 3 && m.blk.prod == r.launch && !m.retired

/-- The place of a step among those that reach homes in one clock, 0 for a step that reaches none: lane and scalar accesses, the
stands' buffers and the logs of deterministic mode, the yarders, a landing's snapshots (R242). Log 1 (DESIGN CHOICE). -/
def State.homePlace (s : State) : Instr → Nat
  | .loadTakesEffect r id | .storeTakesEffect r id | .storeBufferLeave r id | .returningAtomic r id => s.accPlace r id
  | .commutativeMerge .. | .stagingLogRelease .. | .ticketPass .. => 2 ^ 20
  | .jobComplete .. | .gatherQueueEntry .. | .collectiveTimeout .. | .scrubComplete .. | .migration .. => 2 ^ 20 + 1
  | .commitStep r | .stopRuleFire r => if s.snapped r then 2 ^ 20 + 2 else 0
  | _ => 0

/-- A step runs, but for one whose place has passed in this clock: it waits for the next (R242). -/
def inOrder (run : Instr → State → Out) (i : Instr) (s : State) : Out :=
  let n := s.homePlace i
  if 0 < n ∧ n < s.homeLast then .next s
  else match run i s with
    | .next t => .next (if n = 0 ∨ t = s then t else { t with homeLast := n })
    | o => o

/-- The steps of other agents that may be able to happen. -/
def State.happenings (s : State) : List Instr :=
  ((List.range s.cores.length).flatMap fun k => s.coreEvents k)
  ++ (s.stands.zipIdx.flatMap fun d => standEvents d.2 d.1)
  ++ (s.jobs.flatMap jobEvents)
  ++ (s.teams.flatMap teamEvents)
  ++ (s.launches.flatMap launchEvents)
  ++ (s.parts.zipIdx.flatMap fun q => partEvents q.2 q.1)
  ++ (s.pairs.zipIdx.flatMap fun p => pairEvents p.2 p.1)
  ++ (s.svc.uPend.map fun u => .microcodeSwitch u) ++ [.firmwareVerify, .sensorSample]

/-- The first of some steps that changes the machine, with its outcome. -/
def firstEnabled (run : Instr → State → Out) (s : State) : List Instr → Option Out
  | [] => none
  | i :: is =>
    match inOrder run i s with
    | .next t => if t = s then firstEnabled run s is else some (.next t)
    | o => some o

/-! ### Cores and clocks -/

/-- The first path that is to pass over a word (R382). -/
def State.firstSkipper (s : State) : Option (Crew × Nat) := (List.range s.cores.length).findSome? fun k => (s.skippers k).head?

/-- One event after another. -/
def runAll (run : Instr → State → Out) : List Instr → State → Out
  | [], s => .next s
  | i :: is, s => match run i s with
    | .next t => runAll run is t
    | o => o

/-- The cores whose clock runs. -/
def State.clocked (s : State) : List Nat := (List.range s.cores.length).filter fun k => match s.cores[k]? with | some c => !c.gated | none => false

/-- A clock of every core, or a sample that is due. -/
def clockStep (run : Instr → State → Out) (s : State) : Out :=
  match s.clocked.find? fun k => s.sampleDue k with
  | some k => run (.profileSample k) s
  | none => match s.clocked with
    | [] => .next { s with homeLast := 0 }
    | ks => runAll run (ks.map fun k => .coreClock k) s

/-- What happens where no input is named: the step of a start ends (R418); else the picks of every core are made at once, on the state of the clock's start. -/
def autoStep (run : Instr → State → Out) (s : State) : Out :=
  if s.svc.booting then .next s.bootStep
  else match firstEnabled run s s.happenings with
  | some o => retry o
  | none => match s.firstSkipper with
    | some (c, i) => .next (s.passOver c i)
    | none => match s.toPlan with
      | [] => clockStep run s
      | ks => .next (ks.foldl (fun s k => s.planCore run k true) s)

/-! ### The step -/

/-- A partition whose halt line a fault has raised, and which has not stopped yet (R383). -/
def State.toHalt (s : State) : Option Nat :=
  (List.range s.parts.length).find? fun p => match s.part? p with
    | some q => !q.halted && !(SMap.get [] s.raised p).isEmpty
    | none => false

/-- A core picks its words of the clock, unless it has. -/
def State.planInput (s : State) (run : Instr → State → Out) (core : Nat) (ahead : Bool) : State :=
  if s.toPlan.contains core then s.planCore run core ahead else s

/-- One step: the words picked for this clock act first; then a raised halt line (R383); then the input that is named; then what
the machine does of itself. Instruction words come only from cores. Log 10 (DESIGN CHOICE). Log 25 (DESIGN CHOICE). -/
def oneStep (run : Instr → State → Out) (s : State) : Out :=
  match s.nextPick with
  | some (core, k, t) => t.runPick run core k
  | none => match s.toHalt with
    | some p => run (.haltLine p) s
    | none => match s.inputs with
      | .event i :: rest => if (encode i).isSome then .next { s with inputs := rest } else retry (inOrder run i { s with inputs := rest })
      | .core k ahead :: rest => .next ({ s with inputs := rest }.planInput run k ahead)
      | .host pa bs :: rest => .next ({ s with inputs := rest }.hostWrite pa bs)
      | [] => autoStep run s

end Sys2Proof.Machine
end

