-- ==== Sys2Proof/Machine/LaneFloat.lean ====
section
/-! DEFINITION. The lane float words (R174 to R179). The words of type code 5, and those of R177, are long-latency
(R43). -/

namespace Sys2Proof.Machine

/-- FADD (R174). -/
def execFadd (w : LaneA) (s : State) : Out := laneElem s (.fadd w) .fadd w .elementwise w.ty.is64 (valFadd w)
/-- FSUB (R174). -/
def execFsub (w : LaneA) (s : State) : Out := laneElem s (.fsub w) .fsub w .elementwise w.ty.is64 (valFsub w)
/-- FMUL (R174). -/
def execFmul (w : LaneA) (s : State) : Out := laneElem s (.fmul w) .fmul w .elementwise w.ty.is64 (valFmul w)
/-- FFMA (R174). -/
def execFfma (w : LaneA) (s : State) : Out := laneElem s (.ffma w) .ffma w .elementwise w.ty.is64 (valFfma w)
/-- FMIN (R174). -/
def execFmin (w : LaneA) (s : State) : Out := laneElem s (.fmin w) .fmin w .elementwise w.ty.is64 (valFmin w)
/-- FMAX (R174). -/
def execFmax (w : LaneA) (s : State) : Out := laneElem s (.fmax w) .fmax w .elementwise w.ty.is64 (valFmax w)
/-- FCMP (R175). -/
def execFcmp (w : LaneA) (s : State) : Out := laneTest s (.fcmp w) .fcmp w w.ty.is64 (holdsFcmp w)
/-- FCLASS (R176). -/
def execFclass (w : LaneA) (s : State) : Out := laneElem s (.fclass w) .fclass w .elementwise w.ty.is64 (valFclass w)
/-- FRCP (R177). -/
def execFrcp (w : LaneA) (s : State) : Out := laneElem s (.frcp w) .frcp w .elementwise true (valFrcp w)
/-- FRSQ (R177). -/
def execFrsq (w : LaneA) (s : State) : Out := laneElem s (.frsq w) .frsq w .elementwise true (valFrsq w)
/-- FSQRT (R177). -/
def execFsqrt (w : LaneA) (s : State) : Out := laneElem s (.fsqrt w) .fsqrt w .elementwise true (valFsqrt w)
/-- FDIV (R177). -/
def execFdiv (w : LaneA) (s : State) : Out := laneElem s (.fdiv w) .fdiv w .elementwise true (valFdiv w)
/-- FEXP2 (R177). -/
def execFexp2 (w : LaneA) (s : State) : Out := laneElem s (.fexp2 w) .fexp2 w .elementwise true (valFexp2 w)
/-- FLOG2 (R177). -/
def execFlog2 (w : LaneA) (s : State) : Out := laneElem s (.flog2 w) .flog2 w .elementwise true (valFlog2 w)
/-- FCVT (R178): long-latency where either of its types is f64. -/
def execFcvt (w : LaneA) (s : State) : Out :=
  laneElem s (.fcvt w) .fcvt w .elementwise (decide (w.ty = .f64) || decide (w.srcTy = some .f64)) (valFcvt w)
/-- FRND (R179). -/
def execFrnd (w : LaneA) (s : State) : Out := laneElem s (.frnd w) .frnd w .elementwise w.ty.is64 (valFrnd w)

end Sys2Proof.Machine
end

