-- ==== Sys2Proof/Machine/LaneInt.lean ====
section
/-! DEFINITION. The lane integer words (R163 to R172) and the mask words of R182. Each names the value it computes lane
by lane, its tag class (R111) and its latency (R43). -/

namespace Sys2Proof.Machine

/-- VMOV (R171). -/
def execVmov (w : LaneA) (s : State) : Out := laneElem s (.vmov w) .vmov w .copy false (valVmov w)
/-- VADD (R166). -/
def execVadd (w : LaneA) (s : State) : Out := laneElem s (.vadd w) .vadd w .linear false (valVadd w)
/-- VSUB (R166). -/
def execVsub (w : LaneA) (s : State) : Out := laneElem s (.vsub w) .vsub w .linear false (valVsub w)
/-- VMUL (R166). -/
def execVmul (w : LaneA) (s : State) : Out := laneElem s (.vmul w) .vmul w .scaled false (valVmul w)
/-- VMULH (R166). -/
def execVmulh (w : LaneA) (s : State) : Out := laneElem s (.vmulh w) .vmulh w .elementwise false (valVmulh w)
/-- VMAD (R166). -/
def execVmad (w : LaneA) (s : State) : Out := laneElem s (.vmad w) .vmad w .elementwise false (valVmad w)
/-- VABSD (R166). -/
def execVabsd (w : LaneA) (s : State) : Out := laneElem s (.vabsd w) .vabsd w .elementwise false (valVabsd w)
/-- VMIN (R166). -/
def execVmin (w : LaneA) (s : State) : Out := laneElem s (.vmin w) .vmin w .elementwise false (valVmin w)
/-- VMAX (R166). -/
def execVmax (w : LaneA) (s : State) : Out := laneElem s (.vmax w) .vmax w .elementwise false (valVmax w)
/-- VAND (R166). -/
def execVand (w : LaneA) (s : State) : Out := laneElem s (.vand w) .vand w .elementwise false (valVand w)
/-- VOR (R166). -/
def execVor (w : LaneA) (s : State) : Out := laneElem s (.vor w) .vor w .elementwise false (valVor w)
/-- VXOR (R166). -/
def execVxor (w : LaneA) (s : State) : Out := laneElem s (.vxor w) .vxor w .elementwise false (valVxor w)
/-- VTRI (R167). -/
def execVtri (w : LaneA) (s : State) : Out := laneElem s (.vtri w) .vtri w .elementwise false (valVtri w)
/-- VSHL (R168). -/
def execVshl (w : LaneA) (s : State) : Out := laneElem s (.vshl w) .vshl w .scaled false (valVshl w)
/-- VSHR (R168). -/
def execVshr (w : LaneA) (s : State) : Out := laneElem s (.vshr w) .vshr w .elementwise false (valVshr w)
/-- VSAR (R168). -/
def execVsar (w : LaneA) (s : State) : Out := laneElem s (.vsar w) .vsar w .elementwise false (valVsar w)
/-- VFSHL (R169). -/
def execVfshl (w : LaneA) (s : State) : Out := laneElem s (.vfshl w) .vfshl w .elementwise false (valVfshl w)
/-- VFSHR (R169). -/
def execVfshr (w : LaneA) (s : State) : Out := laneElem s (.vfshr w) .vfshr w .elementwise false (valVfshr w)
/-- VPOPC (R170). -/
def execVpopc (w : LaneA) (s : State) : Out := laneElem s (.vpopc w) .vpopc w .elementwise false (valVpopc w)
/-- VCLZ (R170). -/
def execVclz (w : LaneA) (s : State) : Out := laneElem s (.vclz w) .vclz w .elementwise false (valVclz w)
/-- VBREV (R170). -/
def execVbrev (w : LaneA) (s : State) : Out := laneElem s (.vbrev w) .vbrev w .elementwise false (valVbrev w)
/-- VBFE (R170). -/
def execVbfe (w : LaneA) (s : State) : Out := laneElem s (.vbfe w) .vbfe w .elementwise false (valVbfe w)
/-- VBFI (R170). -/
def execVbfi (w : LaneA) (s : State) : Out := laneElem s (.vbfi w) .vbfi w .elementwise false (valVbfi w)

/-- VSEL (R171): bit L of the mask register in c picks source a or source b. -/
def execVsel (w : LaneA) (s : State) : Out :=
  laneWord s (infoA (.vsel w) .vsel w false) (fun _ => false) fun c p sel s1 =>
    let k := c.mget p (w.c.extractLsb' 0 4)
    writeFixed s1 c (Instr.vsel w) ((c.passes sel).map fun g =>
      let act := c.groupWord sel g
      let q := sourcesA c p .vsel w act g
      let z := GSrc.ofW32 0
      let xs := lanePats act fun j => if (c.groupWord k g).getLsbD j then (q.1.getD 0 z).val j else (q.1.getD 1 z).val j
      passOut c g act (OpA.writes .vsel w) (shapesOf act w.ty.is64 3 xs))

/-- VCMP (R172). -/
def execVcmp (w : LaneA) (s : State) : Out := laneTest s (.vcmp w) .vcmp w false (holdsVcmp w)

/-- MSAVE (R182). -/
def execMsave (w : LaneA) (s : State) : Out :=
  laneWord s (infoA (.msave w) .msave w false) (fun _ => false) fun c p sel s1 =>
    let k := c.mget p (w.a.extractLsb' 0 4)
    writeFixed s1 c (Instr.msave w) ((c.passes sel).map fun g =>
      let act := c.groupWord sel g
      passOut c g act (OpA.writes .msave w) (shapesOf act false 3 (lanePats act fun j => b2n ((c.groupWord k g).getLsbD j))))

/-- MLOAD (R182). -/
def execMload (w : LaneA) (s : State) : Out := laneTest s (.mload w) .mload w false fun a _ => a != 0

end Sys2Proof.Machine
end

