-- ==== Sys2Proof/Machine/Dispatch.lean ====
section
/-! DEFINITION. The meaning of every instruction and step: one arm per constructor of Instr. -/

namespace Sys2Proof.Machine

/-- The meaning of an instruction word for the path that is issuing, or of a step of another agent. -/
def exec (i : Instr) (s : State) : Host.Outcome State Fault Refusal :=
  match i with
  | .nop => Sys2Proof.Machine.execNop s
  | .issue n rep => Sys2Proof.Machine.execIssue n rep s
  | .issueReg rs n => Sys2Proof.Machine.execIssueReg rs n s
  | .lpc lo => Sys2Proof.Machine.execLpc lo s
  | .split a so lo => Sys2Proof.Machine.execSplit a so lo s
  | .splitReg a b => Sys2Proof.Machine.execSplitReg a b s
  | .join a => Sys2Proof.Machine.execJoin a s
  | .br so lo => Sys2Proof.Machine.execBr so lo s
  | .brLong so lo => Sys2Proof.Machine.execBrLong so lo s
  | .call so lo => Sys2Proof.Machine.execCall so lo s
  | .callLong so lo => Sys2Proof.Machine.execCallLong so lo s
  | .ret => Sys2Proof.Machine.execRet s
  | .loop so lo => Sys2Proof.Machine.execLoop so lo s
  | .brm a test so lo => Sys2Proof.Machine.execBrm a test so lo s
  | .exit => Sys2Proof.Machine.execExit s
  | .brc c so lo => Sys2Proof.Machine.execBrc c so lo s
  | .bar b m => Sys2Proof.Machine.execBar b m s
  | .arrive d b m => Sys2Proof.Machine.execArrive d b m s
  | .bwait b r => Sys2Proof.Machine.execBwait b r s
  | .rolesigPost crew b => Sys2Proof.Machine.execRolesigPost crew b s
  | .rolesigTake b => Sys2Proof.Machine.execRolesigTake b s
  | .trap code => Sys2Proof.Machine.execTrap code s
  | .tret => Sys2Proof.Machine.execTret s
  | .tretSkip => Sys2Proof.Machine.execTretSkip s
  | .haltd tag => Sys2Proof.Machine.execHaltd tag s
  | .yield => Sys2Proof.Machine.execYield s
  | .sadd d a b => Sys2Proof.Machine.execSadd d a b s
  | .ssub d a b => Sys2Proof.Machine.execSsub d a b s
  | .smul d a b => Sys2Proof.Machine.execSmul d a b s
  | .smulh d a b => Sys2Proof.Machine.execSmulh d a b s
  | .smulhn d a b => Sys2Proof.Machine.execSmulhn d a b s
  | .sdiv d a b => Sys2Proof.Machine.execSdiv d a b s
  | .sdivn d a b => Sys2Proof.Machine.execSdivn d a b s
  | .srem n d a b => Sys2Proof.Machine.execSrem n d a b s
  | .sand d a b => Sys2Proof.Machine.execSand d a b s
  | .sor d a b => Sys2Proof.Machine.execSor d a b s
  | .sxor d a b => Sys2Proof.Machine.execSxor d a b s
  | .sshl d a b => Sys2Proof.Machine.execSshl d a b s
  | .sshr d a b => Sys2Proof.Machine.execSshr d a b s
  | .ssar d a b => Sys2Proof.Machine.execSsar d a b s
  | .smin d a b => Sys2Proof.Machine.execSmin d a b s
  | .smax d a b => Sys2Proof.Machine.execSmax d a b s
  | .sminn d a b => Sys2Proof.Machine.execSminn d a b s
  | .smaxn d a b => Sys2Proof.Machine.execSmaxn d a b s
  | .scmp cc d a b => Sys2Proof.Machine.execScmp cc d a b s
  | .ssel d a b k => Sys2Proof.Machine.execSsel d a b k s
  | .sbfe sgn d a b => Sys2Proof.Machine.execSbfe sgn d a b s
  | .spopc d a => Sys2Proof.Machine.execSpopc d a s
  | .sclz d a => Sys2Proof.Machine.execSclz d a s
  | .slit d lit => Sys2Proof.Machine.execSlit d lit s
  | .slitHi d a lit => Sys2Proof.Machine.execSlitHi d a lit s
  | .sli d imm => Sys2Proof.Machine.execSli d imm s
  | .saddi d a imm => Sys2Proof.Machine.execSaddi d a imm s
  | .sandi d a imm => Sys2Proof.Machine.execSandi d a imm s
  | .sori d a imm => Sys2Proof.Machine.execSori d a imm s
  | .sxori d a imm => Sys2Proof.Machine.execSxori d a imm s
  | .sshli d a k => Sys2Proof.Machine.execSshli d a k s
  | .sshri d a k => Sys2Proof.Machine.execSshri d a k s
  | .srd d addr => Sys2Proof.Machine.execSrd d addr s
  | .swr addr r => Sys2Proof.Machine.execSwr addr r s
  | .time d => Sys2Proof.Machine.execTime d s
  | .timeCyc d => Sys2Proof.Machine.execTimeCyc d s
  | .tagof d a v => Sys2Proof.Machine.execTagof d a v s
  | .reggrow d wait target => Sys2Proof.Machine.execReggrow d wait target s
  | .regshrink d target => Sys2Proof.Machine.execRegshrink d target s
  | .rotset size => Sys2Proof.Machine.execRotset size s
  | .propose base len => Sys2Proof.Machine.execPropose base len s
  | .abandon => Sys2Proof.Machine.execAbandon s
  | .pstat d sel => Sys2Proof.Machine.execPstat d sel s
  | .mand d a b => Sys2Proof.Machine.execMand d a b s
  | .mor d a b => Sys2Proof.Machine.execMor d a b s
  | .mxor d a b => Sys2Proof.Machine.execMxor d a b s
  | .mnot d a => Sys2Proof.Machine.execMnot d a s
  | .mpop d a => Sys2Proof.Machine.execMpop d a s
  | .mexec a => Sys2Proof.Machine.execMexec a s
  | .sld d a w off => Sys2Proof.Machine.execSld d a w off s
  | .sst d a w off => Sys2Proof.Machine.execSst d a w off s
  | .sldk d a k => Sys2Proof.Machine.execSldk d a k s
  | .handoverIn a b => Sys2Proof.Machine.execHandoverIn a b s
  | .handoverOut a b => Sys2Proof.Machine.execHandoverOut a b s
  | .wait a path => Sys2Proof.Machine.execWait a path s
  | .bankset d a mode => Sys2Proof.Machine.execBankset d a mode s
  | .fence order scope => Sys2Proof.Machine.execFence order scope s
  | .cwait d a b eq scope => Sys2Proof.Machine.execCwait d a b eq scope s
  | .yjob d a => Sys2Proof.Machine.execYjob d a s
  | .ystat d a wait => Sys2Proof.Machine.execYstat d a wait s
  | .deckFence => Sys2Proof.Machine.execDeckFence s
  | .deckQuery d => Sys2Proof.Machine.execDeckQuery d s
  | .obres d a wait res => Sys2Proof.Machine.execObres d a wait res s
  | .obrel res => Sys2Proof.Machine.execObrel res s
  | .gang a => Sys2Proof.Machine.execGang a s
  | .accz tile res => Sys2Proof.Machine.execAccz tile res s
  | .acczFree tile => Sys2Proof.Machine.execAcczFree tile s
  | .launch d a => Sys2Proof.Machine.execLaunch d a s
  | .cidx d a => Sys2Proof.Machine.execCidx d a s
  | .cidxRank d a => Sys2Proof.Machine.execCidxRank d a s
  | .estrd d a => Sys2Proof.Machine.execEstrd d a s
  | .estrdCpl d => Sys2Proof.Machine.execEstrdCpl d s
  | .estwait d a test => Sys2Proof.Machine.execEstwait d a test s
  | .eststat d a => Sys2Proof.Machine.execEststat d a s
  | .eststatReset d a conf => Sys2Proof.Machine.execEststatReset d a conf s
  | .blaze k so lo => Sys2Proof.Machine.execBlaze k so lo s
  | .blazeTrap k => Sys2Proof.Machine.execBlazeTrap k s
  | .vmov w => Sys2Proof.Machine.execVmov w s
  | .vadd w => Sys2Proof.Machine.execVadd w s
  | .vsub w => Sys2Proof.Machine.execVsub w s
  | .vmul w => Sys2Proof.Machine.execVmul w s
  | .vmulh w => Sys2Proof.Machine.execVmulh w s
  | .vmad w => Sys2Proof.Machine.execVmad w s
  | .vabsd w => Sys2Proof.Machine.execVabsd w s
  | .vmin w => Sys2Proof.Machine.execVmin w s
  | .vmax w => Sys2Proof.Machine.execVmax w s
  | .vand w => Sys2Proof.Machine.execVand w s
  | .vor w => Sys2Proof.Machine.execVor w s
  | .vxor w => Sys2Proof.Machine.execVxor w s
  | .vtri w => Sys2Proof.Machine.execVtri w s
  | .vsel w => Sys2Proof.Machine.execVsel w s
  | .vcmp w => Sys2Proof.Machine.execVcmp w s
  | .vshl w => Sys2Proof.Machine.execVshl w s
  | .vshr w => Sys2Proof.Machine.execVshr w s
  | .vsar w => Sys2Proof.Machine.execVsar w s
  | .vfshl w => Sys2Proof.Machine.execVfshl w s
  | .vfshr w => Sys2Proof.Machine.execVfshr w s
  | .vpopc w => Sys2Proof.Machine.execVpopc w s
  | .vclz w => Sys2Proof.Machine.execVclz w s
  | .vbrev w => Sys2Proof.Machine.execVbrev w s
  | .vbfe w => Sys2Proof.Machine.execVbfe w s
  | .vbfi w => Sys2Proof.Machine.execVbfi w s
  | .vlane w => Sys2Proof.Machine.execVlane w s
  | .fadd w => Sys2Proof.Machine.execFadd w s
  | .fsub w => Sys2Proof.Machine.execFsub w s
  | .fmul w => Sys2Proof.Machine.execFmul w s
  | .ffma w => Sys2Proof.Machine.execFfma w s
  | .fmin w => Sys2Proof.Machine.execFmin w s
  | .fmax w => Sys2Proof.Machine.execFmax w s
  | .fcmp w => Sys2Proof.Machine.execFcmp w s
  | .fclass w => Sys2Proof.Machine.execFclass w s
  | .frcp w => Sys2Proof.Machine.execFrcp w s
  | .frsq w => Sys2Proof.Machine.execFrsq w s
  | .fsqrt w => Sys2Proof.Machine.execFsqrt w s
  | .fdiv w => Sys2Proof.Machine.execFdiv w s
  | .fexp2 w => Sys2Proof.Machine.execFexp2 w s
  | .flog2 w => Sys2Proof.Machine.execFlog2 w s
  | .fcvt w => Sys2Proof.Machine.execFcvt w s
  | .frnd w => Sys2Proof.Machine.execFrnd w s
  | .vshuf w => Sys2Proof.Machine.execVshuf w s
  | .vbcast w => Sys2Proof.Machine.execVbcast w s
  | .vrot w => Sys2Proof.Machine.execVrot w s
  | .vscan w => Sys2Proof.Machine.execVscan w s
  | .vred w => Sys2Proof.Machine.execVred w s
  | .msave w => Sys2Proof.Machine.execMsave w s
  | .mload w => Sys2Proof.Machine.execMload w s
  | .accept h d a b => Sys2Proof.Machine.execAccept h d a b s
  | .qpush h ty c q => Sys2Proof.Machine.execQpush h ty c q s
  | .qpop h ty d q => Sys2Proof.Machine.execQpop h ty d q s
  | .rand h ty d => Sys2Proof.Machine.execRand h ty d s
  | .randf h ty d => Sys2Proof.Machine.execRandf h ty d s
  | .randn h ty d => Sys2Proof.Machine.execRandn h ty d s
  | .estadd h ty a hs => Sys2Proof.Machine.execEstadd h ty a hs s
  | .vld w => Sys2Proof.Machine.execVld w s
  | .vst w => Sys2Proof.Machine.execVst w s
  | .vstSlc w => Sys2Proof.Machine.execVstSlc w s
  | .vpfx w => Sys2Proof.Machine.execVpfx w s
  | .vat w => Sys2Proof.Machine.execVat w s
  | .vatr w => Sys2Proof.Machine.execVatr w s
  | .vlds w => Sys2Proof.Machine.execVlds w s
  | .vsts w => Sys2Proof.Machine.execVsts w s
  | .fpush h ty c rel f => Sys2Proof.Machine.execFpush h ty c rel f s
  | .fpop h ty d acq f => Sys2Proof.Machine.execFpop h ty d acq f s
  | .obld w => Sys2Proof.Machine.execObld w s
  | .mma h b tile res slab fmt => Sys2Proof.Machine.execMma h b tile res slab fmt s
  | .accrd h ty d a rnd alt ftz tile z => Sys2Proof.Machine.execAccrd h ty d a rnd alt ftz tile z s
  | .accxRd h tile d a => Sys2Proof.Machine.execAccxRd h tile d a s
  | .accxWr h tile a c => Sys2Proof.Machine.execAccxWr h tile a c s
  | .accxAdd h tile a c => Sys2Proof.Machine.execAccxAdd h tile a c s
  | .accxFlg h tile d => Sys2Proof.Machine.execAccxFlg h tile d s
  | .accxOrf h tile c => Sys2Proof.Machine.execAccxOrf h tile c s
  | .trapDispatch p => Sys2Proof.Machine.execTrapDispatch p s
  | .deferralHoldExpiry p => Sys2Proof.Machine.execDeferralHoldExpiry p s
  | .switchMarkerWaitEnd p => Sys2Proof.Machine.execSwitchMarkerWaitEnd p s
  | .longLatencyWriteback core slot wid => Sys2Proof.Machine.execLongLatencyWriteback core slot wid s
  | .forwardProgressEviction core => Sys2Proof.Machine.execForwardProgressEviction core s
  | .allotmentDeadlockEviction core => Sys2Proof.Machine.execAllotmentDeadlockEviction core s
  | .reggrowGrant p => Sys2Proof.Machine.execReggrowGrant p s
  | .writeReservationGrant p => Sys2Proof.Machine.execWriteReservationGrant p s
  | .tileAllotment p => Sys2Proof.Machine.execTileAllotment p s
  | .obresGrant p => Sys2Proof.Machine.execObresGrant p s
  | .scratchRefillDone p => Sys2Proof.Machine.execScratchRefillDone p s
  | .bankDrainDone stand bank => Sys2Proof.Machine.execBankDrainDone stand bank s
  | .loadTakesEffect p id => Sys2Proof.Machine.execLoadTakesEffect p id s
  | .storeTakesEffect p id => Sys2Proof.Machine.execStoreTakesEffect p id s
  | .returningAtomic p id => Sys2Proof.Machine.execReturningAtomic p id s
  | .commutativeMerge stand k => Sys2Proof.Machine.execCommutativeMerge stand k s
  | .stagingLogRelease l => Sys2Proof.Machine.execStagingLogRelease l s
  | .ticketPass l => Sys2Proof.Machine.execTicketPass l s
  | .translationWalkDone p => Sys2Proof.Machine.execTranslationWalkDone p s
  | .wordReplay p => Sys2Proof.Machine.execWordReplay p s
  | .invalidationComplete part => Sys2Proof.Machine.execInvalidationComplete part s
  | .scrubComplete frame => Sys2Proof.Machine.execScrubComplete frame s
  | .migration part leaf => Sys2Proof.Machine.execMigration part leaf s
  | .migrationComplete part leaf => Sys2Proof.Machine.execMigrationComplete part leaf s
  | .jobDispatch part => Sys2Proof.Machine.execJobDispatch part s
  | .jobRemoteDispatch part => Sys2Proof.Machine.execJobRemoteDispatch part s
  | .jobComplete part job => Sys2Proof.Machine.execJobComplete part job s
  | .jointForm t => Sys2Proof.Machine.execJointForm t s
  | .jointComplete core => Sys2Proof.Machine.execJointComplete core s
  | .admission part => Sys2Proof.Machine.execAdmission part s
  | .placement part => Sys2Proof.Machine.execPlacement part s
  | .priorityPreempt part => Sys2Proof.Machine.execPriorityPreempt part s
  | .sliceExpiry t => Sys2Proof.Machine.execSliceExpiry t s
  | .timeLimit l => Sys2Proof.Machine.execTimeLimit l s
  | .teamSave t => Sys2Proof.Machine.execTeamSave t s
  | .commitStep l => Sys2Proof.Machine.execCommitStep l s
  | .stopRuleFire l => Sys2Proof.Machine.execStopRuleFire l s
  | .launchCompletion l => Sys2Proof.Machine.execLaunchCompletion l s
  | .sensorSample => Sys2Proof.Machine.execSensorSample s
  | .refreshClassFall pair => Sys2Proof.Machine.execRefreshClassFall pair s
  | .classChangeDone part => Sys2Proof.Machine.execClassChangeDone part s
  | .haltLine part => Sys2Proof.Machine.execHaltLine part s
  | .stepComplete p => Sys2Proof.Machine.execStepComplete p s
  | .debugWriteVreg part cmd => Sys2Proof.Machine.execDebugWriteVreg part cmd s
  | .debugWriteSreg part cmd => Sys2Proof.Machine.execDebugWriteSreg part cmd s
  | .profileSample core => Sys2Proof.Machine.execProfileSample core s
  | .partitionResetDone part => Sys2Proof.Machine.execPartitionResetDone part s
  | .kickComplete part => Sys2Proof.Machine.execKickComplete part s
  | .firmwareVerify => Sys2Proof.Machine.execFirmwareVerify s
  | .microcodeSwitch unit => Sys2Proof.Machine.execMicrocodeSwitch unit s
  | .vaultRecalDone vault => Sys2Proof.Machine.execVaultRecalDone vault s
  | .handoverComplete p => Sys2Proof.Machine.execHandoverComplete p s
  | .gatherQueueEntry part job => Sys2Proof.Machine.execGatherQueueEntry part job s
  | .storeBufferLeave p id => Sys2Proof.Machine.execStoreBufferLeave p id s
  | .coreClock core => Sys2Proof.Machine.execCoreClock core s
  | .faultAnswer part v => Sys2Proof.Machine.execFaultAnswer part v s
  | .faultQueueBase part v => Sys2Proof.Machine.execFaultQueueBase part v s
  | .faultQueueHead part v => Sys2Proof.Machine.execFaultQueueHead part v s
  | .invalidationGo part v => Sys2Proof.Machine.execInvalidationGo part v s
  | .frameFree part v => Sys2Proof.Machine.execFrameFree part v s
  | .nearRingSet part v => Sys2Proof.Machine.execNearRingSet part v s
  | .releasedRingSet part v => Sys2Proof.Machine.execReleasedRingSet part v s
  | .collectiveTimeout part job => Sys2Proof.Machine.execCollectiveTimeout part job s
  | .teamRestore t core => Sys2Proof.Machine.execTeamRestore t core s
  | .dramRefresh vault bank => Sys2Proof.Machine.execDramRefresh vault bank s
  | .slopeEpisode part on => Sys2Proof.Machine.execSlopeEpisode part on s
  | .powerCapSet part v => Sys2Proof.Machine.execPowerCapSet part v s
  | .powerShareSet part v => Sys2Proof.Machine.execPowerShareSet part v s
  | .vaultFloorSet part v => Sys2Proof.Machine.execVaultFloorSet part v s
  | .classChange part v => Sys2Proof.Machine.execClassChange part v s
  | .powerStatusRead part => Sys2Proof.Machine.execPowerStatusRead part s
  | .uncorrectable part kind pa => Sys2Proof.Machine.execUncorrectable part kind pa s
  | .debugHold part cmd => Sys2Proof.Machine.execDebugHold part cmd s
  | .debugRelease part cmd => Sys2Proof.Machine.execDebugRelease part cmd s
  | .debugStep part cmd => Sys2Proof.Machine.execDebugStep part cmd s
  | .debugDump part cmd => Sys2Proof.Machine.execDebugDump part cmd s
  | .breakpointHit p => Sys2Proof.Machine.execBreakpointHit p s
  | .eventRingSet part team v => Sys2Proof.Machine.execEventRingSet part team v s
  | .dropCountClear part => Sys2Proof.Machine.execDropCountClear part s
  | .partitionReset part v => Sys2Proof.Machine.execPartitionReset part v s
  | .kickIn part => Sys2Proof.Machine.execKickIn part s
  | .kickOut part => Sys2Proof.Machine.execKickOut part s
  | .launchSubmit part v => Sys2Proof.Machine.execLaunchSubmit part v s
  | .completionRingSet part v => Sys2Proof.Machine.execCompletionRingSet part v s
  | .stopAreaSet part v => Sys2Proof.Machine.execStopAreaSet part v s
  | .estimatorAlloc part die => Sys2Proof.Machine.execEstimatorAlloc part die s
  | .estimatorFree part v => Sys2Proof.Machine.execEstimatorFree part v s
  | .snapshotPoolSet part len v => Sys2Proof.Machine.execSnapshotPoolSet part len v s
  | .startCold => Sys2Proof.Machine.execStartCold s
  | .startWarm => Sys2Proof.Machine.execStartWarm s
  | .partitionSplit v => Sys2Proof.Machine.execPartitionSplit v s
  | .microcodeUpdate v => Sys2Proof.Machine.execMicrocodeUpdate v s
  | .spareSwap v => Sys2Proof.Machine.execSpareSwap v s
  | .vaultRecal v => Sys2Proof.Machine.execVaultRecal v s
  | .attestation v => Sys2Proof.Machine.execAttestation v s
  | .registerWrite off v => Sys2Proof.Machine.execRegisterWrite off v s
  | .completionRingHead part v => Sys2Proof.Machine.execCompletionRingHead part v s
  | .bar2Access addr w len => Sys2Proof.Machine.execBar2Access addr w len s
  | .coreClockGating core gate => Sys2Proof.Machine.execCoreClockGating core gate s
  | .voltageDroop stand on => Sys2Proof.Machine.execVoltageDroop stand on s
  | .portTrainedAndUp port up => Sys2Proof.Machine.execPortTrainedAndUp port up s

end Sys2Proof.Machine
end

