-- ==== Sys2Proof/Machine/Load.lean ====
section
/-! DEFINITION. One program in memory, placed and about to issue a word (log 5, DEDUCED): what a driver and the scheduler bring about
by page tables, a kernel descriptor, a submission, an admission and a placement. -/

namespace Sys2Proof.Machine

/-- A launch block: one team of one group, its address space rooted at 0x10000 (R314). -/
def loadBlock : Block := { parseBlock (zeros 256) with version := 1, yshare := 1, teams := 1, pwin := 1, root := 0x10000 }

/-- A kernel descriptor: one crew of 248 registers; scalar code at 0x100000, lane code at 0x108000 (R315). -/
def loadDesc : KDesc where
  scode := 0x100000
  lcode := 0x108000
  accum := 0
  fifo := 0
  scr := 0
  sclass := 0
  crews := [⟨0, 0, 248, 0, 0, 0⟩]

/-- The page of the program: virtual 0x100000 at physical 0x30000, executable and writable (R189). -/
def loadTrans : Trans where
  asid := 0
  part := 0
  vpn := 16
  level := 0
  pa := 0x30000
  write := true
  code := true
  far := false
  dirty := true
  grain := 0

/-- The tables of the four levels that map it (R188, R189). -/
def State.loadTables (s : State) : State :=
  (((s.wrPA 0x10000 8 0x20001).wrPA 0x20000 8 0x21001).wrPA 0x21000 8 0x22001).wrPA 0x22080 8 0x301C7

/-- The machine with one team, just placed on core 0, which has picked the scalar word at 0x100000, or the lane word at
0x108000 as the one word of an ISSUE (R91). Log 5 (DEDUCED). -/
def State.load (s : State) (lane : Bool) (bs : List Byte) : State :=
  let l := newLaunch 0 1 loadBlock loadDesc [] s.time [] []
  let s1 := { s with
    launches := [{ l with eligible := true }]
    teams := [], crews := [], jobs := [], raised := []
    frames := SMap.set ⟨0, 0, 0⟩ s.frames 3 ⟨1, 0, 0⟩
    parts := modAt (if s.parts.isEmpty then [Part.reset 4] else s.parts) 0 fun q => { q with halted := false, resetting := false, dbgCtl := 0 }
    cores := modAt s.cores 0 fun k => { Core.reset with cyc := k.cyc, tlb := [loadTrans] } }
  let s2 := (s1.loadTables.wrBytes (if lane then 0x38000 else 0x30000) bs).placeNew l 0
  let s3 := if lane then { s2 with crews := s2.crews.map fun (c : Crew) => c.modPath 0 fun p => { p with
      iss := some { n := 1, left := 1, reps := 0, void := false, block := p.lpc, snap := [] } } } else s2
  { s3.modCore 0 fun k => { k with plan := some [⟨s.nextId + 1, 0, lane, false, true, 128⟩] } with inputs := [] }

end Sys2Proof.Machine
end

