-- ==== Sys2Proof/Machine/Step.lean ====
section
/-! DEFINITION. One step of the machine, and the machine about to issue a given word. -/

namespace Sys2Proof.Machine

/-- One step: what happens next, with `exec` for the meaning of the instructions. -/
def step (s : State) : Host.Outcome State Fault Refusal := oneStep exec s

/-- The machine whose next step issues the instruction whose bits are w, numbered as the opcode table numbers them: up to 64 bits a
scalar word with its literal, more a lane slot with its literal. -/
def State.withFetchWord (s : State) (nbits w : Nat) : State :=
  if nbits ≤ 64 then s.load false (bytesOf 8 (BitVec.ofNat 64 w)) else s.load true (bytesOf 24 (BitVec.ofNat 192 w))

end Sys2Proof.Machine
end

