-- ==== Sys2Proof/Safety.lean ====
section
/-! DEFINITION. The terms in which claims about the machine are stated: a safe outcome, the issuing path, a change of one
crew alone, and the canonical form of memory. -/

namespace Sys2Proof.Machine

/-! ### Memory -/

/-- The canonical form of memory: addresses strictly rising, and no entry equal to zero, which is what an unlisted address
reads as (R418: a start scrubs memory to zero). -/
abbrev Memory.wf (m : List Host.Cell) : Bool := SMap.wf (0 : Byte) m

/-- Every byte of memory reads in t as in s. -/
def SameMemory (s t : State) : Prop := ∀ a, t.rdByte a = s.rdByte a

/-- Every byte of memory outside the n bytes at an address reads in t as in s. -/
def SameMemoryBut (s t : State) (at_ n : Nat) : Prop := ∀ a, a < at_ ∨ at_ + n ≤ a → t.rdByte a = s.rdByte a

/-- Memory, the device's copies of host bytes and the host writes not yet shown are in canonical form. -/
def State.Canonical (s : State) : Prop :=
  Memory.wf s.mem = true ∧ SMap.wf none s.host = true ∧ SMap.wf none s.unseen = true

/-! ### Outcomes -/

/-- The outcome is a next state. -/
def Safe (o : Out) : Prop := ∃ t, o = .next t

/-! ### The issuing path -/

/-- Path-table entry i of crew c is issuing, and holds path p. -/
structure Issuing (s : State) (c : Crew) (i : Nat) (p : Path) : Prop where
  cur   : s.cur = some ⟨c.id, i⟩
  crew  : s.crewOf c.id = some c
  entry : c.paths[i]? = some p

/-- A crew, or nothing in the place of the crew of this id. -/
def veil (id : Nat) (c : Crew) : Option Crew := if c.id = id then none else some c

/-- t differs from s in the crew of this id alone. -/
def OnlyCrew (id : Nat) (s t : State) : Prop :=
  t = { s with crews := t.crews } ∧ t.crews.map (veil id) = s.crews.map (veil id)

/-- The instruction completes, and changes crew c alone, into c'. -/
def Completes (i : Instr) (s : State) (c c' : Crew) : Prop :=
  ∃ t, exec i s = .next t ∧ OnlyCrew c.id s t ∧ t.crewOf c.id = some c'

/-- The path waits before its word, for a stall reason (R402). -/
def Path.stalled (p : Path) (code : Nat) : Path := { p with wait := some code }
/-- The path past a scalar word of n bytes (R26). -/
def Path.past (p : Path) (n : Nat) : Path := { p with spc := p.spc + w64 n, wait := none, want := none }
/-- The path at the target of a branch: offsets in scalar words and lane slots from the word itself (R33, R94). -/
def Path.at_ (p : Path) (so lo : W64) : Path := { p with spc := p.spc + 4 * so, lpc := p.lpc + 12 * lo, wait := none }
/-- The crew with path p at entry i. -/
def Crew.withPath (c : Crew) (i : Nat) (p : Path) : Crew := { c with paths := setAt c.paths i p }

/-- What source b of a scalar word gives: its register, or its literal, sign-extended or zero-extended (R149). -/
def Crew.given (c : Crew) (zero : Bool) : SSrc → W64
  | .reg r => c.sget r
  | .lit w => if zero then w.setWidth 64 else w.signExtend 64

/-- Once no scalar load is to write a register it names, the word writes scalar register d with v and goes on n bytes, and
does nothing else (R26, R48, R149). -/
def SetsScalar (ins : Instr) (regs : List (BitVec 6)) (d : BitVec 6) (n : Nat) (v : Crew → W64) : Prop :=
  ∀ s c i p, Issuing s c i p → c.pending regs = false → Completes ins s c ((c.sset d (v c)).withPath i (p.past n))

/-- The word completes as `Completes` says, and then its trace record is written, where the partition traces this launch
(R407). -/
def CompletesTraced (ins : Instr) (s : State) (c c' : Crew) (i code other : Nat) (target : W64) : Prop :=
  ∃ u, exec ins s = .next (u.trace c.id i code other target) ∧ OnlyCrew c.id s u ∧ u.crewOf c.id = some c'

/-- t differs from s in the crew of this id, in the records that this clock is to write to the event ring, and in the
model's counter of accesses (R397, R407). -/
def OnlyCrewTraced (id : Nat) (s t : State) : Prop :=
  t = { s with crews := t.crews, nextId := t.nextId, recs := t.recs }
    ∧ t.crews.map (veil id) = s.crews.map (veil id)

/-- t is s in which crew c has become c', and a word of it has issued on a core: the engine is busy, the word has its issue slots, and
they count for the team (R84, R89, R90, R370). -/
structure IssuesOn (s t : State) (core path : Nat) (lane : Bool) (engine slots : Nat) (c c' : Crew) : Prop where
  rest   : t = { s with crews := t.crews, cores := t.cores, teams := t.teams }
  crew   : t.crewOf c.id = some { c' with issued := true }
  crews  : t.crews.map (veil c.id) = s.crews.map (veil c.id)
  here   : ∀ k, s.cores[core]? = some k → t.cores[core]? = some { k with
    idle := setAt k.idle engine 0
    laneUsed := k.laneUsed + slots
    laneBy := if lane then k.laneBy ++ [(c.id, path)] else k.laneBy
    scalBy := if lane then k.scalBy else k.scalBy ++ [(c.id, path)] }
  there  : ∀ j, j ≠ core → t.cores[j]? = s.cores[j]?
  team   : ∀ m, s.teamOf c.team = some m → t.teamOf c.team = some { m with slotsUsed := m.slotsUsed + slots }
  teams  : ∀ j, j ≠ c.team → t.teamOf j = s.teamOf j

/-- t differs from s in teams alone, and there in the team of this id. -/
def OnlyTeam (id : Nat) (s t : State) : Prop :=
  t = { s with teams := t.teams } ∧ t.teams.map (fun (x : Team) => if x.id = id then none else some x)
    = s.teams.map (fun (x : Team) => if x.id = id then none else some x)

/-- The issuing path can take a word that waits for its pending ISSUE, for the results of R45 and for its deferred records,
and that no handler may execute (R91, R376, R380). -/
structure Free (c : Crew) (i : Nat) (p : Path) : Prop where
  ready   : p.st = .ready
  iss     : p.iss = none
  handler : p.isHandler = false
  results : c.outstanding i = false
  late    : p.late = []
  records : c.undispatched i = false

/-! ### Faults (R373 to R384) -/

/-- A trap record of the recorded point of path p (R374, R388). -/
structure Recorded (r : TrapRec) (p : Path) (code detail : Nat) (f : Mask) (lane inPlace : Bool) : Prop where
  code    : r.code = code
  detail  : r.detail = detail
  spc     : r.spc = p.spc
  lpc     : r.lpc = p.lpc
  iss     : r.iss = p.iss
  depth   : r.depth = p.link.length
  lcnt    : r.lcnt = p.lcnt
  lanes   : r.lanes = f
  lane    : r.lane = lane
  inPlace : r.inPlace = inPlace
  running : r.running = false

/-- The issuing path takes a lane-recoverable fault over its lanes f in place (R375): it is parked at its word with the
trap record of point q, its registers as they were, and nothing but its crew changes. -/
def FaultsInPlace (ins : Instr) (s : State) (c : Crew) (i : Nat) (p q : Path) (code detail : Nat) (f : Mask) (lane : Bool) :
    Prop :=
  ∃ t c' r, exec ins s = .next t ∧ OnlyCrew c.id s t ∧ t.crewOf c.id = some c'
    ∧ c' = { c with paths := c'.paths, prop := c'.prop }
    ∧ c'.path i = { p with m0 := 0, st := .fault, wait := none, want := none, trap := some r }
    ∧ Recorded r q code detail f lane true

/-- The lanes of a scalar word's fault (R374): those of m0, or of the path mask where m0 is empty. -/
def Path.faulting (p : Path) : Mask := if p.m0 = 0 then p.mask else p.m0

/-- The word raises the halt line of its partition with a context-fatal fault, and has no other effect (R383). -/
def Halts (ins : Instr) (s : State) (c : Crew) (p : Path) (lane : Bool) (code detail addr : Nat) : Prop :=
  exec ins s = .next { s with
    raised := SMap.set [] s.raised (s.partOf c)
      (SMap.get [] s.raised (s.partOf c) ++ [(s.causeHere c p lane code detail addr, none)]) }

/-- The same of a word that a cruise forbids, once every earlier word of its path has completed (R323). -/
def HaltsAfter (ins : Instr) (s : State) (c : Crew) (i : Nat) (p : Path) (lane : Bool) (code detail addr : Nat) : Prop :=
  let u := s.completeEarlier c.id i p.thr s.nextId
  exec ins s = .next { u with
    raised := SMap.set [] u.raised (u.partOf c)
      (SMap.get [] u.raised (u.partOf c) ++ [(u.causeHere c p lane code detail addr, none)]) }

/-! ### Lane words (R36 to R49, R84) -/

/-- Path p issues a lane word of this shape, and nothing keeps the word from its effect: it is not void (R49, R91), its marker
waits for nothing (R45, R292), its registers are present (R115), no segment holds them (R46), and a dependence slot and its
in-flight counter are free (R47, R235). -/
structure LaneReady (s : State) (c : Crew) (i : Nat) (p : Path) (w : LaneInfo) : Prop where
  path    : Issuing s c i p
  groups  : c.groups ≤ 32
  marker  : w.h.sw = true → c.outstanding i = false ∧ p.late = []
  active  : isVoid p (selMask c p w.h) = false
  present : ∀ v ∈ w.reads ++ w.writes ++ w.late, v < 1024 → c.present (c.physical v) = true
  hazard  : w.h.sw = true ∨ p.newSeg = true ∨
    ((∀ r ∈ (w.reads ++ w.late ++ [maskReg 0, maskReg w.h.mask.toNat] ++ w.writes).map c.phys, r ∉ p.segW)
      ∧ ∀ r ∈ w.writes.map c.phys, r ∉ p.segB)
  slot    : w.long = true → (c.words.filter (·.slot)).length < 32
  counter : ∀ k, w.counter = some k → c.inflight i k < 255

/-- The path past a lane word (R26, R91): its segment may have changed, and nothing else of it but its lane PC and its pending
ISSUE. -/
def PastLane (p q : Path) (n : Nat) : Prop := q = { p.pastLane n with segW := q.segW, segB := q.segB, newSeg := false }

/-- More bank units are free on the crew's core than any lane word can ask for (R118): 8 for each bank of four registers in 32
groups. -/
def Room (s : State) (c : Crew) : Prop := 2048 ≤ s.crewFree c

/-- Lane j of crew group g is selected. -/
def Crew.selects (c : Crew) (sel : Mask) (g j : Nat) : Prop := (c.groupWord sel g).getLsbD j = true

/-- Every selected lane of registers `dests` (the low part first) holds val in c', and every other lane of every register what it
holds in c; a lane has its value in the bank it reads (R133). -/
def LanesHold (c c' : Crew) (sel : Mask) (dests : List Nat) (val : Nat → Nat → Nat) : Prop :=
  (∀ h v g j, dests[h]? = some v → v < 256 → g < c.groups → j < 32 → c.selects sel g j →
    c'.readLane (c.physical v) g j = w32 (val g j / 2 ^ (32 * h)))
  ∧ ∀ r g j, g < c.groups → j < 32 → (r ∉ dests.map c.physical ∨ ¬ c.selects sel g j) → c'.readLane r g j = c.readLane r g j

/-- The lane word completes: its path goes on, its selected lanes hold their values, and nothing else changes. -/
def LaneSets (ins : Instr) (s : State) (c : Crew) (i : Nat) (p : Path) (sel : Mask) (dests : List Nat) (val : Nat → Nat → Nat) :
    Prop :=
  ∃ c', Completes ins s c c' ∧ c' = { c with v := c'.v, prop := c'.prop, paths := c'.paths }
    ∧ PastLane p (c'.path i) ins.size ∧ (∀ k, k ≠ i → c'.path k = c.path k) ∧ LanesHold c c' sel dests val

/-- What lane j of group g reads as source a, b or c of a layout A word (R37, R40, R42, R164). -/
def laneA (c : Crew) (o : OpA) (w : LaneA) (g j : Nat) : Nat :=
  if o.aUse = .vec then c.laneSrc (OpA.srcWide o w) w.a.toNat g j else 0
def laneB (c : Crew) (p : Path) (o : OpA) (w : LaneA) (g j : Nat) : Nat :=
  if o.bUse = .src ∨ o.bUse = .uni then
    match w.b with
    | .reg r => c.laneSrc w.ty.is64 r.toNat g j
    | .sreg r => if w.ty.is64 then (p.scalar c r).toNat else (p.scalar c r).toNat % 2 ^ 32
    | .imm k => if w.ty = .i64 then (k.signExtend 64).toNat else k.toNat
    | .lit l0 l1 _ => if w.ty.is64 then l0.toNat + l1.toNat * 2 ^ 32 else l0.toNat
  else 0
def laneC (c : Crew) (o : OpA) (w : LaneA) (g j : Nat) : Nat :=
  if o.cUse = .vec then
    match w.b with
    | .lit _ l1 _ => if w.ty.is64 then c.laneSrc true w.c.toNat g j else l1.toNat
    | _ => c.laneSrc w.ty.is64 w.c.toNat g j
  else 0

/-- A word that computes one result lane by lane: its row of R163, its fields, its tag class (R111), and the value of the patterns
of a, b and c. -/
structure Elementwise where
  o   : OpA
  w   : LaneA
  cls : TagClass
  val : Nat → Nat → Nat → Nat

/-- The words that compute one result lane by lane (R166 to R171, R174 to R179). -/
def elementwise : Instr → Option Elementwise
  | .vmov w => some ⟨.vmov, w, .copy, valVmov w⟩
  | .vadd w => some ⟨.vadd, w, .linear, valVadd w⟩
  | .vsub w => some ⟨.vsub, w, .linear, valVsub w⟩
  | .vmul w => some ⟨.vmul, w, .scaled, valVmul w⟩
  | .vmulh w => some ⟨.vmulh, w, .elementwise, valVmulh w⟩
  | .vmad w => some ⟨.vmad, w, .elementwise, valVmad w⟩
  | .vabsd w => some ⟨.vabsd, w, .elementwise, valVabsd w⟩
  | .vmin w => some ⟨.vmin, w, .elementwise, valVmin w⟩
  | .vmax w => some ⟨.vmax, w, .elementwise, valVmax w⟩
  | .vand w => some ⟨.vand, w, .elementwise, valVand w⟩
  | .vor w => some ⟨.vor, w, .elementwise, valVor w⟩
  | .vxor w => some ⟨.vxor, w, .elementwise, valVxor w⟩
  | .vtri w => some ⟨.vtri, w, .elementwise, valVtri w⟩
  | .vshl w => some ⟨.vshl, w, .scaled, valVshl w⟩
  | .vshr w => some ⟨.vshr, w, .elementwise, valVshr w⟩
  | .vsar w => some ⟨.vsar, w, .elementwise, valVsar w⟩
  | .vfshl w => some ⟨.vfshl, w, .elementwise, valVfshl w⟩
  | .vfshr w => some ⟨.vfshr, w, .elementwise, valVfshr w⟩
  | .vpopc w => some ⟨.vpopc, w, .elementwise, valVpopc w⟩
  | .vclz w => some ⟨.vclz, w, .elementwise, valVclz w⟩
  | .vbrev w => some ⟨.vbrev, w, .elementwise, valVbrev w⟩
  | .vbfe w => some ⟨.vbfe, w, .elementwise, valVbfe w⟩
  | .vbfi w => some ⟨.vbfi, w, .elementwise, valVbfi w⟩
  | .fadd w => some ⟨.fadd, w, .elementwise, valFadd w⟩
  | .fsub w => some ⟨.fsub, w, .elementwise, valFsub w⟩
  | .fmul w => some ⟨.fmul, w, .elementwise, valFmul w⟩
  | .ffma w => some ⟨.ffma, w, .elementwise, valFfma w⟩
  | .fmin w => some ⟨.fmin, w, .elementwise, valFmin w⟩
  | .fmax w => some ⟨.fmax, w, .elementwise, valFmax w⟩
  | .fclass w => some ⟨.fclass, w, .elementwise, valFclass w⟩
  | .frcp w => some ⟨.frcp, w, .elementwise, valFrcp w⟩
  | .frsq w => some ⟨.frsq, w, .elementwise, valFrsq w⟩
  | .fsqrt w => some ⟨.fsqrt, w, .elementwise, valFsqrt w⟩
  | .fdiv w => some ⟨.fdiv, w, .elementwise, valFdiv w⟩
  | .fexp2 w => some ⟨.fexp2, w, .elementwise, valFexp2 w⟩
  | .flog2 w => some ⟨.flog2, w, .elementwise, valFlog2 w⟩
  | .fcvt w => some ⟨.fcvt, w, .elementwise, valFcvt w⟩
  | .frnd w => some ⟨.frnd, w, .elementwise, valFrnd w⟩
  | _ => none

/-- The word is long-latency (R43): those of R177, and the float words of type f64. -/
def Elementwise.long (e : Elementwise) : Bool :=
  match e.o with
  | .frcp | .frsq | .fsqrt | .fdiv | .fexp2 | .flog2 => true
  | .fadd | .fsub | .fmul | .ffma | .fmin | .fmax | .fclass | .frnd => e.w.ty.is64
  | .fcvt => decide (e.w.ty = .f64) || decide (e.w.srcTy = some .f64)
  | _ => false

/-- The value of the word in a lane. -/
def Elementwise.at_ (e : Elementwise) (c : Crew) (p : Path) (g j : Nat) : Nat :=
  e.val (laneA c e.o e.w g j) (laneB c p e.o e.w g j) (laneC c e.o e.w g j)

/-- What the wrapper of lane words sees of it. -/
def Elementwise.info (e : Elementwise) (ins : Instr) : LaneInfo := infoA ins e.o e.w e.long

/-! ### The rules of the lane values (R56 to R65, R166 to R179) -/

/-- The exponent field and the fraction field of a float pattern, and its magnitude without the sign (R59). -/
def FFmt.exOf (f : FFmt) (p : Nat) : Nat := p / 2 ^ f.mbits % 2 ^ (f.width - 1 - f.mbits)
def FFmt.frOf (f : FFmt) (p : Nat) : Nat := p % 2 ^ f.mbits
def FFmt.magOf (f : FFmt) (p : Nat) : Nat := p % 2 ^ (f.width - 1)
/-- The sign bit of a pattern is set (R59). -/
def FFmt.negOf (f : FFmt) (p : Nat) : Bool := p.testBit (f.width - 1)

/-- The pattern is a NaN, an infinity, or finite (R60). -/
def FFmt.nanPat (f : FFmt) (p : Nat) : Bool := if f.e4 then f.magOf p == 0x7F else f.exOf p == f.emax && f.frOf p != 0
def FFmt.infPattern (f : FFmt) (p : Nat) : Bool := !f.e4 && f.exOf p == f.emax && f.frOf p == 0
def FFmt.finPat (f : FFmt) (p : Nat) : Bool := !f.nanPat p && !f.infPattern p

/-- The value of a finite pattern (R59). -/
def FFmt.real (f : FFmt) (p : Nat) : ℚ :=
  (if f.negOf p then -1 else 1)
    * (if f.exOf p = 0 then (f.frOf p : ℚ) * 2 ^ (1 - (f.bias : ℤ) - f.mbits)
       else (2 ^ f.mbits + f.frOf p : ℚ) * 2 ^ ((f.exOf p : ℤ) - f.bias - f.mbits))

/-- A source pattern after the absolute value and the negation (R40), a subnormal read as zero of its sign under ftz (R62). -/
def FFmt.given (f : FFmt) (neg abs ftz : Bool) (p : Nat) : Nat :=
  let m := if ftz && f.exOf p == 0 then 0 else f.magOf p
  m + f.sign ((f.negOf p && !abs) != neg)

/-- A result as it is written: a subnormal as zero of its sign under ftz (R62). -/
def FFmt.written (f : FFmt) (ftz : Bool) (p : Nat) : Nat := if ftz && f.exOf p == 0 then f.sign (f.negOf p) else p

/-- The place of a pattern that is no NaN in the order of FMIN and FMAX, in which −0 lies below +0 (R174), and in that of FCMP, in
which they are equal (R175). -/
def FFmt.place (f : FFmt) (p : Nat) : ℤ := if f.negOf p then -1 - (f.magOf p : ℤ) else f.magOf p
def FFmt.rank (f : FFmt) (p : Nat) : ℤ := if f.negOf p then -(f.magOf p : ℤ) else f.magOf p

/-- The pattern of an infinite result of the sign; `pole` where every source is finite (R64, R177). -/
def FFmt.infinity (f : FFmt) (alt pole s : Bool) : Nat :=
  let top := f.emax * 2 ^ f.mbits
  if f.e4 then (if alt then 0x7F else f.sign s + 0x7E) else f.sign s + (if alt && !pole then top - 1 else top)

/-- The pattern r is the nonzero real X rounded once under the mode and limited (R63, R64). Of a magnitude that rounds beyond the largest
finite value it is the table's; else it is a finite pattern of X's sign, with no finite value on the wrong side of the one the mode
picks, and even on a tie. -/
def FFmt.RoundsTo (f : FFmt) (mode : Nat) (alt : Bool) (X : ℝ) (r : Nat) : Prop :=
  let top := if f.e4 then 0x7E else f.emax * 2 ^ f.mbits - 1
  let big : ℝ := f.real top
  let next : ℝ := big + 2 ^ ((f.exOf top : ℤ) - f.bias - f.mbits)
  let s := decide (X < 0)
  let V : ℝ := f.real r
  let beyond := match mode with
    | 0 => if f.e4 then (big + next) / 2 < |X| else (big + next) / 2 ≤ |X|
    | 1 => next ≤ |X|
    | 2 => big < X ∨ X ≤ -next
    | _ => X < -big ∨ next ≤ X
  (beyond → r = if f.e4 then (if alt then 0x7F else f.sign s + top)
      else f.sign s + (if alt ∨ mode = 1 ∨ (mode = 2 ∧ s) ∨ (mode = 3 ∧ ¬ s) then top else top + 1))
  ∧ (¬ beyond → r < 2 ^ f.width ∧ f.finPat r ∧ f.negOf r = s
    ∧ ∀ q, f.finPat q →
      let Q : ℝ := f.real q
      match mode with
      | 0 => |X - V| ≤ |X - Q| ∧ (|X - V| = |X - Q| → Q = V ∨ r % 2 = 0)
      | 1 => |V| ≤ |X| ∧ (|Q| ≤ |X| → |Q| ≤ |V|)
      | 2 => X ≤ V ∧ (X ≤ Q → V ≤ Q)
      | _ => V ≤ X ∧ (Q ≤ X → Q ≤ V))

/-- The pattern is the real X rounded and as it is written, zero taking the sign given (R62 to R64). -/
def FFmt.Gives (f : FFmt) (m : Mods) (zero : Bool) (X : ℝ) (v : Nat) : Prop :=
  (X = 0 → v = f.sign zero) ∧ (X ≠ 0 → ∃ r, f.RoundsTo m.rnd.toNat m.alt X r ∧ v = f.written m.ftz r)

/-- The integer n is X rounded to an integer under the mode (R65, R179). -/
def IntRounds (mode : Nat) (X : ℚ) (n : ℤ) : Prop :=
  match mode with
  | 0 => |X - n| ≤ 1 / 2 ∧ (|X - n| = 1 / 2 → n % 2 = 0)
  | 1 => n = if 0 ≤ X then ⌊X⌋ else ⌈X⌉
  | 2 => n = ⌈X⌉
  | _ => n = ⌊X⌋

/-- The least and the greatest value of an integer type (R57), and an exact result limited to it or, under alt and of b32, wrapped
(R58, R165, R166). -/
def intLeast (ty : Ty) : ℤ := if ty.isSigned then -(2 ^ (ewidth ty - 1)) else 0
def intGreatest (ty : Ty) : ℤ := if ty.isSigned then 2 ^ (ewidth ty - 1) - 1 else 2 ^ ewidth ty - 1
def limited (ty : Ty) (wrap : Bool) (X : ℤ) : BitVec (ewidth ty) :=
  BitVec.ofInt (ewidth ty) (if wrap then X else max (intLeast ty) (min (intGreatest ty) X))

/-- Element k of a pattern (R56), and its exact value after the absolute value and the negation (R40, R57, R166). -/
def element (ty : Ty) (x k : Nat) : BitVec (ewidth ty) := BitVec.ofNat (ewidth ty) (x / 2 ^ (ewidth ty * k))
def exactOf (ty : Ty) (neg abs : Bool) (x k : Nat) : ℤ :=
  let y : ℤ := if ty.isSigned then (element ty x k).toInt else (element ty x k).toNat
  let z := if abs then |y| else y
  if neg then -z else z

/-! ### Lane memory words (R196 to R203, R239, R240) -/

/-- The lane word puts one access for each selected lane, in ascending lane order, at the end of its path's store buffer or issue
queue, and goes on; the word is in flight and is owed every lane. No register and no byte of memory changes yet. -/
def LaneAccesses (ins : Instr) (s : State) (c : Crew) (i : Nat) (p : Path) (sel : Mask) (kind : AccKind) (n : Nat)
    (at_ : Nat → Space × Nat) (data : Nat → Nat) : Prop :=
  let store := kind = .store ∨ kind = .comm
  ∃ t c' xs w, exec ins s = .next t ∧ t.crewOf c.id = some c' ∧ SameMemory s t ∧ c'.v = c.v ∧ c'.s = c.s ∧ c'.m = c.m ∧ c'.c = c.c
    ∧ (c'.path i).lpc = (p.pastLane ins.size).lpc ∧ (c'.path i).iss = (p.pastLane ins.size).iss
    ∧ (c'.path i).spc = p.spc ∧ (c'.path i).m0 = p.m0 ∧ (c'.path i).mask = p.mask
    ∧ (c'.path i).sbuf = (if store then p.sbuf ++ xs else p.sbuf) ∧ (c'.path i).queue = (if store then p.queue else p.queue ++ xs)
    ∧ xs.map (·.lane) = maskLanes 1024 sel
    ∧ (∀ x ∈ xs, x.kind = kind ∧ x.width = n ∧ (x.space, x.addr) = at_ x.lane ∧ x.data = data x.lane ∧ x.wid = w.wid)
    ∧ c'.words = c.words ++ [w] ∧ w.instr = ins ∧ w.owed = sel

/-! ### Steps of other agents -/

/-- A step names entry r.path of crew c, which holds path p, in a partition that works (R396). -/
structure Named (s : State) (r : PathRef) (c : Crew) (p : Path) : Prop where
  at_   : s.named r = some (c, p)
  crew  : s.crewOf c.id = some c
  entry : c.paths[r.path]? = some p

/-- The step chooses a team to leave its core, and changes nothing else (R90, R318, R326). -/
def Chooses (ins : Instr) (s : State) (t : Team) : Prop :=
  exec ins s = .next { s with teams := s.teams.map fun (x : Team) => if x.id = t.id then { x with leaving := true } else x }

/-- The step has no effect. -/
def Idle (ins : Instr) (s : State) : Prop := exec ins s = .next s

/-- t differs from s in one partition alone. -/
def OnlyPart (part : Nat) (s t : State) : Prop :=
  t = { s with parts := t.parts } ∧ t.parts.length = s.parts.length ∧ ∀ k, k ≠ part → t.parts[k]? = s.parts[k]?

/-- The step changes one partition alone, and leaves it as given. -/
def SetsPart (ins : Instr) (s : State) (part : Nat) (q : Part) : Prop :=
  ∃ t, exec ins s = .next t ∧ OnlyPart part s t ∧ t.part? part = some q

/-- A 64-bit host read at an offset of a window of a partition returns this value (R3, R411). -/
def Reads (s : State) (part window off : Nat) (v : W64) : Prop :=
  (s.readReg (part * 0x1000000 + window * 0x10000 + off)).1 = v

/-! ### Frames -/

/-- The register that a scalar word of registers alone writes (R150 to R157). -/
def scalarDest : Instr → Option (BitVec 6)
  | .sadd d _ _ | .ssub d _ _ | .smul d _ _ | .smulh d _ _ | .smulhn d _ _ | .sdiv d _ _ | .sdivn d _ _ | .srem _ d _ _
  | .sand d _ _ | .sor d _ _ | .sxor d _ _ | .sshl d _ _ | .sshr d _ _ | .ssar d _ _ | .smin d _ _ | .smax d _ _
  | .sminn d _ _ | .smaxn d _ _ | .ssel d _ _ _ | .sbfe _ d _ _ | .spopc d _ | .sclz d _ | .slit d _ | .slitHi d _ _
  | .sli d _ | .saddi d _ _ | .sandi d _ _ | .sori d _ _ | .sxori d _ _ | .sshli d _ _ | .sshri d _ _ => some d
  | _ => none

/-- The mask register that a mask word writes (R161). -/
def maskDest : Instr → Option (BitVec 4)
  | .mand d _ _ | .mor d _ _ | .mxor d _ _ | .mnot d _ => some d
  | _ => none

/-- Whatever becomes of a word of crew c, it changes no other crew, no byte of memory, no team and no launch: at most it has
raised the halt line. -/
def KeepsTheRest (s t : State) (c : Crew) : Prop :=
  t = { s with crews := t.crews, raised := t.raised } ∧ t.crews.map (veil c.id) = s.crews.map (veil c.id)

end Sys2Proof.Machine
end

