-- ==== Sys2Proof/Certificates/Slice0/Obligations.lean ====
section
/-! DEFINITION. What is claimed of the machine: the statements for the provers. -/

open Sys2Proof Sys2Proof.Machine

/-! ### Scalar arithmetic (R149 to R157) -/

/-- R149, R150, R153, R154: the value each two-source scalar word writes, b a register or a literal. Constructors: sadd, ssub, smul,
smulh, smulhn, sand, sor, sxor, sshl, sshr, ssar, smin, smax, sminn, smaxn, sbfe, ssel. -/
def Obligations.ScalarTwoSourceResults : Prop :=
  ∀ (d a : BitVec 6) (b : SSrc) (k : BitVec 3) (sgn : Bool),
    let sets := fun (ins : Instr) (zero : Bool) (v : W64 → W64 → W64) =>
      SetsScalar ins (d :: a :: SSrc.regs b) d (SSrc.size b) fun c => v (c.sget a) (c.given zero b)
    sets (.sadd d a b) false (fun x y => x + y)
    ∧ sets (.ssub d a b) false (fun x y => x - y)
    ∧ sets (.smul d a b) false (fun x y => BitVec.ofNat 64 (x.toNat * y.toNat))
    ∧ sets (.smulh d a b) false (fun x y => BitVec.ofInt 64 (x.toInt * y.toInt / 2 ^ 64))
    ∧ sets (.smulhn d a b) true (fun x y => BitVec.ofNat 64 (x.toNat * y.toNat / 2 ^ 64))
    ∧ sets (.sand d a b) false (fun x y => x &&& y)
    ∧ sets (.sor d a b) false (fun x y => x ||| y)
    ∧ sets (.sxor d a b) false (fun x y => x ^^^ y)
    ∧ sets (.sshl d a b) false (fun x y => BitVec.ofNat 64 (x.toNat * 2 ^ y.toNat))
    ∧ sets (.sshr d a b) false (fun x y => BitVec.ofNat 64 (x.toNat / 2 ^ y.toNat))
    ∧ sets (.ssar d a b) false (fun x y => BitVec.ofInt 64 (x.toInt / 2 ^ y.toNat))
    ∧ sets (.smin d a b) false (fun x y => BitVec.ofInt 64 (min x.toInt y.toInt))
    ∧ sets (.smax d a b) false (fun x y => BitVec.ofInt 64 (max x.toInt y.toInt))
    ∧ sets (.sminn d a b) true (fun x y => BitVec.ofNat 64 (min x.toNat y.toNat))
    ∧ sets (.smaxn d a b) true (fun x y => BitVec.ofNat 64 (max x.toNat y.toNat))
    ∧ sets (.sbfe sgn d a b) false (fun x y =>
      let pos := y.toNat % 64
      let w := min (y.toNat / 2 ^ 8 % 2 ^ 7) 64
      let f := x.toNat / 2 ^ pos % 2 ^ min w (64 - pos)
      if w = 0 then 0
      else if sgn ∧ f.testBit (w - 1) then BitVec.ofInt 64 ((f : Int) - 2 ^ w)
      else BitVec.ofNat 64 f)
    ∧ SetsScalar (.ssel d a b k) (d :: a :: SSrc.regs b) d (SSrc.size b)
      fun c => if (c.cget k).getLsbD 0 then c.sget a else c.given false b

/-- R155 to R157: the value each one-source and immediate scalar word writes. Constructors: spopc, sclz, saddi, sandi, sori, sxori,
sshli, sshri, slitHi, slit, sli. -/
def Claims.ScalarImmediateResults : Prop :=
  ∀ (d a k : BitVec 6) (imm : BitVec 13) (long : BitVec 19) (lit : W32),
    let one := fun (ins : Instr) (n : Nat) (v : W64 → W64) => SetsScalar ins [d, a] d n fun c => v (c.sget a)
    one (.spopc d a) 4 (fun x => BitVec.ofNat 64 ((List.range 64).countP fun j => x.getLsbD j))
    ∧ one (.sclz d a) 4 (fun x => if x = 0 then 64 else BitVec.ofNat 64 (63 - x.toNat.log2))
    ∧ one (.saddi d a imm) 4 (fun x => x + imm.signExtend 64)
    ∧ one (.sandi d a imm) 4 (fun x => x &&& imm.signExtend 64)
    ∧ one (.sori d a imm) 4 (fun x => x ||| imm.signExtend 64)
    ∧ one (.sxori d a imm) 4 (fun x => x ^^^ imm.signExtend 64)
    ∧ one (.sshli d a k) 4 (fun x => BitVec.ofNat 64 (x.toNat * 2 ^ k.toNat))
    ∧ one (.sshri d a k) 4 (fun x => BitVec.ofNat 64 (x.toNat / 2 ^ k.toNat))
    ∧ one (.slitHi d a lit) 8 (fun x => BitVec.ofNat 64 (lit.toNat * 2 ^ 32 + x.toNat % 2 ^ 32))
    ∧ SetsScalar (.slit d lit) [d] d 8 (fun _ => lit.signExtend 64)
    ∧ SetsScalar (.sli d long) [d] d 4 (fun _ => long.signExtend 64)

/-- R152: the relation that SCMP writes in bit 0 of its condition register, bits 7 to 1 zero, by its code. Constructors: scmp. -/
def Claims.ScmpWritesRelation : Prop :=
  ∀ (cc : BitVec 4) (d : BitVec 3) (a : BitVec 6) (b : SSrc) s c i p, Issuing s c i p → cc.toNat < 10 →
    c.pending (a :: SSrc.regs b) = false →
    let x := c.sget a
    let y := c.given false b
    let holds := match cc.toNat with
      | 0 => decide (x = y)
      | 1 => decide (x ≠ y)
      | 2 => decide (x.toInt < y.toInt)
      | 3 => decide (x.toInt ≤ y.toInt)
      | 4 => decide (x.toInt > y.toInt)
      | 5 => decide (x.toInt ≥ y.toInt)
      | 6 => decide (x.toNat < y.toNat)
      | 7 => decide (x.toNat ≤ y.toNat)
      | 8 => decide (x.toNat > y.toNat)
      | _ => decide (x.toNat ≥ y.toNat)
    Completes (.scmp cc d a b) s c ((c.cset d (if holds then 1 else 0)).withPath i (p.past (SSrc.size b)))

/-- R151: the quotients and remainders, rounded toward zero; a zero divisor raises DIVIDE_ZERO in place over m0 with s[d] unchanged,
and where m0 is empty SDIV and SDIVN write 0 and SREM writes a. In a handler it takes HANDLER_FAULT (R380). Constructors: sdiv, sdivn,
srem. -/
def Obligations.DivisionResultsAndTrap : Prop :=
  ∀ (d a : BitVec 6) (b : SSrc) (n : Bool) s c i p, Issuing s c i p → c.pending (d :: a :: SSrc.regs b) = false →
    let divides := fun (ins : Instr) (zero : Bool) (q z : W64 → W64 → W64) =>
      let x := c.sget a
      let y := c.given zero b
      (y ≠ 0 → Completes ins s c ((c.sset d (q x y)).withPath i (p.past (SSrc.size b))))
      ∧ (y = 0 → p.m0 = 0 → Completes ins s c ((c.sset d (z x y)).withPath i (p.past (SSrc.size b))))
      ∧ (y = 0 → p.m0 ≠ 0 → p.isHandler = false → FaultsInPlace ins s c i p p 9 0 p.m0 false)
      ∧ (y = 0 → p.m0 ≠ 0 → p.isHandler = true → Halts ins s c p false 39 9 0)
    divides (.sdiv d a b) false (fun x y => BitVec.ofInt 64 (x.toInt.tdiv y.toInt)) (fun _ _ => 0)
    ∧ divides (.sdivn d a b) true (fun x y => BitVec.ofNat 64 (x.toNat / y.toNat)) (fun _ _ => 0)
    ∧ divides (.srem n d a b) false (fun x y =>
        if n then BitVec.ofNat 64 (x.toNat % y.toNat) else BitVec.ofInt 64 (x.toInt.tmod y.toInt)) (fun x _ => x)

/-! ### Control flow (R91 to R97) -/

/-- R91: an ISSUE makes its n lane words pending, k times, void where k is 0, with the scalar registers as they stand; it waits while
an earlier ISSUE is pending. Where scalar loads are outstanding, a void ISSUE still goes, since its words read nothing. Constructors:
issue, issueReg. -/
def Claims.IssueMakesWordsPending : Prop :=
  ∀ (n : BitVec 7) (rep : BitVec 12) (rs : BitVec 6) s c i p, Issuing s c i p →
    let issued := fun (k : Nat) =>
      c.withPath i { p.past 4 with iss := some ⟨n.toNat, n.toNat, max k 1 - 1, k == 0, p.lpc, c.s⟩ }
    let waits := c.withPath i (p.stalled (p.wait.getD 0))
    (p.iss = none → c.sPend = [] → Completes (.issue n rep) s c (issued (rep.toNat + 1))
      ∧ Completes (.issueReg rs n) s c (issued ((c.sget rs).toNat % 2 ^ 16)))
    ∧ (p.iss = none → c.pending [rs] = false → (c.sget rs).toNat % 2 ^ 16 = 0 → Completes (.issueReg rs n) s c (issued 0))
    ∧ (p.iss ≠ none → Completes (.issue n rep) s c waits ∧ Completes (.issueReg rs n) s c waits)

/-- R92 to R95: NOP, LPC and the branches: taken, both program counters move by their offsets from the word, in scalar words and lane
slots; not taken, the scalar one passes the word and its literal. A word that changes the lane PC, and BRM and LOOP, find no lane word
of an earlier ISSUE pending (R91). Constructors: nop, lpc, br, brLong, brc, brm, loop. -/
def Claims.BranchesMoveBothCounters : Prop :=
  ∀ (so : BitVec 13) (lo : BitVec 12) (sl ll : BitVec 16) (k : BitVec 3) (a : BitVec 4) (test : BitVec 2) s c i p,
    Issuing s c i p → p.iss = none →
    let near := c.withPath i (p.at_ (so.signExtend 64) (lo.signExtend 64))
    let far := c.withPath i (p.at_ (sl.signExtend 64) (ll.signExtend 64))
    let m := c.mget p a
    let holds := match test.toNat with
      | 0 => decide (m &&& p.m0 ≠ 0)
      | 1 => decide (m &&& p.m0 = p.m0)
      | _ => decide (m &&& p.m0 = 0)
    let turned := if c.rot = 0 then c else { c with rotb := (c.rotb + c.rot - 1) % c.rot }
    Completes .nop s c (c.withPath i (p.past 4))
    ∧ Completes (.lpc lo) s c (c.withPath i { p.past 4 with lpc := p.lpc + 12 * lo.signExtend 64 })
    ∧ Completes (.br so lo) s c near
    ∧ Completes (.brLong sl ll) s c far
    ∧ Completes (.brc k so lo) s c (if (c.cget k).getLsbD 0 then near else c.withPath i (p.past 4))
    ∧ (c.maskPending i a = false → Completes (.brm a test sl ll) s c (if holds then far else c.withPath i (p.past 8)))
    ∧ (p.isHandler = false → Completes (.loop so lo) s c (turned.withPath i
        (if 1 < p.lcnt.toNat then { p with lcnt := p.lcnt - 1 }.at_ (so.signExtend 64) (lo.signExtend 64)
         else { p.past 4 with lcnt := 0 })))

/-- R53, R96, R97: CALL in both forms and a BLAZE with a payload push the return point and branch; with 16 entries they raise
CALL_DEPTH in place and the stack is as it was. Constructors: call, callLong, blaze. -/
def Claims.CallsPushTheReturnPoint : Prop :=
  ∀ (so : BitVec 13) (lo : BitVec 12) (sl ll : BitVec 16) (k : BitVec 3) s c i p, Issuing s c i p → p.iss = none →
    let calls := fun (ins : Instr) (n : Nat) (blaze : Bool) (slot : BitVec 3) (so lo : W64) =>
      (p.link.length < 16 → CompletesTraced ins s c
        (c.withPath i ({ p with link := ⟨p.spc + w64 n, p.lpc, blaze, slot⟩ :: p.link }.at_ so lo)) i 6 0 (p.spc + 4 * so))
      ∧ (16 ≤ p.link.length → p.isHandler = false →
        FaultsInPlace ins s c i p p 6 p.link.length p.faulting false)
    calls (.call so lo) 4 false 0 (so.signExtend 64) (lo.signExtend 64)
    ∧ calls (.callLong sl ll) 8 false 0 (sl.signExtend 64) (ll.signExtend 64)
    ∧ calls (.blaze k so lo) 4 true k (so.signExtend 64) (lo.signExtend 64)

/-- R45, R96, R97: RET, with no result of its path outstanding and no joint fault to deliver, pops the top entry into both program
counters, their bits 1 and 0 cleared (R86), and begins a segment; on an empty stack it raises CALL_DEPTH in place. Constructors: ret. -/
def Claims.RetPopsTheReturnPoint : Prop :=
  ∀ s c i p, Issuing s c i p → p.iss = none → p.isHandler = false → c.outstanding i = false → p.late = [] →
    let aligned := fun (pc : W64) => pc &&& ~~~3
    (∀ l rest, p.link = l :: rest → CompletesTraced .ret s c
      (c.withPath i { p with link := rest, spc := aligned l.spc, lpc := aligned l.lpc, newSeg := true, wait := none }) i 7 0
        (aligned l.spc))
    ∧ (p.link = [] → FaultsInPlace .ret s c i p p 6 0 p.faulting false)

/-! ### Paths: SPLIT, JOIN, EXIT (R98 to R101) -/

/-- R98: SPLIT sends the lanes of m0 outside m[a] to the target: with none of them it falls through, with all of them the path moves,
and else the lowest free entry takes them as a ready path with copies of the link stack and sr.lcnt; without a free entry it raises
PATH_FULL in place and splits nothing. Constructors: split, splitReg. -/
def Obligations.SplitDividesThePath : Prop :=
  ∀ (a : BitVec 4) (b : BitVec 6) (sl ll : BitVec 16) s c i p, Issuing s c i p → Free c i p → c.pending [b] = false →
    let splits := fun (ins : Instr) (n : Nat) (so lo : W64) =>
      let stay := p.m0 &&& c.mget p a
      let leave := p.m0 &&& ~~~c.mget p a
      (leave = 0 → Completes ins s c (c.withPath i { p.past n with newSeg := true }))
      ∧ (leave ≠ 0 → stay = 0 → Completes ins s c (c.withPath i { p.at_ so lo with newSeg := true }))
      ∧ (leave ≠ 0 → stay ≠ 0 → c.freeEntry = none → FaultsInPlace ins s c i p p 7 0 p.m0 false)
      ∧ (∀ e, leave ≠ 0 → stay ≠ 0 → c.freeEntry = some e → e ≠ i → e < c.paths.length →
        ∃ t c', exec ins s = .next t ∧ OnlyCrewTraced c.id s t ∧ t.crewOf c.id = some c'
          ∧ c' = { c with paths := c'.paths }
          ∧ c'.path i = { p.past n with newSeg := true, mask := p.mask &&& ~~~leave, m0 := stay }
          ∧ (let q := c'.path e
             q.st = .ready ∧ q.spc = p.spc + 4 * so ∧ q.lpc = p.lpc + 12 * lo ∧ q.mask = leave ∧ q.m0 = leave
               ∧ q.link = p.link ∧ q.lcnt = p.lcnt ∧ q.iss = none ∧ q.newSeg = true)
          ∧ ∀ k, k ≠ i → k ≠ e → c'.path k = c.path k)
    splits (.split a sl ll) 8 (sl.signExtend 64) (ll.signExtend 64)
    ∧ splits (.splitReg a b) 4 (((c.sget b).extractLsb' 16 16).signExtend 64) (((c.sget b).extractLsb' 0 16).signExtend 64)

/-- R88, R99: a JOIN whose mask holds no lane of the path falls through; any other parks the path at its site, which is evaluated at
the end of the clock. There a covered site merges into its lowest entry, whose path goes on past the JOIN with all their lanes, and
the other entries are free. Constructors: join. -/
def Claims.JoinParksAndMerges : Prop :=
  (∀ (a : BitVec 4) s c i p, Issuing s c i p → Free c i p →
    (p.mask &&& c.mget p a = 0 → Completes (.join a) s c (c.withPath i { p.past 4 with newSeg := true }))
    ∧ (p.mask &&& c.mget p a ≠ 0 → ∃ t c', exec (.join a) s = .next t ∧ OnlyCrew c.id s t ∧ t.crewOf c.id = some c'
        ∧ c' = { c with paths := c'.paths, due := c.due ++ [p.spc] }
        ∧ c'.path i = { p with newSeg := true, st := .join, joinM := a, wait := some stSync }))
  ∧ ∀ (c : Crew) (site : W64) (k : Nat) (rest : List Nat) (next : Nat), c.atSite site = k :: rest → k < c.paths.length →
    let d := c.mergeAt site next
    let q := d.path k
    let all := rest.map c.path
    q.mask = all.foldl (fun m x => m ||| x.mask) (c.path k).mask
    ∧ q.m0 = all.foldl (fun m x => m ||| x.m0) (c.path k).m0
    ∧ q.spc = (c.path k).spc + 4 ∧ q.lpc = (c.path k).lpc ∧ q.link = (c.path k).link ∧ q.lcnt = (c.path k).lcnt
    ∧ (∀ e ∈ rest, d.path e = Path.empty)
    ∧ ∀ e, e ≠ k → e ∉ rest → d.path e = c.path e

/-- R101, R138: EXIT frees its entry; every lane of the path mask leaves the crew, and an open proposal keeps none of them. The other
paths go on as they were. Constructors: exit. -/
def Claims.ExitFreesTheEntry : Prop :=
  ∀ s c i p (tm : Team), Issuing s c i p → Free c i p → i < 8 → c.paths.length = 9 → s.teamOf c.team = some tm →
    tm.exitChecks p.mask (s.barWaits tm) = [] →
    ∃ t c', exec .exit s = .next t ∧ t.crewOf c.id = some c'
      ∧ (c'.path i).st = .free
      ∧ (∀ w, c'.prop = some w → w.lanes &&& p.mask = 0)
      ∧ (∀ k, k < 8 → k ≠ i → (c'.path k).st = (c.path k).st ∧ (c'.path k).mask = (c.path k).mask
          ∧ (c'.path k).m0 = (c.path k).m0 ∧ (c'.path k).spc = (c.path k).spc ∧ (c'.path k).lpc = (c.path k).lpc)
      ∧ c'.s = c.s ∧ c'.m = c.m ∧ c'.c = c.c

/-! ### Barriers and role signals (R102 to R106) -/

/-- R102, R103: an arrival that meets no condition of the checker opens its phase with M = m[mreg] or keeps the open one's, and adds
m0 ∧ M to the lanes arrived. ARRIVE writes the phase number and goes on; BAR parks with it. BWAIT passes where the phase of its token
has completed, and else parks. Constructors: arrive, bar, bwait. -/
def Claims.BarriersCountArrivals : Prop :=
  ∀ (d r : BitVec 6) (b m : BitVec 4) s c i p (tm : Team), Issuing s c i p → Free c i p → c.pending [d] = false →
    c.pending [r] = false → s.teamOf c.team = some tm →
    let bar := tm.bar b.toNat
    let memb := if bar.opn then bar.memb else c.mget p m
    let parks := fun (c' : Crew) (token : W32) => c' = { c with paths := c'.paths }
      ∧ c'.path i = { p with st := .barrier, barB := b, token := token, wait := some stSync }
    let arrives := fun (t : State) => ∃ tm', t.teamOf c.team = some tm' ∧ (tm'.bar b.toNat).phase = bar.phase
      ∧ (tm'.bar b.toNat).opn = true ∧ (tm'.bar b.toNat).memb = memb
      ∧ (tm'.bar b.toNat).arr = bar.arr ||| (p.m0 &&& memb) ∧ ∀ k, k ≠ b.toNat → tm'.bar k = tm.bar k
    (bar.checks (c.mget p m) p.m0 = [] →
      (∃ t, exec (.arrive d b m) s = .next t
        ∧ t.crewOf c.id = some ((c.sset d (bar.phase.setWidth 64)).withPath i (p.past 4)) ∧ arrives t)
      ∧ (∃ t c', exec (.bar b m) s = .next t ∧ t.crewOf c.id = some c' ∧ parks c' bar.phase ∧ arrives t))
    ∧ (let gone := (bar.phase - (c.sget r).setWidth 32).toNat
       (1 ≤ gone ∧ gone ≤ 2 ^ 31 → ∃ t c', exec (.bwait b r) s = .next t ∧ OnlyCrew c.id s t ∧ t.crewOf c.id = some c'
          ∧ (c'.path i).spc = p.spc + 4 ∧ (c'.path i).m0 = p.m0 ∧ c'.s = c.s)
       ∧ (¬ (1 ≤ gone ∧ gone ≤ 2 ^ 31) → ∃ t c', exec (.bwait b r) s = .next t ∧ OnlyCrew c.id s t
          ∧ t.crewOf c.id = some c' ∧ parks c' ((c.sget r).setWidth 32)))

/-- R102: a phase completes exactly when every live member lane has arrived; the number then grows by one modulo 2^32 and no lane has
arrived in the next phase. -/
def Claims.BarrierPhaseCompletes : Prop :=
  ∀ (b : Barrier) (live : Mask), b.opn = true →
    (b.memb &&& live &&& ~~~b.arr = 0 → (b.settle live).phase = b.phase + 1 ∧ (b.settle live).arr = 0
      ∧ (b.settle live).opn = false ∧ (b.settle live).passed b.phase = true)
    ∧ (b.memb &&& live &&& ~~~b.arr ≠ 0 → b.settle live = b)

/-- R106: a post adds its count to the crews of its team with that number, up to 2^32 − 1; a take of 0 passes, any other parks until
the end of a clock, where takes are served in ascending index while the count suffices. A crew number that the team lacks raises
ILLEGAL_INSTRUCTION in place. Constructors: rolesigPost, rolesigTake. -/
def Claims.RoleSignalsCount : Prop :=
  (∀ (crew : BitVec 2) (b : BitVec 6) s c i p, Issuing s c i p → Free c i p → c.pending [b] = false →
    (crew.toNat < (s.crewsOf c.team).length → ∃ t, exec (.rolesigPost crew b) s = .next t
      ∧ t = { s with crews := t.crews }
      ∧ (∃ c', t.crewOf c.id = some c' ∧ c'.path i = p.past 4 ∧ c'.s = c.s)
      ∧ ∀ id d, s.crewOf id = some d → ∃ d', t.crewOf id = some d' ∧ d'.sig.toNat =
          if d.team = c.team ∧ d.num = crew.toNat ∧ d.retired = false then min (d.sig.toNat + (c.sget b).toNat % 2 ^ 32) (2 ^ 32 - 1)
          else d.sig.toNat)
    ∧ ((s.crewsOf c.team).length ≤ crew.toNat → FaultsInPlace (.rolesigPost crew b) s c i p p 1 0 p.faulting false)
    ∧ ((c.sget b).toNat % 2 ^ 32 = 0 → ∃ t c', exec (.rolesigTake b) s = .next t ∧ OnlyCrew c.id s t ∧ t.crewOf c.id = some c'
      ∧ c' = { c with paths := c'.paths }
      ∧ c'.path i = { p.past 4 with base := (c'.path i).base, hist := (c'.path i).hist })
    ∧ ((c.sget b).toNat % 2 ^ 32 ≠ 0 → ∃ t c', exec (.rolesigTake b) s = .next t ∧ OnlyCrew c.id s t
      ∧ t.crewOf c.id = some c' ∧ c' = { c with paths := c'.paths }
      ∧ c'.path i = { p with st := .rolesig, need := (c.sget b).setWidth 32, wait := some stSync }))
  ∧ ∀ (c : Crew) (next i : Nat) (is : List Nat), (c.path i).st = .rolesig →
    (c.sig.toNat < (c.path i).need.toNat → c.serveTakes next (i :: is) = c)
    ∧ ((c.path i).need.toNat ≤ c.sig.toNat → i < c.paths.length → (c.serveTakes next [i]).sig = c.sig - (c.path i).need
      ∧ ((c.serveTakes next [i]).path i).st ≠ .rolesig ∧ ((c.serveTakes next [i]).path i).spc = (c.path i).spc + 4)

/-! ### Traps (R374 to R382) -/

/-- R53, R376, R381: TRAP and a BLAZE without a payload raise their faults over the lanes of R374, with the word after them as the
recorded point, and code or slot as the detail. Constructors: trap, blazeTrap. -/
def Claims.TrapWordsRecordTheNextWord : Prop :=
  ∀ (code : BitVec 13) (k : BitVec 3) s c i p, Issuing s c i p → Free c i p →
    FaultsInPlace (.trap code) s c i p { p with spc := p.spc + 4 } 14 code.toNat p.faulting false
    ∧ FaultsInPlace (.blazeTrap k) s c i p { p with spc := p.spc + 4 } 13 k.toNat p.faulting false

/-- R377, R378: TRAP_DISPATCH of a record that is due makes its entry the handler path, at the handler's addresses, with the trap
lanes as m0, the recorded link depth and loop count and no pending ISSUE; with no handler set, it raises UNHANDLED_TRAP. Constructors:
trapDispatch. -/
def Claims.TrapEntry : Prop :=
  ∀ (r : PathRef) s c p (rec_ : TrapRec) (k : KDesc), s.named r = some (c, p) → c.paths[r.path]? = some p → s.crewOf c.id = some c →
    c.dueRec r.path = some rec_ → c.handler = none → c.nextTrap = some r.path → c.trapWaits rec_ = false → s.kdOf c = some k →
    (c.ltvec ≠ 0 → ∃ t c', exec (.trapDispatch r) s = .next t ∧ OnlyCrewTraced c.id s t ∧ t.crewOf c.id = some c'
      ∧ c'.handler = some r.path ∧ c' = { c with paths := c'.paths, handler := c'.handler }
      ∧ (∀ j, j ≠ r.path → c'.path j = c.path j)
      ∧ (let q := c'.path r.path
         q.spc = k.scode + 4 * (c.ltvec.extractLsb' 0 32).setWidth 64
         ∧ q.lpc = k.lcode + 12 * (c.ltvec.extractLsb' 32 32).setWidth 64
         ∧ q.m0 = rec_.lanes &&& p.mask ∧ q.mask = p.mask ∧ q.iss = none ∧ q.lcnt = rec_.lcnt
         ∧ q.link = p.link.drop (p.link.length - rec_.depth) ∧ q.newSeg = true ∧ q.isHandler = true
         ∧ q.trap = some { rec_ with running := true } ∧ (p.held = false → q.st = .ready)))
    ∧ (c.ltvec = 0 → ∃ z, exec (.trapDispatch r) s = .next (s.raise (s.partOf c) z) ∧ z.code = 40 ∧ z.detail = rec_.code
      ∧ z.path = r.path)

/-- R382: TRET in a handler path takes it back to the recorded point with the trap lanes it still has, frees the crew's handler and
ends the record; .skip passes over the word at the point. Elsewhere it raises ILLEGAL_INSTRUCTION in place. Constructors: tretSkip,
tret. -/
def Claims.TrapReturn : Prop :=
  ∀ (skip : Bool) s c i p, Issuing s c i p → p.iss = none → c.outstanding i = false → p.late = [] →
    let ins : Instr := if skip then .tretSkip else .tret
    (∀ r, p.trap = some r → r.running = true → ∃ t c', exec ins s = .next t ∧ OnlyCrewTraced c.id s t
      ∧ t.crewOf c.id = some c'
      ∧ c' = { c with paths := c'.paths, handler := none
                      prop := c.prop.map fun w => { w with defer := w.defer &&& ~~~(r.lanes &&& p.mask) } }
      ∧ (∀ j, j ≠ i → c'.path j = c.path j)
      ∧ c'.path i = { p with
          m0 := r.lanes &&& p.mask, mask := if r.inPlace then p.mask else r.lanes &&& p.mask
          spc := r.spc, lpc := r.lpc, iss := r.iss, lcnt := r.lcnt, link := p.link.drop (p.link.length - r.depth)
          trap := none, skip := if skip then some r.lane else none, newSeg := true, wait := none, want := none })
    ∧ (p.isHandler = false → FaultsInPlace ins s c i p p 1 0 p.faulting false)

/-- R380: SPLIT, JOIN, BAR, ARRIVE, BWAIT, ROLESIG, LOOP, TRAP and PROPOSE take HANDLER_FAULT in a handler path, and so does a RET
below the recorded link depth. The details of these faults are log entry 18, the model's inference. Constructors: split, splitReg,
join, bar, arrive, bwait, rolesigPost, rolesigTake, loop, trap, propose, ret. -/
def Claims.HandlersMayNotRunTheseWords : Prop :=
  ∀ (a b m : BitVec 4) (sl ll : BitVec 16) (r d : BitVec 6) (crew : BitVec 2) (so : BitVec 13) (lo : BitVec 12)
    (code : BitVec 13) (base : BitVec 8) (len : BitVec 4) s c i p, Issuing s c i p → p.isHandler = true → c.pending [r] = false →
    Halts (.split a sl ll) s c p false 39 0 0 ∧ Halts (.splitReg a r) s c p false 39 0 0
    ∧ Halts (.join a) s c p false 39 0 0 ∧ Halts (.bar b m) s c p false 39 0 0
    ∧ Halts (.arrive d b m) s c p false 39 0 0 ∧ Halts (.bwait b r) s c p false 39 0 0
    ∧ (crew.toNat < (s.crewsOf c.team).length → Halts (.rolesigPost crew r) s c p false 39 0 0)
    ∧ Halts (.rolesigTake r) s c p false 39 0 0 ∧ Halts (.loop so lo) s c p false 39 0 0
    ∧ Halts (.trap code) s c p false 39 14 0 ∧ Halts (.propose base len) s c p false 39 0 0
    ∧ ∀ x rest rec_, p.link = x :: rest → p.trap = some rec_ → p.link.length ≤ rec_.depth → p.iss = none →
      c.outstanding i = false → p.late = [] → Halts .ret s c p false 39 0 0

/-! ### Holds, pre-emption and special registers (R158, R160, R392 to R394) -/

/-- R393: HALTD passes where the debug agent is not enabled; else the path is held after the word, unless all-stop mode holds more,
and a breakpoint record with the tag is sent. The path is in the middle of no word (R398). Constructors: haltd. -/
def Claims.HaltdHoldsThePath : Prop :=
  ∀ (tag : BitVec 6) s c i p (q : Part), Issuing s c i p → p.st = .ready → p.park = none → s.part? (s.partOf c) = some q →
    (q.mode = 0 → Completes (.haltd tag) s c (c.withPath i (p.past 4)))
    ∧ (q.mode = 1 → ∃ u, exec (.haltd tag) s = .next (u.breakRecord c.id i 1 tag.toNat) ∧ OnlyCrew c.id s u
      ∧ u.crewOf c.id = some (c.withPath i { p.past 4 with st := .held, held := true }))

/-- R326, R394: YIELD passes, and its team leaves its core where a head that the latest placement decision passed over would fit there
without it. Constructors: yield. -/
def Claims.YieldLeavesForAPassedHead : Prop :=
  ∀ s c i p (tm : Team), Issuing s c i p → p.iss = none → c.undispatched i = false → s.teamOf c.team = some tm →
    let leaves := s.choosable tm && s.displaced tm
    ∃ t, exec .yield s = .next t ∧ t = { s with crews := t.crews, teams := t.teams }
      ∧ t.crewOf c.id = some (c.withPath i (p.past 4))
      ∧ t.teamOf c.team = some (if leaves then { tm with leaving := true } else tm)

/-- R158, R160: SRD and TIME, once the pending ISSUE and the path's earlier scalar words are done, write their register with the
special register as the path sees it; a read of sr.time never gives less than the crew has read before (R392). Constructors: srd,
time, timeCyc. -/
def Claims.SpecialRegisterReads : Prop :=
  ∀ (d : BitVec 6) (addr : BitVec 12) s c i p, Issuing s c i p → p.iss = none → c.pathPending i = false → c.pending [d] = false →
    let reads := fun (ins : Instr) (a : BitVec 12) =>
      (a = 0 → ¬ s.time.ult c.lastT) → Completes ins s c
        (((if a = 0 then { c with lastT := s.time } else c).sset d (s.srRead c i a)).withPath i (p.past 4))
    reads (.srd d addr) addr ∧ reads (.time d) 0 ∧ reads (.timeCyc d) 1

/-- R107, R142, R217, R288, R313, R355, R395: what a path reads in the registers of time, of its own place, of its record, and in the
per-lane registers, of the lowest lane of its m0 and zero where m0 is empty. -/
def Claims.SpecialRegisterValues : Prop :=
  ∀ (s : State) (c : Crew) (i : Nat),
    let p := c.path i
    s.srRead c i 0x000 = s.time ∧ s.srRead c i 0x002 = c.ltvec
    ∧ s.srRead c i 0x01A = p.lcnt.setWidth 64 ∧ s.srRead c i 0x01B = c.sig.setWidth 64
    ∧ s.srRead c i 0x021 = BitVec.ofNat 64 c.rotb ∧ s.srRead c i 0x0D1 = c.rstream.setWidth 64
    ∧ s.srRead c i 0x0F0 = BitVec.ofNat 64 c.stsel
    ∧ (∀ r, p.trap = some r → s.srRead c i 0x005 = r.spc ∧ s.srRead c i 0x006 = r.lpc
        ∧ s.srRead c i 0x004 = BitVec.ofNat 64 (r.code % 2 ^ 16 + r.detail % 2 ^ 16 * 2 ^ 16 + (if r.inPlace then 2 ^ 32 else 0)))
    ∧ (p.trap = none → s.srRead c i 0x004 = 0 ∧ s.srRead c i 0x005 = 0 ∧ s.srRead c i 0x006 = 0 ∧ s.srRead c i 0x007 = 0)
    ∧ (p.m0 = 0 → ∀ a ∈ [(0x010 : BitVec 12), 0x011, 0x030, 0x041, 0x042, 0x093, 0x0A4, 0x0D0, 0x0D3], s.srRead c i a = 0)
    ∧ ∀ l, maskLowest p.m0 = some l →
      s.srRead c i 0x010 = BitVec.ofNat 64 l
      ∧ s.srRead c i 0x030 = SMap.get 0 c.propd l ++ SMap.get 0 c.acpt l
      ∧ s.srRead c i 0x041 = SMap.get 0 c.faddr l
      ∧ s.srRead c i 0x042 = (SMap.get 0 c.mcause l).setWidth 64
      ∧ s.srRead c i 0x093 = (SMap.get 0 c.qcause l).setWidth 64
      ∧ s.srRead c i 0x0A4 = (SMap.get 0 c.mxcause l).setWidth 64
      ∧ s.srRead c i 0x0D0 = (SMap.get 0 c.draw l).setWidth 64
      ∧ s.srRead c i 0x0D3 = (SMap.get 0 c.ecause l).setWidth 64

/-- R158: SWR, once the pending ISSUE and the path's earlier scalar words are done, writes the RW fields of its register, of a
per-lane one in every lane of m0, so that they read back, and leaves every general register. Constructors: swr. -/
def Claims.SpecialRegisterWrites : Prop :=
  ∀ (addr : BitVec 12) (r : BitVec 6) s c i p, Issuing s c i p → p.iss = none → c.pathPending i = false → c.pending [r] = false →
    let v := c.sget r
    ∃ t c', exec (.swr addr r) s = .next t ∧ OnlyCrew c.id s t ∧ t.crewOf c.id = some c'
      ∧ c'.s = c.s ∧ c'.c = c.c ∧ c'.m = c.m ∧ c'.v = c.v ∧ (c'.path i).spc = p.spc + 4 ∧ (c'.path i).m0 = p.m0
      ∧ (addr = 0x002 → c'.ltvec = v) ∧ (addr = 0x01A → (c'.path i).lcnt = v.setWidth 32)
      ∧ (addr = 0x01B → c'.sig = v.setWidth 32) ∧ (addr = 0x0D1 → c'.rstream = v.setWidth 32)
      ∧ (addr = 0x021 → c.rot ≠ 0 → c'.rotb = v.toNat % 64 % c.rot) ∧ (addr = 0x0F0 → c'.stsel = v.toNat % 16)
      ∧ (∀ l, l < 1024 → p.m0.getLsbD l →
        (addr = 0x030 → SMap.get 0 c'.propd l = v.extractLsb' 32 32 ∧ SMap.get 0 c'.acpt l = v.setWidth 32)
        ∧ (addr = 0x042 → SMap.get 0 c'.mcause l = v.setWidth 7) ∧ (addr = 0x093 → SMap.get 0 c'.qcause l = v.setWidth 7)
        ∧ (addr = 0x0A4 → SMap.get 0 c'.mxcause l = v.setWidth 4) ∧ (addr = 0x0D0 → SMap.get 0 c'.draw l = v.setWidth 32)
        ∧ (addr = 0x0D3 → SMap.get 0 c'.ecause l = v.setWidth 3))
      ∧ (∀ l, p.m0.getLsbD l = false → SMap.get 0 c'.propd l = SMap.get 0 c.propd l ∧ SMap.get 0 c'.draw l = SMap.get 0 c.draw l)
      ∧ (∀ rec_, p.trap = some rec_ → addr = 0x005 → (c'.path i).trap = some { rec_ with spc := v, iss := none })
      ∧ (∀ rec_, p.trap = some rec_ → addr = 0x006 → (c'.path i).trap = some { rec_ with lpc := v, iss := none })

/-! ### Masks (R161) -/

/-- R161: the mask words, once the pending ISSUE and the path's earlier scalar words are done (R158): m0 keeps within the path mask
and the others within the lanes of the team; MPOP counts. No other mask and no scalar register of theirs changes. Constructors: mand,
mor, mxor, mnot, mexec, mpop. -/
def Obligations.MaskWordResults : Prop :=
  ∀ (d a b : BitVec 4) (r : BitVec 6) s c i p, Issuing s c i p → p.iss = none → c.pathPending i = false →
    let writes := fun (ins : Instr) (d : BitVec 4) (v : Mask) =>
      ∃ t c', exec ins s = .next t ∧ OnlyCrew c.id s t ∧ t.crewOf c.id = some c'
        ∧ c'.mget (c'.path i) d = (if d = 0 then v &&& p.mask else v &&& s.teamLanes c.team)
        ∧ (∀ e, e ≠ d → c'.mget (c'.path i) e = c.mget p e)
        ∧ (c'.path i).spc = p.spc + 4 ∧ (c'.path i).mask = p.mask ∧ c'.s = c.s ∧ c'.c = c.c ∧ c'.v = c.v
    writes (.mand d a b) d (c.mget p a &&& c.mget p b)
    ∧ writes (.mor d a b) d (c.mget p a ||| c.mget p b)
    ∧ writes (.mxor d a b) d (c.mget p a ^^^ c.mget p b)
    ∧ writes (.mnot d a) d (~~~c.mget p a)
    ∧ writes (.mexec a) 0 (c.mget p a)
    ∧ (c.pending [r] = false → Completes (.mpop r a) s c ((c.sset r (BitVec.ofNat 64
        ((List.range 1024).countP fun l => (c.mget p a).getLsbD l))).withPath i (p.past 4)))

/-! ### The register store (R117 to R123) -/

/-- R117: REGGROW never shrinks; it is granted where the core has the units, the new registers uniform zero, and else answers 1, or
waits under .wait. Constructors: reggrow. -/
def Claims.ReggrowAsksForUnits : Prop :=
  ∀ (d : BitVec 6) (target : BitVec 9) (wait : Bool) s c i p, Issuing s c i p → c.pending [d] = false →
    let need := (target.toNat - c.nRegs) * c.groups * 8
    (target.toNat ≤ c.nRegs → Completes (.reggrow d wait target) s c ((c.sset d 0).withPath i (p.past 4)))
    ∧ (c.nRegs < target.toNat → need ≤ s.crewFree c → ∃ c', Completes (.reggrow d wait target) s c c'
      ∧ c'.nRegs = target.toNat ∧ c'.s = (c.sset d 0).s ∧ c'.path i = p.past 4
      ∧ (∀ v g, g < 32 → v < c.nRegs ∨ target.toNat ≤ v → c'.liveReg v g = c.liveReg v g)
      ∧ ∀ v g, g < 32 → c.nRegs ≤ v → v < target.toNat → c'.liveReg v g = .uni 0)
    ∧ (c.nRegs < target.toNat → s.crewFree c < need →
      Completes (.reggrow d wait target) s c (if wait then
        c.withPath i { p with wait := some stRegs, want := some (.grow d target.toNat) }
        else (c.sset d 1).withPath i (p.past 4)))

/-- R119: REGSHRINK removes the registers from its target on and writes the units they held; it finds no word of the crew that still
writes or reads them. Constructors: regshrink. -/
def Claims.RegshrinkReturnsUnits : Prop :=
  ∀ (d : BitVec 6) (target : BitVec 9) s c i p, Issuing s c i p → c.pending [d] = false →
    c.busyRegs ((List.range (c.nRegs - target.toNat)).map (· + target.toNat)) = false →
    let barred := (0 < c.rot ∧ target.toNat < 128 + c.rot) ∨ ∃ w, c.prop = some w ∧ target.toNat < w.base + w.len
    (barred → p.isHandler = false → FaultsInPlace (.regshrink d target) s c i p p 1 0 p.faulting false)
    ∧ (¬ barred → c.nRegs ≤ target.toNat → Completes (.regshrink d target) s c ((c.sset d 0).withPath i (p.past 4)))
    ∧ (¬ barred → target.toNat < c.nRegs → ∃ c', Completes (.regshrink d target) s c c'
      ∧ c'.nRegs = target.toNat ∧ c'.path i = p.past 4
      ∧ c'.s = (c.sset d (BitVec.ofNat 64 (((List.range c.groups).map fun g =>
          ((List.range (c.nRegs - target.toNat)).map fun k => (c.liveReg (target.toNat + k) g).cost).sum).sum))).s
      ∧ ∀ v g, g < 32 → v < target.toNat ∨ 248 ≤ v → c'.liveReg v g = c.liveReg v g)

/-- R113, R120, R122: TAGOF writes tag, class and cost of the live group-register, zero for an absent one; the path then owes the
register no write; ROTSET sets the region and its base, and faults in the order of its checks. Constructors: tagof, rotset. -/
def Claims.TagofAndRotset : Prop :=
  ∀ (d a : BitVec 6) (v : BitVec 8) (size : BitVec 7) s c i p, Issuing s c i p → p.iss = none →
    (c.pending [d, a] = false → c.owesWrite i (c.physical v.toNat) = false →
      Completes (.tagof d a v) s c ((c.sset d (
        let g := (c.sget a).toNat
        let r := c.liveReg (c.physical v.toNat) g
        if c.groups ≤ g ∨ c.present (c.physical v.toNat) = false then 0
        else BitVec.ofNat 64 (r.tag + 4 * r.cls + 16 * r.cost))).withPath i (p.past 4)))
    ∧ (let hits := c.rotOverlaps c.rot ∨ c.rotOverlaps size.toNat
       (hits → p.isHandler = false → FaultsInPlace (.rotset size) s c i p p 1 0 p.faulting false)
       ∧ (¬ hits → c.nRegs < 128 + size.toNat → p.isHandler = false → FaultsInPlace (.rotset size) s c i p p 5 0 p.faulting false)
       ∧ (¬ hits → 128 + size.toNat ≤ c.nRegs →
        Completes (.rotset size) s c ({ c with rot := size.toNat, rotb := 0 }.withPath i (p.past 4))))

/-! ### The proposal bank (R136 to R141) -/

/-- R136, R140: PROPOSE opens a proposal of its window over m0 whose shadow is a copy, or faults, or has no effect where m0 is empty;
ABANDON closes the lanes of m0 and keeps none of them. Constructors: propose, abandon. -/
def Claims.ProposeAndAbandon : Prop :=
  ∀ (base : BitVec 8) (len : BitVec 4) s c i p, Issuing s c i p → p.iss = none → p.isHandler = false →
    let n := len.toNat + 1
    (c.badWindow base.toNat n = true → FaultsInPlace (.propose base len) s c i p p 1 0 p.faulting false)
    ∧ (c.badWindow base.toNat n = false → c.busyRegs ((List.range n).map (· + base.toNat)) = false →
      (p.m0 = 0 → Completes (.propose base len) s c (c.withPath i (p.past 4)))
      ∧ (p.m0 ≠ 0 → c.prop ≠ none → FaultsInPlace (.propose base len) s c i p p 8 0 p.m0 false)
      ∧ (p.m0 ≠ 0 → c.prop = none → c.nRegs < base.toNat + n → FaultsInPlace (.propose base len) s c i p p 5 0 p.m0 false)
      ∧ (p.m0 ≠ 0 → c.prop = none → base.toNat + n ≤ c.nRegs → c.windowCost base.toNat n ≤ s.crewFree c →
        ∃ c' w, Completes (.propose base len) s c c' ∧ c'.prop = some w ∧ w.base = base.toNat ∧ w.len = n ∧ w.lanes = p.m0
          ∧ w.defer = 0 ∧ w.touched = [] ∧ c'.path i = p.past 4 ∧ c'.s = c.s ∧ c'.v = c.v
          ∧ ∀ k g, k < n → g < c.groups → c.groups ≤ 32 → w.shadowReg k g = c.liveReg (base.toNat + k) g))
    ∧ (c.windowBusy = false → Completes .abandon s c ((c.close p.m0 none).withPath i (p.past 4)))

/-- R137: closing lanes of an open proposal counts each as proposed and those kept as accepted, and ends the proposal with its last
lane. Where a test keeps lanes, each touched group-register with a lane among those closed becomes general and takes the shadow in the
lanes kept, be it in none of them; where none is kept by rule the live bank stays as it was. -/
def Claims.ClosingLanesKeepsTheShadow : Prop :=
  ∀ (c : Crew) (w : Proposal) (lanes : Mask) (keep : Option Mask), c.prop = some w →
    let d := c.close lanes keep
    let ls := lanes &&& w.lanes
    let kp := ls &&& keep.getD 0
    (∀ l, l < 1024 → SMap.get 0 d.propd l = if ls.getLsbD l then satInc (SMap.get 0 c.propd l) else SMap.get 0 c.propd l)
    ∧ (∀ l, l < 1024 → SMap.get 0 d.acpt l = if kp.getLsbD l then satInc (SMap.get 0 c.acpt l) else SMap.get 0 c.acpt l)
    ∧ (w.lanes &&& ~~~ls = 0 → d.prop = none)
    ∧ (w.lanes &&& ~~~ls ≠ 0 → d.prop = some { w with lanes := w.lanes &&& ~~~ls, defer := w.defer &&& ~~~ls })
    ∧ (∀ k g j, k < w.len → g < c.groups → c.groups ≤ 32 → j < 32 → (d.liveReg (w.base + k) g).val j =
        if 32 * k + g ∈ w.touched ∧ (c.groupWord kp g).getLsbD j then (w.shadowReg k g).val j
        else (c.liveReg (w.base + k) g).val j)
    ∧ (∀ k g, k < w.len → g < c.groups → c.groups ≤ 32 → (d.liveReg (w.base + k) g).tag =
        if keep ≠ none ∧ 32 * k + g ∈ w.touched ∧ c.groupWord ls g ≠ 0 then 3 else (c.liveReg (w.base + k) g).tag)
    ∧ (keep = none → d.v = c.v)

/-- R141: PSTAT writes the state word of the proposal, or the sum of a counter over m0. Constructors: pstat. -/
def Claims.PstatReads : Prop :=
  ∀ (d : BitVec 6) (sel : BitVec 2) s c i p, Issuing s c i p → p.iss = none → c.pending [d] = false → sel ≠ 3 →
    Completes (.pstat d sel) s c ((c.sset d (
      let sum := fun (m : SMap W32) => BitVec.ofNat 64 ((((List.range 1024).filter fun l => p.m0.getLsbD l).map fun l =>
        (SMap.get 0 m l).toNat).sum)
      if sel = 0 then (match c.prop with
        | some w => BitVec.ofNat 64 (1 + (if w.defer = 0 then 0 else 2) + w.base * 2 ^ 8 + (w.len - 1) * 2 ^ 16
            + ((List.range 1024).countP fun l => w.lanes.getLsbD l) * 2 ^ 32)
        | none => 0)
      else if sel = 1 then sum c.propd else sum c.acpt)).withPath i (p.past 4))

/-! ### Scalar memory words (R204, R214, R236, R251, R252) -/

/-- R204, R239: SLD and SST, where their address passes every check of R198, put one access of their width in program order: a load in
the issue queue, with its register pending, and a store, which waits for room in a staging log (R262), in the store buffer; no byte of
memory changes yet. Constructors: sld, sst. -/
def Claims.ScalarAccessesEnterTheQueues : Prop :=
  ∀ (d a : BitVec 6) (k : BitVec 3) (off : BitVec 10) s c i p sp addr tr, Issuing s c i p → p.st = .ready → i < 8 →
    c.pending [d, a] = false → c.inflight i 0 < 255 → k ≠ 7 →
    let n := 2 ^ (k.toNat / 2)
    let ea := c.sget a + BitVec.ofNat 64 n * off.signExtend 64
    let enters := fun (ins : Instr) (write : Bool) (kind : AccKind) (data : Nat) =>
      (write = true → s.logFull c n = false) → s.check c p none p.slotLane ea n write true = .go sp addr tr → s.cruiseFault c ins (memSpec ins) ea (sp != .mem) = none →
      ∃ t c' x, exec ins s = .next t ∧ t.crewOf c.id = some c' ∧ SameMemory s t ∧ c'.s = c.s ∧ c'.m = c.m ∧ c'.v = c.v
        ∧ (c'.path i).spc = p.spc + 4 ∧ (c'.path i).m0 = p.m0
        ∧ (c'.path i).queue = (if write then p.queue else p.queue ++ [x])
        ∧ (c'.path i).sbuf = (if write then p.sbuf ++ [x] else p.sbuf)
        ∧ x.kind = kind ∧ x.space = sp ∧ x.addr = addr ∧ x.width = n ∧ x.data = data ∧ x.scalar = true ∧ x.va = ea
        ∧ (c'.sPend = if write ∨ d = 0 then c.sPend else c.sPend ++ [(d.toNat, x.wid)])
    enters (.sld d a k off) false .load 0
    ∧ (k.toNat % 2 = 0 → enters (.sst d a k off) true .store ((c.sget d).toNat % 2 ^ (8 * n)))

/-- R204, R205: SLDK reads the launch's own copy of its argument block; an offset that is no multiple of 8 takes PAGE_FAULT with cause
5, and one beyond the block with cause 1. Constructors: sldk. -/
def Claims.SldkReadsTheArgumentBlock : Prop :=
  ∀ (d a : BitVec 6) (k : BitVec 13) s c i p, Issuing s c i p → c.pending [d, a] = false →
    let off := c.sget a + 8 * k.setWidth 64
    (∀ v, off.toNat % 8 = 0 → s.kargWord c off.toNat = some v →
      Completes (.sldk d a k) s c ((c.sset d v).withPath i (p.past 4)))
    ∧ (off.toNat % 8 ≠ 0 → p.isHandler = false → p.faulting ≠ 0 → ∃ t c' r, exec (.sldk d a k) s = .next t
        ∧ OnlyCrew c.id s t ∧ t.crewOf c.id = some c' ∧ (c'.path i).st = .fault ∧ (c'.path i).trap = some r
        ∧ Recorded r p 3 5 p.faulting false true ∧ c'.s = c.s)
    ∧ (off.toNat % 8 = 0 → s.kargWord c off.toNat = none → p.isHandler = false → p.faulting ≠ 0 →
        ∃ t c' r, exec (.sldk d a k) s = .next t
        ∧ OnlyCrew c.id s t ∧ t.crewOf c.id = some c' ∧ (c'.path i).st = .fault ∧ (c'.path i).trap = some r
        ∧ Recorded r p 3 1 p.faulting false true ∧ c'.s = c.s)

/-- R236, R251: WAIT goes on once the path's counter is down to the value named; a FENCE goes on once the accesses it orders have
taken effect, with its scope among the path's release fences where it releases. Constructors: wait, fence. -/
def Claims.WaitAndFenceGoOn : Prop :=
  ∀ (a : BitVec 6) (q : BitVec 3) (order : BitVec 2) (scope : BitVec 3) s c i p, Issuing s c i p → p.iss = none →
    (c.pending [a] = false → c.inflight i q.toNat ≤ (c.sget a).toNat % 256 →
      ∃ t c', exec (.wait a q) s = .next t ∧ OnlyCrew c.id s t ∧ t.crewOf c.id = some c' ∧ c' = { c with paths := c'.paths }
        ∧ (c'.path i).spc = p.spc + 4 ∧ (c'.path i).m0 = p.m0 ∧ ∀ j, j ≠ i → c'.path j = c.path j)
    ∧ (c.pending [a] = false → (c.sget a).toNat % 256 < c.inflight i q.toNat →
      Completes (.wait a q) s c (c.withPath i (p.stalled stCounted)))
    ∧ (let acq := order.getLsbD 0
       let rel := order.getLsbD 1
       let sc := if scope = 0 then 5 else scope.toNat
       (acq → p.queue = []) → (rel → p.queue = [] ∧ p.sbuf = [] ∧ s.effectsDone c p) →
      (rel → (s.mergeThreads (p.thr :: p.kin)).stopping (s.partOf c) = false) →
      ∃ t c', exec (.fence order scope) s = .next t ∧ t.crewOf c.id = some c' ∧ (c'.path i).spc = p.spc + 4
        ∧ (c'.path i).m0 = p.m0 ∧ c'.s = c.s ∧ c'.v = c.v ∧ (rel → sc ∈ (c'.path i).relF)
        ∧ (rel → t.unmerged (p.thr :: p.kin) = false))

/-- R252, R235: a CWAIT counts as one word in flight while it reads; a read that may take effect and whose test holds writes its
value, and the path goes on; one whose test fails leaves the path at the word, with the address, the value it compares with and the
contents of the granule, and it reads again only once a step has changed the granule. `reads` says so for the first read, of state s0
and crew c0 with the word counted, and for any later one. Constructors: cwait. -/
def Claims.CwaitWritesThePassingValue : Prop :=
  ∀ (d a b : BitVec 6) (eq : Bool) (scope : BitVec 3) s c i p, Issuing s c i p → p.iss = none → c.pending [d, a, b] = false →
    let ins : Instr := .cwait d a b eq scope
    let sc := if scope = 0 then 5 else scope.toNat
    let reads := fun (s0 : State) (c0 : Crew) (wid pa : Nat) (ea cmp : W64) => ∀ (u : State) (e : Crew),
      let x := cwaitAcc s0 p wid pa sc ea true
      let s1 := (s0.mergeGran (pa / 32)).cacheHost .mem pa 8
      (s0.mergeGran (pa / 32)).stopping (s.partOf c) = false →
      let v := BitVec.ofNat 64 (s1.readSpace c.team .mem pa 8)
      let holds : Prop := if eq then v = cmp else cmp.toNat ≤ v.toNat
      s.behindTicket c = false → p.mayEffect i x → p.granReady i x → s0.hbReady c0 i x → s.effectsDone c p → u.crewOf c.id = some e →
      (holds → { s1 with nextId := s1.nextId + 1 }.observe c0 i x = .ok u →
        ∃ t c', exec ins s = .next t ∧ t.crewOf c.id = some c' ∧ c'.s = (e.sset d v).s ∧ (c'.path i).spc = (e.path i).spc + 4
          ∧ (c'.path i).wait = none ∧ (∀ w ∈ c'.words, w.wid = wid → w.done = true) ∧ (pa.testBit 51 = false → SameMemory u t))
      ∧ (¬ holds → { s1 with nextId := s1.nextId + 1 }.observe c0 i { x with acq := false } = .ok u →
        ∃ t c', exec ins s = .next t ∧ t.crewOf c.id = some c' ∧ c'.s = e.s ∧ (c'.path i).spc = (e.path i).spc
          ∧ (∃ g, (c'.path i).want = some (.cwait pa ea cmp (some g)) ∧ t.granChanged (pa / 32) (some g) = t.stands.any fun k =>
            k.cbuf.any fun e => e.gran == pa / 32) ∧ (c'.path i).wait = some stCounted)
    (∀ pa tr, p.want = none → c.cwaitWord i = none → c.inflight i 0 < 255 →
      s.check c p none p.slotLane (c.sget a) 8 false false = .go .mem pa tr → s.cruiseFault c ins (memSpec ins) (c.sget a) false = none →
      let w := scalarInFlight s p ins ⟨p.slotLane, c.sget a, 0, 0⟩
      reads ({ s with nextId := s.nextId + 1 }.modCur fun c => { c with words := c.words ++ [w] }) { c with words := c.words ++ [w] }
        w.wid pa (c.sget a) (c.sget b))
    ∧ ∀ pa ea cmp w g, p.want = some (.cwait pa ea cmp g) → c.cwaitWord i = some w →
      (g = none ∨ s.granChanged (pa / 32) g → reads s c w.wid pa ea cmp)
      ∧ (g ≠ none → s.granChanged (pa / 32) g = false → Completes ins s c (c.withPath i (p.stalled stCounted)))

/-- R214, R259, R323: HANDOVER.in and HANDOVER.out of no bytes go on. Of a region whose pages translate, `.out` writes the device's
bytes of the region, whoever has written them, to host memory, and their copies stay, no thread's any more; `.in` drops the copies and
shows what the host has written. The path then waits at the word, with its registers as they were, until HANDOVER_COMPLETE, with which
it goes on. `.out` first waits for the earlier stores of its path to take effect, and in a cruise it raises CRUISE_XSTORE. That it
waits for a link is log 29. There every earlier word of the path has completed. `rs` are the region's ranges of home keys, which hold
the partition above bit 51. Constructors: handoverIn, handoverOut, handoverComplete. -/
def Obligations.HandoverMovesARegion : Prop :=
  (∀ (a b : BitVec 6) s c i p, Issuing s c i p → p.iss = none → p.want = none → c.pending [a, b] = false →
    let parts := pageParts ((c.sget a).toNat / 512 * 512) (roundUp ((c.sget a).toNat + (c.sget b).toNat) 512)
    let inside := fun (rs : List (Nat × Nat)) (key : Nat) => ∃ r ∈ rs, r.1 ≤ key ∧ key < r.1 + r.2
    let waits := fun (u t : State) => ∀ e, u.crewOf c.id = some e → t.crewOf c.id
      = some (e.modPath i fun q => { q with wait := some stOther, want := some .handover })
    (c.sget b = 0 → Completes (.handoverIn a b) s c (c.withPath i (p.past 4))
      ∧ (s.isCruise c = false → Completes (.handoverOut a b) s c (c.withPath i (p.past 4))))
    ∧ (s.isCruise c = true → HaltsAfter (.handoverOut a b) s c i p false 33 0 (c.sget a).toNat)
    ∧ (∀ rs u, c.sget b ≠ 0 → s.walkRegion c p parts [] = (.ok rs, u) →
        ∃ t, exec (.handoverIn a b) s = .next t ∧ waits u t ∧ SameMemory u t
          ∧ ∀ key, (inside rs key → SMap.get none t.host key = none ∧ SMap.get none t.unseen key = none)
            ∧ (¬ inside rs key → SMap.get none t.host key = SMap.get none u.host key
              ∧ SMap.get none t.unseen key = SMap.get none u.unseen key))
    ∧ (∀ rs u, c.sget b ≠ 0 → s.isCruise c = false → p.queue.all (fun x => !x.writes) → p.sbuf = [] → s.effectsDone c p →
        (s.mergeThreads (p.thr :: p.kin)).stopping (s.partOf c) = false →
        (s.mergeThreads (p.thr :: p.kin)).walkRegion c p parts [] = (.ok rs, u) → SMap.wf none u.host →
        ∃ t, exec (.handoverOut a b) s = .next t ∧ waits u t
          ∧ (∀ key h, inside rs key → key.testBit 51 → SMap.get none u.host key = some h → SMap.get none t.host key = some { h with writers := [] }
            ∧ ((∀ k, inside rs k → k % 2 ^ 52 = key % 2 ^ 52 → k = key) → t.rdByte (key % 2 ^ 52) = h.val))
          ∧ (∀ key, ¬ inside rs key → SMap.get none t.host key = SMap.get none u.host key)
          ∧ ∀ at_, (∀ key, inside rs key → SMap.get none u.host key ≠ none → key % 2 ^ 52 ≠ at_) → t.rdByte at_ = u.rdByte at_))
  ∧ ∀ (r : PathRef) s c p, s.named r = some (c, p) → p.want = some .handover → s.crewOf c.id = some c → c.paths[r.path]? = some p →
      Completes (.handoverComplete r) s c (c.withPath r.path { p with
        spc := p.spc + 4, want := none, wait := none, bpSkip := false, stepping := p.stepping.map fun _ => true })

/-! ### Accesses take effect (R241 to R246, R254) -/

/-- R241, R245: a store that may take effect, and is in no conflict, replaces the bytes it covers at its home and no other byte of
memory, but for the host bytes that a release at `.sys` scope moves out (R259); its entry leaves the store buffer. Constructors:
storeTakesEffect. -/
def Obligations.StoreReplacesItsBytes : Prop :=
  ∀ (r : PathRef) (id : Nat) s c p x (u : State), s.named r = some (c, p) → s.crewOf c.id = some c → c.paths[r.path]? = some p →
    p.st ≠ .free → accOf p.sbuf id = some x →
    s.writeReady c r.path x .store → x.space = .mem → x.addr.testBit 51 = false → (∀ k, k < x.width → (x.addr + k).testBit 51 = false) →
    (s.beforeEffect c r.path x).stopping (s.partOf c) = false → (s.beforeEffect c r.path x).observe c r.path x = .ok u →
    ∃ t, exec (.storeTakesEffect r id) s = .next t
      ∧ (∀ k, k < x.width → t.rdByte (x.addr + k) = BitVec.ofNat 8 (x.data / 2 ^ (8 * k)))
      ∧ SameMemoryBut (u.releasedSys c r.path x) t x.addr x.width
      ∧ ∀ c', t.crewOf c.id = some c' → accOf (c'.path r.path).sbuf id = none

/-- R241 to R243: a load that may take effect, and is in no conflict, takes the bytes at its home or, where earlier stores of its path
or its team's log have written all of them, each byte of the youngest of those, with its extension; one read serves the other lanes of
a broadcast pass (R200). R203: one with `.inv` takes what the bytes are or were before a write since its launch began. Constructors:
loadTakesEffect. -/
def Claims.LoadObtainsItsValue : Prop :=
  (∀ (early : List Acc) (x : Acc) v, forwardFrom early x = some v → ∀ k, k < x.width → ∃ y,
    early.reverse.find? (fun y => y.space == x.space && decide (y.addr ≤ x.addr + k) && decide (x.addr + k < y.addr + y.width)) = some y
      ∧ y.kind = .store ∧ v / 2 ^ (8 * k) % 2 ^ 8 = y.data / 2 ^ (8 * (x.addr + k - y.addr)) % 2 ^ 8)
  ∧ ∀ (r : PathRef) (id : Nat) s c p x (w0 : Word) (u : State) (e : Crew) (w : Word), s.named r = some (c, p) → s.crewOf c.id = some c →
    c.paths[r.path]? = some p → accOf p.queue id = some x → s.loadReady c r.path x → c.word? x.wid = some w0 →
    u.crewOf c.id = some e → e.word? x.wid = some w → (w.slot = true ∨ ∃ q ∈ e.sPend, q.2 = x.wid) →
    let got := fun (t : State) (v : Nat) => ∃ c' w', t.crewOf c.id = some c' ∧ c'.word? x.wid = some w'
      ∧ SMap.get 0 w'.vals (if x.scalar then 0 else x.lane) = (memSpec w0.instr).extend v
      ∧ w'.owed = w.owed &&& ~~~maskOf ((x :: c.mates r.path x).map (·.lane))
      ∧ ∀ y ∈ c.mates r.path x, SMap.get 0 w'.vals (if y.scalar then 0 else y.lane) = (memSpec w0.instr).extend v
    (∀ v, forwardFrom (s.earlierWrites c r.path x) x = some v → s.observeLoad c r.path x = .ok u →
      ∃ t, exec (.loadTakesEffect r id) s = .next t
        ∧ (x.isInv = false → got t v)
        ∧ (x.isInv → ∃ bs ∈ bytesOfNat x.width v :: s.views (s.launchFor c) x.addr x.width, got t (natOfBytes bs)))
    ∧ (forwardFrom (s.earlierWrites c r.path x) x = none → (s.beforeEffect c r.path x).stopping (s.partOf c) = false →
      (s.beforeEffect c r.path x).observeLoad c r.path x = .ok u →
      let here := u.cacheHost x.space x.addr x.width
      ∃ t, exec (.loadTakesEffect r id) s = .next t
        ∧ (x.isInv = false → got t (here.readSpace c.team x.space x.addr x.width))
        ∧ (x.isInv → ∃ bs ∈ here.views (here.launchFor c) x.addr x.width, got t (natOfBytes bs)))

/-- R254, R255: a returning atomic that may take effect, and is in no conflict, gives its lane of its word the old value of its bytes
and replaces them by its operation's, and no other byte of memory changes, but for the host bytes that a release at `.sys` scope moves
out (R259). Constructors: returningAtomic. -/
def Claims.AtomicReplacesAndReturns : Prop :=
  ∀ (r : PathRef) (id : Nat) s c p x (u : State), s.named r = some (c, p) → s.crewOf c.id = some c → c.paths[r.path]? = some p →
    p.st ≠ .free → accOf p.queue id = some x →
    s.writeReady c r.path x .atomic → x.space = .mem → x.addr.testBit 51 = false → (∀ k, k < x.width → (x.addr + k).testBit 51 = false) →
    (s.beforeEffect c r.path x).stopping (s.partOf c) = false → (s.beforeEffect c r.path x).observe c r.path x = .ok u →
    let old := u.readSpace c.team .mem x.addr x.width
    let new_ := match x.op with
      | 0 => (old + x.data) % 2 ^ (8 * x.width)
      | 3 => old &&& x.data
      | 4 => old ||| x.data
      | 5 => old ^^^ x.data
      | 8 => x.data % 2 ^ (8 * x.width)
      | 9 => if old = x.expect then x.data % 2 ^ (8 * x.width) else old
      | op => atomicNew op x.ty x.width old x.data x.expect
    x.op ≤ 9 →
    ∃ t, exec (.returningAtomic r id) s = .next t ∧ SameMemoryBut (u.releasedSys c r.path x) t x.addr x.width
      ∧ (∀ k, k < x.width → t.rdByte (x.addr + k) = BitVec.ofNat 8 (new_ / 2 ^ (8 * k)))
      ∧ ∀ e w, u.crewOf c.id = some e → e.word? x.wid = some w → w.slot = true → ∃ c' w', t.crewOf c.id = some c'
        ∧ c'.word? x.wid = some w' ∧ SMap.get 0 w'.vals (if x.scalar then 0 else x.lane) = old
        ∧ w'.owed = w.owed &&& ~~~((1 : Mask) <<< x.lane)

/-! ### Lane words (R36 to R49, R84, R110 to R118, R163 to R182) -/

/-- R84, R111, R112, R118, R166 to R171, R174 to R179: a fixed-latency word that computes lane by lane writes its value in every
selected lane, in the bank that the lane reads, whatever the shape tags of its sources and its result; no other lane of any register
changes. The passes reserve and write in order: where units lack, those before the first that must wait are made, and the word waits
at its place for the rest. Constructors: vmov, vadd, vsub, vmul, vmulh, vmad, vabsd, vmin, vmax, vand, vor, vxor, vtri, vshl, vshr,
vsar, vfshl, vfshr, vpopc, vclz, vbrev, vbfe, vbfi, fadd, fsub, fmul, ffma, fmin, fmax, fclass, fcvt, frnd. -/
def Claims.FixedWordsSetTheirLanes : Prop :=
  ∀ (ins : Instr) (e : Elementwise) s c i p, elementwise ins = some e → e.long = false → LaneReady s c i p (e.info ins) →
    let sel := selMask c p e.w.h
    (Room s c → LaneSets ins s c i p sel (OpA.writes e.o e.w) (e.at_ c p))
    ∧ ∀ d rest,
        c.writePasses (s.crewFree c) c.held (elemPasses c p e.o e.w e.cls (decide ((OpA.writes e.o e.w).length = 2)) sel e.val)
          = (d, rest) → rest ≠ [] → ∃ c', Completes ins s c c' ∧ c' = { c with v := d.v, prop := d.prop, paths := c'.paths }
          ∧ (c'.path i).wait = some stRegs ∧ (c'.path i).lpc = p.lpc ∧ (c'.path i).iss = p.iss

/-- R43, R47, R118, R177: a long-latency word that computes lane by lane (FRCP, FRSQ, FSQRT, FDIV, FEXP2 and FLOG2, the float words of
type f64, and FCVT from or to f64) goes in flight with a dependence slot, the bank units that each of its passes reserves, those kept
from an earlier try among them, and its values, and its path goes on; no register changes yet. Without the units it waits.
Constructors: frcp, frsq, fsqrt, fdiv, fexp2, flog2, fadd, fsub, fmul, ffma, fmin, fmax, fclass, fcvt, frnd. -/
def Claims.LongWordsGoInFlight : Prop :=
  ∀ (ins : Instr) (e : Elementwise) s c i p, elementwise ins = some e → e.long = true → LaneReady s c i p (e.info ins) →
    let sel := selMask c p e.w.h
    let all := reservations c sel ((OpA.writes e.o e.w).filter (· < 1024) |>.map c.physical)
    let rest := all.filter fun r => !p.keptUnits.any fun k => k.1 == r.1
    (s.crewFree c < (rest.map (·.2)).sum → ∃ c', Completes ins s c c' ∧ c' = { c with paths := c'.paths }
      ∧ (c'.path i).wait = some stRegs ∧ (c'.path i).lpc = p.lpc ∧ (c'.path i).iss = p.iss)
    ∧ ((rest.map (·.2)).sum ≤ s.crewFree c →
    ∃ t c' w, exec ins s = .next t ∧ t = { s with crews := t.crews, nextId := s.nextId + 1 } ∧ t.crewOf c.id = some c'
      ∧ c' = { c with words := c.words ++ [w], paths := c'.paths } ∧ PastLane p (c'.path i) ins.size
      ∧ w.instr = ins ∧ w.path = i ∧ w.lanes = sel ∧ w.slot = true ∧ w.done = true ∧ w.owed = 0
      ∧ w.resv = p.keptUnits ++ rest
      ∧ w.dests = ((OpA.writes e.o e.w).filter (· < 1024)).map c.physical
      ∧ ∀ g j, g < c.groups → j < 32 → c.selects sel g j →
        SMap.get 0 w.vals (32 * (c.first + g) + j)
          = e.at_ c p g j % 2 ^ (32 * (OpA.writes e.o e.w).length))

/-- R43, R111, R118, R133: LONG_LATENCY_WRITEBACK of a word that has its values writes them in the lanes that the word still covers,
in the banks it was issued with; its slot and its reservation end. R162, R175: of an FCMP.f64, it writes the mask bits of its lanes.
Constructors: longLatencyWriteback. -/
def Claims.WritebackSetsTheLanes : Prop :=
  (∀ (core slot wid : Nat) s c (w : Word), (s.coreCrews core).find? (fun d => d.slot == slot) = some c → s.crewOf c.id = some c →
    c.groups ≤ 32 → c.word? wid = some w → w.done = true → w.slot = true → w.maskDest = none →
    (∀ d a k off, w.instr ≠ .sld d a k off) → (∀ d a k, w.instr ≠ .sldk d a k) → (∀ d a b e k, w.instr ≠ .cwait d a b e k) →
    (c.prop = none ∨ ∃ q, c.prop = some q ∧ c.propNo = w.prop ∧ q.lanes = w.shadow) → (c.paths.any fun p => p.st != .free) = true →
    (∀ d ∈ w.dests, c.present d = true) → w.dests.Nodup →
    (∀ g ∈ w.bcast, ∀ j, j < 32 → SMap.get 0 w.vals (32 * (c.first + g) + j) = SMap.get 0 w.vals (32 * (c.first + g))) →
    ∃ c', Completes (.longLatencyWriteback core slot wid) s c c' ∧ c'.s = c.s ∧ c'.m = c.m ∧ c'.paths = c.paths
      ∧ (∀ h d g j, w.dests[h]? = some d → g < c.groups → j < 32 → c.selects (w.lanes &&& ~~~w.owed) g j →
        c'.readLane d g j = w32 (SMap.get 0 w.vals (32 * (c.first + g) + j) / 2 ^ (32 * h)))
      ∧ (∀ d g j, g < c.groups → j < 32 → (d ∉ w.dests ∨ ¬ c.selects (w.lanes &&& ~~~w.owed) g j) →
        c'.readLane d g j = c.readLane d g j)
      ∧ ∀ v ∈ c'.words, v.wid = wid → v.slot = false ∧ v.resv = [] ∧ v.srcs = [])
  ∧ ∀ (core slot wid : Nat) s c (w : Word) a, (s.coreCrews core).find? (fun d => d.slot == slot) = some c → s.crewOf c.id = some c →
    c.groups ≤ 32 → c.word? wid = some w → w.done = true → w.slot = true → w.instr = .fcmp a → w.dests = [] →
    (c.paths.any fun p => p.st != .free) = true → w.path < c.paths.length →
    ∃ c', Completes (.longLatencyWriteback core slot wid) s c c' ∧ c'.s = c.s ∧ c'.v = c.v
      ∧ ∀ l, l < 1024 → ∀ r, r = a.d.setWidth 4 → (r ≠ 0 ∨ (c.path w.path).mask.getLsbD l = true) →
        (c'.mget (c'.path w.path) r).getLsbD l = if w.lanes.getLsbD l then w.vals.any fun e => e.1 == l
          else (c.mget (c.path w.path) r).getLsbD l

/-- R38, R162, R172, R175, R182: VCMP, FCMP of a type of up to 32 bits, and MLOAD write one mask bit in each selected lane, and no
other bit; FCMP.f64 goes in flight with the lanes in which its test holds. Constructors: vcmp, fcmp, mload. -/
def Claims.LaneTestsWriteMaskBits : Prop :=
  ∀ (w : LaneA) s c i p,
    let sel := selMask c p w.h
    let tests := fun (ins : Instr) (o : OpA) (holds : Nat → Nat → Bool) =>
      LaneReady s c i p (infoA ins o w false) → c.first + c.groups ≤ 32 →
      ∃ t c', exec ins s = .next t ∧ OnlyCrew c.id s t ∧ t.crewOf c.id = some c'
        ∧ c'.v = c.v ∧ c'.s = c.s ∧ (c'.path i).mask = p.mask ∧ (c'.path i).lpc = (p.pastLane ins.size).lpc
        ∧ (∀ g j, g < c.groups → j < 32 → c.selects sel g j → (w.d.setWidth 4 ≠ 0 ∨ p.mask.getLsbD (32 * (c.first + g) + j)) →
          (c'.mget (c'.path i) (w.d.setWidth 4)).getLsbD (32 * (c.first + g) + j) = holds (laneA c o w g j) (laneB c p o w g j))
        ∧ (∀ l, sel.getLsbD l = false → (w.d.setWidth 4 ≠ 0 ∨ p.mask.getLsbD l) →
          (c'.mget (c'.path i) (w.d.setWidth 4)).getLsbD l = (c.mget p (w.d.setWidth 4)).getLsbD l)
        ∧ ∀ k, k ≠ w.d.setWidth 4 → c'.mget (c'.path i) k = c.mget p k
    tests (.vcmp w) .vcmp (holdsVcmp w) ∧ (w.ty.is64 = false → tests (.fcmp w) .fcmp (holdsFcmp w))
      ∧ tests (.mload w) .mload (fun a _ => a != 0)
      ∧ (w.ty.is64 = true → LaneReady s c i p (infoA (.fcmp w) .fcmp w true) → c.groups ≤ 32 →
        ∃ t c' d, exec (.fcmp w) s = .next t ∧ t = { s with crews := t.crews, nextId := s.nextId + 1 } ∧ t.crewOf c.id = some c'
          ∧ c' = { c with words := c.words ++ [d], paths := c'.paths } ∧ PastLane p (c'.path i) (Instr.fcmp w).size
          ∧ d.maskDest = some (w.d.setWidth 4) ∧ d.lanes = sel ∧ d.slot = true ∧ d.done = true
          ∧ ∀ g j, g < c.groups → j < 32 → c.selects sel g j →
            ((d.vals.any fun e => e.1 == 32 * (c.first + g) + j) = true ↔ holdsFcmp w (laneA c .fcmp w g j) (laneB c p .fcmp w g j) = true))

/-- R171, R173, R180, R182: the lane words that pick a value for each lane: VSEL and MSAVE by mask bits, VSHUF and VROT from another
lane of the group, active or not, VBCAST from a lane of the crew, and VLANE from a special register. Constructors: vsel, vshuf, vrot,
vbcast, msave, vlane. -/
def Claims.PickingWordsSetTheirLanes : Prop :=
  ∀ (w : LaneA) s c i p, c.first + c.groups ≤ 32 → Room s c →
    let sel := selMask c p w.h
    let wide := w.ty.is64
    let sets := fun (ins : Instr) (o : OpA) (val : Nat → Nat → Nat) =>
      LaneReady s c i p (infoA ins o w false) → LaneSets ins s c i p sel (regPair wide w.d) val
    sets (.vsel w) .vsel (fun g j =>
      if (c.mget p (w.c.setWidth 4)).getLsbD (32 * (c.first + g) + j) then laneA c .vsel w g j else laneB c p .vsel w g j)
    ∧ sets (.vshuf w) .vshuf (fun g j => c.laneSrc wide w.a.toNat g (laneB c p .vshuf w g j % 32))
    ∧ sets (.vrot w) .vrot (fun g j => c.laneSrc wide w.a.toNat g ((j + laneB c p .vrot w g j) % 32))
    ∧ ((∀ r, w.b ≠ .reg r) → sets (.vbcast w) .vbcast (fun g _ =>
        let l := laneB c p .vbcast w g 0 % 1024
        if 32 * c.first ≤ l ∧ l < 32 * (c.first + c.groups) then c.laneSrc wide w.a.toNat (l / 32 - c.first) (l % 32) else 0))
    ∧ (wide = false → sets (.msave w) .msave (fun g j =>
        if (c.mget p (w.a.setWidth 4)).getLsbD (32 * (c.first + g) + j) then 1 else 0))
    ∧ (wide = false → w.x.extractLsb' 0 12 ≠ 0 → sets (.vlane w) .vlane (fun g j =>
        let v := (s.srLane c (w.x.extractLsb' 0 12).toNat (32 * (c.first + g) + j)).getD (s.srRead c i (w.x.extractLsb' 0 12))
        if w.x.getLsbD 12 then v.toNat / 2 ^ 32 else v.toNat % 2 ^ 32))

/-- R74 to R76, R180, R181: VSCAN and VRED over the groups' or the crew's span, the inactive lanes absent, segments beginning where
the mask register has a bit. VRED combines the present values of the whole segment as R74's tree does, by the node rule; VSCAN
combines those up to the lane, or before it, in R75's order: the aligned blocks of a power of two into which the lanes before divide,
each reduced as R74 reduces it, then combined from the left. That a lone present value of a float passes as it stands, neither made
canonical nor flushed, is log entry 52 (DESIGN CHOICE). Constructors: vscan, vred. -/
def Obligations.ScansAndReductionsCombineTheSpan : Prop :=
  ∀ (w : LaneA) s c i p, c.first + c.groups ≤ 32 → Room s c →
    let sel := selMask c p w.h
    let wide := w.ty.is64
    let k : BitVec 8 := match w.b with | .reg r => r | _ => 0
    let span := fun (g : Nat) => if w.x.getLsbD 31 then List.range c.groups else [g]
    let vals := fun (g : Nat) => (span g).flatMap fun q => (List.range 32).map fun j =>
      if (c.groupWord sel q).getLsbD j then some (c.laneSrc wide w.a.toNat q j % 2 ^ (ecount w.ty * ewidth w.ty)) else none
    let g0 := fun (g : Nat) => if w.x.getLsbD 31 then 0 else g
    let starts := fun (g n : Nat) => n == 0 || (decide (k ≠ 0) && (c.mget p (k.setWidth 4)).getLsbD (32 * (c.first + g0 g) + n))
    let sets := fun (ins : Instr) (o : OpA) (val : Nat → Nat → Nat) =>
      LaneReady s c i p (infoA ins o w false) → LaneSets ins s c i p sel (regPair wide w.d) val
    sets (.vscan w) .vscan (fun g j =>
      let n := 32 * (g - g0 g) + j
      let b := segStart (starts g) n
      (scanLast (scanOp w) (((vals g).drop b).take (if w.x.getLsbD 30 then n - b else n - b + 1))).getD (scanEmpty w))
    ∧ sets (.vred w) .vred (fun g j =>
      let n := 32 * (g - g0 g) + j
      let b := segStart (starts g) n
      (treeReduce (scanOp w) (((vals g).drop b).take (segLen (starts g) (vals g).length b))).getD (scanEmpty w))

/-- R352, R353: RAND, RANDF and RANDN of up to 32 bits give each selected lane a value of its own stream and count its draws; of 64
bits RAND takes two draws, and the float words go in flight with their values. Constructors: rand, randf, randn. -/
def Obligations.RandomWordsDrawFromTheLane : Prop :=
  ∀ (h : Hdr) (ty : Ty) (d : BitVec 8) s c i p, c.first + c.groups ≤ 32 → Room s c →
    let sel := selMask c p h
    let draws := fun (ins : Instr) (long : Bool) (k : Nat) (val : Nat → Nat) =>
      LaneReady s c i p (infoO ins h ty d long) →
      ∃ c', Completes ins s c c' ∧ c' = { c with v := c'.v, prop := c'.prop, paths := c'.paths, draw := c'.draw }
        ∧ PastLane p (c'.path i) ins.size
        ∧ LanesHold c c' sel (regPair ty.is64 d) (fun g j => val (32 * (c.first + g) + j))
        ∧ ∀ l, l < 1024 → SMap.get 0 c'.draw l = if sel.getLsbD l then SMap.get 0 c.draw l + w32 k else SMap.get 0 c.draw l
    (ty.is64 = true → draws (.rand h ty d) false 2 (fun l => s.draw c l 0 + 2 ^ 32 * s.draw c l 1))
    ∧ (ty.is64 = false → draws (.rand h ty d) false 1 (fun l => s.draw c l 0)
      ∧ draws (.randf h ty d) false 1 (fun l => FFmt.f32.rnd 0 false false (.fin false (s.draw c l 0 / 2 ^ 8 + 1) (-24)))
      ∧ draws (.randn h ty d) false 4 (fun l => (FFmt.ofTy ty).normal
          ((s.draw c l 0 + 2 ^ 32 * s.draw c l 1) / 2 ^ 11 + 1) ((s.draw c l 2 + 2 ^ 32 * s.draw c l 3) / 2 ^ 11 + 1)))
    ∧ (ty.is64 = true →
      let flies := fun (ins : Instr) (k : Nat) (val : Nat → Nat) =>
        LaneReady s c i p (infoO ins h ty d true) →
        ∃ t c' w, exec ins s = .next t ∧ t = { s with crews := t.crews, nextId := s.nextId + 1 } ∧ t.crewOf c.id = some c'
          ∧ c' = { c with words := c.words ++ [w], paths := c'.paths, draw := c'.draw } ∧ PastLane p (c'.path i) ins.size
          ∧ w.slot = true ∧ w.done = true ∧ w.lanes = sel
          ∧ (∀ l, l < 1024 → sel.getLsbD l → SMap.get 0 w.vals l = val l)
          ∧ ∀ l, l < 1024 → SMap.get 0 c'.draw l = if sel.getLsbD l then SMap.get 0 c.draw l + w32 k else SMap.get 0 c.draw l
      flies (.randf h ty d) 2 (fun l =>
          FFmt.f64.rnd 0 false false (.fin false ((s.draw c l 0 + 2 ^ 32 * s.draw c l 1) / 2 ^ 11 + 1) (-53)))
      ∧ flies (.randn h ty d) 4 (fun l => (FFmt.ofTy ty).normal
          ((s.draw c l 0 + 2 ^ 32 * s.draw c l 1) / 2 ^ 11 + 1) ((s.draw c l 2 + 2 ^ 32 * s.draw c l 3) / 2 ^ 11 + 1)))

/-- R139: ACCEPT with an open proposal tests its selected lanes of P, against a register or a draw of the lane's stream, writes the
results in m[d] where d is not 0, the other selected lanes zero, and closes the lanes it tested, keeping those that pass; with none
open it raises PROPOSAL_STATE. Constructors: accept. -/
def Claims.AcceptClosesTheTestedLanes : Prop :=
  ∀ (h : Hdr) (d : BitVec 4) (a : BitVec 8) (b : Option (BitVec 8)) s c i p, c.first + c.groups ≤ 32 → c.windowBusy = false →
    let ins := Instr.accept h d a b
    LaneReady s c i p { instr := ins, h := h, late := [], long := false, counter := none
                        reads := a.toNat :: (match b with | some r => [r.toNat] | none => [])
                        writes := if d = 0 then [] else [maskReg d.toNat] } →
    let sel := selMask c p h
    (∀ w, c.prop = some w →
      let passes := fun (l : Nat) =>
        let r := FFmt.f32.value (c.vget a.toNat l).toNat
        match b with
        | some x => (FFmt.f32.value (c.vget x.toNat l).toNat).lt r
        | none => !r.isNan && drawBelow (s.draw c l 0 / 2 ^ 8 + 1) 24 r
      let t := maskOf (((List.range 1024).filter fun l => (sel &&& w.lanes).getLsbD l).filter passes)
      ∃ c', Completes ins s c c' ∧ PastLane p (c'.path i) ins.size
        ∧ c'.prop = (c.close sel (some t)).prop ∧ c'.v = (c.close sel (some t)).v ∧ c'.propd = (c.close sel (some t)).propd ∧ c'.acpt = (c.close sel (some t)).acpt
        ∧ (d ≠ 0 → ∀ l, l < 1024 → (c'.mget p d).getLsbD l = if sel.getLsbD l then t.getLsbD l else (c.mget p d).getLsbD l)
        ∧ (∀ k, k ≠ 0 → (d = 0 ∨ k ≠ d) → c'.mget p k = c.mget p k) ∧ c'.s = c.s
        ∧ ∀ l, l < 1024 → SMap.get 0 c'.draw l =
            if b = none ∧ (sel &&& w.lanes).getLsbD l then SMap.get 0 c.draw l + 1 else SMap.get 0 c.draw l)
    ∧ (c.prop = none → sel = p.m0 → p.isHandler = false →
      ∃ t c' r, exec ins s = .next t ∧ OnlyCrew c.id s t ∧ t.crewOf c.id = some c' ∧ (c'.path i).st = .fault
        ∧ (c'.path i).trap = some r ∧ Recorded r p 8 0 sel true true ∧ c'.s = c.s ∧ c'.v = c.v)

/-- R49, R91: a void lane word that computes lane by lane has no effect but its advance. -/
def Claims.VoidWordsOnlyAdvance : Prop :=
  ∀ (ins : Instr) (e : Elementwise) s c i p, elementwise ins = some e → Issuing s c i p →
    (e.w.h.sw = true → c.outstanding i = false ∧ p.late = []) → isVoid p (selMask c p e.w.h) = true →
    ∃ c', Completes ins s c c' ∧ c' = { c with paths := c'.paths } ∧ PastLane p (c'.path i) ins.size

/-- R46, R52, R115: a lane word that names a register which is not present raises REGISTER_RANGE over its selected lanes, and one that
reads or writes a register which a long-latency word of its segment writes raises SEGMENT_HAZARD. -/
def Claims.AbsentAndPendingRegistersFault : Prop :=
  ∀ (ins : Instr) (e : Elementwise) s c i p, elementwise ins = some e → Issuing s c i p → e.w.h.sw = false → p.newSeg = false →
    isVoid p (selMask c p e.w.h) = false →
    let names := (OpA.reads e.o e.w ++ OpA.writes e.o e.w).filter (· < 1024)
    let sel := selMask c p e.w.h
    ((∃ v ∈ names, c.present (c.physical v) = false) → sel = p.m0 → p.isHandler = false →
      ∃ c' r, Completes ins s c c' ∧ (c'.path i).st = .fault ∧ (c'.path i).trap = some r ∧ Recorded r p 5 0 sel true true
        ∧ c'.v = c.v ∧ c'.s = c.s)
    ∧ ((∀ v ∈ names, c.present (c.physical v) = true) → (∃ v ∈ names, c.physical v ∈ p.segW) →
      ∃ t z, exec ins s = .next t ∧ t = { s with crews := t.crews, raised := t.raised } ∧ (z, none) ∈ SMap.get [] t.raised (s.partOf c)
        ∧ z.code = 37 ∧ ∃ c', t.crewOf c.id = some c' ∧ c'.v = c.v ∧ (c'.path i).lpc = p.lpc)

/-! ### The values of the lane words (R166 to R179) -/

/-- R56 to R58, R165 to R172: the value of each lane integer word, element by element: VADD, VSUB, VMUL and VMAD the exact result of
their modified sources, limited or wrapped; VMULH its upper half; VABSD the distance; VMIN and VMAX where the type holds the result;
VAND, VOR, VXOR and VTRI bit by bit; the shifts VSHL, VSHR and VSAR and the funnel shifts VFSHL and VFSHR; VPOPC, VCLZ and VBREV; the
fields of VBFE and VBFI; VMOV; and the relation of VCMP. -/
def Claims.IntegerLaneValues : Prop :=
  ∀ (w : LaneA) (a b c : Nat),
    let ty := w.ty
    let n := ewidth ty
    (∀ k, k < ecount ty →
      let x := exactOf ty w.m.na w.m.aa a k
      let y := exactOf ty w.m.nb w.m.ab b k
      let z := exactOf ty w.m.nc w.m.ac c k
      let e := element ty a k
      let s := (element ty b k).toNat
      let plain := fun (q : Nat) => exactOf ty false false q k
      let lim := limited ty (w.m.alt || ty.inB)
      let held := fun (v : ℤ) => intLeast ty ≤ v ∧ v ≤ intGreatest ty
      element ty (valVadd w a b c) k = lim (x + y)
      ∧ element ty (valVsub w a b c) k = lim (x - y)
      ∧ element ty (valVmul w a b c) k = lim (x * y)
      ∧ element ty (valVmad w a b c) k = lim (x * y + z)
      ∧ element ty (valVmulh w a b c) k = BitVec.ofInt n (x * y / 2 ^ n)
      ∧ element ty (valVabsd w a b c) k = BitVec.ofInt n |plain a - plain b|
      ∧ (held (min x y) → element ty (valVmin w a b c) k = BitVec.ofInt n (min x y))
      ∧ (held (max x y) → element ty (valVmax w a b c) k = BitVec.ofInt n (max x y))
      ∧ element ty (valVshl w a b c) k = lim (plain a * 2 ^ s)
      ∧ element ty (valVshr w a b c) k = BitVec.ofNat n (e.toNat / 2 ^ s)
      ∧ element ty (valVsar w a b c) k = BitVec.ofInt n (e.toInt / 2 ^ s))
    ∧ (∀ i, (valVand w a b c).testBit i = (a.testBit i && b.testBit i)
      ∧ (valVor w a b c).testBit i = (a.testBit i || b.testBit i)
      ∧ (valVxor w a b c).testBit i = (a.testBit i != b.testBit i))
    ∧ valVmov w a b c = b
    ∧ (∀ i, i < 32 →
      let t := fun (j : Nat) => if j < 32 then c.testBit j else decide (j < 64) && a.testBit (j - 32)
      let pos := b % 2 ^ 5
      let wd := min (b / 2 ^ 8 % 2 ^ 6) 32
      let len := min wd (32 - pos)
      (valVtri w a b c).testBit i = w.x.getLsbD (4 * (a.testBit i).toNat + 2 * (b.testBit i).toNat + (c.testBit i).toNat)
      ∧ (a < 2 ^ 32 → c < 2 ^ 32 → (valVfshl w a b c).testBit i = t (32 + i - pos) ∧ (valVfshr w a b c).testBit i = t (i + pos))
      ∧ (valVbrev w a b c).testBit i = a.testBit (31 - i)
      ∧ (valVbfe w a b c).testBit i = (if i < len then a.testBit (pos + i)
          else ty.isSigned && decide (wd ≠ 0 ∧ len = wd) && a.testBit (pos + wd - 1))
      ∧ (valVbfi w a b c).testBit i = if pos ≤ i ∧ i < pos + len then a.testBit (i - pos) else c.testBit i)
    ∧ valVpopc w a b c = (List.range 32).countP a.testBit
    ∧ (a < 2 ^ 32 → valVclz w a b c = if a = 0 then 32 else 31 - a.log2)
    ∧ (holdsVcmp w a b = true ↔
      let x := exactOf ty w.m.na w.m.aa a 0
      let y := exactOf ty w.m.nb w.m.ab b 0
      match w.c.toNat with
      | 0 => x = y
      | 1 => x ≠ y
      | 2 => x < y
      | 3 => x ≤ y
      | 4 => x > y
      | _ => x ≥ y)

/-- R62 to R65, R174, R177 to R179: on finite sources, after their modifiers, FADD, FSUB, FMUL, FFMA, FDIV, FRCP, FRSQ and FSQRT give
the exact real result rounded once; FEXP2 of an integer and FLOG2 of a power of two give the exact result rounded, and FEXP2 and FLOG2
of other values are not claimed here; FRND rounds to an integral value; FCVT rounds between formats, to an integer limited to its
type, and from an integer; FMIN and FMAX pick a source. -/
def Claims.FloatResultsRoundOnce : Prop :=
  ∀ (w : LaneA) (a b c : Nat),
    let f := FFmt.ofTy w.ty
    let A := f.given w.m.na w.m.aa w.m.ftz a
    let B := f.given w.m.nb w.m.ab w.m.ftz b
    let C := f.given w.m.nc w.m.ac w.m.ftz c
    let x := f.real A
    let y := f.real B
    let z := f.real C
    let down := w.m.rnd = 3
    let sum := fun (s t : Bool) (u v : ℚ) => if u = 0 ∧ v = 0 ∧ s = t then s else decide down
    let gives := f.Gives w.m
    w.ty.isFloat = true →
    (f.finPat A → f.finPat B →
      gives (sum (f.negOf A) (f.negOf B) x y) (x + y : ℚ) (valFadd w a b c)
      ∧ gives (sum (f.negOf A) (!f.negOf B) x y) (x - y : ℚ) (valFsub w a b c)
      ∧ gives (f.negOf A != f.negOf B) (x * y : ℚ) (valFmul w a b c)
      ∧ (f.finPat C → gives (sum (f.negOf A != f.negOf B) (f.negOf C) (x * y) z) (x * y + z : ℚ) (valFfma w a b c))
      ∧ (y ≠ 0 → gives (f.negOf A != f.negOf B) (x / y : ℚ) (valFdiv w a b c)))
    ∧ (f.finPat A →
      (x ≠ 0 → gives false (1 / x : ℚ) (valFrcp w a b c))
      ∧ (0 < x → gives false (1 / Real.sqrt x) (valFrsq w a b c))
      ∧ (0 < x → gives false (Real.sqrt x) (valFsqrt w a b c))
      ∧ (∀ k : ℤ, x = k → gives false ((2 : ℝ) ^ k) (valFexp2 w a b c))
      ∧ (∀ k : ℤ, x = 2 ^ k → gives false (k : ℝ) (valFlog2 w a b c))
      ∧ (∃ k, IntRounds w.m.rnd.toNat x k ∧ f.finPat (valFrnd w a b c) ∧ f.real (valFrnd w a b c) = k
        ∧ f.negOf (valFrnd w a b c) = f.negOf A))
    ∧ (¬ f.nanPat A → ¬ f.nanPat B → valFmin w a b c = (if f.place B < f.place A then B else A)
      ∧ valFmax w a b c = if f.place A < f.place B then B else A)
    ∧ ∀ st, w.srcTy = some st →
      let g := FFmt.ofTy st
      let S := g.given w.m.na w.m.aa w.m.ftz a
      (st.isFloat = true → g.finPat S → gives (g.negOf S) (g.real S) (valFcvt w a b c))
      ∧ (st.isFloat = false → gives false (exactOf st w.m.na w.m.aa a 0 : ℤ) (valFcvt w a b c))

/-- R58, R65, R178: FCVT to an integer type: of a float, rounded to an integer and limited, 0 of a NaN, and of an infinity the extreme
of its sign, or 0 under alt; of an integer, limited. That a negative i32 has no n64 of its value is log entry 52 (DESIGN CHOICE). -/
def Claims.ConversionsToIntegers : Prop :=
  ∀ (w : LaneA) (a b c : Nat) st, w.srcTy = some st → w.ty.isFloat = false →
    let f := FFmt.ofTy st
    let A := f.given w.m.na w.m.aa w.m.ftz a
    let v := element w.ty (valFcvt w a b c) 0
    (st.isFloat = false → v = limited w.ty w.m.alt (exactOf st w.m.na w.m.aa a 0))
    ∧ (st.isFloat = true → (f.finPat A → ∃ k, IntRounds w.m.rnd.toNat (f.real A) k ∧ v = limited w.ty w.m.alt k)
      ∧ (f.nanPat A → v = 0)
      ∧ (f.infPattern A → v = if w.m.alt then 0 else BitVec.ofInt _ (if f.negOf A then intLeast w.ty else intGreatest w.ty)))

/-- R61, R64, R174, R175, R177, R179: what the float words give of NaNs, infinities and zeros: every NaN result is the canonical NaN,
of FCVT between formats too, FMIN and FMAX return the source that is no NaN, an infinite result is the format's or, under alt, its
limit, and the rows of the table of R177. -/
def Claims.FloatSpecialValues : Prop :=
  ∀ (w : LaneA) (a b c : Nat), w.ty.isFloat = true →
    let f := FFmt.ofTy w.ty
    let A := f.given w.m.na w.m.aa w.m.ftz a
    let B := f.given w.m.nb w.m.ab w.m.ftz b
    let C := f.given w.m.nc w.m.ac w.m.ftz c
    let nan := if f.e4 then 0x7F else f.emax * 2 ^ f.mbits + 2 ^ (f.mbits - 1)
    let zero := fun (p : Nat) => f.magOf p = 0
    let inf := f.infinity w.m.alt false
    let pole := f.infinity w.m.alt true
    let neg := f.negOf
    (f.nanPat A → (∀ v ∈ [valFadd, valFsub, valFmul, valFfma, valFdiv, valFrcp, valFrsq, valFsqrt, valFexp2, valFlog2, valFrnd],
        v w a b c = nan)
      ∧ (valFmin w a b c = if f.nanPat B then nan else B) ∧ valFmax w a b c = if f.nanPat B then nan else B)
    ∧ (f.nanPat B → (∀ v ∈ [valFadd, valFsub, valFmul, valFfma, valFdiv], v w a b c = nan)
      ∧ (¬ f.nanPat A → valFmin w a b c = A ∧ valFmax w a b c = A))
    ∧ (f.nanPat C → valFfma w a b c = nan)
    ∧ (¬ f.nanPat A → ¬ f.nanPat B → ¬ f.nanPat C →
      let endless := f.infPattern A ∨ f.infPattern B
      let s := neg A != neg B
      (endless → zero A ∨ zero B → valFfma w a b c = nan)
      ∧ (endless → ¬ zero A → ¬ zero B → valFfma w a b c = if f.infPattern C ∧ neg C ≠ s then nan else inf s)
      ∧ (¬ endless → f.infPattern C → valFfma w a b c = inf (neg C)))
    ∧ (f.infPattern A → f.infPattern B → valFdiv w a b c = nan
      ∧ (valFadd w a b c = if neg A = neg B then inf (neg A) else nan)
      ∧ (valFsub w a b c = if neg A = neg B then nan else inf (neg A))
      ∧ valFmul w a b c = inf (neg A != neg B))
    ∧ (f.infPattern A → f.finPat B → valFadd w a b c = inf (neg A) ∧ valFsub w a b c = inf (neg A)
      ∧ valFdiv w a b c = inf (neg A != neg B) ∧ valFmul w a b c = if zero B then nan else inf (neg A != neg B))
    ∧ (f.finPat A → f.infPattern B → valFadd w a b c = inf (neg B) ∧ valFsub w a b c = inf (!neg B)
      ∧ valFdiv w a b c = f.sign (neg A != neg B) ∧ valFmul w a b c = if zero A then nan else inf (neg A != neg B))
    ∧ (f.finPat A → f.finPat B → zero B → valFdiv w a b c = if zero A then nan else pole (neg A != neg B))
    ∧ (zero A → valFrcp w a b c = pole (neg A) ∧ valFrsq w a b c = pole (neg A) ∧ valFsqrt w a b c = f.sign (neg A)
      ∧ valFlog2 w a b c = pole true ∧ valFrnd w a b c = f.sign (neg A))
    ∧ (f.finPat A → ¬ zero A → neg A = true → valFrsq w a b c = nan ∧ valFsqrt w a b c = nan ∧ valFlog2 w a b c = nan)
    ∧ (f.infPattern A → valFrcp w a b c = f.sign (neg A) ∧ (w.m.alt = false → valFrnd w a b c = inf (neg A))
      ∧ (valFrsq w a b c = if neg A then nan else f.sign false) ∧ (valFsqrt w a b c = if neg A then nan else inf false)
      ∧ (valFexp2 w a b c = if neg A then f.sign false else inf false) ∧ (valFlog2 w a b c = if neg A then nan else inf false))
    ∧ ∀ st, w.srcTy = some st → st.isFloat = true →
      let g := FFmt.ofTy st
      let S := g.given w.m.na w.m.aa w.m.ftz a
      (g.nanPat S → valFcvt w a b c = nan) ∧ (g.infPattern S → valFcvt w a b c = inf (g.negOf S))

/-- R175, R176: the relation of FCMP, which a NaN makes false but for .ne and .uo, and the class that FCLASS writes, one bit. -/
def Claims.FloatTestsAndClasses : Prop :=
  ∀ (w : LaneA) (a b c : Nat), w.ty.isFloat = true →
    let f := FFmt.ofTy w.ty
    let A := f.given w.m.na w.m.aa w.m.ftz a
    let B := f.given w.m.nb w.m.ab w.m.ftz b
    let x := f.rank A
    let y := f.rank B
    let q := a % 2 ^ f.width
    ((f.nanPat A ∨ f.nanPat B) → holdsFcmp w a b = (w.c == 1 || w.c == 6))
    ∧ (¬ f.nanPat A → ¬ f.nanPat B → (holdsFcmp w a b = true ↔ match w.c.toNat with
      | 0 => x = y
      | 1 => x ≠ y
      | 2 => x < y
      | 3 => x ≤ y
      | 4 => x > y
      | 5 => x ≥ y
      | 6 => False
      | _ => True))
    ∧ ∃ k, valFclass w a b c = 2 ^ k ∧ k = if f.nanPat q then (if f.e4 ∨ q.testBit (f.mbits - 1) then 8 else 9)
        else if f.infPattern q then (if f.negOf q then 0 else 7)
        else if f.magOf q = 0 then (if f.negOf q then 3 else 4)
        else if f.exOf q = 0 then (if f.negOf q then 2 else 5)
        else if f.negOf q then 1 else 6

/-! ### Lane memory words (R196 to R203, R228, R229, R255, R295) -/

/-- R197, R199, R239, R255: VLD, VST, VAT and VATR, where every selected lane's address passes its checks and no rule of a cruise
forbids it (R323), enter their accesses: loads and returning atomics in the issue queue, stores and the commutative atomics of VAT in
the store buffer. In deterministic mode, the lanes of a store or an atomic outside the private window find room in the team's staging
log (R262), and it is not a float addition (R256). Constructors: vld, vst, vat, vatr. -/
def Claims.LaneMemoryWordsEnterTheQueues : Prop :=
  ∀ (w : LaneM) (v : LaneAt) s c i p (at_ : Nat → Space × Nat), p.st = .ready → Room s c →
    let enters := fun (ins : Instr) (info : LaneInfo) (write : Bool) (priv : Bool) (kind : AccKind) (n : Nat) (ea : Nat → W64)
        (data : Nat → Nat) =>
      let sel := selMask c p info.h
      LaneReady s c i p info → (write = true ∨ kind = .atomic →
        s.logFull c (n * ((maskLanes 1024 sel).filter fun l => (privOffset (ea l)).isNone).length) = false) →
      (∀ l, l < 1024 → sel.getLsbD l → s.cruiseFault c ins (memSpec ins) (ea l) ((at_ l).1 != .mem) = none ∧
        ∃ tr, s.check c p (some l) l (ea l) n write priv = .go (at_ l).1 (at_ l).2 tr) →
      LaneAccesses ins s c i p sel kind n at_ data
    let ea := fun (l : Nat) => laneEa c p w.base w.x w.y w.a w.off.toInt l
    let ea' := fun (l : Nat) => laneEa c p v.base v.x v.y v.a v.off.toInt l
    let n := LaneM.width w
    let n' := LaneAt.width v
    enters (.vld w) (infoM (.vld w) w true true true (some 0)) false true .load n ea (fun _ => 0)
    ∧ enters (.vst w) (infoM (.vst w) w true false false (some 0)) true true .store n ea (fun l => laneData c w.c.toNat n l)
    ∧ (s.isCruise c = false → (v.op = 7 → s.detMode c = false) →
      enters (.vat v) (infoAt (.vat v) v false) true false (if v.op.toNat ≤ 6 then .comm else .atomic) n' ea'
          (fun l => laneData c v.c.toNat n' l)
      ∧ enters (.vatr v) (infoAt (.vatr v) v true) true false .atomic n' ea' (fun l => laneData c v.c.toNat n' l))

/-- R201, R323: VST.slc in a cruise stores at offsets of the team's own slice; a lane outside it raises CRUISE_XSTORE, once every
earlier word of its path has completed. Constructors: vstSlc. -/
def Claims.SliceStoresStayInTheSlice : Prop :=
  ∀ (w : LaneM) s c i p b (at_ : Nat → Space × Nat), p.st = .ready → Room s c → s.blkOf c = some b → b.cruise = true →
    LaneReady s c i p (infoM (.vstSlc w) w true false false (some 0)) →
    let sel := selMask c p w.h
    let n := LaneM.width w
    let off := laneOffset c p w (fun _ => 0)
    let inside := fun (l : Nat) => 0 ≤ off l ∧ off l + n ≤ b.stride
    (s.logFull c (n * (maskLanes 1024 sel).length) = false → (∀ l, l < 1024 → sel.getLsbD l → inside l ∧ ∃ tr, s.check c p (some l) l (BitVec.ofInt 64 (s.sliceStart c b + off l)) n true false
        = .go (at_ l).1 (at_ l).2 tr) →
      LaneAccesses (.vstSlc w) s c i p sel .store n at_ (fun l => laneData c w.c.toNat n l))
    ∧ ((∃ l, l < 1024 ∧ sel.getLsbD l ∧ ¬ inside l) → ∃ t z sw sb, exec (.vstSlc w) s = .next t
        ∧ t = { (s.modPath c.id i fun q => { q with segW := sw, segB := sb, newSeg := false }).completeEarlier c.id i p.thr s.nextId with
          raised := t.raised } ∧ (z, none) ∈ SMap.get [] t.raised (s.partOf c) ∧ z.code = 33)

/-- R202: VPFX changes nothing but its path, which goes on. Constructors: vpfx. -/
def Claims.PrefetchChangesOnlyItsPath : Prop :=
  ∀ (w : LaneM) s c i p, LaneReady s c i p (infoM (.vpfx w) w true true false none) →
    ∃ c', Completes (.vpfx w) s c c' ∧ c' = { c with paths := c'.paths }
      ∧ PastLane p (c'.path i) (Instr.vpfx w).size ∧ ∀ k, k ≠ i → c'.path k = c.path k

/-- R206, R226, R228, R229: VLDS and VSTS, where every selected lane's offset is aligned and inside the team's scratchpad and its page
is pinned, enter their accesses to the scratchpad. Where some page is not pinned, the lanes on pinned pages enter theirs, and the path
waits at the word, which it keeps with its operands, for the refill of the others. Where every selected lane lies outside, they take
SCRATCH_RANGE, each with its offset. Constructors: vlds, vsts. -/
def Claims.ScratchpadWordsEnterTheQueues : Prop :=
  ∀ (w : LaneM) s c i p (tm : Team), p.st = .ready → Room s c → s.teamOf c.team = some tm →
    let sel := selMask c p w.h
    let n := LaneM.width w
    let off := fun (l : Nat) => laneOffset c p w (fun l => match w.base with | .vreg v => ((c.vget v.toNat l).toNat : Int) | .sreg _ => 0) l
    let inside := fun (l : Nat) => 0 ≤ off l ∧ off l + n ≤ tm.scrLen ∧ off l % n = 0
    let place := fun (l : Nat) => (BitVec.ofInt 64 (off l)).toNat
    let pinned := fun (l : Nat) => tm.pins.any fun q => q.page == place l / 4096
    let selects := fun (l : Nat) => l < 1024 ∧ sel.getLsbD l = true
    let word := fun (ins : Instr) (info : LaneInfo) (kind : AccKind) (data : Nat → Nat) => LaneReady s c i p info →
      ((∀ l, selects l → inside l ∧ pinned l = true) →
        LaneAccesses ins s c i p sel kind n (fun l => (.scr, place l)) data)
      ∧ ((∀ l, selects l → inside l) → (∃ l, selects l ∧ pinned l = false) →
        ∃ t c' xs x', exec ins s = .next t ∧ t.crewOf c.id = some c' ∧ SameMemory s t ∧ c'.v = c.v ∧ c'.s = c.s
          ∧ (c'.path i).lpc = p.lpc ∧ (c'.path i).wait = some stRefill ∧ (c'.path i).want = some .refill
          ∧ (∀ g, g ∈ (c'.path i).refill ↔ ∃ l, selects l ∧ pinned l = false ∧ g = place l / 4096)
          ∧ (c'.path i).queue = (if kind = .load then p.queue ++ xs else p.queue)
          ∧ (c'.path i).sbuf = (if kind = .load then p.sbuf else p.sbuf ++ xs)
          ∧ xs.map (·.lane) = (maskLanes 1024 sel).filter pinned
          ∧ (∀ x ∈ xs, x.kind = kind ∧ x.width = n ∧ x.space = .scr ∧ x.addr = place x.lane ∧ x.data = data x.lane)
          ∧ c'.words = c.words ++ [x'] ∧ x'.instr = ins ∧ x'.owed = sel)
      ∧ ((∀ l, selects l → ¬ inside l) → sel = p.m0 → p.isHandler = false →
        ∃ t c' r, exec ins s = .next t ∧ t.crewOf c.id = some c' ∧ (c'.path i).st = .fault ∧ (c'.path i).trap = some r
          ∧ Recorded r p 4 0 sel true true ∧ c'.v = c.v ∧ c'.words = c.words ∧ ∀ l, selects l → SMap.get 0 c'.faddr l = BitVec.ofInt 64 (off l))
    word (.vlds w) (infoM (.vlds w) w false true true (some 1)) .load (fun _ => 0)
    ∧ word (.vsts w) (infoM (.vsts w) w false false false (some 1)) .store (fun l => laneData c w.c.toNat n l)

/-- R232 to R234: FPUSH appends one entry a pass while the FIFO has room for them, and FPOP takes one a pass, oldest first, with which
the word goes in flight; either waits while the FIFO has too little. An FPUSH returns once its entries are there, in issue order with
the FPOPs before it (R235). A FIFO that the team lacks is ILLEGAL_INSTRUCTION, the second part. Constructors: fpush, fpop. -/
def Claims.FifosMoveOneEntryAPass : Prop :=
  (∀ (h : Hdr) (ty : Ty) (v : BitVec 8) (ord : Bool) (f : BitVec 3) s c i p (tm : Team) (q : Fifo), Room s c →
    s.teamOf c.team = some tm → tm.fifos[f.toNat]? = some q →
    let gs := c.passes (selMask c p h)
    let push := Instr.fpush h ty v ord f
    let pop := Instr.fpop h ty v ord f
    let fifo := fun (t : State) => match t.teamOf c.team with | some m => m.fifos[f.toNat]? | none => none
    (LaneReady s c i p { instr := push, h := h, reads := [v.toNat], writes := [], late := [], long := false, counter := some 2 } →
      (q.entries.length + gs.length ≤ 64 → (ord = true → p.queue = [] ∧ p.sbuf = [] ∧ s.effectsDone c p = true
          ∧ ∀ ws bs, ((s.modCurPath fun q => { q with segW := ws, segB := bs, newSeg := false }).mergeThreads (p.thr :: p.kin)).stopping
            (s.partOf c) = false) →
        ∃ t c' q', exec push s = .next t ∧ t.crewOf c.id = some c'
        ∧ c' = { c with paths := c'.paths, words := c'.words } ∧ (∀ x ∈ c'.words, x ∈ c.words ∨ (x.instr = push ∧ x.done = true))
        ∧ PastLane p (c'.path i) push.size ∧ fifo t = some q' ∧ q'.entries.length = q.entries.length + gs.length
        ∧ q'.entries.take q.entries.length = q.entries
        ∧ ∀ k g j, gs[k]? = some g → j < 32 → c.selects (selMask c p h) g j → ∃ e : FEnt, q'.entries[q.entries.length + k]? = some e
          ∧ e.vals.getD j 0 = c.readLane (c.physical v.toNat) g j)
      ∧ (64 < q.entries.length + gs.length → ∃ t c', exec push s = .next t ∧ t.crewOf c.id = some c' ∧ fifo t = some q
        ∧ (c'.path i).wait = some stFifo ∧ (c'.path i).lpc = p.lpc))
    ∧ (LaneReady s c i p { instr := pop, h := h, reads := [], writes := [v.toNat], late := [], long := true, counter := some 2 } →
      (gs.length ≤ q.entries.length → ∃ t c' q' w, exec pop s = .next t ∧ t.crewOf c.id = some c' ∧ c'.v = c.v ∧ c'.s = c.s
        ∧ fifo t = some q' ∧ q'.entries = q.entries.drop gs.length ∧ c'.words = c.words ++ [w] ∧ w.instr = pop ∧ w.done = true
        ∧ ∀ (k g j : Nat) (e : FEnt), gs[k]? = some g → j < 32 → c.selects (selMask c p h) g j → q.entries[k]? = some e →
          SMap.get 0 w.vals (32 * (c.first + g) + j) = (e.vals.getD j 0).toNat)
      ∧ (q.entries.length < gs.length → ∃ t c', exec pop s = .next t ∧ t.crewOf c.id = some c' ∧ fifo t = some q
        ∧ (c'.path i).wait = some stFifo ∧ (c'.path i).lpc = p.lpc)))
  ∧ ∀ (h : Hdr) (ty : Ty) (v : BitVec 8) (ord : Bool) (f : BitVec 3) s c i p (tm : Team), Issuing s c i p → s.teamOf c.team = some tm →
    tm.fifos[f.toNat]? = none → selMask c p h = p.m0 → p.isHandler = false →
    FaultsInPlace (.fpush h ty v ord f) s c i p p 1 0 p.faulting true ∧ FaultsInPlace (.fpop h ty v ord f) s c i p p 1 0 p.faulting true

/-- R294, R295: OBLD into a reservation, outside a cruise or within its rules (R323), enters one load for each selected lane, whose
place in the reservation is aligned and inside it; it waits while a place lies in a slab that a multiplication is to read. Without the
reservation it raises MATRIX_STATE with cause 1. Constructors: obld. -/
def Claims.OperandLoadsEnterTheQueue : Prop :=
  ∀ (w : LaneM) s c i p (at_ : Nat → Space × Nat) (info : LaneInfo),
    info = { instr := .obld w, h := w.h, reads := addrRegs w.base true w.x w.a ++ [w.c.toNat], writes := [], late := [], long := false
             counter := some 5 } →
    p.st = .ready → Room s c → LaneReady s c i p info →
    let sel := selMask c p w.h
    let n := LaneM.width w
    let place := fun (l : Nat) => (c.vget w.c.toNat l).toNat
    let ea := fun (l : Nat) => laneEa c p w.base w.x w.y w.a w.off.toInt l
    (∀ r, SMap.get none c.resv w.d.toNat = some r →
      let slab := slabSize (recFmt r.rec_)
      let reads := fun (l : Nat) => ∃ k ∈ s.slabsNamed c w.d.toNat, k * slab < place l + n ∧ place l < (k + 1) * slab
      ((∀ l, l < 1024 → sel.getLsbD l → ¬ reads l ∧ s.cruiseFault c (.obld w) (memSpec (.obld w)) (ea l) ((at_ l).1 != .mem) = none
        ∧ (∃ tr, s.check c p (some l) l (ea l) n false false = .go (at_ l).1 (at_ l).2 tr)
        ∧ place l % n = 0 ∧ place l + n ≤ r.units * 1024) →
        LaneAccesses (.obld w) s c i p sel .load n at_ (fun _ => 0))
      ∧ ((∃ l, l < 1024 ∧ sel.getLsbD l = true ∧ reads l) → ∃ c', Completes (.obld w) s c c' ∧ (c'.path i).wait = some stOther
        ∧ (c'.path i).lpc = p.lpc ∧ (c'.path i).queue = p.queue ∧ c'.words = c.words))
    ∧ (SMap.get none c.resv w.d.toNat = none → sel = p.m0 → p.isHandler = false →
      ∃ c' r, Completes (.obld w) s c c' ∧ (c'.path i).st = .fault ∧ (c'.path i).trap = some r ∧ Recorded r p 11 1 sel true true
        ∧ c'.v = c.v ∧ ∀ l, l < 1024 → sel.getLsbD l → SMap.get 0 c'.mxcause l = 1)

/-! ### Queue registers and jobs (R278 to R285) -/

/-- R282, R284, R285, R288: QPUSH appends one entry a pass, the selected lanes' values and zero elsewhere, and QPOP takes the oldest
entries into the lanes of its word; a QPUSH into an output register, or beyond 8 entries and the demand, and a QPOP from an input
register, or beyond the entries and the supply, raise QUEUE_STATE with causes 1, 2, 1 and 3. Constructors: qpush, qpop. -/
def Claims.QueueWordsMoveEntries : Prop :=
  ∀ (h : Hdr) (ty : Ty) (v : BitVec 8) (k : BitVec 4) s c i p, Room s c →
    let q := c.q k.toNat
    let sel := selMask c p h
    let gs := c.passes sel
    let push := Instr.qpush h ty v k
    let pop := Instr.qpop h ty v k
    let faults := fun (ins : Instr) (cause : Nat) => sel = p.m0 → p.isHandler = false →
      ∃ t c' r, exec ins s = .next t ∧ OnlyCrew c.id s t ∧ t.crewOf c.id = some c' ∧ (c'.path i).st = .fault
        ∧ (c'.path i).trap = some r ∧ Recorded r p 10 (cause + 8 * k.toNat) sel true true ∧ c'.qs = c.qs ∧ c'.v = c.v
        ∧ ∀ l, l < 1024 → sel.getLsbD l → SMap.get 0 c'.qcause l = BitVec.ofNat 7 (cause + 8 * k.toNat)
    (LaneReady s c i p { instr := push, h := h, reads := [v.toNat], writes := [], late := [], long := false, counter := some 3 } →
      (q.dir = 2 → faults push 1)
      ∧ (q.dir ≠ 2 → 8 + q.demand < q.entries.length + gs.length → faults push 2)
      ∧ (q.dir ≠ 2 → q.entries.length + gs.length ≤ 8 → q.pops = [] → q.pushes = [] →
        ∃ t c', exec push s = .next t ∧ t = { s with crews := t.crews, nextId := s.nextId + 1 } ∧ t.crewOf c.id = some c'
          ∧ (c'.path i).lpc = (p.pastLane push.size).lpc ∧ c'.v = c.v ∧ c'.s = c.s
          ∧ (c'.q k.toNat).entries = q.entries ++ gs.map fun g => (List.range 32).map fun j =>
              if (c.groupWord sel g).getLsbD j then c.readLane (c.physical v.toNat) g j else 0)
      ∧ (q.dir ≠ 2 → q.entries.length + gs.length ≤ 8 + q.demand → ∃ t c', exec push s = .next t ∧ t.crewOf c.id = some c'
          ∧ (c'.path i).lpc = (p.pastLane push.size).lpc ∧ c'.v = c.v))
    ∧ (LaneReady s c i p { instr := pop, h := h, reads := [], writes := [v.toNat], late := [], long := true, counter := some 3 } →
      (q.dir = 1 → faults pop 1)
      ∧ (q.dir ≠ 1 → q.entries.length + q.supply < q.pops.length + gs.length → faults pop 3)
      ∧ (q.dir ≠ 1 → q.pops.length + gs.length ≤ q.entries.length + q.supply → q.pushes = [] →
        ∃ t c', exec pop s = .next t ∧ t = { s with crews := t.crews, nextId := s.nextId + 1 } ∧ t.crewOf c.id = some c'
          ∧ (c'.path i).lpc = (p.pastLane pop.size).lpc ∧ c'.v = c.v ∧ c'.s = c.s
          ∧ (c'.q k.toNat).entries = q.entries.drop (q.pops.length + gs.length)
          ∧ (c'.q k.toNat).pops.length = q.pops.length + gs.length - q.entries.length))
    ∧ ∀ (d : Crew) (x : QPass) (e : List W32) (w : Word), d.word? x.wid = some w → w.slot = true →
        ∃ w', (d.serveWord x e).word? x.wid = some w' ∧ w'.owed = w.owed &&& ~~~d.passMask w x.group
          ∧ ∀ l, l < 1024 → (d.passMask w x.group).getLsbD l → SMap.get 0 w'.vals l = (e.getD (l % 32) 0).toNat

/-- R266, R269, R278, R285: YJOB, once the path's earlier accesses have taken effect and its slot is free, reads the card at its
address, writes the token of the sequence number, and enters a job of its level in the deck; a faulty card completes at once with
result code 3. While an earlier job holds the slot the path waits with the card it has read, and goes on with that card. Constructors:
yjob. -/
def Claims.YjobEntersTheDeck : Prop :=
  ∀ (d a : BitVec 6) s c i p parts (u : State), Issuing s c i p → p.iss = none → p.want = none → c.pending [d, a] = false →
    c.inflight i 3 < 255 → p.queue = [] → p.sbuf = [] → s.effectsDone c p = true → s.cardParts c p (c.sget a) = .at_ parts →
    (s.mergeThreads (p.thr :: p.kin)).stopping (s.partOf c) = false → (s.mergeThreads (p.thr :: p.kin)).observeCard c p parts (c.sget a) = .ok u →
    let bs := u.cardBytes c parts
    let tok := c.nextSeq
    cardPrivate bs = none → u.cardCruise c bs = none →
    (u.slotJob c (tok.toNat % 32) = none →
      ∃ t c' e, exec (.yjob d a) s = .next t ∧ t.crewOf c.id = some c' ∧ u.crewOf c.id = some e ∧ SameMemory u t
        ∧ c'.s = (e.sset d (tok.setWidth 64)).s ∧ c'.nextSeq = e.nextSeq + 1 ∧ (c'.path i).spc = (e.path i).spc + 4
        ∧ (u.cardBad c bs = true → t.jobs = u.jobs ∧ SMap.get 0 c'.slots (tok.toNat % 32) = statusWord 3 3 (cardKind bs) 0)
        ∧ (u.cardBad c bs = false → ∃ j : Job, t.jobs = u.jobs ++ [j] ∧ j.kind = .card bs ∧ j.token = tok ∧ j.crew = c.id
            ∧ j.at_ = none ∧ j.prog = 0 ∧ j.level = if cardHigh bs then 4 else 5))
    ∧ ((u.slotJob c (tok.toNat % 32)).isSome = true → ∃ t c' e, exec (.yjob d a) s = .next t ∧ t.crewOf c.id = some c'
        ∧ u.crewOf c.id = some e ∧ SameMemory u t ∧ t.jobs = u.jobs ∧ c'.s = e.s ∧ (c'.path i).spc = (e.path i).spc
        ∧ (c'.path i).want = some (.card bs) ∧ (c'.path i).wait = some stYarder
        ∧ ∀ (r : State) (g : Crew) (o : Path), Issuing r g i o → o.want = some (.card bs) → o.iss = none →
            g.pending [d, a] = false → g.inflight i 3 < 255 → o.queue = [] → o.sbuf = [] → r.effectsDone g o = true →
            r.cardCruise g bs = none → r.slotJob g (g.nextSeq.toNat % 32) = none → r.cardBad g bs = false →
            ∃ x j, exec (.yjob d a) r = .next x ∧ x.jobs = r.jobs ++ [j] ∧ j.kind = .card bs ∧ j.token = g.nextSeq)

/-- R279 to R281: YSTAT writes the status word of its token, 0 for one not yet issued and 4 for one whose slot has been used again,
and waits under .wait for a job that is queued or running; DECK.fence orders the jobs after it, and DECK.query counts the deck's jobs,
those of the launch, and the busy yarders of the die. Constructors: ystat, deckFence, deckQuery. -/
def Claims.YstatAndDeckReport : Prop :=
  ∀ (d a : BitVec 6) (wait : Bool) s c i p, Issuing s c i p →
    (c.pending [d, a] = false →
      let t := (c.sget a).extractLsb' 0 32
      let behind := (c.nextSeq - t).toNat
      let v : W64 := if behind = 0 ∨ 2 ^ 31 < behind then 0
        else if 32 < behind then 4
        else match s.jobs.find? (fun j => j.isCard && j.crew == c.id && j.token.toNat % 32 == t.toNat % 32) with
          | some j => statusWord (if j.at_.isSome then 2 else 1) 0 (cardKind j.card) j.prog
          | none => SMap.get 0 c.slots (t.toNat % 32)
      let open_ := v.toNat % 8 = 1 ∨ v.toNat % 8 = 2
      (wait = true → open_ → Completes (.ystat d a wait) s c (c.withPath i (p.stalled stYarder)))
      ∧ ((wait = false ∨ ¬ open_) → ∃ c', Completes (.ystat d a wait) s c c' ∧ c'.s = (c.sset d v).s ∧ c'.v = c.v
          ∧ (c'.path i).spc = p.spc + 4 ∧ (c'.path i).m0 = p.m0))
    ∧ (p.iss = none → Completes .deckFence s c ({ c with fence := s.nextId }.withPath i (p.past 4)))
    ∧ (p.iss = none → c.pending [d] = false → Completes (.deckQuery d) s c ((c.sset d (
        let all := s.jobs.filter fun j => j.part == s.partOf c
        let mine := all.filter fun j => j.isCard && j.lid == s.lidOf c
        BitVec.ofNat 64 (all.length % 2 ^ 16 + mine.length % 2 ^ 16 * 2 ^ 16
          + (s.jobs.filter fun j => j.at_ == some (s.dieOf c)).length * 2 ^ 32))).withPath i (p.past 4)))

/-! ### Banks (R221) -/

/-- R221: BANKSET, against the modes that the BANKSETs before it leave (log entry 47, the model's inference), answers 2 without the
bank-control flag and 1 where a bank it would move is in use, with no mode changed; where no bank needs a drain it sets the modes and
answers 0, and else it waits for BANK_DRAIN_DONE with the banks being drained. Constructors: bankset. -/
def Claims.BanksetMovesIdleBanks : Prop :=
  ∀ (d a : BitVec 6) (mode : BitVec 2) s c i p b k st, Issuing s c i p → p.iss = none → p.want = none → c.pending [d, a] = false →
    s.blkOf c = some b → s.coreOf c.team = some k → s.stands[standOfCore k]? = some st → st.modes.length = 32 →
    let n := standOfCore k
    let soon := fun (x : Nat) => match ((s.bankWaits n).filter fun w => w.ms.contains x).getLast? with
      | some w => w.mode
      | none => s.bankMode n x
    let moving := (List.range 32).filter fun x => (c.sget a).getLsbD x && soon x != mode.toNat
    let drain := moving.filter fun x => soon x == 0 || (s.lentBanks n).contains x || s.draining n x
    let done := fun (v : W64) => (c.sset d v).withPath i (p.past 4)
    (b.bankctl = false → Completes (.bankset d a mode) s c (done 2))
    ∧ (b.bankctl = true → s.bankBusy n moving = true → Completes (.bankset d a mode) s c (done 1))
    ∧ (b.bankctl = true → s.bankBusy n moving = false → drain = [] → ∃ t, exec (.bankset d a mode) s = .next t
      ∧ t = { s with crews := t.crews, stands := t.stands } ∧ t.crewOf c.id = some (done 0)
      ∧ (∀ x, x < 32 → t.bankMode n x = if x ∈ moving then mode.toNat else s.bankMode n x)
      ∧ ∀ m x, m ≠ n → t.bankMode m x = s.bankMode m x)
    ∧ (b.bankctl = true → s.bankBusy n moving = false → drain ≠ [] → ∃ t c', exec (.bankset d a mode) s = .next t
      ∧ t = { s with crews := t.crews, stands := t.stands, nextId := s.nextId + 1 } ∧ t.crewOf c.id = some c'
      ∧ (c'.path i).want = some (.banks s.nextId d moving mode.toNat) ∧ (c'.path i).spc = p.spc ∧ c'.s = c.s
      ∧ (∀ x ∈ drain, t.draining n x = true) ∧ ∀ x, x < 32 → t.bankMode n x = s.bankMode n x)

/-! ### Landings (R335 to R350) -/

/-- R335, R337, R338: ESTADD stages one sample of its exact value for each selected lane, with that lane's next sequence number, and
binds an unbound estimator; a handle that is not valid, an estimator bound to another launch, and a full staging buffer raise
ESTIMATOR_STATE with causes 1 to 3. Constructors: estadd. -/
def Claims.EstaddStagesSamples : Prop :=
  ∀ (h : Hdr) (ty : Ty) (a : BitVec 8) (hs : HandleSrc) s c i p (tm : Team),
    let ins := Instr.estadd h ty a hs
    LaneReady s c i p { instr := ins, h := h, reads := regPair ty.is64 a, writes := [], late := [], long := false, counter := some 4 } →
    s.teamOf c.team = some tm →
    let sel := selMask c p h
    let hd := match hs with | .imm k => k.toNat | .sreg r => (p.scalar c r).toNat % 2 ^ 16
    let valid := s.estValid (s.partOf c) hd = true
    let mine := (s.est hd).bound = 0 ∨ (s.est hd).bound = s.lidOf c
    let fits := tm.stage.length + maskCount sel ≤ 8192
    let faults := fun (cause : Nat) => sel = p.m0 → p.isHandler = false →
      ∃ t c' r, exec ins s = .next t ∧ OnlyCrew c.id s t ∧ t.crewOf c.id = some c' ∧ (c'.path i).st = .fault
        ∧ (c'.path i).trap = some r ∧ Recorded r p 12 cause sel true true
        ∧ ∀ l, l < 1024 → sel.getLsbD l → SMap.get 0 c'.ecause l = BitVec.ofNat 3 cause
    (valid → mine → fits → ∃ t c' m, exec ins s = .next t ∧ t = { s with crews := t.crews, teams := t.teams, ests := t.ests }
      ∧ t.crewOf c.id = some c' ∧ c' = { c with paths := c'.paths } ∧ PastLane p (c'.path i) ins.size
      ∧ t.teamOf c.team = some m ∧ m = { tm with stage := m.stage, seqs := m.seqs }
      ∧ m.stage = tm.stage ++ (maskLanes 1024 sel).map (fun l => (⟨hd, l, SMap.get 0 tm.seqs l,
          sampleOf ty (if ty.is64 then (c.vget64 a.toNat l).toNat else (c.vget a.toNat l).toNat)⟩ : Sample))
      ∧ (∀ l, l < 1024 → SMap.get 0 m.seqs l = if sel.getLsbD l then SMap.get 0 tm.seqs l + 1 else SMap.get 0 tm.seqs l)
      ∧ (t.est hd).n = (s.est hd).n ∧ ((s.est hd).bound = 0 → (t.est hd).bound = s.lidOf c ∧ (t.est hd).version = 0))
    ∧ (¬ valid → faults 1) ∧ (valid → ¬ mine → faults 2) ∧ (valid → mine → ¬ fits → faults 3)

/-- R335, R338, R346, R347: ESTRD writes the eight words of the estimator's image, and ESTRD.cpl those of the snapshot of the team's
rank, once it exists; a handle that is not valid raises ESTIMATOR_STATE with cause 1, and ESTRD.cpl in a launch that is not COUPLED
with cause 4. Constructors: estrd, estrdCpl. -/
def Claims.EstrdWritesTheImage : Prop :=
  ∀ (d a : BitVec 6) s c i p, d.toNat % 8 = 0 → Issuing s c i p → p.iss = none →
    let hd := (c.sget a).toNat % 2 ^ 16
    let writes := fun (ins : Instr) (img : List W64) => ∃ c', Completes ins s c c' ∧ c'.c = c.c ∧ c'.v = c.v
      ∧ (∀ r : BitVec 6, r ≠ 0 → c'.sget r = if d.toNat ≤ r.toNat ∧ r.toNat < d.toNat + 8 then img.getD (r.toNat - d.toNat) 0 else c.sget r)
      ∧ (c'.path i).spc = p.spc + 4 ∧ (c'.path i).m0 = p.m0
    let faults := fun (ins : Instr) (cause : Nat) => p.isHandler = false → p.faulting ≠ 0 → ∃ t c' r, exec ins s = .next t
      ∧ OnlyCrew c.id s t ∧ t.crewOf c.id = some c' ∧ (c'.path i).st = .fault ∧ (c'.path i).trap = some r
      ∧ Recorded r p 12 cause p.faulting false true ∧ c'.s = c.s
    (c.pending (a :: imageRegs d) = false →
      (s.estValid (s.partOf c) hd = true → writes (.estrd d a) (s.est hd).image)
      ∧ (s.estValid (s.partOf c) hd = false → faults (.estrd d a) 1))
    ∧ (c.pending (imageRegs d) = false → ∀ l, s.launchOf (s.partOf c) (s.lidOf c) = some l →
      (l.blk.dmode ≠ 3 → faults (.estrdCpl d) 4)
      ∧ ∀ tm, s.teamOf c.team = some tm → l.blk.dmode = 3 →
        (∀ img, s.snapshotFor l tm.rank = some img → writes (.estrdCpl d) img)
        ∧ (s.snapshotFor l tm.rank = none → Completes (.estrdCpl d) s c (c.withPath i (p.stalled stLanding))))

/-- R333, R338, R348 to R350: ESTWAIT writes the version once its test holds or the estimator is closed, and waits else; ESTSTAT
writes the status word; ESTSTAT.reset answers 1 for a bound estimator, and else resets it with its target and confidence.
Constructors: estwait, eststat, eststatReset. -/
def Claims.EstimatorWaitStatusAndReset : Prop :=
  ∀ (d a : BitVec 6) (test conf : BitVec 2) s c i p, Issuing s c i p → c.pending [d, a] = false →
    let hd := (c.sget a).toNat % 2 ^ 16
    let e := s.est hd
    (s.estValid (s.partOf c) hd = true →
      (p.iss = none → test.toNat ≤ 1 →
        let holds := e.closed = true ∨ (if test = 0 then (c.sget d).toNat % 2 ^ 32 ≤ e.version.toNat else leF64 e.width (c.sget d) = true)
        (holds → ∃ c', Completes (.estwait d a test) s c c' ∧ c'.s = (c.sset d (e.version.setWidth 64)).s
          ∧ (c'.path i).spc = p.spc + 4 ∧ (c'.path i).m0 = p.m0)
        ∧ (¬ holds → Completes (.estwait d a test) s c (c.withPath i (p.stalled stLanding))))
      ∧ Completes (.eststat d a) s c ((c.sset d (BitVec.ofNat 64 (
          (if s.estStop (s.partOf c) hd then 1 else 0) + e.conf % 4 * 2 ^ 6 + (if e.nonfin then 2 ^ 8 else 0)
          + (if e.closed then 2 ^ 9 else 0) + e.reason % 8 * 2 ^ 10 + e.bound % 2 ^ 32 * 2 ^ 32))).withPath i (p.past 4))
      ∧ (p.iss = none → p.queue = [] → p.sbuf = [] → s.effectsDone c p = true →
        (s.mergeThreads (p.thr :: p.kin)).stopping (s.partOf c) = false → ∃ t, exec (.eststatReset d a conf) s = .next t
        ∧ t.crewOf c.id = some ((c.sset d (if e.bound = 0 then 0 else 1)).withPath i (p.past 4))
        ∧ t.est hd = if e.bound = 0 then
            { e with n := 0, mean := 0, m2 := 0, min := 0x7FF0000000000000, max := 0xFFF0000000000000, target := c.sget d
                     width := 0x7FF0000000000000, reason := 0, closed := false, nonfin := false, conf := conf.toNat, version := 0
                     last := 0 }
          else e))
    ∧ (s.estValid (s.partOf c) hd = false → p.isHandler = false → p.faulting ≠ 0 →
      ∀ ins, ins = Instr.eststat d a ∨ (ins = .eststatReset d a conf ∧ p.iss = none) → ∃ t c' r, exec ins s = .next t ∧ OnlyCrew c.id s t
        ∧ t.crewOf c.id = some c' ∧ (c'.path i).st = .fault ∧ (c'.path i).trap = some r ∧ Recorded r p 12 1 p.faulting false true
        ∧ c'.s = c.s)

/-! ### Launches from a path (R329, R330) -/

/-- R185, R316, R329: LAUNCH of an aligned block in global memory that translates, outside a cruise and after the path's earlier
accesses, submits the block's 256 bytes with its destination, and the path waits at its word for the admission; a block that is not
aligned takes PAGE_FAULT with cause 5, one that reaches the private window with cause 7, and a LAUNCH in a cruise CRUISE_XSTORE. That
it waits so is log entry 29, the model's inference. Constructors: launch. -/
def Claims.LaunchSubmitsTheBlock : Prop :=
  ∀ (d a : BitVec 6) s c i p, Issuing s c i p → s.submitted c i = false → p.iss = none → p.want = none →
    c.pending [d, a] = false →
    let va := c.sget a
    (s.isCruise c = true → HaltsAfter (.launch d a) s c i p false 33 0 va.toNat)
    ∧ (s.isCruise c = false → p.queue = [] → p.sbuf = [] → s.effectsDone c p = true →
      (∀ cause, (va.toNat % 64 ≠ 0 ∧ cause = 5) ∨ (va.toNat % 64 = 0 ∧ canonical va = true ∧ canonical (va + 255) = true
          ∧ 2 ^ 64 - 2 ^ 40 < va.toNat + 256 ∧ cause = 7) → p.isHandler = false → p.faulting ≠ 0 →
        ∃ t c' r, exec (.launch d a) s = .next t ∧ OnlyCrew c.id s t ∧ t.crewOf c.id = some c' ∧ (c'.path i).st = .fault
          ∧ (c'.path i).trap = some r ∧ Recorded r p 3 cause p.faulting false true ∧ c'.s = c.s)
      ∧ ∀ rs u v, va.toNat % 64 = 0 → canonical va = true → canonical (va + 255) = true → va.toNat + 256 ≤ 2 ^ 64 - 2 ^ 40 →
        (s.mergeThreads (p.thr :: p.kin)).stopping (s.partOf c) = false → (s.mergeThreads (p.thr :: p.kin)).walkRegion c p (pageParts va.toNat (va.toNat + 256)) [] = (.ok rs, u) →
        u.observeBlock c p rs va = .ok v → ∀ q', v.part? (v.partOf c) = some q' →
        ∃ t e c' d', exec (.launch d a) s = .next t ∧ SameMemory v t ∧ t.part? (v.partOf c) = some e ∧ t.launches = v.launches
          ∧ v.crewOf c.id = some d' ∧ t.crewOf c.id = some c' ∧ c'.s = d'.s ∧ (c'.path v.curPath).spc = (d'.path v.curPath).spc
          ∧ (c'.path v.curPath).wait = some stOther ∧ t.submitted c v.curPath = true ∧ e.subs = q'.subs ++ [⟨va, rs.flatMap (fun r => (List.range r.2).map fun k => v.seenByte c (r.1 + k)),
              some (c.id, v.curPath), d.toNat⟩])

/-- R320, R330: CIDX writes the index of a rank and CIDX.rank the rank of an index, and all ones for an operand at or above N; outside
a cruise both raise ILLEGAL_INSTRUCTION. In the order of a plain cruise every index below N has exactly one rank. Constructors: cidx,
cidxRank. -/
def Claims.CidxFollowsTheCruiseOrder : Prop :=
  (∀ (d a : BitVec 6) s c i p b, Issuing s c i p → s.blkOf c = some b →
    (b.cruise = true → c.pending [d, a] = false →
      (∀ y, (c.sget a).toNat < b.teams → b.order (c.sget a).toNat = some y →
        Completes (.cidx d a) s c ((c.sset d (BitVec.ofNat 64 y)).withPath i (p.past 4)))
      ∧ (∀ y, (c.sget a).toNat < b.teams → b.rankOf (c.sget a).toNat = some y →
        Completes (.cidxRank d a) s c ((c.sset d (BitVec.ofNat 64 y)).withPath i (p.past 4)))
      ∧ (b.teams ≤ (c.sget a).toNat →
        Completes (.cidx d a) s c ((c.sset d (BitVec.allOnes 64)).withPath i (p.past 4))
        ∧ Completes (.cidxRank d a) s c ((c.sset d (BitVec.allOnes 64)).withPath i (p.past 4))))
    ∧ (b.cruise = false → p.isHandler = false →
      FaultsInPlace (.cidx d a) s c i p p 1 0 p.faulting false ∧ FaultsInPlace (.cidxRank d a) s c i p p 1 0 p.faulting false))
  ∧ ∀ b : Block, b.morton = false → 0 < b.teams →
    (∀ r, r < b.teams → ∃ x, x < b.teams ∧ b.order r = some x ∧ b.rankOf x = some r)
    ∧ ∀ x, x < b.teams → ∃ r, r < b.teams ∧ b.rankOf x = some r ∧ b.order r = some x

/-! ### The matrix array (R289 to R309) -/

/-- R293, R294: OBRES answers 3 for a bad record, 2 for a reservation held, 0 with the reservation taken in a free range, and 1, or a
wait, where none fits; OBREL returns it once no OBLD and no joint still needs it. Constructors: obres, obrel. -/
def Claims.OperandReservations : Prop :=
  ∀ (d a : BitVec 6) (wait : Bool) (res : BitVec 3) s c i p k, Issuing s c i p → s.coreOf c.team = some k →
    (c.pending [d, a] = false → p.want = none →
      let r := c.sget a
      let n := slabSize (r.toNat % 16) * (r.toNat / 2 ^ 8 % 64 + 1)
      let bad := r.toNat / 2 ^ 42 ≠ 0 ∨ r.toNat / 2 ^ 14 % 4 ≠ 0 ∨ r.toNat / 2 ^ 4 % 16 ≠ 0 ∨ r.toNat % 16 = 3 ∨ 10 < r.toNat % 16
        ∨ 512 * 1024 < n
      let held := SMap.get none c.resv res.toNat ≠ none
      (bad → Completes (.obres d a wait res) s c ((c.sset d 3).withPath i (p.past 4)))
      ∧ (¬ bad → held → Completes (.obres d a wait res) s c ((c.sset d 2).withPath i (p.past 4)))
      ∧ (¬ bad → ¬ held → ∀ x, s.obufFit k (n / 1024) = some x → ∃ t c' v, exec (.obres d a wait res) s = .next t
        ∧ t = { s with crews := t.crews, free := s.free + 1 } ∧ t.crewOf c.id = some c'
        ∧ SMap.get none c'.resv res.toNat = some v ∧ v.start = x ∧ v.units = n / 1024 ∧ v.rec_ = r
        ∧ c'.s = (c.sset d 0).s ∧ c'.path i = p.past 4
        ∧ ∀ y, y ∈ s.resvsOf k → y.start + y.units ≤ x ∨ x + n / 1024 ≤ y.start)
      ∧ (¬ bad → ¬ held → s.obufFit k (n / 1024) = none → Completes (.obres d a wait res) s c
        (if wait then c.withPath i { p with wait := some stAllot, want := some (.obres d res.toNat r) }
         else (c.sset d 1).withPath i (p.past 4))))
    ∧ (c.loading res.toNat s.nextId = false → (s.jointsOf c).any (fun j => j.names c.id res.toNat) = false →
      Completes (.obrel res) s c ({ c with resv := SMap.set none c.resv res.toNat none }.withPath i (p.past 4)))

/-- R292, R297: GANG with a valid configuration makes it the crew's gang, and with any other raises MATRIX_STATE with cause 8 and
leaves the gang. Constructors: gang. -/
def Claims.GangSetsAValidConfiguration : Prop :=
  ∀ (a : BitVec 6) s c i p (tm : Team), Issuing s c i p → p.iss = none → c.pending [a] = false → s.teamOf c.team = some tm →
    let v := (c.sget a).toNat
    let n := v / 2 ^ 32 % 8
    let member := fun (k : Nat) => v / 2 ^ (5 * k) % 32
    let valid := v / 2 ^ 48 = 0 ∧ v / 2 ^ 35 % 2 = 0 ∧ v / 2 ^ 30 % 4 = 0 ∧ 2 ≤ n ∧ n ≤ 6
      ∧ (∀ x y, x < n → y < n → member x = member y → x = y) ∧ (∀ x, x < n → member x < tm.groups)
      ∧ (∀ q, q < 4 → v / 2 ^ (36 + 3 * q) % 8 < n) ∧ ∀ x, n ≤ x → x < 6 → member x = 0
    (valid → Completes (.gang a) s c ({ c with gang := BitVec.ofNat 48 v }.withPath i (p.past 4)))
    ∧ (¬ valid → p.isHandler = false → p.faulting ≠ 0 → ∃ c' r, Completes (.gang a) s c c' ∧ (c'.path i).st = .fault
      ∧ (c'.path i).trap = some r ∧ Recorded r p 11 8 p.faulting false true ∧ c'.gang = c.gang ∧ c'.s = c.s)

/-- R300: MMA, where every group of its selected lanes is a member of the gang, puts one arrival of each group into its team's latch
for the gang, and goes on; its word is in flight and is owed every lane. While one of its arrivals has no room (the team has four
older latches, or its latch four older arrivals of the member) the path is not ready. Constructors: mma. -/
def Claims.MmaArrivesAtItsLatch : Prop :=
  ∀ (h : Hdr) (b : BitVec 8) (tile : BitVec 2) (res : BitVec 3) (slab : SlabSrc) (fmt : BitVec 4) s c i p (tm : Team),
    s.teamOf c.team = some tm →
    let ins := Instr.mma h b tile res slab fmt
    let sel := selMask c p h
    let groups := (c.passes sel).map fun g => c.first + g
    LaneReady s c i p { instr := ins, h := h, reads := [], writes := [], long := true, counter := some 5
                        late := distinct (groups.flatMap fun g => mmaBlock c.gang b fmt.toNat g) } →
    c.first + c.groups ≤ 32 → groups ≠ [] → (∀ g ∈ groups, (gangPos c.gang g).isSome = true) →
    ∃ t c' w m, ∃ as : List Arrival, exec ins s = .next t ∧ t = { s with crews := t.crews, teams := t.teams, nextId := s.nextId + 2 }
      ∧ t.crewOf c.id = some c' ∧ c' = { c with words := c.words ++ [w], paths := c'.paths }
      ∧ (c'.path i).lpc = (p.pastLane ins.size).lpc ∧ w.instr = ins ∧ w.lanes = sel ∧ w.owed = sel ∧ w.slot = true
      ∧ t.teamOf c.team = some m ∧ m = { tm with latches := m.latches }
      ∧ as.map (·.group) = groups ∧ (∀ a ∈ as, a.crew = c.id ∧ a.wid = w.wid ∧ a.tile = tile.toNat ∧ a.res = res.toNat
          ∧ a.fmt = fmt.toNat ∧ gangPos c.gang a.group = some a.pos ∧ a.lanes = sel &&& maskRange (32 * a.group) 32
          ∧ a.regs = (mmaBlock c.gang b fmt.toNat a.group).map c.physical
          ∧ a.slab = (match slab with | .imm k => k.toNat | .sreg r => (p.scalar c r).toNat % 64))
      ∧ (∀ l ∈ m.latches, l.gang ≠ c.gang → l ∈ tm.latches)
      ∧ ∃ l ∈ m.latches, l.gang = c.gang
          ∧ l.arrs = (match tm.latches.find? (fun x => x.gang == c.gang) with | some x => x.arrs | none => []) ++ as
      ∧ ∀ a ∈ as, (∀ k l, k < 4 → m.latches[k]? = some l → a ∈ l.arrs →
          4 ≤ (l.arrs.takeWhile (· != a)).countP fun b => b.pos == a.pos) → t.crowded c' i = true

/-- R231, R304, R307: ACCZ of an allotted tile whose banks are drained makes every element zero, clears its flags and binds it to its
reservation's anchor; ACCZ.free makes the tile unallotted. A tile the team lacks raises MATRIX_STATE with cause 7, and a reservation
it lacks with cause 1. Constructors: accz, acczFree. -/
def Claims.AcczClearsOrFreesATile : Prop :=
  ∀ (tile : BitVec 2) (res : BitVec 3) s c i p (tm : Team) k, Issuing s c i p → p.iss = none → s.teamOf c.team = some tm →
    tm.core = some k → k < s.cores.length → tile.toNat < tm.tiles.length → s.tileWaiting c i tile.toNat = false →
    let x := tm.tile tile.toNat
    let all := List.range 8192
    let faults := fun (ins : Instr) (cause : Nat) => p.isHandler = false → p.faulting ≠ 0 → ∃ c' r, Completes ins s c c'
      ∧ (c'.path i).st = .fault ∧ (c'.path i).trap = some r ∧ Recorded r p 11 cause p.faulting false true ∧ c'.s = c.s
    (tile.toNat < tm.ntile →
      (∀ v u, SMap.get none c.resv res.toNat = some v → x.allot = true → s.tileDrained (standOfCore k) x = true →
        s.tileEffect c p tile.toNat all true = .ok u → ∃ t m c', exec (.accz tile res) s = .next t ∧ t.teamOf c.team = some m
          ∧ t.crewOf c.id = some c' ∧ (c'.path i).spc = p.spc + 4 ∧ c'.s = c.s ∧ SameMemory s t
          ∧ (m.tile tile.toNat).allot = true ∧ (m.tile tile.toNat).bound = true ∧ (m.tile tile.toNat).flags = 0
          ∧ (m.tile tile.toNat).anchor = v.rec_.extractLsb' 32 10 ∧ (∀ e, (m.tile tile.toNat).elem e = 0)
          ∧ (∀ j, j ≠ tile.toNat → m.tile j = tm.tile j))
      ∧ (SMap.get none c.resv res.toNat = none → faults (.accz tile res) 1)
      ∧ (∀ u, s.tileEffect c p tile.toNat all true = .ok u → ∃ t m c', exec (.acczFree tile) s = .next t ∧ t.teamOf c.team = some m
          ∧ t.crewOf c.id = some c' ∧ (c'.path i).spc = p.spc + 4 ∧ c'.s = c.s ∧ SameMemory s t
          ∧ (m.tile tile.toNat).allot = false ∧ (m.tile tile.toNat).frames = [] ∧ ∀ j, j ≠ tile.toNat → m.tile j = tm.tile j))
    ∧ (tm.ntile ≤ tile.toNat → faults (.accz tile res) 7 ∧ faults (.acczFree tile) 7)

/-- R70, R72, R73, R304, R308, R309: ACCRD and the reading modes of ACCX go in flight with the values of their lanes' elements,
rounded, raw, or the flags and anchor; ACCRD.z zeroes the elements it reads, `.wr` writes them, `.add` adds with saturation, and
`.orf` sets flags, of an allotted tile whose banks are drained. Constructors: accrd, accxRd, accxFlg, accxWr, accxAdd, accxOrf. -/
def Claims.TileWordsReadAndWriteElements : Prop :=
  ∀ (h : Hdr) (ty : Ty) (d a : BitVec 8) (rnd : BitVec 2) (alt ftz z : Bool) (tile : BitVec 2) s c i p (tm : Team) k,
    Room s c → s.teamOf c.team = some tm → tm.core = some k → tile.toNat < tm.ntile → tile.toNat < tm.tiles.length →
    s.tileWaiting c i tile.toNat = false →
    let sel := selMask c p h
    let ls := maskLanes 1024 sel
    let x := tm.tile tile.toNat
    let idx := fun (l : Nat) => (c.vget a.toNat l).toNat % 2 ^ 14
    x.allot = true → s.tileDrained (standOfCore k) x = true →
    let acts := fun (ins : Instr) (reads writes : List Nat) (granules : List Nat) (write : Bool) (val : Nat → Nat) (y : Tile → Prop) =>
      LaneReady s c i p (infoTile ins h reads writes) →
      (∀ t : State, t.nextId = s.nextId + 1 → t.det = s.det → ∃ u, t.tileEffect c p tile.toNat granules write = .ok u) →
      ∃ t c' w m, exec ins s = .next t ∧ t.crewOf c.id = some c' ∧ SameMemory s t ∧ c'.v = c.v ∧ c'.s = c.s
        ∧ (c'.path i).lpc = (p.pastLane ins.size).lpc ∧ c'.words = c.words ++ [w] ∧ w.instr = ins ∧ w.slot = true ∧ w.done = true
        ∧ (∀ l, l < 1024 → sel.getLsbD l → SMap.get 0 w.vals l = val l)
        ∧ t.teamOf c.team = some m ∧ y (m.tile tile.toNat) ∧ ∀ j, j ≠ tile.toNat → m.tile j = tm.tile j
    let wr := ls.map fun l => idx l / 2
    acts (.accrd h ty d a rnd alt ftz tile z) [a.toNat] (regPair ty.is64 d) wr z
      (fun l => (FFmt.ofTy ty).rnd rnd.toNat alt ftz (accValue (x.elem (idx l)).toInt x.anchorVal))
      (fun y => y.flags = x.flags ∧ ∀ e, y.elem e = if z && ls.any (fun l => idx l == e) then 0 else x.elem e)
    ∧ acts (.accxRd h tile d a) [a.toNat] (quad d) wr false (fun l => (x.elem (idx l)).toNat) (fun y => y = x)
    ∧ acts (.accxFlg h tile d) [] [d.toNat] (List.range 8192) false
      (fun _ => x.flags.toNat + (if x.bound then x.anchor.toNat * 2 ^ 16 else 0)) (fun y => y = x)
    ∧ acts (.accxWr h tile a d) (a.toNat :: quad d) [] wr true (fun _ => 0)
      (fun y => y.flags = x.flags
        ∧ (∀ e, (∀ l, l < 1024 → sel.getLsbD l → idx l ≠ e) → y.elem e = x.elem e)
        ∧ ∀ l, l < 1024 → sel.getLsbD l → (∀ l', l < l' → l' < 1024 → sel.getLsbD l' → idx l' ≠ idx l) →
            y.elem (idx l) = BitVec.ofNat 128 (laneData c d.toNat 16 l))
    ∧ acts (.accxAdd h tile a d) (a.toNat :: quad d) [] wr true (fun _ => 0)
      (fun y => (∀ e, (∀ l, l < 1024 → sel.getLsbD l → idx l ≠ e) → y.elem e = x.elem e)
        ∧ ((∀ l l', l < 1024 → l' < 1024 → sel.getLsbD l → sel.getLsbD l' → idx l = idx l' → l = l') →
          ∀ l, l < 1024 → sel.getLsbD l → y.elem (idx l) = BitVec.ofInt 128
            (max (-(2 ^ 127)) (min (2 ^ 127 - 1) ((x.elem (idx l)).toInt + (BitVec.ofNat 128 (laneData c d.toNat 16 l)).toInt)))))
    ∧ acts (.accxOrf h tile d) [d.toNat] [] (List.range 8192) true (fun _ => 0)
      (fun y => y.elems = x.elems ∧ ∀ b, b < 3 → y.flags.getLsbD b = (x.flags.getLsbD b
        || (ls.any fun l => (c.vget d.toNat l).getLsbD b)))

/-! ### Grants to waiting words (R117, R118, R221, R226, R231, R293) -/

/-- R84, R89, R90, R117, R118, R293: REGGROW_GRANT and OBRES_GRANT serve the first waiter of a core by slot and path, once what it
asks for and a scalar issue slot are free: its registers or its reservation are there, it answers, and its path goes on, in that slot.
WRITE_RESERVATION_GRANT lets a word whose first pass waits try again; of a word whose first passes have written, the next pass writes
once its units and a lane issue slot are free, then those after it that can, each in a slot of its own, and with the last of them the
path goes on. Which two words the scalar slots of one clock take is log entry 1, the model's choice. Constructors: reggrowGrant,
obres, obresGrant, writeReservationGrant. -/
def Claims.GrantsServeTheFirstWaiter : Prop :=
  ∀ (r : PathRef) s c p, Named s r c p →
    let goes := { p with
      spc := p.spc + 4, want := none, wait := none, bpSkip := false, stepping := p.stepping.map fun _ => true }
    (∀ d n, p.want = some (.grow d n) →
      (s.waiters (· == r.core) (fun w => match w with | .grow .. => true | _ => false)).head? = some (c.id, r.path) →
      (s.scalRoom r.core c.id r.path = false → Idle (.reggrowGrant r) s)
      ∧ (s.scalRoom r.core c.id r.path = true → (n - c.nRegs) * c.groups * 8 ≤ s.freeUnits r.core →
        ∃ t c', exec (.reggrowGrant r) s = .next t ∧ IssuesOn s t r.core r.path false 0 0 c c' ∧ c'.nRegs = max n c.nRegs
        ∧ c'.s = (c.sset d 0).s ∧ c'.path r.path = goes
        ∧ (∀ v g, g < 32 → v < c.nRegs → c'.liveReg v g = c.liveReg v g)
        ∧ ∀ v g, g < 32 → c.nRegs ≤ v → v < n → c'.liveReg v g = .uni 0))
    ∧ (∀ d res rec_, p.want = some (.obres d res rec_) → SMap.get none c.resv res = none →
      (s.waiters (· == r.core) (fun w => match w with | .obres .. => true | _ => false)).head? = some (c.id, r.path) →
      (s.scalRoom r.core c.id r.path = false → Idle (.obresGrant r) s)
      ∧ (∀ x, s.scalRoom r.core c.id r.path = true → s.obufFit r.core (recSize rec_ / 1024) = some x →
        ∃ t c' v, exec (.obresGrant r) s = .next t ∧ IssuesOn { s with free := s.free + 1 } t r.core r.path false 0 0 c c'
        ∧ SMap.get none c'.resv res = some v
        ∧ v.start = x ∧ v.units = recSize rec_ / 1024 ∧ v.rec_ = rec_ ∧ c'.s = (c.sset d 0).s ∧ c'.path r.path = goes)
      ∧ (s.obufFit r.core (recSize rec_ / 1024) = none → Idle (.obresGrant r) s))
    ∧ (∀ n, p.want = some (.units n) →
      (n ≤ s.freeUnits r.core → Completes (.writeReservationGrant r) s c (c.withPath r.path { p with want := none, wait := none }))
      ∧ (s.freeUnits r.core < n → Idle (.writeReservationGrant r) s))
    ∧ ∀ size e q rest, p.want = some (.passes size e (q :: rest)) →
      (s.freeUnits r.core < c.passNeed q → Idle (.writeReservationGrant r) s)
      ∧ (∀ k, s.cores[r.core]? = some k → 4 ≤ k.laneUsed → Idle (.writeReservationGrant r) s)
      ∧ (∀ k, s.cores[r.core]? = some k → k.laneUsed < 4 → c.passNeed q ≤ s.freeUnits r.core →
        let d := q.outs.foldl (fun e o => e.writePass (e.propWord q.g) q.act o.1 q.g o.2) c
        let x := d.writePasses (s.freeUnits r.core) c.held rest
        ∃ t, exec (.writeReservationGrant r) s = .next t
          ∧ IssuesOn s t r.core r.path true e (rest.length + 1 - x.2.length) c ({ c with v := x.1.v, prop := x.1.prop }.withPath r.path
            (if x.2 = [] then p.pastLane size else { p with want := some (.passes size e x.2) })))

/-- R221, R223, R226, R231: SCRATCH_REFILL_DONE pins the pages that a word waits for, and TILE_ALLOTMENT gives the first waiter of a
stand its tile, and the word runs again; BANK_DRAIN_DONE ends a drain, and with its last one a BANKSET. Constructors:
scratchRefillDone, tileAllotment, bankDrainDone. -/
def Claims.StandGrantsLetWordsRunAgain : Prop :=
  (∀ (r : PathRef) s c p (tm : Team), Named s r c p → s.teamOf c.team = some tm →
    let again := c.withPath r.path { p with refill := [], want := none, wait := none }
    (p.refill ≠ [] →
      let pinned := p.refill.foldl (fun o g => match o with
        | some u => State.pinPage u (standOfCore r.core) c.team g
        | none => none) (some s)
      (∀ u, pinned = some u → ∃ t m, exec (.scratchRefillDone r) s = .next t ∧ t.crewOf c.id = some again ∧ SameMemory s t
        ∧ t.teamOf c.team = some m ∧ m.scr = tm.scr ∧ (∀ g ∈ p.refill, (m.pins.any fun q => q.page == g) = true)
        ∧ ∀ q ∈ tm.pins, q ∈ m.pins)
      ∧ (pinned = none → Idle (.scratchRefillDone r) s))
    ∧ ∀ n rest, s.tileWaits (standOfCore r.core) = (c.id, r.path, n) :: rest → s.tileRoom (standOfCore r.core) = true →
      tm.joints = [] → n < tm.tiles.length → ∃ t m, exec (.tileAllotment r) s = .next t
        ∧ t.crewOf c.id = some (c.withPath r.path { p with want := none, wait := none }) ∧ SameMemory s t
        ∧ t.teamOf c.team = some m ∧ (m.tile n).allot = true
        ∧ ((tm.tile n).allot = false → (m.tile n).bound = false ∧ (m.tile n).flags = 0 ∧ ∀ e, (m.tile n).elem e = 0)
        ∧ ∀ j, j ≠ n → m.tile j = tm.tile j)
  ∧ ∀ (stand bank : Nat) s, s.draining stand bank = true →
    (∃ t, exec (.bankDrainDone stand bank) s = .next t ∧ SameMemory s t ∧ t.draining stand bank = false
      ∧ ∀ b, b ≠ bank → t.draining stand b = s.draining stand b)
    ∧ ∀ c i p no d ms mode st, s.crewOf c.id = some c → s.crews.filter (fun e => e.id == c.id) = [c] → c.paths[i]? = some p →
      p.want = some (.banks no d ms mode) → s.coreOf c.team = some st → standOfCore st = stand →
      (∀ e ∈ s.crews, ∀ k q, e.paths[k]? = some q → (e.id, k) ≠ (c.id, i) → ∀ w x y z, q.want ≠ some (.banks w x y z)) →
      (∀ b ∈ ms, b < 32) → (∀ k, s.stands[stand]? = some k → k.modes.length = 32) → (∀ b ∈ ms, s.draining stand b = true → b = bank) →
      ∃ t c', exec (.bankDrainDone stand bank) s = .next t ∧ t.crewOf c.id = some c' ∧ c'.s = (c.sset d 0).s
        ∧ c'.path i = { p with
          spc := p.spc + 4, want := none, wait := none, bpSkip := false, stepping := p.stepping.map fun _ => true }
        ∧ ∀ b, b < 32 → t.bankMode stand b = if b ∈ ms then mode else s.bankMode stand b

/-! ### Placement, pre-emption and evictions (R90, R317, R318, R326, R327, R385, R390) -/

/-- R90: a core whose crews have all issued nothing for 4,096 clocks, and whose victim's place a head waits for, and a core whose
crews have all been blocked on register units or allotments for 1,024 clocks, evict the team of the highest index; while a crew has
not, nothing happens. Constructors: forwardProgressEviction, allotmentDeadlockEviction. -/
def Claims.EvictionsChooseAVictim : Prop :=
  ∀ (core : Nat) s (t : Team), s.evictee core = some t → s.live t.part = true →
    s.leavers core = [] →
    (∀ u ∈ s.coreTeams core, s.choosable u = true → u.index ≤ t.index)
    ∧ ((∀ c ∈ s.coreCrews core, c.issued = false ∧ 4096 ≤ c.quiet) → s.waitsFor t.part core t.id = true →
        Chooses (.forwardProgressEviction core) s t)
    ∧ (∀ c ∈ s.coreCrews core, c.quiet < 4096 → Idle (.forwardProgressEviction core) s)
    ∧ ((∀ c ∈ s.coreCrews core, s.crewBlocked c = true ∧ 1024 ≤ c.stuck) → Chooses (.allotmentDeadlockEviction core) s t)
    ∧ ∀ c ∈ s.coreCrews core, c.stuck < 1024 ∨ s.crewBlocked c = false → Idle (.allotmentDeadlockEviction core) s

/-- R318, R326, R327: a head passed over for 20 µs pre-empts the least important team of a core that would then take it, of a greater
priority number; a team whose slice has run out leaves for a head that was passed over; a launch past its time limit, which each
microsecond in which a path of it was held extends (R400), raises TIME_LIMIT. That a chosen team is saved later, once it is drained,
is log entry 39, the model's inference. Constructors: priorityPreempt, sliceExpiry, timeLimit. -/
def Claims.PreemptionSlicesAndLimits : Prop :=
  (∀ (part core : Nat) s h (t : Team), s.places part = true →
    (s.heads part).find? (fun h => s.needsVictims part h && (s.victim (s.qualify part (s.headPrio part h) h) (s.headPrio part h)).isSome)
      = some h → s.victim (s.qualify part (s.headPrio part h) h) (s.headPrio part h) = some t → t.core = some core →
    s.headPrio part h < s.teamPrio t
    ∧ ((s.evict t.id).headFits part core h ((s.evict t.id).leavers core) = true → Chooses (.priorityPreempt part) s t))
  ∧ (∀ (r : TeamRef) s (t : Team) (b : Block), s.teamRef r = some t → s.teamBlk t = some b → s.live r.part = true →
      b.slice ≠ 0 → s.choosable t = true → s.parkedTeam t = false →
      (t.placed.toNat + 1000 * b.slice + t.heldNs ≤ s.time.toNat → s.displaced t = true → Chooses (.sliceExpiry r) s t)
      ∧ ((s.time.toNat < t.placed.toNat + 1000 * b.slice + t.heldNs ∨ s.displaced t = false) → Idle (.sliceExpiry r) s))
  ∧ ∀ (r : LaunchRef) s (l : Launch), s.launchOf r.part r.launch = some l → s.live r.part = true → l.blk.tlim ≠ 0 →
      l.retired = false → s.unfinished l = true →
      let held := if l.heldIn then 1 else 0
      (l.admitAt.toNat + 1000 * (l.blk.tlim + l.extUs + held) ≤ s.time.toNat → ∃ z : Cause, z.code = 38 ∧ z.launch = r.launch
        ∧ exec (.timeLimit r) s = .next { s with
          raised := SMap.set [] s.raised r.part (SMap.get [] s.raised r.part ++ [(z, none)]) })
      ∧ (s.time.toNat < l.admitAt.toNat + 1000 * (l.blk.tlim + l.extUs + held) → Idle (.timeLimit r) s)

/-- R81, R109, R317: PLACEMENT places the first head that a core takes: the lowest unplaced team of a launch starts there with its
crews, each at its entry points with its registers, its first scalar registers from the block; where no head fits, it remembers the
heads passed over. Constructors: placement. -/
def Claims.PlacementStartsATeam : Prop :=
  ∀ (part : Nat) s (q : Part), s.places part = true → s.part? part = some q →
    (∀ h core out l, s.placeChoice part = (some (h, core), out) → h.team = none → s.launchOf part h.lid = some l → l.blk.regs.length = 8 →
      ∃ t m, exec (.placement part) s = .next t ∧ SameMemory s t ∧ m ∈ t.teams ∧ m.id = s.nextId ∧ m.core = some core
        ∧ m.part = part ∧ m.launch = h.lid ∧ m.index = l.next ∧ m.rank = l.next ∧ m.groups = l.blk.gsize ∧ m.ntile = l.kd.accum
        ∧ m.scrLen = l.kd.scr * 1024 ∧ m.fifos.length = l.kd.fifo ∧ m.saved = false
        ∧ t.crews.length = s.crews.length + l.kd.crews.length
        ∧ ∀ n kc, l.kd.crews[n]? = some kc → ∃ c ∈ t.crews, c.team = s.nextId ∧ c.num = n ∧ c.role = kc.role ∧ c.nRegs = kc.regs
            ∧ c.rot = kc.rot ∧ c.groups = kc.size l.blk.gsize ∧ (c.path 0).st = .ready
            ∧ (c.path 0).spc = l.kd.scode + 4 * BitVec.ofNat 64 kc.sent ∧ (c.path 0).lpc = l.kd.lcode + 12 * BitVec.ofNat 64 kc.lent
            ∧ (c.path 0).m0 = maskRange (32 * c.first) (32 * c.groups) ∧ (c.path 0).mask = (c.path 0).m0
            ∧ (∀ i, 0 < i → (c.path i).st = .free)
            ∧ (∀ x : BitVec 6, c.sget x = if 1 ≤ x.toNat ∧ x.toNat ≤ 8 then l.blk.regs.getD (x.toNat - 1) 0 else 0)
            ∧ ∀ v g, c.liveReg v g = .uni 0)
    ∧ (∀ out, s.placeChoice part = (none, out) → ∃ t q', exec (.placement part) s = .next t ∧ t.teams = s.teams ∧ t.crews = s.crews
        ∧ SameMemory s t ∧ t.part? part = some q' ∧ q'.passedOver = out.map Head.key)

/-- R385, R390: TEAM_SAVE of a team that has stopped takes it off its core, with its registers, and queues it again; TEAM_RESTORE
brings it to the core that the placement decision gives it, with the registers it had. Constructors: teamSave, teamRestore. -/
def Claims.SaveAndRestoreKeepRegisters : Prop :=
  ∀ (r : TeamRef) s (t : Team) (q : Part), s.teamRef r = some t → s.teamOf t.id = some t → s.part? t.part = some q →
    (t.leaving = true → t.core ≠ none → s.live r.part = true → s.drained t = true → ∃ u m q', exec (.teamSave r) s = .next u
      ∧ u.teamOf t.id = some m ∧ m.core = none ∧ m.saved = true ∧ m.leaving = false ∧ m.saves = t.saves + 1
      ∧ u.part? t.part = some q' ∧ q'.requeue = q.requeue ++ [t.id] ∧ (∀ j ∈ u.jobs, j.isCard = true → j.team ≠ t.id)
      ∧ ∀ c, s.crewOf c.id = some c → c.team = t.id → ∃ c', u.crewOf c.id = some c' ∧ c'.s = c.s ∧ c'.c = c.c ∧ c'.m = c.m
        ∧ c'.v = c.v ∧ c'.nRegs = c.nRegs ∧ c'.prop = c.prop ∧ c'.resv = c.resv)
    ∧ (t.leaving = false → Idle (.teamSave r) s)
    ∧ (∀ h core out, s.places r.part = true → s.placeChoice r.part = (some (h, core), out) →
      (h.team = some t.id → ∃ u m, exec (.teamRestore r core) s = .next u ∧ SameMemory s u ∧ u.teamOf t.id = some m
        ∧ m.core = some core ∧ m.saved = false ∧ m.jobs = [] ∧ m.placed = s.time
        ∧ ∀ c, s.crewOf c.id = some c → ∃ c', u.crewOf c.id = some c' ∧ c'.s = c.s ∧ c'.c = c.c ∧ c'.m = c.m ∧ c'.v = c.v
          ∧ c'.nRegs = c.nRegs ∧ c'.prop = c.prop ∧ c'.paths = c.paths)
      ∧ (h.team ≠ some t.id → Idle (.teamRestore r core) s))

/-! ### Launches: admission, commit, stop and completion (R316, R324, R335, R339 to R342, R414) -/

/-- R316, R329, R414: ADMISSION refuses a block with the status of the first check that fails, and admits one that passes as a launch
with the next identifier; it answers the host in LN_STAT, or the crew in its register, 2^63 + status for a refusal. That LN_STAT shows
identifier 0 after a refusal is log entry 35, the model's inference. That a block waits while a page that ADMISSION reads is on its
way is log entry 30, the model's inference. Constructors: admission. -/
def Obligations.AdmissionAnswersTheSubmission : Prop :=
  ∀ (part : Nat) s (q : Part) u rest, s.part? part = some q → q.subs = u :: rest → s.live part = true → q.newCls = none →
    let bs := if u.bytes = [] then (List.range 256).map fun k => s.homeByte (homeKey part (u.block.toNat + k)) else u.bytes
    let taken := s.modPart part fun x => { x with subs := rest }
    let answered := fun (w t : State) (status lid : Nat) =>
      (u.crew = none → ∀ e, w.part? part = some e → ∃ q', t.part? part = some q' ∧ q'.subs = e.subs ∧ q'.lnBusy = false
        ∧ q'.lnStatus = status ∧ q'.lnId = BitVec.ofNat 32 lid)
      ∧ ∀ cid i c p, u.crew = some (cid, i) → w.crewOf cid = some c → c.paths[i]? = some p → ∃ c', t.crewOf cid = some c'
        ∧ (c'.path i).spc = p.spc + 4 ∧ (c'.path i).wait = none
        ∧ c'.s = (c.sset (BitVec.ofNat 6 u.dest) (BitVec.ofNat 64 (if status = 0 then lid else 2 ^ 63 + status))).s
    (blockFormed u.block.toNat bs = false → ∃ t, exec (.admission part) s = .next t ∧ answered taken t 1 0
      ∧ t.launches = s.launches ∧ SameMemory s t)
    ∧ (blockFormed u.block.toNat bs = true →
      (∀ k w, taken.checkBlock part (parseBlock bs) (s.parentOf u) = (.refused k, w) →
        ∃ t, exec (.admission part) s = .next t ∧ answered w t k 0 ∧ t.launches = w.launches ∧ SameMemory w t)
      ∧ (∀ w, taken.checkBlock part (parseBlock bs) (s.parentOf u) = (.waits, w) → ∃ t, exec (.admission part) s = .next t
        ∧ t = { w with parts := t.parts } ∧ ∀ e, w.part? part = some e → t.part? part = some { e with subs := u :: rest })
      ∧ ∀ kd karg w e, taken.checkBlock part (parseBlock bs) (s.parentOf u) = (.passed kd karg, w) → w.part? part = some e →
        ∃ t l q', exec (.admission part) s = .next t ∧ answered w t 0 e.nextLid.toNat
          ∧ t.launchOf part e.nextLid.toNat = some l ∧ l.blk = parseBlock bs ∧ l.kd = kd ∧ l.karg = karg ∧ l.next = 0 ∧ l.n = 0
          ∧ l.retired = false ∧ l.admitAt = w.time ∧ t.part? part = some q'
          ∧ q'.nextLid = if e.nextLid + 1 = 0 then 1 else e.nextLid + 1)

/-- R324, R339, R340, R342: COMMIT_STEP commits the next rank whose team has done everything: the committed prefix grows, and the
rank's samples are folded, unless what its team contributed has stopped the partition as it merged. STOP_RULE_FIRE stops a cruise by
the first rule that holds of width (the half-width at most the target and the count at least nmin), a nonzero deadline passed, a
nonzero energy exceeded and the prefix complete: the launch and its stop estimator take that reason, the estimator is closed, and the
launch's teams are aborted. Which of its effects come first is log entry 33, the model's inference. Constructors: commitStep,
stopRuleFire. -/
def Claims.CommitAndStopALaunch : Prop :=
  ∀ (r : LaunchRef) s (l : Launch), s.launchOf r.part r.launch = some l → s.live r.part = true →
    (∀ c, s.readyCommit l = some c → (s.mergeRank l).stopping l.part = false → l.commits = [c] → l.blk.cruise = false → (∀ x ∈ c.stage, x.handle < 2 ^ 14) →
      (∀ m ∈ s.launches, m.blk.cruise = true → m.eligible = true ∨ m.retired = true) → ∃ t l', exec (.commitStep r) s = .next t
      ∧ t.launchOf r.part r.launch = some l' ∧ l'.n = l.n + 1 ∧ l'.commits = [] ∧ l'.blk = l.blk
      ∧ ∀ h, h < 2 ^ 14 → (t.est h).n = ((s.est h).foldRank (c.stage.filter fun x => x.handle == h)).n
        ∧ (t.est h).mean = ((s.est h).foldRank (c.stage.filter fun x => x.handle == h)).mean)
    ∧ (s.readyCommit l = none → Idle (.commitStep r) s)
    ∧ (l.blk.cruise = true → l.eligible = true → l.stopped = false → l.retired = false →
      let e := s.est l.blk.est
      let rule := fun (k : Nat) => (k = 1 ∧ leF64 e.width e.target = true ∧ l.blk.nmin ≤ e.n.toNat)
        ∨ (k = 2 ∧ l.blk.deadline ≠ 0 ∧ l.blk.deadline.toNat < s.time.toNat)
        ∨ (k = 3 ∧ l.blk.energy ≠ 0 ∧ l.blk.energy < s.launchEnergy l / 1000) ∨ (k = 4 ∧ l.n = l.blk.teams)
      (∀ k, rule k → (∀ j, j < k → ¬ rule j) → (s.teams.map (·.id)).Nodup → ∃ t l', exec (.stopRuleFire r) s = .next t
        ∧ t.launchOf r.part r.launch = some l' ∧ l'.stopped = true ∧ l'.reason = k ∧ l'.commits = [] ∧ l'.n = l.n
        ∧ (e.bound ≠ 0 → t.est l.blk.est = { e with reason := k, closed := true })
        ∧ ∀ m ∈ t.teams, m.part = l.part → m.launch = l.lid → m.retired = true)
      ∧ ((∀ k, ¬ rule k) → Idle (.stopRuleFire r) s))
    ∧ (l.blk.cruise = false ∨ l.stopped = true ∨ l.retired = true → Idle (.stopRuleFire r) s)

/-- R340, R341: folding one finite sample updates the count, the running mean and the sum of squares by the recurrence of R340, each
operation rounded to nearest; a NaN or an infinity sets the non-finite bit and nothing else. -/
def Claims.FoldFollowsTheRecurrence : Prop :=
  ∀ (e : Est) (x : W64),
    let f := FFmt.f64
    let fin := x.toNat / 2 ^ 52 % 2 ^ 11 ≠ 2047
    let d := f.subNear x.toNat e.mean.toNat
    let m := f.addNear e.mean.toNat (f.divNear d (f.ofNatNear (e.n + 1).toNat))
    (fin → (e.fold1 x).n = e.n + 1 ∧ (e.fold1 x).mean = BitVec.ofNat 64 m
      ∧ (e.fold1 x).m2 = BitVec.ofNat 64 (f.addNear e.m2.toNat (f.mulNear d (f.subNear x.toNat m)))
      ∧ (e.fold1 x).nonfin = e.nonfin)
    ∧ (¬ fin → e.fold1 x = { e with nonfin := true })

/-- R335, R414: LAUNCH_COMPLETION retires a launch whose teams have retired and whose ranks have committed: its estimators are unbound
and closed, and its record is written where the ring has room. Constructors: launchCompletion. -/
def Claims.CompletionRetiresTheLaunch : Prop :=
  ∀ (r : LaunchRef) s (l : Launch) (q : Part), s.launchOf r.part r.launch = some l → s.live r.part = true → s.part? r.part = some q →
    (s.finished l = true → ∃ t l', exec (.launchCompletion r) s = .next t ∧ t.launchOf r.part r.launch = some l' ∧ l'.retired = true
      ∧ l'.retireAt = s.time ∧ l'.snaps = [] ∧ l'.n = l.n ∧ l'.nRetired = l.nRetired
      ∧ ((∀ m ∈ s.launches, m.blk.cruise = true → m.eligible = true ∨ m.retired = true) →
        l.lid ≠ 0 → ∀ h, h < 2 ^ 14 → t.est h = if (s.est h).bound = l.lid ∧ partOfDie s.svc.split (h / 4096) = l.part then
            { s.est h with bound := 0, closed := true } else s.est h)
      ∧ (q.cring.reg.toNat % 4096 = 0 → l'.recOwed = true)
      ∧ ∀ a n, q.cring.slot 1 = some (a, n) → (∀ m ∈ s.launches, m.part = r.part → m.recOwed = false) →
        (s.launches.filter fun m => m.part == r.part && m.lid == r.launch) = [l] → l'.recOwed = false
        ∧ (∃ q', t.part? r.part = some q' ∧ q'.cring.tail = BitVec.ofNat 32 n)
        ∧ ∀ k, k < 64 → t.rdByte (q.cring.base + 64 * a + k) = l'.record.getD k 0)
    ∧ (s.finished l = false → Idle (.launchCompletion r) s)

/-! ### Buffers, logs and tickets (R246, R260, R261) -/

/-- R246, R260: an entry that leaves the store buffer joins, with its clock, its team's staging log in deterministic mode without the
ticket, and else the entry of its granule and operation in its stand's commutative buffer, or a new one; no byte of memory changes.
Constructors: storeBufferLeave. -/
def Claims.StoreBufferEntriesLeave : Prop :=
  ∀ (r : PathRef) (id : Nat) s c p x (tm : Team) (d : Stand), Named s r c p → p.st ≠ .free → accOf p.sbuf id = some x →
    s.leaveReady c r.path x = true → s.teamOf c.team = some tm → s.stands[(s.locus c).stand]? = some d →
    let gone := fun (t : State) => SameMemory s t ∧ ∃ c', t.crewOf c.id = some c' ∧ accOf (c'.path r.path).sbuf id = none
    (s.detMode c = true → s.ticket c = false → s.stageRace c r.path x = none → ∃ t m y, exec (.storeBufferLeave r id) s = .next t ∧ gone t ∧ t.teamOf c.team = some m
      ∧ m.log = tm.log ++ [(y, s.locus c)] ∧ y = { x with clk := y.clk })
    ∧ ((s.detMode c = false ∨ s.ticket c = true) → x.rel = false → x.fences = [] → s.stopping (s.partOf c) = false →
      (∀ e, d.cbuf.find? (fun e => e.gran == x.addr / 32) = some e → e.op = x.op → e.ty = x.ty →
        ∃ t d' e' y, exec (.storeBufferLeave r id) s = .next t ∧ gone t ∧ t.stands[(s.locus c).stand]? = some d'
          ∧ d'.cbuf.map (·.gran) = d.cbuf.map (·.gran) ∧ d'.cbuf.find? (fun e => e.gran == x.addr / 32) = some e'
          ∧ e'.items = e.items ++ [(y, s.locus c)] ∧ y = { x with clk := y.clk })
      ∧ ((∀ e ∈ d.cbuf, e.gran ≠ x.addr / 32) → d.cbuf.length < 512 →
        ∃ t d' y, exec (.storeBufferLeave r id) s = .next t ∧ gone t ∧ t.stands[(s.locus c).stand]? = some d'
          ∧ d'.cbuf = d.cbuf ++ [⟨x.addr / 32, x.op, x.ty, [(y, s.locus c)]⟩] ∧ y = { x with clk := y.clk }))

/-- R246, R250, R259 to R261: an entry of a commutative buffer that is due merges and frees its place, its one contribution by its
operation; the holder of the ticket writes its log to the homes; and the ticket passes once its holder has retired and is quiet. Each
stops where a conflicting pair stops the partition, and a write that releases at `.sys` scope then moves out the host bytes of its
path. Constructors: commutativeMerge, stagingLogRelease, ticketPass. -/
def Claims.MergesLogsAndTickets : Prop :=
  (∀ (stand k : Nat) s (d : Stand) e, s.stands[stand]? = some d → d.cbuf[k]? = some e →
    (s.mergeDue e = false → Idle (.commutativeMerge stand k) s)
    ∧ (s.mergeDue e = true → (∃ t, exec (.commutativeMerge stand k) s = .next t
        ∧ ((∃ it ∈ e.items, t.stopped? it.2 = true)
          ∨ ∃ d', t.stands[stand]? = some d' ∧ d'.cbuf = d.cbuf.filter fun f => f.gran != e.gran))
      ∧ ∀ x loc c, e.items = [(x, loc)] → s.crewOf loc.crew = some c → s.stopping (s.partOf c) = false → x.addr.testBit 51 = false →
          (∀ n, n < x.width → (x.addr + n).testBit 51 = false) →
          (s.detOf (.mem (x.addr / 32))).race (s.dacc c x) true (x.clk.getD []) = none →
          let old := s.readSpace c.team .mem x.addr x.width
          ∃ t d', exec (.commutativeMerge stand k) s = .next t ∧ t.stands[stand]? = some d'
            ∧ (d'.cbuf = d.cbuf.filter fun f => f.gran != e.gran)
            ∧ SameMemoryBut (s.releasedSys c (c.entryOf x.thr) x) t x.addr x.width
            ∧ ∀ n, n < x.width → t.rdByte (x.addr + n) = BitVec.ofNat 8 (atomicNew x.op x.ty x.width old x.data x.expect / 2 ^ (8 * n))))
  ∧ ∀ (r : LaunchRef) s (l : Launch) (tm : Team), s.launchOf r.part r.launch = some l → s.holder l = some tm →
      s.teamOf tm.id = some tm → l.blk.det = true →
      (tm.log = [] ∨ s.live r.part = false → Idle (.stagingLogRelease r) s)
      ∧ (tm.log ≠ [] → s.live r.part = true → ∃ t m, exec (.stagingLogRelease r) s = .next t ∧ t.teamOf tm.id = some m
        ∧ (m.log = [] ∨ ∃ it ∈ tm.log, t.stopped? it.2 = true))
      ∧ (∀ x loc c u, tm.log = [(x, loc)] → x.kind = .store → x.space = .mem → x.addr.testBit 51 = false →
          (∀ n, n < x.width → (x.addr + n).testBit 51 = false) → s.live r.part = true → s.crewOf loc.crew = some c →
          s.stopping (s.partOf c) = false →
          let b := (s.modTeam tm.id fun t => { t with log := [] }).beforeEffect c (c.entryOf x.thr) x
          b.stopping (s.partOf c) = false → ((b.noteBytes c.team x.width .mem).countFar c x).observeStaged c x = .ok u →
          ∃ t, exec (.stagingLogRelease r) s = .next t ∧ SameMemoryBut (u.releasedSys c (c.entryOf x.thr) x) t x.addr x.width
            ∧ ∀ n, n < x.width → t.rdByte (x.addr + n) = BitVec.ofNat 8 (x.data / 2 ^ (8 * n)))
      ∧ (tm.retired = true → s.quietTeam tm = true → s.live r.part = true →
          ∃ t, exec (.ticketPass r) s = .next t ∧ (t.stopping r.part = true ∨ ∃ l', t.launchOf r.part r.launch = some l'
            ∧ l' = { l with ticket := l.ticket + 1 }))
      ∧ (tm.retired = true → s.quietTeam tm = true → s.live r.part = true →
          (∀ d ∈ s.stands, ∀ e ∈ d.cbuf, ∀ it ∈ e.items, it.2.team ≠ tm.id) → exec (.ticketPass r) s = .next
            (s.modLaunch r.part r.launch fun l => { l with ticket := l.ticket + 1 }))
      ∧ ((tm.retired = false ∨ s.quietTeam tm = false ∨ s.live r.part = false) → Idle (.ticketPass r) s)

/-! ### Translation, fault service, frames and migration (R189 to R216) -/

/-- R193, R206, R213: TRANSLATION_WALK_DONE puts the translation in the core's TLB, keeps a cause for its path, and for a walk that
meets a pending frame parks the path, which walks again (without a record: log entry 21, the model's inference; a scalar word that has
read its sources is tried again instead, and parks itself); WORD_REPLAY lets a path go on once every record is answered with resume.
Constructors: translationWalkDone, wordReplay. -/
def Claims.WalksEndAndWordsReplay : Prop :=
  ∀ (r : PathRef) s c p, Named s r c p → s.coreOf c.team = some r.core →
    (∀ v w, p.walks = [(v, w)] →
      let walked := s.walk (s.partOf c) (s.space c).1 (s.space c).2 v w
      (∀ tr u k, walked = (.ok tr, u) → s.cores[r.core]? = some k → ∃ t k', exec (.translationWalkDone r) s = .next t
        ∧ t.crewOf c.id = some (c.withPath r.path { p with walks := [], wait := none }) ∧ SameMemory u t
        ∧ t.cores[r.core]? = some k' ∧ tr ∈ k'.tlb)
      ∧ (∀ cause u, walked = (.bad cause, u) → ∃ t c', exec (.translationWalkDone r) s = .next t ∧ t.crewOf c.id = some c'
        ∧ c'.path r.path = { p with walks := [], walked := p.walked ++ [(v, cause)], wait := none } ∧ SameMemory u t)
      ∧ (∀ fs u, walked = (.pending fs, u) → ∃ t c', exec (.translationWalkDone r) s = .next t ∧ t.crewOf c.id = some c' ∧ SameMemory u t
        ∧ (c'.path r.path).spc = p.spc ∧ c'.s = c.s
        ∧ ((p.st = .fault ∨ p.park ≠ none ∨ ∀ a b, p.want ≠ some (.held a b)) →
          (c'.path r.path).st = .fault ∧ (c'.path r.path).walks = p.walks
          ∧ (p.st ≠ .fault → p.park = none → ∃ k, (c'.path r.path).park = some k ∧ k.tags = [] ∧ k.word = none))
        ∧ (∀ a b, p.st ≠ .fault → p.park = none → p.want = some (.held a b) → c'.path r.path = { p with walks := [], wait := none })))
    ∧ (∀ k, p.park = some k → (k.tags ≠ [] ∨ k.far ≠ [] ∨ p.walks ≠ [] ∨ p.refill ≠ []) → Idle (.wordReplay r) s)
    ∧ ∀ k, p.park = some k → k.tags = [] → k.far = [] → p.walks = [] → p.refill = [] → k.reject = [] → p.goOn = none → k.word = none →
        Completes (.wordReplay r) s c (c.withPath r.path { p with park := none, st := if p.held then .held else .ready, wait := some stNext })

/-- R194, R195, R215: INVALIDATION_GO queues the range, or sets full where 16 wait; INVALIDATION_COMPLETE, once no access translated
before it is in flight or has its value still to return (log entry 32, the model's inference, says which those are), sweeps the range
from every TLB and counts it done. Constructors: invalidationGo, invalidationComplete, cwait. -/
def Claims.InvalidationsSweepTranslations : Prop :=
  ∀ (part : Nat) (v : W64) s (q : Part), s.part? part = some q →
    let asid := v.setWidth 12
    (v.getLsbD 12 = false → SetsPart (.invalidationGo part v) s part { q with invAsid := asid })
    ∧ (v.getLsbD 12 = true → q.invQ.length < 16 → SetsPart (.invalidationGo part v) s part
        { q with invAsid := asid, full := false, issued := q.issued + 1, invQ := q.invQ ++ [(q.invBase, q.invLen, asid.toNat)] })
    ∧ (v.getLsbD 12 = true → 16 ≤ q.invQ.length → SetsPart (.invalidationGo part v) s part { q with invAsid := asid, full := true })
    ∧ (q.invQ = [] → Idle (.invalidationComplete part) s)
    ∧ ∀ r rest, q.invQ = r :: rest →
        let busy := s.flying part r.2.2 r
        (busy = true → Idle (.invalidationComplete part) s)
        ∧ (busy = false → ∃ t q', exec (.invalidationComplete part) s = .next t ∧ t.part? part = some q' ∧ q'.invQ = rest
          ∧ q'.done = q.done + 1
          ∧ (∀ c i pa a b g, s.crewOf c.id = some c → (c.path i).want = some (.cwait pa a b g) →
              ∃ c', t.crewOf c.id = some c' ∧ (c'.path i).want = some (.cwait pa a b g))
          ∧ ∀ k ∈ t.cores, ∀ e ∈ k.tlb, ¬ (e.part = part ∧ e.asid = r.2.2 ∧ inRange r (e.vpn * 2 ^ 16) (pagesOf e.level * 2 ^ 16) = true))

/-- R212, R213: FRAME_FREE makes a frame of the package pending with its generation counted, sweeps its translations and queues its
scrub (that a number beyond the package's frames does nothing, and that a frame already pending keeps its one scrub job, are log entry
31, the model's inference); SCRUB_COMPLETE makes it clean and every byte of it zero. Constructors: frameFree, scrubComplete. -/
def Claims.FramesAreFreedAndScrubbed : Prop :=
  (∀ (part : Nat) (v : W64) s,
    let f := v.toNat % 2 ^ 36
    (4 * 3145728 ≤ f → Idle (.frameFree part v) s)
    ∧ (f < 4 * 3145728 → ∃ t, exec (.frameFree part v) s = .next t ∧ SameMemory s t
      ∧ t.frame f = { s.frame f with state := 3, gen := (s.frame f).gen + 1 } ∧ (∀ g, g ≠ f → t.frame g = s.frame g)
      ∧ (∀ k ∈ t.cores, ∀ e ∈ k.tlb, ¬ (e.pa.testBit 51 = false ∧ e.pa / 2 ^ 16 ≤ f ∧ f < e.pa / 2 ^ 16 + pagesOf e.level))
      ∧ ((s.frame f).state ≠ 3 → ∃ j : Job, t.jobs = s.jobs ++ [j] ∧ j.kind = .scrub f ∧ j.level = 7 ∧ j.at_ = none)
      ∧ ((s.frame f).state = 3 → t.jobs = s.jobs)))
  ∧ ∀ (frame : Nat) s,
      let runs := s.jobs.any fun j => j.kind == .scrub frame && j.at_.isSome
      (runs = false ∨ s.frameFlying frame = true → Idle (.scrubComplete frame) s)
      ∧ (runs = true → s.frameFlying frame = false → ∃ t, exec (.scrubComplete frame) s = .next t ∧ (t.frame frame).state = 0
        ∧ (t.frame frame).gen = (s.frame frame).gen ∧ (∀ k, k < 2 ^ 16 → t.rdByte (frame * 2 ^ 16 + k) = 0)
        ∧ (∀ j ∈ t.jobs, j.kind ≠ .scrub frame)
        ∧ ((∀ k ∈ s.stands, ∀ e ∈ k.cbuf, e.gran / 2 ^ 11 ≠ frame) → SameMemoryBut s t (frame * 2 ^ 16) (2 ^ 16)))

/-- R211, R216: a migration copies the page as the device sees it; once its job runs, no access to the old frame is in flight and the
released-frame ring has room, MIGRATION gives the leaf the new frame and clears its far bit, sweeps the translations of every page
that shares the leaf and posts the old frame, and MIGRATION_COMPLETE ends it. What else follows the page is log entry 31, the model's
inference. Constructors: migration, migrationComplete. -/
def Claims.MigrationMovesAPage : Prop :=
  (∀ (s : State) (m : Mig), s.Canonical → m.new_ + 2 ^ 16 ≤ m.old % 2 ^ 52 ∨ m.old % 2 ^ 52 + 2 ^ 16 ≤ m.new_ → m.old % 2 ^ 16 = 0 → ∀ a,
    (a < 2 ^ 16 → (s.copyPage m).rdByte (m.new_ + a) = match SMap.get none s.host (m.old + a), SMap.get none s.unseen (m.old + a) with
      | some h, _ => h.val
      | none, some b => b
      | none, none => s.rdByte (m.old % 2 ^ 52 + a))
    ∧ (a < m.new_ ∨ m.new_ + 2 ^ 16 ≤ a → (s.copyPage m).rdByte a = s.rdByte a))
  ∧ ∀ (part leaf : Nat) s (q : Part) (m : Mig), s.part? part = some q → q.migs.find? (fun m => m.leaf == leaf) = some m →
      let job := fun (j : Job) => j.part == part && j.kind == .migrate leaf
      let flies := s.inQueues (fun _ => true) fun x => x.addr / 2 ^ 16 == m.old / 2 ^ 16
      let ring := q.relReg.toNat % 2 ^ 52 / 4096 * 4096 + 8 * q.relTail.toNat
      ((s.jobs.any (fun j => job j && j.at_.isSome) = false ∨ flies = true ∨ q.relFree = 0) → Idle (.migration part leaf) s)
      ∧ (s.jobs.any (fun j => job j && j.at_.isSome) = true → flies = false → 0 < q.relFree →
        ∃ t q', exec (.migration part leaf) s = .next t ∧ t.part? part = some q' ∧ q'.migs = q.migs
          ∧ SMap.get 0 t.farCnt leaf = 0 ∧ (∀ j ∈ t.jobs, job j = false)
          ∧ q'.relTail = BitVec.ofNat 32 ((q.relTail.toNat + 1) % q.relSize)
          ∧ t.rdPA ring 8 = m.old % 2 ^ 51
          ∧ ((∀ k ∈ s.stands, ∀ e ∈ k.cbuf, e.gran / 2 ^ 11 ≠ m.old / 2 ^ 16) → leaf % 8 = 0 → m.new_ % 2 ^ 16 = 0 → m.new_ + 2 ^ 16 ≤ 2 ^ 51 →
            (∀ x ∈ [m.old, m.new_], x + 2 ^ 16 ≤ leaf ∨ leaf + 8 ≤ x) → ring + 8 ≤ leaf ∨ leaf + 8 ≤ ring →
            t.homePA leaf 8 / 2 ^ 12 % 2 ^ 40 = m.new_ / 2 ^ 12 ∧ (t.homePA leaf 8).testBit 5 = false
            ∧ ∀ b, b < 64 → b ≠ 5 → (b < 12 ∨ 51 < b) → (t.homePA leaf 8).testBit b = (s.homePA leaf 8).testBit b)
          ∧ ∀ k ∈ t.cores, ∀ e ∈ k.tlb, ∀ v ∈ m.pages, e.covers v.1 part v.2 = false)
      ∧ (s.jobs.any job = true → Idle (.migrationComplete part leaf) s)
      ∧ (s.jobs.any job = false → ∃ t q', exec (.migrationComplete part leaf) s = .next t ∧ SameMemory s t ∧ t.part? part = some q'
          ∧ q' = { q with migs := q.migs.filter fun n => n.leaf != leaf }
          ∧ ∀ c, s.crewOf c.id = some c → s.partOf c = part → ∃ c', t.crewOf c.id = some c'
            ∧ ∀ i k, (c.path i).park = some k → ∃ k', (c'.path i).park = some k'
              ∧ k'.far = k.far.filter fun v => !m.pages.contains ((s.space c).1, v))

/-- R207, R208: FAULT_ANSWER takes its tag from the parked path that holds it, and on reject gives its lanes the cause; writes of the
ring registers set its base, size and head, and a held record goes to the ring where it has room. Constructors: faultAnswer,
faultQueueBase, faultQueueHead. -/
def Obligations.FaultServiceAnswersRecords : Prop :=
  ∀ (part : Nat) (v : W64) s (q : Part), s.part? part = some q →
    (let tag := v.toNat % 2 ^ 32
     (∀ j ∈ s.jobs, j.part = part → j.fault ≠ some (tag + 1)) → ∃ t, exec (.faultAnswer part v) s = .next t
      ∧ t = { s with crews := t.crews }
      ∧ ∀ c i k, s.crewOf c.id = some c → s.partOf c = part → (c.path i).park = some k → ∃ c' k', t.crewOf c.id = some c'
        ∧ c' = { c with paths := c'.paths } ∧ (c'.path i).park = some k' ∧ k'.tags = k.tags.filter (fun x => x.1 != tag)
        ∧ (v.getLsbD 32 = false → k'.reject = k.reject)
        ∧ ∀ ls cause vpn, v.getLsbD 32 = true → k.tags.filter (fun x => x.1 == tag) = [(tag, ls, cause, vpn)] →
            ∀ l, l < 1024 → SMap.get 0 k'.reject l = if ls.getLsbD l then cause else SMap.get 0 k.reject l)
    ∧ (q.fqHeld = [] →
      SetsPart (.faultQueueBase part v) s part { q with fqBase := v &&& 0x000FFFFFFFFFF000, fqHead := 0, fqTail := 0 }
      ∧ SetsPart (.faultQueueHead part v) s part { q with fqSize := v.extractLsb' 32 16, fqHead := v.extractLsb' 16 16 })
    ∧ ∀ rec_, q.fqHeld = [rec_] → 2 ≤ q.fqSize.toNat → rec_.length = 32 → ∃ t q', exec (.faultQueueBase part v) s = .next t
      ∧ t.part? part = some q' ∧ q'.fqHeld = [] ∧ q'.fqTail = 1 ∧ t.msix = s.msix ++ [4 * part + 1]
      ∧ SameMemoryBut s t (v &&& 0x000FFFFFFFFFF000).toNat 32
      ∧ ∀ k, k < 32 → t.rdByte ((v &&& 0x000FFFFFFFFFF000).toNat + k) = rec_.getD k 0

/-! ### Jobs and joints (R265 to R276, R300 to R303) -/

/-- R265, R276: of the ready jobs that some yarder may take, the one of the smallest level goes first: JOB_DISPATCH gives it to a
yarder of its die, and, where it has waited 64 clocks while its die's 32 yarders were busy, JOB_REMOTE_DISPATCH to another die of its
partition. Constructors: jobDispatch, jobRemoteDispatch. -/
def Claims.YardersTakeReadyJobs : Prop :=
  ∀ (part : Nat) s,
    let moved := fun (j : Job) (d : Nat) => { s with jobs := s.jobs.map fun (x : Job) =>
      if x.id = j.id then { x with at_ := some d, age := 0, began := s.time, yarder := s.freeYarder d } else x }
    (∀ j d, s.nextJob part = some (j, d) → j ∈ s.jobs ∧ s.jobReady j = true ∧ s.mayTake j d = true ∧ s.busyYarders d < 32
      ∧ (∀ k ∈ s.jobs, k.part = part → s.jobReady k = true → (s.mayTake k k.die = true ∨ (s.remoteDie part k).isSome = true) → j.level ≤ k.level)
      ∧ (d = j.die → exec (.jobDispatch part) s = .next (moved j d) ∧ Idle (.jobRemoteDispatch part) s)
      ∧ (d ≠ j.die → exec (.jobRemoteDispatch part) s = .next (moved j d) ∧ Idle (.jobDispatch part) s
          ∧ 64 ≤ j.age ∧ 32 ≤ s.busyYarders j.die ∧ d ∈ partDies s.svc.split part))
    ∧ (s.nextJob part = none → Idle (.jobDispatch part) s ∧ Idle (.jobRemoteDispatch part) s)

/-- R272, R274, R275, R280, R282: JOB_COMPLETE does the rest of a running job; the job leaves the deck, jobs behind it lose their
edge, and its slot holds its final status; GATHER_QUEUE_ENTRY pops an index entry; COLLECTIVE_TIMEOUT stops a collective with result 5
once its group's time limit has passed since its yarder took it. Constructors: jobComplete, gatherQueueEntry, collectiveTimeout. -/
def Claims.JobsEndWithTheirStatus : Prop :=
  ∀ (part job : Nat) s (j : Job), s.running part job = some j →
    let ends := fun (u t : State) (result prog : Nat) =>
      (∀ x ∈ t.jobs, x.id ≠ j.id ∧ j.id ∉ x.edges)
      ∧ ∀ c, u.crewOf j.crew = some c → ∃ c', t.crewOf j.crew = some c'
        ∧ SMap.get 0 c'.slots (j.token.toNat % 32) = BitVec.ofNat 64 (3 + result * 2 ^ 4 + cardKind j.card * 2 ^ 12 + prog % 2 ^ 32 * 2 ^ 32)
    let n := cardUnits j.card
    (∀ k u, queued j = false → State.runUnits (fun s k => s.jobUnit j k) (n - j.prog) j.prog s = (k, none, u) →
      ∃ t, exec (.jobComplete part job) s = .next t ∧ ends u t 0 k)
    ∧ (queued j = true → j.prog = n → j.input = [] → ∃ t, exec (.jobComplete part job) s = .next t ∧ ends s t 0 n)
    ∧ (∀ c e es, queued j = true → j.prog ≠ n → cardQie j.card = true → j.input = [] → s.outFull j = false → s.crewOf j.crew = some c →
        (c.q (cardQin j.card)).entries = e :: es → (c.q (cardQin j.card)).pops = [] → (c.q (cardQin j.card)).pushes = [] →
        ∃ t c' j', exec (.gatherQueueEntry part job) s = .next t ∧ t.crewOf j.crew = some c' ∧ (c'.q (cardQin j.card)).entries = es
          ∧ j' ∈ t.jobs ∧ j' = { j with input := [e], popped := j.popped + 1 })
    ∧ (∀ m rank us, cardKind j.card = 5 → s.group j.part (cardParam j.card 2 % 2 ^ 32) = some (m, rank, us) →
        (j.began.toNat + 1000 * us ≤ s.time.toNat → ∃ t, exec (.collectiveTimeout part job) s = .next t
          ∧ ends (State.runUnits (fun s k => s.collLost j k) n 0 s).2.2 t 5 0)
        ∧ (s.time.toNat < j.began.toNat + 1000 * us → Idle (.collectiveTimeout part job) s))
    ∧ (cardKind j.card ≠ 5 → Idle (.collectiveTimeout part job) s)

/-- R300 to R303, R310 (which joint the array performs, and that JOINT_COMPLETE makes all its remaining bands in one step, are log
entry 45, the model's inference): JOINT_FORM makes a joint of the oldest arrival of every member of the first latch that has them all,
with B as it stands, also while earlier joints of its team have not ended; JOINT_COMPLETE gives every element of the bands that remain
of the joint that the array performs its step, with the flags that those set, and the joint ends. Constructors: jointForm,
jointComplete. -/
def Obligations.JointsFormAndComplete : Prop :=
  (∀ (r : TeamRef) s (t : Team) g a as v, s.teamRef r = some t → s.teamOf t.id = some t →
    (t.latches.take 4).findSome? (fun l => l.ready.map fun arrs => (l.gang, arrs)) = some (g, a :: as) →
    s.jointCheck t g (a :: as) = none → s.jointResv a = some v → (t.tile a.tile).allot = true →
    ((t.tile a.tile).bound = true → (t.tile a.tile).anchor = recAnchor v.rec_) →
    ∃ u m j, exec (.jointForm r) s = .next u ∧ SameMemory s u ∧ u.teamOf t.id = some m ∧ m.joints.getLast? = some j
      ∧ m.joints.length = t.joints.length + 1 ∧ j.no = s.nextId ∧ j.gang = g ∧ j.arrs = a :: as ∧ j.bands = 0 ∧ j.held = false
      ∧ j.b = s.quarters g (a :: as)
      ∧ ∀ l ∈ m.latches, l.gang = g → ∀ b ∈ l.arrs, b ∉ a :: as)
  ∧ ∀ (core : Nat) s (t : Team) j a as v u, s.arrayJoint core = some (t, j) → s.teamOf t.id = some t → t.leaving = false →
      j.arrs = a :: as → s.jointResv a = some v → a.tile < t.tiles.length → j.bands ≤ 8 →
      (∀ b ∈ j.arrs, ∀ c, s.crewOf b.crew = some c → ∃ p ∈ c.paths, p.st ≠ .free) →
      (if j.bands = 0 then s.jointAccesses t.id a.tile j.arrs else .ok s) = .ok u →
      ∃ w m, exec (.jointComplete core) s = .next w ∧ SameMemory s w ∧ w.teamOf t.id = some m
        ∧ m.joints = t.joints.filter (fun k => k.no != j.no)
        ∧ (∀ e, e < 16384 → (m.tile a.tile).elem e =
            if 2048 * j.bands ≤ e then
              (jointElem v a.slab a.fmt j.b (t.tile a.tile).anchorVal ((t.tile a.tile).elem e) (e / 128) (e % 128)).1
            else (t.tile a.tile).elem e)
        ∧ (∀ k, k < 3 → ((m.tile a.tile).flags.getLsbD k = true ↔ (t.tile a.tile).flags.getLsbD k = true
            ∨ ∃ e, 2048 * j.bands ≤ e ∧ e < 16384 ∧
              (jointElem v a.slab a.fmt j.b (t.tile a.tile).anchorVal ((t.tile a.tile).elem e) (e / 128) (e % 128)).2.code.testBit k = true))
        ∧ ∀ n, n ≠ a.tile → m.tile n = t.tile n

/-! ### The host's registers (R3, R215, R356, R371, R408, R411, R412, R422) -/

/-- R3, R215, R356, R371, R408, R412: the read-write registers of a partition read as the fields that the last write gave them, their
reserved bits zero; and the two of the service window. Constructors: registerWrite. -/
def Claims.RegisterWritesReadBack : Prop :=
  (∀ (part : Nat) (v : W64) s (q : Part), part < 4 → s.part? part = some q → q.bps.length = 4 →
    ∀ e ∈ ([(0, 0x010, 0x000FFFFFFFFFFFFF), (0, 0x020, 0xFFFFFFFFFFFFFFFF), (0, 0x028, 0xFFFFFFFFFFFFFFFF),
        (0, 0x040, 0xFFFFFFFFFFFFFFFF), (0, 0x080, 0x000FFFFFFFFFFFFF), (1, 0x000, 0xFFFFFFFFFFFFFFFF),
        (1, 0x008, 0xFFFFFFFFFFFFFFFF), (1, 0x040, 0x000000000001FF1F), (1, 0x048, 0x00000000FFFFFFFF),
        (2, 0x040, 0x000000000000FFFF), (3, 0x028, 0x0000000000001FFF), (4, 0x000, 0xFFFFFFFF0000000F),
        (4, 0x028, 0x0000000000FFFFFF), (4, 0x040, 0x000FFFFFFFFFFFFD), (4, 0x048, 0x000FFFFFFFFFFFFD),
        (4, 0x050, 0x000FFFFFFFFFFFFD), (4, 0x058, 0x000FFFFFFFFFFFFD), (4, 0x068, 0x000000000003FFFF),
        (4, 0x070, 0xFFFFFFFFFFFFFFFF)] : List (Nat × Nat × W64)),
      ∃ t, exec (.registerWrite (part * 0x1000000 + e.1 * 0x10000 + e.2.1) v) s = .next t ∧ OnlyPart part s t
        ∧ Reads t part e.1 e.2.1 (v &&& e.2.2))
  ∧ ∀ (off : Nat) (v : W64) s, off = 0x010 ∨ off = 0x018 → ∃ t, exec (.registerWrite (0x4000000 + off) v) s = .next t
      ∧ t = { s with svc := t.svc } ∧ Reads t 4 0 off v

/-- R411: a write to a register whose write is a step of its own is that step, and a window of a partition that does not exist ignores
writes and reads zero. Constructors: registerWrite, partitionReset, stopAreaSet, launchSubmit, completionRingSet, completionRingHead,
invalidationGo, faultQueueBase, faultQueueHead, faultAnswer, nearRingSet, frameFree, releasedRingSet, estimatorFree, snapshotPoolSet,
powerCapSet, powerShareSet, vaultFloorSet, classChange, eventRingSet, dropCountClear, partitionSplit, microcodeUpdate, spareSwap,
vaultRecal, attestation, startCold, startWarm. -/
def Claims.RegisterWritesAreSteps : Prop :=
  ∀ (part : Nat) (v : W64) s, part < 4 →
    (s.part? part = none → ∀ off, off < 0x1000000 → Idle (.registerWrite (part * 0x1000000 + off) v) s
      ∧ s.readReg (part * 0x1000000 + off) = (0, s))
    ∧ (s.part? part ≠ none → ∀ e ∈ ([(0x00008, .partitionReset part v), (0x00010, .stopAreaSet part v), (0x00048, .launchSubmit part v),
        (0x00058, .completionRingSet part v), (0x00060, .completionRingHead part v), (0x10010, .invalidationGo part v),
        (0x10020, .faultQueueBase part v), (0x10028, .faultQueueHead part v), (0x10030, .faultAnswer part v),
        (0x10050, .nearRingSet part v), (0x10058, .frameFree part v), (0x10068, .releasedRingSet part v),
        (0x20020, .estimatorFree part v), (0x20030, .snapshotPoolSet part false v), (0x20038, .snapshotPoolSet part true v),
        (0x30000, .powerCapSet part v), (0x30008, .powerShareSet part v), (0x30010, .vaultFloorSet part v),
        (0x30018, .classChange part v), (0x40008, .eventRingSet part false v), (0x40018, .eventRingSet part true v),
        (0x40030, .dropCountClear part)] : List (Nat × Instr)),
      exec (.registerWrite (part * 0x1000000 + e.1) v) s = exec e.2 s)
    ∧ (∀ e ∈ ([(0x020, .partitionSplit v), (0x028, .microcodeUpdate v), (0x038, .spareSwap v), (0x040, .vaultRecal v),
        (0x130, .attestation v)] : List (Nat × Instr)), exec (.registerWrite (0x4000000 + e.1) v) s = exec e.2 s)
    ∧ exec (.registerWrite 0x4000008 1) s = exec .startCold s ∧ exec (.registerWrite 0x4000008 2) s = exec .startWarm s

/-- R216, R408, R412, R414: a write of a ring register sets its base and size, and both pointers to 0; DBG_DROP clears both counts;
PC_STOPA and the heads take their bits; LN_GO submits the block at LN_BLOCK unless the partition is busy. Constructors: nearRingSet,
releasedRingSet, eventRingSet, dropCountClear, stopAreaSet, completionRingSet, completionRingHead, launchSubmit. -/
def Claims.RingRegistersAndSubmissions : Prop :=
  ∀ (part : Nat) (v : W64) s (q : Part), s.part? part = some q →
    let base := v &&& 0x000FFFFFFFFFFFFF
    SetsPart (.nearRingSet part v) s part { q with nearReg := base, nearHead := 0, nearTail := 0 }
    ∧ SetsPart (.releasedRingSet part v) s part { q with relReg := base, relHead := 0, relTail := 0 }
    ∧ SetsPart (.eventRingSet part false v) s part { q with ering := ⟨base, 0, 0⟩ }
    ∧ SetsPart (.eventRingSet part true v) s part { q with tring := ⟨base, 0, 0⟩ }
    ∧ SetsPart (.dropCountClear part) s part { q with dropE := 0, dropT := 0 }
    ∧ SetsPart (.stopAreaSet part v) s part { q with stopA := base }
    ∧ (let owed := s.launches.any fun l => l.part == part && l.recOwed
       (owed = false → SetsPart (.completionRingSet part v) s part { q with cring := ⟨base, 0, 0⟩ }
         ∧ SetsPart (.completionRingHead part v) s part { q with cring := ⟨q.cring.reg, v.extractLsb' 32 32, q.cring.tail⟩ })
       ∧ (owed = true → (∃ t q', exec (.completionRingSet part v) s = .next t ∧ t.part? part = some q' ∧ q'.cring.reg = base
           ∧ q'.cring.head = 0)
         ∧ ∃ t q', exec (.completionRingHead part v) s = .next t ∧ t.part? part = some q' ∧ q'.cring.reg = q.cring.reg
           ∧ q'.cring.head = v.extractLsb' 32 32))
    ∧ (q.lnBusy = false → v.getLsbD 0 = true →
        SetsPart (.launchSubmit part v) s part { q with lnBusy := true, subs := q.subs ++ [⟨q.lnBlock, [], none, 0⟩] })
    ∧ (q.lnBusy = true ∨ v.getLsbD 0 = false → SetsPart (.launchSubmit part v) s part q)

/-- R333, R356: a read of LD_ALLOC allots the lowest free slot of the die's landing, its image that of a new estimator; LD_FREE gives
a slot back, unless a launch has bound it or stops by it; the snapshot pool changes only while no COUPLED launch runs. What LD_FREE of
a handle that is not allotted does is log entry 38, the model's inference. Constructors: estimatorAlloc, estimatorFree,
snapshotPoolSet. -/
def Claims.EstimatorsAreAllottedAndFreed : Prop :=
  (∀ (part die : Nat) s,
    (die < 4 → partOfDie s.svc.split die = part → ∀ k, s.freeEst die = some k → ∃ t, exec (.estimatorAlloc part die) s = .next t
        ∧ t = { s with ests := t.ests } ∧ k < 4096 ∧ (s.est (4096 * die + k)).allot = false ∧ (∀ j < k, (s.est (4096 * die + j)).allot = true)
        ∧ (t.est (4096 * die + k)).allot = true ∧ (t.est (4096 * die + k)).n = 0
        ∧ (s.allotEst part die).1 = BitVec.ofNat 64 (4096 * die + k)
        ∧ ∀ h, h < 2 ^ 14 → h ≠ 4096 * die + k → t.est h = s.est h)
    ∧ (4 ≤ die ∨ partOfDie s.svc.split die ≠ part ∨ s.freeEst die = none → Idle (.estimatorAlloc part die) s
        ∧ (s.allotEst part die).1 = 0xFFFF))
  ∧ ∀ (part : Nat) (v : W64) s (q : Part), s.part? part = some q →
      let h := v.toNat % 2 ^ 16
      let held := (s.est h).bound ≠ 0 ∨ s.estStop part h = true
      (s.estValid part h = true → held → SetsPart (.estimatorFree part v) s part { q with ldRefused := true })
      ∧ (s.estValid part h = true → ¬ held → ∃ t, exec (.estimatorFree part v) s = .next t ∧ (t.est h).allot = false
          ∧ t.part? part = some { q with ldRefused := false } ∧ t = { s with ests := t.ests, parts := t.parts }
          ∧ ∀ k, k < 2 ^ 14 → k ≠ h → t.est k = s.est k)
      ∧ (s.estValid part h = false → SetsPart (.estimatorFree part v) s part { q with ldRefused := false })
      ∧ (s.coupled part = false →
          SetsPart (.snapshotPoolSet part false v) s part { q with snapBase := v &&& 0x000FFFFFFFFFFFC0 }
          ∧ SetsPart (.snapshotPoolSet part true v) s part { q with snapLen := v.setWidth 32 })
      ∧ (s.coupled part = true → Idle (.snapshotPoolSet part false v) s ∧ Idle (.snapshotPoolSet part true v) s)

/-! ### Power (R357 to R371) -/

/-- R366, R367, R371: PW_CAP takes 600 to 2,600 W and cuts the shares to fit it; PW_SHARE never makes their sum exceed the cap; the
vault floor is at most 512; the class changes only while the partition holds no launch; a write out of range sets the refused bit.
Constructors: powerCapSet, powerShareSet, vaultFloorSet, classChange, classChangeDone, powerStatusRead. -/
def Obligations.PowerSharesFitTheCap : Prop :=
  (∀ (v : W64) s, s.part? 0 = none → Idle (.powerCapSet 0 v) s) ∧ (∀ (v : W64) s (q : Part), s.part? 0 = some q →
    let cap := v.toNat % 2 ^ 12
    (cap < 600 ∨ 2600 < cap → SetsPart (.powerCapSet 0 v) s 0 { q with refused := true })
    ∧ (600 ≤ cap → cap ≤ 2600 → ∃ t, exec (.powerCapSet 0 v) s = .next t ∧ t = { s with svc := t.svc, parts := t.parts }
        ∧ t.svc = { s.svc with cap := BitVec.ofNat 12 cap } ∧ t.shareSum ≤ cap ∧ (s.shareSum ≤ cap → t.parts = s.parts)
        ∧ (cap < s.shareSum → ∀ (k : Nat) (p : Part), s.parts[k]? = some p → ∃ p' : Part, t.parts[k]? = some p'
            ∧ p' = { p with share := p'.share } ∧ p'.share.toNat = p.share.toNat * cap / s.shareSum))
    ∧ ∀ part, part ≠ 0 → Idle (.powerCapSet part v) s)
  ∧ ∀ (part : Nat) (v : W64) s (q : Part), s.part? part = some q →
      let sum := s.shareSum - q.share.toNat + v.toNat % 2 ^ 12
      let refused := { q with refused := true }
      (s.svc.cap.toNat < sum → SetsPart (.powerShareSet part v) s part refused)
      ∧ (sum ≤ s.svc.cap.toNat → ∃ t q', exec (.powerShareSet part v) s = .next t ∧ OnlyPart part s t ∧ t.part? part = some q'
          ∧ q' = { q with share := v.setWidth 12, allotTop := q'.allotTop } ∧ q'.allotTop = max q.allotTop q'.allotment ∧ t.shareSum = sum)
      ∧ (v.toNat % 2 ^ 10 ≤ 512 → SetsPart (.vaultFloorSet part v) s part { q with floor := v.setWidth 10 })
      ∧ (512 < v.toNat % 2 ^ 10 → SetsPart (.vaultFloorSet part v) s part refused)
      ∧ (v.toNat % 4 = 3 ∨ s.anyLaunch part = true → SetsPart (.classChange part v) s part refused)
      ∧ (v.toNat % 4 ≠ 3 → s.anyLaunch part = false →
          SetsPart (.classChange part v) s part { q with newCls := some (v.toNat % 4) })
      ∧ (∀ k, q.newCls = some k → SetsPart (.classChangeDone part) s part { q with cls := k, newCls := none })
      ∧ (q.newCls = none → SetsPart (.classChangeDone part) s part q)
      ∧ SetsPart (.powerStatusRead part) s part { q with refused := false }
      ∧ (part < 4 → (s.readReg (part * 0x1000000 + 0x30020)).1.getLsbD 50 = q.refused)

/-- R357, R358, R361, R365, R367: SENSOR_SAMPLE, at a multiple of 1,000 ticks, sets the pairs' temperatures, raises their classes,
recomputes the thermal allowance, and charges kerf at the class before; each partition lends what it does not need. Before that time
it does nothing. REFRESH_CLASS_FALL lowers a class after 1,000 cool samples in a row. When a team that has left is charged, and what a
partition lends, are log entries 34 and 37, the model's inferences. Constructors: sensorSample, refreshClassFall. -/
def Claims.SamplesMoveClassesAndCharge : Prop :=
  (∀ (s : State), (s.teams.map (·.id)).Nodup →
    (s.time.toNat < 1000 * s.sampled → Idle .sensorSample s)
    ∧ (1000 * s.sampled ≤ s.time.toNat → ∃ t, exec .sensorSample s = .next t ∧ SameMemory s t ∧ t.sampled = s.sampled + 1
      ∧ t.crews = s.crews ∧ t.time = s.time
      ∧ (∀ (n : Nat) (p : Pair), s.pairs[n]? = some p → ∃ p' : Pair, t.pairs[n]? = some p'
          ∧ (let T := maxOf 421 (readings (1000 * s.sampled) (pairSensors n))
             p'.temp = BitVec.ofInt 12 T ∧ p'.cls = max p.cls (bandOf T)
             ∧ (p'.cls ≠ p.cls ∨ p'.cls = 0 ∨ coolBound p'.cls < T → p'.cool = 0)
             ∧ (p'.cls = p.cls → 0 < p.cls → T ≤ coolBound p.cls → p'.cool = p.cool + 1)
             ∧ p'.tar = some (if p'.cls = 3 then 0
                 else BitVec.ofInt 32 (((Config.heatCap n).toNat : Int) * (classLimit p'.cls - T) / 4))))
      ∧ (∀ m ∈ s.teams, ∃ m' ∈ t.teams, m'.id = m.id ∧ m'.bytes = 0 ∧ m'.kerf = if m.present then
          satAdd64 m.kerf (kerfCharge (refreshPct (match s.pairs[pairOfCore m.lastCore]? with | some p => p.cls | none => 0))
            (match s.teamBlk m with | some b => b.vdem | none => 0) m.bytes)
          else m.kerf)
      ∧ ∀ (k : Nat) (q : Part), s.parts[k]? = some q → ∃ q' : Part, t.parts[k]? = some q'
          ∧ q'.lent.toNat = (q.share.toNat - Config.powerDemand k (1000 * s.sampled)) % 4096))
  ∧ ∀ (n : Nat) s (p : Pair), s.pairs[n]? = some p →
      (1000 ≤ p.cool → 0 < p.cls → ∃ t, exec (.refreshClassFall n) s = .next t ∧ t = { s with pairs := t.pairs }
        ∧ t.pairs[n]? = some { p with
            cls := p.cls - 1, cool := 0, tar := some (allowance (Config.heatCap n).toNat (p.cls - 1) p.temp.toInt) })
      ∧ (p.cool < 1000 ∨ p.cls = 0 → Idle (.refreshClassFall n) s)

/-- R358, R369, R370, R421: refresh, slope fillers and voltage droops touch no register and no byte of memory; recalibration marks its
vault refresh-bound until it is done. Constructors: dramRefresh, slopeEpisode, voltageDroop, vaultRecal, vaultRecalDone. -/
def Claims.TimingOnlySteps : Prop :=
  (∀ vault bank s, Idle (.dramRefresh vault bank) s)
  ∧ (∀ (part : Nat) on s (q : Part), s.part? part = some q → SetsPart (.slopeEpisode part on) s part { q with
      slope := on, slopeLids := if on then (if q.slope then q.slopeLids else q.departed) else []
      slopeOwed := if q.slope = true ∧ on = false then q.slopeOwed ++ [q.slopeLids] else q.slopeOwed
      calm := if on then 0 else q.calm })
  ∧ (∀ (stand : Nat) on s (k : Stand), s.stands[stand]? = some k → ∃ t, exec (.voltageDroop stand on) s = .next t
      ∧ t = { s with stands := t.stands } ∧ t.stands[stand]? = some { k with droop := on } ∧ ∀ j, j ≠ stand → t.stands[j]? = s.stands[j]?)
  ∧ (∀ (v : W64) s (p : Pair), s.pairs[v.toNat % 512 / 4]? = some p → ∃ t p', exec (.vaultRecal v) s = .next t
      ∧ t = { s with pairs := t.pairs } ∧ t.pairs[v.toNat % 512 / 4]? = some p' ∧ v.toNat % 512 ∈ p'.recal
      ∧ (∀ k ∈ p.recal, k ∈ p'.recal) ∧ ∀ k ∈ p'.recal, k ∈ p.recal ∨ k = v.toNat % 512)
  ∧ ∀ (vault : Nat) s (p : Pair), s.pairs[vault / 4]? = some p → ∃ t p', exec (.vaultRecalDone vault) s = .next t
      ∧ t = { s with pairs := t.pairs } ∧ t.pairs[vault / 4]? = some p' ∧ vault ∉ p'.recal
      ∧ ∀ k, k ≠ vault → (k ∈ p'.recal ↔ k ∈ p.recal)

/-! ### Clocks, samples and the halt line (R88, R343, R383, R392, R402, R407) -/

/-- R392, R402: a clock of a core that is not gated counts in sr.cyc; a crew that issued nothing counts it in the counter of one
reason, which saturates, and every path may try its word again; the records of the clock have gone to their rings; a gated core stands
still, and only a core without crews is gated. That a clock takes effect core by core is the model's order (log entry 1, DESIGN
CHOICE). Constructors: coreClock, coreClockGating. -/
def Claims.ClocksCountAndPathsRetry : Prop :=
  ∀ (core : Nat) s (k : Core), s.cores[core]? = some k →
    (k.gated = true → Idle (.coreClock core) s)
    ∧ (k.gated = false → ∃ t k', exec (.coreClock core) s = .next t ∧ t.cores[core]? = some k' ∧ k'.cyc = k.cyc + 1
        ∧ t.time = s.time + BitVec.ofNat 64 (Config.ticks core k.cyc.toNat)
        ∧ (∀ j, j ≠ core → t.cores[j]? = s.cores[j]?) ∧ (∀ x ∈ t.recs, core < x.key / 128)
        ∧ ∀ c ∈ s.coreCrews core, s.crewOf c.id = some c → ∃ c', t.crewOf c.id = some c' ∧ (k.laneUsed ≤ 4 → c'.issued = false)
          ∧ c'.s = c.s ∧ c'.v = c.v ∧ (∀ i, (c'.path i).wait = none)
          ∧ (c.issued = true → c'.stalls = c.stalls)
          ∧ (c.issued = false → ∀ r, SMap.get 0 c'.stalls r =
              if r = (s.stepArray core).reason core c ∧ SMap.get 0 c.stalls r ≠ BitVec.allOnes 32 then SMap.get 0 c.stalls r + 1
              else SMap.get 0 c.stalls r))
    ∧ (∀ gate, gate = false ∨ s.coreCrews core = [] → ∃ t k', exec (.coreClockGating core gate) s = .next t
        ∧ t.crews = s.crews ∧ t.teams = s.teams ∧ (s.recs = [] → k.swap = false → t = { s with cores := t.cores })
        ∧ t.cores[core]? = some k' ∧ k'.gated = gate ∧ k'.cyc = k.cyc ∧ ∀ j, j ≠ core → t.cores[j]? = s.cores[j]?)
    ∧ (s.coreCrews core ≠ [] → Idle (.coreClockGating core true) s)

/-- R397, R407, R408: a record goes to the event ring at its tail, which moves past it, and raises the ring's vector; a record for
which the ring is full counts as dropped; records of one clock go in ascending core, crew slot and path. A sample is due when the
clocks counted reach the period, and then counting starts again. Constructors: profileSample. -/
def Claims.RecordsGoToTheEventRing : Prop :=
  (∀ (x : Rec) (s : State) (q : Part), x.ty ≠ 21 → s.part? x.part = some q →
    let r := record x.ty x.die q.seqE.toNat x.time x.body
    let t := s.putRec x
    (∀ at_ tail, q.ering.slot (r.length / 64) = some (at_, tail) → ∃ q', t.part? x.part = some q'
      ∧ q' = { q with ering := { q.ering with tail := BitVec.ofNat 32 tail }, seqE := q.seqE + 1 }
      ∧ t.msix = s.msix ++ [4 * x.part + 3] ∧ SameMemoryBut s t (q.ering.base + 64 * at_) r.length
      ∧ (∀ k, k < r.length → t.rdByte (q.ering.base + 64 * at_ + k) = r.getD k 0)
      ∧ tail < q.ering.size)
    ∧ (q.ering.slot (r.length / 64) = none → ∃ q', OnlyPart x.part s t ∧ t.part? x.part = some q' ∧ q' = { q with dropE := q'.dropE }
      ∧ q'.dropE.toNat = min (q.dropE.toNat + 1) (2 ^ 32 - 1)))
  ∧ (∀ (s : State) (a b : Rec) (core : Nat), s.recs = [a, b] ∨ s.recs = [b, a] → a.key < b.key → b.key / 128 ≤ core →
      s.flushRecs core = (({ s with recs := [] } : State).putRec a).putRec b)
  ∧ ∀ (core : Nat) s (k : Core), s.cores[core]? = some k →
      (s.sampleDue core = false → Idle (.profileSample core) s)
      ∧ (s.sampleDue core = true → ∀ c, s.sampled? core k.lastS = some c → ∃ t, exec (.profileSample core) s = .next t
          ∧ t.cores[core]? = some { k with count := 0, lastS := c.slot } ∧ t.crews = s.crews ∧ t.teams = s.teams
          ∧ ∀ j, j ≠ core → t.cores[j]? = s.cores[j]?)
      ∧ (s.sampleDue core = true → s.sampled? core k.lastS = none → ∃ t, exec (.profileSample core) s = .next t
          ∧ t = { s with cores := t.cores } ∧ t.cores[core]? = some { k with count := 0 })

/-- R263, R343, R383, R384: UNCORRECTABLE raises the halt line of its partition. HALT_LINE stops a partition whose line is raised: its
records of the clock go to their rings first (R104, R407); its buffers and queues are discarded, its registers stay, its launches are
halted, its estimators close, its stop records go to the stop area and nowhere else, and its vector is raised. That it halts with a
skid of no clocks is log entry 10, the model's choice. Constructors: uncorrectable, haltLine. -/
def Obligations.HaltsStopThePartition : Prop :=
  (∀ (part kind pa : Nat) s, (s.live part = true → kind ≤ 4 → ∃ z : Cause, z.code = 35 ∧ z.detail = kind ∧ z.addr = pa
      ∧ exec (.uncorrectable part kind pa) s = .next { s with
          raised := SMap.set [] s.raised part (SMap.get [] s.raised part ++ [(z, none)]) })
    ∧ (s.live part = false → Idle (.uncorrectable part kind pa) s))
  ∧ ∀ (part : Nat) s (q : Part), s.part? part = some q →
      (SMap.get [] s.raised part = [] ∨ q.halted = true → Idle (.haltLine part) s)
      ∧ (SMap.get [] s.raised part ≠ [] → q.halted = false → let u := s.flushPart part
          ∃ t, exec (.haltLine part) s = .next t
          ∧ (∀ q', u.part? part = some q' → t.part? part = some { q' with halted := true }) ∧ (∀ x ∈ t.recs, x.part ≠ part) ∧ SMap.get [] t.raised part = [] ∧ t.live part = false
          ∧ t.msix = u.msix ++ [4 * part + 2]
          ∧ SameMemoryBut u t (q.stopA.toNat % 2 ^ 52 / 4096 * 4096) (q.stopA.toNat % 4096 * 4096)
          ∧ (∀ c, s.crewOf c.id = some c → ∃ c', t.crewOf c.id = some c' ∧ c'.s = c.s ∧ c'.v = c.v ∧ c'.m = c.m ∧ c'.c = c.c
              ∧ (s.partOf c ≠ part → c' = c)
              ∧ (s.partOf c = part → c'.words = [] ∧ ∀ i, (c'.path i).queue = [] ∧ (c'.path i).sbuf = []
                  ∧ (c'.path i).st = (c.path i).st ∧ (c'.path i).spc = (c.path i).spc ∧ (c'.path i).lpc = (c.path i).lpc))
          ∧ (∀ j ∈ t.jobs, j.part = part → j.isCard = false)
          ∧ (∀ l ∈ t.launches, l.part = part → l.retired = true ∨ l.halted = true)
          ∧ ∀ e ∈ t.ests, e.2.bound ≠ 0 → partOfDie s.svc.split (e.1 / 4096) = part → e.2.closed = true)

/-! ### The debug agent (R398 to R401, R405, R406) -/

/-- R398, R399, R405: a breakpoint at the scalar address of the next word holds the path, which one in the middle of a word is only
marked to be, in all-stop mode every path of its launch; a step ends at the next word boundary, where the path is held again and the
step's command is done. Constructors: breakpointHit, stepComplete. -/
def Claims.BreakpointsHoldAndStepsEnd : Prop :=
  (∀ (r : PathRef) s c p, Named s r c p →
    (p.runs = true → p.iss = none → p.skip = none → (∀ k, s.bpHit c p = some k → ∃ t c', exec (.breakpointHit r) s = .next t
        ∧ t.crewOf c.id = some c' ∧ c' = { c with paths := c'.paths } ∧ c'.path r.path =
          if p.begun then { p with bpSkip := true, held := true }
          else { p with bpSkip := true, held := true, st := .held, want := p.keptWant })
      ∧ (s.bpHit c p = none → Idle (.breakpointHit r) s))
    ∧ (p.runs = false → Idle (.breakpointHit r) s))
  ∧ (∀ (s : State) (c : Crew) (p : Path) (q : Part) k, s.part? (s.partOf c) = some q → s.bpHit c p = some k →
      q.mode ≠ 0 ∧ q.passesFilter (s.lidOf c) = true ∧ p.stepping = none ∧ q.bps.getD k 0 &&& 1 = 1
        ∧ (q.bps.getD k 0).extractLsb' 2 50 = p.spc.extractLsb' 2 50)
  ∧ ∀ (r : PathRef) s c p (q : Part), s.at? r = some (c, p) → s.crewOf c.id = some c → c.paths[r.path]? = some p →
      s.part? (s.partOf c) = some q →
      (p.stepOver = true → ∃ t c' q', exec (.stepComplete r) s = .next t ∧ t.crewOf c.id = some c' ∧ t.part? (s.partOf c) = some q'
        ∧ c' = c.withPath r.path { p with
            stepping := none, st := (if p.st = .ready then .held else p.st), wait := if p.st = .ready then none else p.wait }
        ∧ ((∃ b, q.dbgBusy = some b ∧ b.toNat % 16 = 3 ∧ cmdPath b = r) → q'.dbgBusy = none ∧ q'.dbgRes = 0)
        ∧ (q.dbgBusy = none → q'.dbgBusy = none ∧ q'.dbgRes = q.dbgRes))
      ∧ (p.stepOver = false → Idle (.stepComplete r) s)

/-- R401: a command (the order of its checks is log entry 26, the model's inference) to a core outside the partition ends with result
3, one to no path with result 1, and one that needs a held path and finds another with result 2; none of them does anything else, and
a command written while another is busy is ignored. Constructors: debugStep, debugDump, debugWriteVreg, debugWriteSreg, debugHold,
debugRelease. -/
def Claims.CommandsThatCannotRun : Prop :=
  ∀ (part : Nat) (cmd : W64) s (q : Part), s.part? part = some q →
    let needsHeld : List Instr :=
      [.debugStep part cmd, .debugDump part cmd, .debugWriteVreg part cmd, .debugWriteSreg part cmd]
    ∀ ins ∈ [.debugHold part cmd, .debugRelease part cmd] ++ needsHeld,
      (∀ b, q.dbgBusy = some b → b ≠ cmd → Idle ins s)
      ∧ (q.dbgBusy = none →
        ((partCores s.svc.split part).contains (cmdPath cmd).core = false → SetsPart ins s part { q with dbgRes := 3 })
        ∧ ((partCores s.svc.split part).contains (cmdPath cmd).core = true →
          (s.at? (cmdPath cmd) = none → SetsPart ins s part { q with dbgRes := 1 })
          ∧ ∀ c p, s.at? (cmdPath cmd) = some (c, p) → (p.st = .free → SetsPart ins s part { q with dbgRes := 1 })
            ∧ (p.st ≠ .free → p.held = false → ins ∈ needsHeld → SetsPart ins s part { q with dbgRes := 2 })))

/-- R398, R401, R405, R406: hold sets the path's held bit, and a ready path at a word boundary is then held; release clears it, and a
held path is ready again; step lets a held path run; the writes set one lane of one vector register, and one scalar register; dump
changes neither. Constructors: debugHold, debugRelease, debugStep, debugDump, debugWriteVreg, debugWriteSreg. -/
def Claims.CommandsReachTheirPath : Prop :=
  ∀ (part : Nat) (cmd : W64) s (q : Part) c p, s.part? part = some q → q.dbgBusy = none →
    (partCores s.svc.split part).contains (cmdPath cmd).core = true → s.at? (cmdPath cmd) = some (c, p) → s.crewOf c.id = some c →
    s.partOf c = part → (cmdPath cmd).path < c.paths.length → p.st ≠ .free →
    let n := (cmdPath cmd).path
    let does := fun (ins : Instr) (r : Nat) (c' : Crew → Prop) =>
      ∃ t d q', exec ins s = .next t ∧ t.crewOf c.id = some d ∧ c' d ∧ t.part? part = some q' ∧ q'.dbgRes = r ∧ q'.dbgBusy = none
    (q.mode = 0 → SetsPart (.debugHold part cmd) s part { q with dbgRes := 4 })
    ∧ (q.mode ≠ 0 → does (.debugHold part cmd) 0 fun d =>
        d = { c with paths := d.paths } ∧ d.path n =
          if p.st = .ready ∧ p.begun = false then { p with held := true, st := .held, want := p.keptWant } else { p with held := true })
    ∧ (does (.debugRelease part cmd) 0 fun d => d = { c with paths := d.paths } ∧ d.path n = { p with
        held := false, stepping := none, st := if p.st = .held then .ready else p.st
        wait := if p.st = .held then some stNext else p.wait })
    ∧ (p.held = true →
      (p.st = .held → ∃ t, exec (.debugStep part cmd) s = .next t
          ∧ t.crewOf c.id = some (c.withPath n { p with st := .ready, wait := some stNext, stepping := some false })
          ∧ t.part? part = some { q with dbgBusy := some cmd })
      ∧ (p.st ≠ .held → SetsPart (.debugStep part cmd) s part { q with dbgRes := 2 })
      ∧ (does (.debugDump part cmd) 0 fun d => d = c)
      ∧ (let lane := q.dbgArg.toNat / 2 ^ 8 % 2 ^ 10
         let v := q.dbgArg.toNat % 2 ^ 8
         let r := c.physical v
         let later := c.words.any fun w => w.slot && w.dests.contains r
         let d := c.poke r lane (q.dbgData.setWidth 32)
         (p.mask.getLsbD lane = false ∨ c.present r = false → SetsPart (.debugWriteVreg part cmd) s part { q with dbgRes := 3 })
         ∧ (p.mask.getLsbD lane = true → c.present r = true → later = false →
           (s.crewFree c + c.held < d.held → SetsPart (.debugWriteVreg part cmd) s part { q with dbgRes := 3 })
           ∧ (d.held ≤ s.crewFree c + c.held → c.first ≤ lane / 32 → lane / 32 - c.first < c.groups → c.groups ≤ 32 →
             does (.debugWriteVreg part cmd) 0 fun e => e = { c with v := e.v, prop := e.prop }
               ∧ e.readLane r (lane / 32 - c.first) (lane % 32) = q.dbgData.setWidth 32
               ∧ ∀ x g j, g < c.groups → j < 32 → (x, g, j) ≠ (r, lane / 32 - c.first, lane % 32) → e.readLane x g j = c.readLane x g j))
         ∧ (p.mask.getLsbD lane = true → c.present r = true → later = true →
           SetsPart (.debugWriteVreg part cmd) s part { q with dbgBusy := some cmd })
         ∧ (v = 0 ∨ 63 < v → SetsPart (.debugWriteSreg part cmd) s part { q with dbgRes := 3 })
         ∧ (0 < v → v < 64 → c.pending [BitVec.ofNat 6 v] = false → does (.debugWriteSreg part cmd) 0 fun e =>
             e = c.sset (BitVec.ofNat 6 v) q.dbgData ∧ e.sget (BitVec.ofNat 6 v) = q.dbgData)
         ∧ (0 < v → v < 64 → c.pending [BitVec.ofNat 6 v] = true →
           SetsPart (.debugWriteSreg part cmd) s part { q with dbgBusy := some cmd })))

/-! ### Starts, service and the host's memory (R410 to R422) -/

/-- R418, R419: a start begins at step 1, with device memory zero (which step 6 of R418 makes it; that it is so from the start's
beginning is log entry 14, the model's inference) and no team resident; the image registers stay until step 5 has read them; a warm
start keeps reference time, the split, the banks' modes and the debug modes (R218, R395, R409, R422), and skips steps 2 and 3 where
every ring oscillator is within 2% of its calibrated value and every core sensor within 5 °C of its recorded one. Each step ends in
the next, or with its error; FIRMWARE_VERIFY measures the image, or stops the start with error 5; after step 6 the device runs. That
each step takes one step of the machine is log entry 14, the model's inference. Constructors: startCold, startWarm, firmwareVerify. -/
def Claims.StartsRunTheirSteps : Prop :=
  (∀ (s : State) (ins : Instr), ins = .startCold ∨ ins = .startWarm →
    let now := s.time.toNat
    let cal := s.svc.calAt.toNat
    let monitor := (∀ k, k < Config.oscCount → 100 * |(Config.oscillator k now : Int) - Config.oscillator k cal| ≤ 2 * Config.oscillator k cal)
      ∧ ∀ k, k < 576 → Config.sensorValid k now = true → |(Config.sensor k now).toInt - (Config.sensor k cal).toInt| ≤ 20
    ∃ t, exec ins s = .next t ∧ t.teams = [] ∧ t.crews = [] ∧ t.launches = [] ∧ t.jobs = [] ∧ t.parts = []
      ∧ t.svc.boot = 1 ∧ t.svc.bootErr = 0 ∧ (t.svc.skipped = true ↔ ins = .startWarm ∧ monitor) ∧ t.svc.fwAddr = s.svc.fwAddr ∧ t.svc.fwLen = s.svc.fwLen
      ∧ t.time = (if ins = .startWarm then s.time else 0) ∧ t.svc.split = (if ins = .startWarm then s.svc.split else 0)
      ∧ t.stands.map (·.modes) = (if ins = .startWarm then s.stands.map (·.modes) else List.replicate 36 Stand.resetModes)
      ∧ (ins = .startWarm → s.parts ≠ [] → t.svc.kept = s.parts.map fun q => q.dbgCtl.toNat % 4)
      ∧ (∀ a, a < 2 ^ 51 → t.rdByte a = 0) ∧ (∀ a, 2 ^ 51 ≤ a → t.rdByte a = s.rdByte a))
  ∧ (∀ s : State, s.svc.bootErr = 0 →
      (∀ k, 1 ≤ k → k ≤ 4 → s.svc.boot = k → ∃ t, s.bootStep = t ∧ t = { s with svc := t.svc, msix := t.msix }
        ∧ t.svc.boot = (if Config.startStep k s.time.toNat ≠ 0 then k else if k = 1 ∧ s.svc.skipped = true then 4 else k + 1)
        ∧ t.svc.bootErr = (Config.startStep k s.time.toNat).toNat
        ∧ (k = 3 → Config.startStep k s.time.toNat = 0 → t.svc.calAt = s.time))
      ∧ (s.svc.boot = 6 → ∃ t, s.bootStep = t ∧ t = { s with svc := t.svc, parts := t.parts, msix := t.msix } ∧ t.svc.boot = 7
        ∧ (∀ (k : Nat) q, t.parts[k]? = some q → q.dbgCtl = w64 (s.svc.kept.getD k 0))
        ∧ ∀ k : Nat, t.parts[k]? ≠ none ↔ k < 2 ^ min 2 s.svc.split))
  ∧ ∀ s, (s.svc.boot = 5 → s.svc.bootErr = 0 →
        (∀ d, s.verifyImage = some d → exec .firmwareVerify s = .next
            { s with svc := { s.svc with boot := 6, measure := d, fwAddr := 0, fwLen := 0 } }
          ∧ 96 ≤ s.svc.fwLen.toNat ∧ d = sha384 (s.imageBytes s.svc.fwAddr.toNat (s.svc.fwLen.toNat - 96)))
        ∧ (s.verifyImage = none → exec .firmwareVerify s
          = .next { s with svc := { s.svc with bootErr := 5, fwAddr := 0, fwLen := 0 }, msix := s.msix ++ [16] }))
      ∧ (s.svc.boot ≠ 5 ∨ s.svc.bootErr ≠ 0 → Idle .firmwareVerify s)

/-- R17, R420 to R422: the split changes only while no launch runs; a unit image that verifies has its units switch one by one, each
where it is at an operation boundary, and another image leaves the old copy with error 5; a swap takes a position's teams off it, and
fences it where the spare is in use; an attestation writes the report of R422: the version, the serial number, the split and the
fenced positions, the nonce, the firmware measurement, the digest of the unit images, zeros, and the device's signature of their
digest. That these events raise vector 16 is the model's choice (log entry 36); what a split does beside is log entry 14, the model's
inference; that a split to 3 or to the one in force, an update while one is busy and a swap of a position above 35 change nothing is
log entry 42, the model's inference. Constructors: partitionSplit, microcodeUpdate, microcodeSwitch, spareSwap, attestation. -/
def Claims.ServiceRequests : Prop :=
  ∀ (v : W64) s,
    (let k := v.toNat % 4
     (k = 3 ∨ k = s.svc.split ∨ (∃ l ∈ s.launches, l.retired = false) → Idle (.partitionSplit v) s)
     ∧ (k ≠ 3 → k ≠ s.svc.split → (∀ l ∈ s.launches, l.retired = true) → ∃ t, exec (.partitionSplit v) s = .next t ∧ SameMemory s t
         ∧ t.svc = { s.svc with split := k } ∧ t.launches = [] ∧ (s.svc.boot = 7 → t.parts.length = 2 ^ k)))
    ∧ (s.svc.uBusy = true → Idle (.microcodeUpdate v) s)
    ∧ (s.svc.uBusy = false →
      (∀ d, s.verifyImage = some d → ∃ t, exec (.microcodeUpdate v) s = .next t ∧ t = { s with svc := t.svc } ∧ t.svc.uErr = 0
        ∧ SMap.get [] t.svc.uDig (v.toNat % 256) = d ∧ t.svc.uPend.length = Config.unitCount (v.toNat % 256))
      ∧ (s.verifyImage = none → ∃ t, exec (.microcodeUpdate v) s = .next t ∧ t = { s with svc := t.svc, msix := t.msix } ∧ t.svc.uErr = 5
        ∧ t.svc.uDig = s.svc.uDig ∧ t.svc.uBusy = false))
    ∧ (∀ unit die k, Config.unitYarder s.svc.uClass unit = some (die, k) → (∃ j ∈ s.jobs, j.at_ = some die ∧ j.yarder = k) →
        Idle (.microcodeSwitch unit) s)
    ∧ (∀ unit, (∀ die k, Config.unitYarder s.svc.uClass unit = some (die, k) → ∀ j ∈ s.jobs, j.at_ = some die → j.yarder ≠ k) →
        ∃ t, exec (.microcodeSwitch unit) s = .next t ∧ t = { s with svc := t.svc, msix := t.msix } ∧ unit ∉ t.svc.uPend
        ∧ (∀ u, u ≠ unit → (u ∈ t.svc.uPend ↔ u ∈ s.svc.uPend)) ∧ (t.svc.uPend = [] → t.svc.uBusy = false))
    ∧ (let die := v.toNat / 2 ^ 8 % 4
       let core := 36 * die + v.toNat % 64
       (36 ≤ v.toNat % 64 → Idle (.spareSwap v) s)
       ∧ ∀ k, v.toNat % 64 < 36 → s.cores[core]? = some k → ∃ t, exec (.spareSwap v) s = .next t
          ∧ t.cores[core]? = some (if s.spareUsed die then { k with fenced := true } else { k with spare := true, swap := true })
          ∧ (∀ j, j ≠ core → t.cores[j]? = s.cores[j]?)
          ∧ ∀ m ∈ t.teams, m.core = some core → m.leaving = true)
    ∧ (v.getLsbD 0 = false → Idle (.attestation v) s)
    ∧ (v.getLsbD 0 = true → ∃ t, exec (.attestation v) s = .next t ∧ t = { s with svc := t.svc, msix := t.msix } ∧ t.svc.attDone = true
        ∧ (s.svc.nonce.length = 48 → s.svc.measure.length = 48 →
          let at_ := fun (off n : Nat) => (t.svc.report.drop off).take n
          let fenced := fun (die : Nat) => (List.range 36).countP fun k => match s.cores[36 * die + k]? with | some c => c.fenced | none => false
          at_ 0 8 = [1, 0, 0, 0, 0, 0, 0, 0] ∧ at_ 0x08 16 = (List.range 16).map Config.serial ∧ at_ 0x18 1 = [BitVec.ofNat 8 s.svc.split]
          ∧ at_ 0x19 4 = (List.range 4).map (fun d => BitVec.ofNat 8 (fenced d)) ∧ at_ 0x1D 3 = [0, 0, 0] ∧ at_ 0x20 48 = s.svc.nonce
          ∧ at_ 0x50 48 = s.svc.measure
          ∧ at_ 0x80 48 = sha384 ((List.range 256).flatMap fun k => match SMap.get [] s.svc.uDig k with | [] => Config.unitDigest k | d => d)
          ∧ at_ 0xB0 80 = List.replicate 80 0 ∧ at_ 0x100 96 = deviceSign (sha384 (at_ 0 256))))

/-- R412, R413, R415: PC_RESET resets a halted partition: its launches and teams end, its frames are pending, and it works again; a
kick in removes the device copies of its region, and a kick out writes them to host memory; a port's state reads in FB_PORTS. What a
go of no bytes or of a busy kick does, and what else of a partition a reset clears, are log entries 41 and 42, the model's inferences.
Constructors: partitionReset, partitionResetDone, kickIn, kickOut, kickComplete, portTrainedAndUp. -/
def Claims.ResetsKicksAndPorts : Prop :=
  (∀ (part : Nat) (v : W64) s (q : Part), s.part? part = some q →
    (q.halted = true → v.getLsbD 0 = true → SetsPart (.partitionReset part v) s part { q with resetting := true })
    ∧ (q.halted = false ∨ v.getLsbD 0 = false → SetsPart (.partitionReset part v) s part q)
    ∧ (q.resetting = false → Idle (.partitionResetDone part) s)
    ∧ (q.resetting = true → (s.teams.map (·.id)).Nodup → ∃ t q', exec (.partitionResetDone part) s = .next t ∧ t.part? part = some q'
        ∧ q'.halted = false ∧ q'.resetting = false ∧ q'.stopA = q.stopA ∧ q'.kbase = q.kbase ∧ q'.klen = q.klen ∧ q'.lnBlock = q.lnBlock
        ∧ q'.gtab = q.gtab ∧ q'.lnBusy = q.lnBusy ∧ q'.kbusy = q.kbusy ∧ q'.fqBase = 0 ∧ q'.dbgCtl = 0 ∧ t.live part = true
        ∧ (∀ l ∈ t.launches, l.part = part → l.retired = true) ∧ (∀ m ∈ t.teams, m.part = part → m.retired = true)
        ∧ ∀ f, (s.frame f).state = 1 ∨ (s.frame f).state = 2 → (s.frame f).owner = part → (t.frame f).state = 3)
    ∧ ((q.kbusy = true ∨ q.klen = 0) → SetsPart (.kickIn part) s part { q with kdir := false }
        ∧ SetsPart (.kickOut part) s part { q with kdir := true })
    ∧ (q.kbusy = false → q.klen ≠ 0 → s.Canonical →
        let first := q.kbase.toNat / 512 * 512
        let last := (q.kbase.toNat + q.klen.toNat + 511) / 512 * 512
        let inside := fun (key : Nat) => homeKey part (2 ^ 51 + first) ≤ key ∧ key < homeKey part (2 ^ 51 + first) + (last - first)
        (∃ t, exec (.kickIn part) s = .next t ∧ SameMemory s t ∧ t.part? part = some { q with kbusy := true, kdir := false }
          ∧ ∀ key, SMap.get none t.host key = (if inside key then none else SMap.get none s.host key)
            ∧ SMap.get none t.unseen key = if inside key then none else SMap.get none s.unseen key)
        ∧ ((∀ k ∈ s.stands, k.cbuf = []) → ∃ t, exec (.kickOut part) s = .next t ∧ t.part? part = some { q with kbusy := true, kdir := true }
          ∧ (∀ key h, inside key → key.testBit 51 = true → SMap.get none s.host key = some h →
                SMap.get none t.host key = some { h with writers := [] }
              ∧ ((∀ k, inside k → k % 2 ^ 52 = key % 2 ^ 52 → k = key) → t.rdByte (key % 2 ^ 52) = h.val))
          ∧ ∀ at_, (∀ key, inside key → SMap.get none s.host key ≠ none → key % 2 ^ 52 ≠ at_) → t.rdByte at_ = s.rdByte at_))
    ∧ SetsPart (.kickComplete part) s part { q with kbusy := false })
  ∧ ∀ (port : Nat) up s, port < 12 → ∃ t, exec (.portTrainedAndUp port up) s = .next t ∧ t = { s with svc := t.svc }
      ∧ ∀ j, j < 12 → t.svc.ports.getLsbD j = if j = port then up else s.svc.ports.getLsbD j

/-- R410: a host write through BAR2 replaces its bytes of device memory and no others, and a read changes nothing; an access beyond
memory, or before the start is complete, has no effect. Constructors: bar2Access. -/
def Claims.HostReachesDeviceMemory : Prop :=
  ∀ (addr len : Nat) (bs : List Byte) s,
    (s.svc.boot = 7 → (∀ k ∈ s.stands, k.cbuf = []) →
      (addr + bs.length ≤ 4 * 0x3000000000 → ∃ t, exec (.bar2Access addr (some bs) len) s = .next t ∧ SameMemoryBut s t addr bs.length
        ∧ (∀ k, k < bs.length → t.rdByte (addr + k) = bs.getD k 0) ∧ t = { s with mem := t.mem, past := t.past, det := t.det })
      ∧ (addr + len ≤ 4 * 0x3000000000 → Idle (.bar2Access addr none len) s))
    ∧ (s.svc.boot ≠ 7 ∨ 4 * 0x3000000000 < addr + bs.length → Idle (.bar2Access addr (some bs) len) s)
    ∧ (s.svc.boot ≠ 7 ∨ 4 * 0x3000000000 < addr + len → Idle (.bar2Access addr none len) s)

/-- R45, R376: SWITCH_MARKER_WAIT_END wakes a path at its marker once its results are written; DEFERRAL_HOLD_EXPIRY makes a record due
once it has been held for 4,096 clocks. Constructors: switchMarkerWaitEnd, deferralHoldExpiry. -/
def Claims.MarkersAndHeldRecordsEnd : Prop :=
  ∀ (r : PathRef) s c p, Named s r c p →
    (p.st = .marker → c.outstanding r.path = false → Completes (.switchMarkerWaitEnd r) s c
      (c.withPath r.path { p with st := if p.held then .held else .ready, wait := some stNext }))
    ∧ (p.st ≠ .marker ∨ c.outstanding r.path = true → Idle (.switchMarkerWaitEnd r) s)
    ∧ (∀ k, p.trap = some k →
      (k.due = false → 4096 ≤ k.age → Completes (.deferralHoldExpiry r) s c (c.withPath r.path { p with trap := some { k with due := true } }))
      ∧ (k.due = true ∨ k.age < 4096 → Idle (.deferralHoldExpiry r) s))
    ∧ (p.trap = none → Idle (.deferralHoldExpiry r) s)

/-! ### What a step does -/

/-- R25 to R27, R32, R42, R52: the word a path fetches is the decoding of the bytes at its program counter, with the literal behind
them where the word takes one. -/
def Claims.FetchDecodesTheBytes : Prop :=
  (∀ (s : State) (c : Crew) (p : Path) bs, s.codeAt c p p.spc 4 = .ok bs →
    (scalarHasLit (ofBytes 32 bs) = false → ∀ i, decodeScalar (ofBytes 32 bs) 0 = .ok i → s.fetchScalar c p = .word i)
    ∧ (scalarHasLit (ofBytes 32 bs) = true → ∀ ls i, s.codeAt c p (p.spc + 4) 4 = .ok ls →
        decodeScalar (ofBytes 32 bs) (ofBytes 32 ls) = .ok i → s.fetchScalar c p = .word i))
  ∧ ∀ (s : State) (c : Crew) (p : Path) bs, s.codeAt c p p.lpc 12 = .ok bs →
    (laneHasLit (ofBytes 96 bs) = false → ∀ i, decodeLane (ofBytes 96 bs) 0 = .ok i → s.fetchLane c p = .word i)
    ∧ (laneHasLit (ofBytes 96 bs) = true → ∀ ls i, s.codeAt c p (p.lpc + 12) 12 = .ok ls →
        decodeLane (ofBytes 96 bs) (ofBytes 96 ls) = .ok i → s.fetchLane c p = .word i)

/-- R26, R87 to R89, R383: a step in which a core's picked word acts runs the instruction decoded from the word of its path, and then
notes the issue on its core; where the word waits, the path waits. A core picks among the words that its ready paths' streams hold,
and they act by their places, resets of estimators on every core first (R351). A step of another agent runs that agent's step, and
every path may try its word again, but one that reaches a home waits for the next clock where its place among those of R242 has
passed; a raised halt line comes before both. The order of these, and the input that names a core or an agent, are the model's (log
entries 1 and 53). -/
def Claims.StepTakesTheNextThing : Prop :=
  (∀ (s : State) core k u c i, s.nextPick = some (core, k, u) → u.crewOf k.crew = some c → u.mayIssue k = true →
    (if k.lane then u.fetchLane c (c.path k.path) else u.fetchScalar c (c.path k.path)) = .word i →
    (k.lane = false → u.bpHit c (c.path k.path) = none) → ∀ t, exec i { u with cur := some ⟨k.crew, k.path⟩ } = .next t →
    let slots := if k.lane then laneSlots c (c.path k.path) i else 0
    (t.waits k.crew k.path = false → k.sure = true → step s = .next ((({ t with cur := none } : State).noteIssue core (u.candOf c k) slots).fetched
        c (if k.lane then (c.path k.path).lpc else (c.path k.path).spc) i.size))
    ∧ (t.waits k.crew k.path = true → k.ahead = false → step s = .next (if t.begins k.crew k.path = true ∧ u.begins k.crew k.path = false then
        ({ t with cur := none } : State).noteSlots core k.crew k.path k.lane (Instr.engine i) slots else { t with cur := none })))
  ∧ (∀ (s : State) core k u, s.nextPick = some (core, k, u) → ∃ d ks, s.cores[core]? = some d ∧ d.plan = some (k :: ks)
      ∧ u = s.modCore core (fun d => { d with plan := some ks }) ∧ ∀ j d', s.cores[j]? = some d' →
        (∀ x xs, d'.plan = some (x :: xs) → 128 ≤ k.place ∨ j < core → 128 ≤ x.place)
        ∧ (128 ≤ k.place → j < core → d'.plan = none ∨ d'.plan = some []))
  ∧ (∀ (s : State) core ahead d ks, (s.planCore exec core ahead).cores[core]? = some d → d.plan = some ks →
      ks.Pairwise (fun a b => a.place ≤ b.place) ∧ ∀ k ∈ ks, ∃ a ∈ s.cands core ahead, a.pick.crew = k.crew ∧ a.pick.path = k.path
        ∧ a.pick.lane = k.lane)
  ∧ (∀ (s : State) core ahead a, a ∈ s.cands core ahead → ∃ c ∈ s.runCrews core, a.pick.crew = c.id ∧ a.pick.path < 8
      ∧ (∃ d, s.crewOf c.id = some d ∧ (d.path a.pick.path).runs = true) ∧ (a.pick.lane = true → (c.path a.pick.path).iss.isSome = true)
      ∧ a.got = if a.pick.lane then s.fetchLane c (c.path a.pick.path) else s.fetchScalar c (c.path a.pick.path))
  ∧ (∀ (s : State), s.nextPick = none →
      (∀ part, s.toHalt = some part → step s = exec (.haltLine part) s)
      ∧ (s.toHalt = none →
        (∀ i rest, s.inputs = .event i :: rest → encode i = none → let u : State := { s with inputs := rest }
          let n := u.homePlace i
          (0 < n → n < s.homeLast → step s = .next u.clearWaits)
          ∧ ∀ t, exec i u = .next t → (n = 0 ∨ t = u → step s = .next t.clearWaits)
            ∧ (0 < n → s.homeLast ≤ n → t ≠ u → step s = .next ({ t with homeLast := n } : State).clearWaits))
        ∧ (∀ core ahead rest, s.inputs = .core core ahead :: rest →
            step s = .next (({ s with inputs := rest } : State).planInput exec core ahead))
        ∧ (∀ pa bs rest, s.inputs = .host pa bs :: rest → step s = .next (({ s with inputs := rest } : State).hostWrite pa bs))
        ∧ (s.inputs = [] → s.svc.booting = true → step s = .next s.bootStep)))
  ∧ ∀ (s : State) core c, c ∈ s.runCrews core → ∃ t, s.teamOf c.team = some t ∧ s.live t.part = true ∧ t.leaving = false

/-- Reset (R3, R15, R215, R356, R371, R408, R412, R413, R418, R422): the registers read as their maps give, no team is resident and
nothing is pending. That the device runs, its cold start done, and that memory lists nothing, are the model's (logs 3, 14). -/
def Claims.ResetRegistersRead : Prop :=
  (∀ e ∈ ([(0, 0x000, 0xF00), (0, 0x010, 0), (0, 0x020, 0), (0, 0x028, 0), (0, 0x030, 0x100000000), (0, 0x040, 0), (0, 0x058, 0),
      (0, 0x080, 0), (1, 0x000, 0), (1, 0x008, 0), (1, 0x010, 0x100000000), (1, 0x018, 0), (1, 0x020, 0), (1, 0x028, 0),
      (1, 0x040, 0x18000), (1, 0x048, 0), (1, 0x050, 0), (1, 0x060, 0), (1, 0x068, 0), (1, 0x070, 0), (2, 0x030, 0), (2, 0x038, 0),
      (2, 0x040, 0), (3, 0x000, 2600), (3, 0x008, 2600), (3, 0x010, 64), (3, 0x018, 0), (3, 0x028, 0), (4, 0x000, 0), (4, 0x008, 0),
      (4, 0x018, 0), (4, 0x028, 0), (4, 0x030, 0), (4, 0x040, 0), (4, 0x068, 0), (4, 0x070, 0)] : List (Nat × Nat × W64)),
    Reads State.reset 0 e.1 e.2.1 e.2.2)
  ∧ Reads State.reset 4 0 0x010 0 ∧ Reads State.reset 4 0 0x018 0 ∧ Reads State.reset 4 0 0x020 0
  ∧ State.reset.teams = [] ∧ State.reset.crews = [] ∧ State.reset.launches = [] ∧ State.reset.cores.length = 144
  ∧ State.reset.stands.length = 36 ∧ State.reset.time = 0

/-- The canonical form of memory, of the device's copies of host bytes and of the host's writes not yet shown holds at reset. -/
def Claims.ResetMemoryIsCanonical : Prop := State.reset.Canonical

/-- Every step keeps the canonical form of memory, of the device's copies of host bytes and of the host's writes not yet shown (log
3). -/
def Obligations.MemoryStaysCanonical : Prop := ∀ s t, s.Canonical → step s = .next t → t.Canonical

/-! ### Encoding (R25 to R52) -/

/-- R28 to R43: a few words written out from their encodings decode to their instructions. -/
def Obligations.WordsDecodeToTheirInstructions : Prop :=
  decodeScalar 0xC8308000 0 = .ok (.launch 6 4)
  ∧ decodeScalar 0xCA390000 0 = .ok (.cidx 7 8)
  ∧ decodeScalar 0xCA390001 0 = .ok (.cidxRank 7 8)
  ∧ decodeScalar 0xC030A002 0 = .ok (.obres 6 5 false 2)
  ∧ decodeScalar 0xC2000002 0 = .ok (.obrel 2)
  ∧ decodeScalar 0xC400A000 0 = .ok (.gang 5)
  ∧ decodeScalar 0xC6000004 0 = .ok (.accz 0 1)
  ∧ decodeScalar 0xC6000021 0 = .ok (.acczFree 1)

/-- R32, R42, R43, R52: for every instruction word whose fields keep their rules, and every value of its operands, decoding its
encoding gives it back; and a word that decodes is the encoding of what it decodes to, which keeps its rules. -/
def Obligations.DecodingAndEncodingAgree : Prop :=
  (∀ (i : Instr) (w : Code), i.wf = true → encode i = some w → w.decode = .ok i)
  ∧ (∀ (w lit : W32) (i : Instr), decodeScalar w lit = .ok i → i.wf = true ∧ ∃ l, encode i = some (.scalar w l)
      ∧ (l = none ∨ l = some lit))
  ∧ ∀ (w lit : Slot) (i : Instr), decodeLane w lit = .ok i → i.wf = true ∧ ∃ l, encode i = some (.lane w l)
      ∧ (l = none ∨ l = some lit)

/-! ### Frames -/

/-- R26, R150 to R157, R161: whatever becomes of a scalar word of registers alone (it completes, waits, or takes a fault), no register
but the one it writes changes, no other crew changes, and no byte of memory; SCMP and the mask words likewise. -/
def Claims.ScalarWordsLeaveTheRest : Prop :=
  ∀ (ins : Instr) s t c i p, Issuing s c i p → exec ins s = .next t →
    (∀ d, scalarDest ins = some d → KeepsTheRest s t c ∧ SameMemory s t ∧ ∃ c', t.crewOf c.id = some c' ∧ c'.c = c.c ∧ c'.m = c.m
      ∧ c'.v = c.v ∧ c'.nRegs = c.nRegs ∧ c'.rotb = c.rotb ∧ c'.stalls = c.stalls ∧ (∀ r, r ≠ d → c'.sget r = c.sget r)
      ∧ (c'.path i).lcnt = p.lcnt ∧ (c'.path i).link = p.link ∧ (c'.path i).lpc = p.lpc)
    ∧ (∀ d, maskDest ins = some d → KeepsTheRest s t c ∧ SameMemory s t ∧ ∃ c', t.crewOf c.id = some c' ∧ c'.c = c.c ∧ c'.s = c.s
      ∧ c'.v = c.v ∧ c'.nRegs = c.nRegs ∧ ((c'.path i).st = p.st → ∀ r, r ≠ d → c'.mget (c'.path i) r = c.mget p r)
      ∧ (c'.path i).lcnt = p.lcnt ∧ (c'.path i).link = p.link ∧ (c'.path i).lpc = p.lpc)
    ∧ ∀ cc d a b, ins = .scmp cc d a b → KeepsTheRest s t c ∧ SameMemory s t ∧ ∃ c', t.crewOf c.id = some c' ∧ c'.s = c.s ∧ c'.m = c.m
      ∧ c'.v = c.v ∧ ∀ k, k ≠ d → c'.cget k = c.cget k

/-- R26, R48, R166 to R179: whatever becomes of a lane word that computes one result lane by lane, it changes no scalar, condition or
mask register, no live vector register but its destinations, no other crew and no byte of memory. -/
def Claims.LaneWordsLeaveTheRest : Prop :=
  ∀ (ins : Instr) (e : Elementwise) s t c i p, elementwise ins = some e → Issuing s c i p → exec ins s = .next t →
    SameMemory s t ∧ t.teams = s.teams ∧ t.launches = s.launches ∧ t.crews.map (veil c.id) = s.crews.map (veil c.id)
    ∧ ∃ c', t.crewOf c.id = some c' ∧ c'.s = c.s ∧ c'.c = c.c ∧ c'.m = c.m ∧ c'.nRegs = c.nRegs ∧ c'.rotb = c.rotb
      ∧ (c'.path i).spc = p.spc ∧ (c'.path i).link = p.link ∧ (c'.path i).lcnt = p.lcnt
      ∧ ∀ v g, g < 32 → v ∉ (e.info ins).writes.map c.physical → c'.liveReg v g = c.liveReg v g

/-! ### The obligations that join several claims -/

/-- The values of the one-source and immediate scalar words, and the relation SCMP writes. -/
def Obligations.ScalarImmediatesAndComparisons : Prop :=
  Claims.ScalarImmediateResults ∧ Claims.ScmpWritesRelation

/-- ISSUE makes lane words pending, and the branches move both program counters. -/
def Obligations.IssueAndBranches : Prop :=
  Claims.IssueMakesWordsPending ∧ Claims.BranchesMoveBothCounters

/-- CALL, BLAZE and RET move the link stack, or raise CALL_DEPTH. -/
def Obligations.CallsAndReturns : Prop :=
  Claims.CallsPushTheReturnPoint ∧ Claims.RetPopsTheReturnPoint

/-- JOIN parks and merges paths, and EXIT frees its entry. -/
def Obligations.JoinsAndExits : Prop :=
  Claims.JoinParksAndMerges ∧ Claims.ExitFreesTheEntry

/-- Barriers count arrivals and complete phases, and role signals count posts and takes. -/
def Obligations.BarriersAndRoleSignals : Prop :=
  Claims.BarriersCountArrivals ∧ Claims.BarrierPhaseCompletes ∧ Claims.RoleSignalsCount

/-- TRAP and BLAZE without a payload raise their faults, and a handler path may not run these words. -/
def Obligations.TrapWordsAndHandlerFaults : Prop :=
  Claims.TrapWordsRecordTheNextWord ∧ Claims.HandlersMayNotRunTheseWords

/-- Taking a trap, returning from it, and the ends of marker waits and held records. -/
def Obligations.TrapsEnterAndReturn : Prop :=
  Claims.TrapEntry ∧ Claims.TrapReturn ∧ Claims.MarkersAndHeldRecordsEnd

/-- HALTD holds its path, and YIELD lets its team leave for a head that was passed over. -/
def Obligations.HaltdAndYield : Prop :=
  Claims.HaltdHoldsThePath ∧ Claims.YieldLeavesForAPassedHead

/-- SRD, TIME and SWR read and write the special registers. -/
def Obligations.SpecialRegistersReadAndWrite : Prop :=
  Claims.SpecialRegisterReads ∧ Claims.SpecialRegisterValues ∧ Claims.SpecialRegisterWrites

/-- REGGROW, REGSHRINK, TAGOF and ROTSET. -/
def Obligations.RegisterUnitWords : Prop :=
  Claims.ReggrowAsksForUnits ∧ Claims.RegshrinkReturnsUnits ∧ Claims.TagofAndRotset

/-- PROPOSE, ABANDON, ACCEPT and PSTAT. -/
def Obligations.ProposalsOpenTestAndClose : Prop :=
  Claims.ProposeAndAbandon ∧ Claims.ClosingLanesKeepsTheShadow ∧ Claims.AcceptClosesTheTestedLanes ∧ Claims.PstatReads

/-- SLD and SST enter their accesses, and SLDK reads the argument block. -/
def Obligations.ScalarMemoryWords : Prop :=
  Claims.ScalarAccessesEnterTheQueues ∧ Claims.SldkReadsTheArgumentBlock

/-- WAIT, FENCE and CWAIT go on once what they wait for is there. -/
def Obligations.WaitFenceAndCwait : Prop :=
  Claims.WaitAndFenceGoOn ∧ Claims.CwaitWritesThePassingValue

/-- What a load obtains, and what an atomic returns and writes. -/
def Obligations.LoadsAndAtomicsTakeEffect : Prop :=
  Claims.LoadObtainsItsValue ∧ Claims.AtomicReplacesAndReturns

/-- Fixed-latency words set their selected lanes and no others, and the integer words' values follow their rules. -/
def Obligations.ElementwiseWordsSetTheirLanes : Prop :=
  Claims.FixedWordsSetTheirLanes ∧ Claims.IntegerLaneValues

/-- A long-latency word goes in flight, and its write-back sets its lanes. -/
def Obligations.LongWordsWriteBack : Prop :=
  Claims.LongWordsGoInFlight ∧ Claims.WritebackSetsTheLanes

/-- The lane tests write mask bits, and the picking words choose a value for each lane. -/
def Obligations.LaneTestsAndPicks : Prop :=
  Claims.LaneTestsWriteMaskBits ∧ Claims.PickingWordsSetTheirLanes

/-- A void lane word only advances; absent and pending registers fault. -/
def Obligations.VoidAndFaultingLaneWords : Prop :=
  Claims.VoidWordsOnlyAdvance ∧ Claims.AbsentAndPendingRegistersFault

/-- VLD, VST, VAT and VATR enter their accesses, VST.slc stays in its slice, and VPFX only prefetches. -/
def Obligations.LaneMemoryWords : Prop :=
  Claims.LaneMemoryWordsEnterTheQueues ∧ Claims.SliceStoresStayInTheSlice ∧ Claims.PrefetchChangesOnlyItsPath

/-- VLDS, VSTS, FPUSH, FPOP and OBLD. -/
def Obligations.ScratchpadFifoAndOperandWords : Prop :=
  Claims.ScratchpadWordsEnterTheQueues ∧ Claims.FifosMoveOneEntryAPass ∧ Claims.OperandLoadsEnterTheQueue

/-- QPUSH, QPOP, YJOB, YSTAT and DECK. -/
def Obligations.QueueAndDeckWords : Prop :=
  Claims.QueueWordsMoveEntries ∧ Claims.YjobEntersTheDeck ∧ Claims.YstatAndDeckReport

/-- ESTADD, ESTRD, ESTWAIT and ESTSTAT. -/
def Obligations.EstimatorWords : Prop :=
  Claims.EstaddStagesSamples ∧ Claims.EstrdWritesTheImage ∧ Claims.EstimatorWaitStatusAndReset

/-- LAUNCH submits its block, CIDX follows the cruise order, and BANKSET moves idle banks. -/
def Obligations.LaunchCidxAndBankset : Prop :=
  Claims.LaunchSubmitsTheBlock ∧ Claims.CidxFollowsTheCruiseOrder ∧ Claims.BanksetMovesIdleBanks

/-- OBRES, OBREL, GANG and MMA. -/
def Obligations.ReservationsGangsAndMma : Prop :=
  Claims.OperandReservations ∧ Claims.GangSetsAValidConfiguration ∧ Claims.MmaArrivesAtItsLatch

/-- ACCZ, ACCRD and ACCX clear, read and write a tile's elements. -/
def Obligations.TileWords : Prop :=
  Claims.AcczClearsOrFreesATile ∧ Claims.TileWordsReadAndWriteElements

/-- The grants of registers, reservations, pages, tiles and drained banks. -/
def Obligations.GrantsLetWordsRunAgain : Prop :=
  Claims.GrantsServeTheFirstWaiter ∧ Claims.StandGrantsLetWordsRunAgain

/-- Evictions, priority pre-emption, slices and time limits. -/
def Obligations.EvictionsAndPreemption : Prop :=
  Claims.EvictionsChooseAVictim ∧ Claims.PreemptionSlicesAndLimits

/-- Placement starts a team, and saving and restoring keep its registers. -/
def Obligations.TeamsPlacedSavedAndRestored : Prop :=
  Claims.PlacementStartsATeam ∧ Claims.SaveAndRestoreKeepRegisters

/-- Ranks commit and fold, stop rules fire, and launches complete. -/
def Obligations.LaunchesCommitStopAndComplete : Prop :=
  Claims.CommitAndStopALaunch ∧ Claims.FoldFollowsTheRecurrence ∧ Claims.CompletionRetiresTheLaunch

/-- Store-buffer entries, commutative buffers, staging logs and the ticket. -/
def Obligations.BufferedEffectsReachTheirHome : Prop :=
  Claims.StoreBufferEntriesLeave ∧ Claims.MergesLogsAndTickets

/-- Walks end, parked words go on, and invalidations sweep translations. -/
def Obligations.WalksAndInvalidations : Prop :=
  Claims.WalksEndAndWordsReplay ∧ Claims.InvalidationsSweepTranslations

/-- Frames are freed and scrubbed, and migration moves a page. -/
def Obligations.FramesAndMigration : Prop :=
  Claims.FramesAreFreedAndScrubbed ∧ Claims.MigrationMovesAPage

/-- Yarders take ready jobs, and jobs end with their status. -/
def Obligations.JobsRunAndEnd : Prop :=
  Claims.YardersTakeReadyJobs ∧ Claims.JobsEndWithTheirStatus

/-- Host registers read back their fields, and others are steps of their own. -/
def Obligations.HostRegistersReadAndAct : Prop :=
  Claims.RegisterWritesReadBack ∧ Claims.RegisterWritesAreSteps

/-- Ring registers, submissions, and the allotting and freeing of estimators. -/
def Obligations.RingsSubmissionsAndEstimatorSlots : Prop :=
  Claims.RingRegistersAndSubmissions ∧ Claims.EstimatorsAreAllottedAndFreed

/-- Sensor samples, refresh classes, kerf and lending, and the steps that only take time. -/
def Obligations.SamplesAndTimingSteps : Prop :=
  Claims.SamplesMoveClassesAndCharge ∧ Claims.TimingOnlySteps

/-- Core clocks count and stall reasons add up, and records go to the event ring. -/
def Obligations.ClocksAndRecords : Prop :=
  Claims.ClocksCountAndPathsRetry ∧ Claims.RecordsGoToTheEventRing

/-- Breakpoints, steps and the commands of the debug agent. -/
def Obligations.DebugAgentHoldsAndWrites : Prop :=
  Claims.BreakpointsHoldAndStepsEnd ∧ Claims.CommandsThatCannotRun ∧ Claims.CommandsReachTheirPath

/-- Starts, firmware, the split, microcode, spare cores and attestation. -/
def Obligations.StartsAndService : Prop :=
  Claims.StartsRunTheirSteps ∧ Claims.ServiceRequests

/-- Partition resets, kicks, ports, and the host's accesses to device memory. -/
def Obligations.ResetsKicksAndHostAccess : Prop :=
  Claims.ResetsKicksAndPorts ∧ Claims.HostReachesDeviceMemory

/-- A step fetches, decodes and runs the word of the path it picks. -/
def Obligations.StepRunsTheDecodedInstruction : Prop :=
  Claims.FetchDecodesTheBytes ∧ Claims.StepTakesTheNextThing

/-- The registers after reset, and memory's canonical form there. -/
def Obligations.ResetStateReadsAsTheMapsSay : Prop :=
  Claims.ResetRegistersRead ∧ Claims.ResetMemoryIsCanonical

/-- Frames: what scalar words and lane words leave unchanged, whatever becomes of them. -/
def Obligations.WordsLeaveTheRestUnchanged : Prop :=
  Claims.ScalarWordsLeaveTheRest ∧ Claims.LaneWordsLeaveTheRest

/-- The float words give the exact result rounded once, and the special values, tests and classes of their rules. -/
def Obligations.FloatLaneValuesFollowTheirRules : Prop :=
  Claims.FloatResultsRoundOnce ∧ Claims.ConversionsToIntegers ∧ Claims.FloatSpecialValues ∧ Claims.FloatTestsAndClasses
end

