-- ==== Sys2Proof/Laws/Map.lean ====
section
/-! SUPPORT. Sparse maps: what reads as what after an update, and that every update keeps the canonical form. -/

namespace Sys2Proof.Machine

variable {α : Type}

/-! ### Reading after an update -/

@[simp] theorem smap_get_nil (d : α) (k : Nat) : SMap.get d [] k = d := rfl

theorem smap_get_erase (d : α) (m : SMap α) (k j : Nat) :
    SMap.get d (SMap.erase k m) j = if j = k then d else SMap.get d m j := by
  induction m with
  | nil => simp [SMap.erase, SMap.get]
  | cons e r ih =>
    obtain ⟨i, v⟩ := e
    by_cases h : i = k
    · subst h
      by_cases hj : j = i
      · subst hj
        simpa [SMap.erase] using ih
      · simp [SMap.erase, ih, SMap.get, hj, Ne.symm hj]
    · by_cases hi : i = j
      · subst hi
        simp [SMap.erase, SMap.get, h]
      · simp [SMap.erase, SMap.get, h, hi, ih]

theorem smap_get_insert (d : α) (m : SMap α) (k : Nat) (v : α) (h : ∀ e ∈ m, e.1 ≠ k) (j : Nat) :
    SMap.get d (SMap.insert k v m) j = if j = k then v else SMap.get d m j := by
  induction m with
  | nil =>
    by_cases hj : j = k
    · simp [SMap.insert, SMap.get, hj]
    · simp [SMap.insert, SMap.get, hj, Ne.symm hj]
  | cons e r ih =>
    obtain ⟨i, w⟩ := e
    have hi : i ≠ k := h (i, w) (by simp)
    have hr := ih fun e he => h e (by simp [he])
    simp only [SMap.insert]
    split
    · by_cases hj : j = k
      · simp [SMap.get, hj]
      · simp [SMap.get, hj, Ne.symm hj]
    · by_cases hj : i = j
      · subst hj
        simp [SMap.get, hi]
      · simp [SMap.get, hj, hr]

theorem smap_erase_mem {m : SMap α} {k : Nat} {e : Nat × α} (h : e ∈ SMap.erase k m) : e ∈ m ∧ e.1 ≠ k := by
  induction m with
  | nil => simp [SMap.erase] at h
  | cons x r ih =>
    obtain ⟨i, v⟩ := x
    by_cases hi : i = k
    · simp only [SMap.erase, hi, ↓reduceIte] at h
      exact ⟨by simp [(ih h).1], (ih h).2⟩
    · simp only [SMap.erase, hi, ↓reduceIte, List.mem_cons] at h
      rcases h with h | h
      · subst h
        exact ⟨by simp, hi⟩
      · exact ⟨by simp [(ih h).1], (ih h).2⟩

/-- A key reads as what was last put there, and every other key as before. -/
theorem smap_get_set [DecidableEq α] (d : α) (m : SMap α) (k : Nat) (v : α) (j : Nat) :
    SMap.get d (SMap.set d m k v) j = if j = k then v else SMap.get d m j := by
  unfold SMap.set
  split
  · rename_i h
    rw [smap_get_erase, h]
  · rw [smap_get_insert d _ k v (fun e he => (smap_erase_mem he).2), smap_get_erase]
    split <;> simp_all

@[simp] theorem smap_get_set_self [DecidableEq α] (d : α) (m : SMap α) (k : Nat) (v : α) :
    SMap.get d (SMap.set d m k v) k = v := by simp [smap_get_set]

theorem smap_get_set_ne [DecidableEq α] (d : α) (m : SMap α) {k j : Nat} (v : α) (h : j ≠ k) :
    SMap.get d (SMap.set d m k v) j = SMap.get d m j := by simp [smap_get_set, h]

/-! ### The canonical form -/

theorem smap_above_iff (k : Nat) (m : SMap α) : SMap.above k m = true ↔ ∀ e ∈ m, k < e.1 := by
  induction m with
  | nil => simp [SMap.above]
  | cons e r ih => obtain ⟨i, v⟩ := e; simp [SMap.above, ih]

/-- The canonical form: keys strictly rising, and no default value. -/
theorem smap_wf_iff [DecidableEq α] (d : α) (m : SMap α) :
    SMap.wf d m = true ↔ m.Pairwise (fun a b => a.1 < b.1) ∧ ∀ e ∈ m, e.2 ≠ d := by
  induction m with
  | nil => simp [SMap.wf]
  | cons e r ih =>
    obtain ⟨i, v⟩ := e
    simp only [SMap.wf, Bool.and_eq_true, decide_eq_true_eq, smap_above_iff, ih, List.pairwise_cons, List.mem_cons,
      forall_eq_or_imp]
    constructor
    · rintro ⟨⟨h1, h2⟩, h3, h4⟩
      exact ⟨⟨h1, h3⟩, h2, h4⟩
    · rintro ⟨⟨h1, h3⟩, h2, h4⟩
      exact ⟨⟨h1, h2⟩, h3, h4⟩

/-- Leaving entries out keeps the form. -/
theorem smap_wf_sublist [DecidableEq α] {d : α} {m n : SMap α} (h : SMap.wf d m = true) (s : n.Sublist m) :
    SMap.wf d n = true := by
  rw [smap_wf_iff] at h ⊢
  exact ⟨h.1.sublist s, fun e he => h.2 e (s.subset he)⟩

theorem smap_wf_filter [DecidableEq α] {d : α} {m : SMap α} (h : SMap.wf d m = true) (p : Nat × α → Bool) :
    SMap.wf d (m.filter p) = true := smap_wf_sublist h List.filter_sublist

theorem smap_erase_sublist (k : Nat) (m : SMap α) : (SMap.erase k m).Sublist m := by
  induction m with
  | nil => simp [SMap.erase]
  | cons e r ih =>
    obtain ⟨i, v⟩ := e
    by_cases h : i = k
    · simp only [SMap.erase, h, ↓reduceIte]
      exact ih.trans (List.sublist_cons_self _ _)
    · simp only [SMap.erase, h, ↓reduceIte]
      exact ih.cons_cons _

theorem smap_insert_mem {m : SMap α} {k : Nat} {v : α} {e : Nat × α} : e ∈ SMap.insert k v m ↔ e = (k, v) ∨ e ∈ m := by
  induction m with
  | nil => simp [SMap.insert]
  | cons x r ih =>
    obtain ⟨i, w⟩ := x
    simp only [SMap.insert]
    split
    · simp
    · simp [ih, or_left_comm]

theorem smap_wf_insert [DecidableEq α] {d : α} {m : SMap α} {k : Nat} {v : α} (h : SMap.wf d m = true)
    (hk : ∀ e ∈ m, e.1 ≠ k) (hv : v ≠ d) : SMap.wf d (SMap.insert k v m) = true := by
  induction m with
  | nil => simp [SMap.insert, SMap.wf, SMap.above, hv]
  | cons x r ih =>
    obtain ⟨i, w⟩ := x
    have hx : i ≠ k := hk (i, w) (by simp)
    have h' := h
    simp only [SMap.wf, Bool.and_eq_true, decide_eq_true_eq] at h'
    obtain ⟨⟨ha, hw⟩, hr⟩ := h'
    simp only [SMap.insert]
    split
    · rename_i hlt
      simp only [SMap.wf, SMap.above, Bool.and_eq_true, decide_eq_true_eq]
      refine ⟨⟨⟨hlt, ?_⟩, hv⟩, ⟨ha, hw⟩, hr⟩
      rw [smap_above_iff] at ha ⊢
      exact fun e he => Nat.lt_trans hlt (ha e he)
    · rename_i hlt
      simp only [SMap.wf, Bool.and_eq_true, decide_eq_true_eq]
      refine ⟨⟨?_, hw⟩, ih hr fun e he => hk e (by simp [he])⟩
      rw [smap_above_iff] at ha ⊢
      intro e he
      rcases smap_insert_mem.1 he with rfl | he
      · show i < k
        omega
      · exact ha e he

/-- Putting a value keeps the form. -/
theorem smap_wf_set [DecidableEq α] {d : α} {m : SMap α} (h : SMap.wf d m = true) (k : Nat) (v : α) :
    SMap.wf d (SMap.set d m k v) = true := by
  have he := smap_wf_sublist h (smap_erase_sublist k m)
  unfold SMap.set
  split
  · exact he
  · rename_i hv
    exact smap_wf_insert he (fun e h => (smap_erase_mem h).2) hv

/-- Putting values one after another keeps the form. -/
theorem smap_wf_foldl [DecidableEq α] {β : Type} {d : α} (xs : List β) (f : SMap α → β → SMap α)
    (hf : ∀ m x, SMap.wf d m = true → SMap.wf d (f m x) = true) {m : SMap α} (h : SMap.wf d m = true) :
    SMap.wf d (xs.foldl f m) = true := by
  induction xs generalizing m with
  | nil => exact h
  | cons x xs ih => exact ih (hf m x h)

end Sys2Proof.Machine
end

