-- ==== Sys2Proof/Laws/Memory.lean ====
section
/-! SUPPORT. Memory: reading a byte after a write, and that every operation that writes memory, or the device's copies of host
bytes, keeps the canonical form. -/

namespace Sys2Proof.Machine

/-! ### Bytes after a write -/

theorem foldl_set_zipIdx (m : SMap Byte) (pa : Nat) (bs : List Byte) (n a : Nat) :
    SMap.get 0 ((bs.zipIdx n).foldl (fun m b => SMap.set 0 m (pa + b.2) b.1) m) a
      = if pa + n ≤ a ∧ a < pa + n + bs.length then bs.getD (a - (pa + n)) 0 else SMap.get 0 m a := by
  induction bs generalizing m n with
  | nil => simp
  | cons b bs ih =>
    simp only [List.zipIdx_cons, List.foldl_cons, ih, List.length_cons]
    by_cases h : pa + (n + 1) ≤ a ∧ a < pa + (n + 1) + bs.length
    · have h2 : pa + n ≤ a ∧ a < pa + n + (bs.length + 1) := by omega
      have h3 : a - (pa + n) = (a - (pa + (n + 1))) + 1 := by omega
      rw [if_pos h, if_pos h2, h3]
      rfl
    · rw [if_neg h, smap_get_set]
      by_cases e : a = pa + n
      · subst e
        rw [if_pos rfl, if_pos (by omega), Nat.sub_self]
        rfl
      · rw [if_neg e, if_neg (by omega)]

/-- A byte of memory after bytes have been written: theirs where they lie, and else what was there. -/
theorem rdByte_wrBytes (s : State) (pa : Nat) (bs : List Byte) (a : Nat) :
    (s.wrBytes pa bs).rdByte a = if pa ≤ a ∧ a < pa + bs.length then bs.getD (a - pa) 0 else s.rdByte a := by
  have := foldl_set_zipIdx s.mem pa bs 0 a
  simp only [Nat.add_zero] at this
  exact this

theorem sameMemoryBut_wrBytes (s : State) (pa : Nat) (bs : List Byte) : SameMemoryBut s (s.wrBytes pa bs) pa bs.length := by
  intro a h
  rw [rdByte_wrBytes, if_neg (by omega)]

theorem rdByte_wrPA (s : State) (pa n x a : Nat) :
    (s.wrPA pa n x).rdByte a = if pa ≤ a ∧ a < pa + n then BitVec.ofNat 8 (x / 2 ^ (8 * (a - pa))) else s.rdByte a := by
  unfold State.wrPA
  rw [rdByte_wrBytes]
  have hl : (bytesOfNat n x).length = n := by simp [bytesOfNat]
  rw [hl]
  split
  · rename_i h
    have : a - pa < n := by omega
    simp [bytesOfNat, List.getD_eq_getElem?_getD, this]
  · rfl

/-! ### The canonical form -/

theorem canonical_reset : State.reset.Canonical := ⟨rfl, rfl, rfl⟩

/-- A change that touches none of the three keeps the form. -/
theorem canonical_of_eq {s t : State} (h : s.Canonical) (hm : t.mem = s.mem) (hh : t.host = s.host) (hu : t.unseen = s.unseen) :
    t.Canonical := by
  unfold State.Canonical at *
  rw [hm, hh, hu]
  exact h

theorem canonical_wrBytes {s : State} (h : s.Canonical) (pa : Nat) (bs : List Byte) : (s.wrBytes pa bs).Canonical :=
  ⟨smap_wf_foldl _ _ (fun _ _ hm => smap_wf_set hm _ _) h.1, h.2⟩

theorem canonical_wrPA {s : State} (h : s.Canonical) (pa n x : Nat) : (s.wrPA pa n x).Canonical := canonical_wrBytes h pa _

theorem canonical_wrHome {s : State} (h : s.Canonical) (w : Option Nat) (part lid key n x : Nat) :
    (s.wrHome w part lid key n x).Canonical := by
  unfold State.wrHome
  split
  · exact ⟨h.1, smap_wf_foldl _ _ (fun _ _ hm => smap_wf_set hm _ _) h.2.1, h.2.2⟩
  · exact canonical_wrPA h _ _ _

theorem canonical_hostWrite {s : State} (h : s.Canonical) (pa : Nat) (bs : List Byte) : (s.hostWrite pa bs).Canonical := by
  unfold State.hostWrite
  dsimp only
  split
  · refine List.foldlRecOn (motive := State.Canonical) _ _ h fun t ht p _ => ⟨smap_wf_set ht.1 _ _, ht.2.1, ?_⟩
    refine smap_wf_foldl _ _ (fun m k hm => ?_) ht.2.2
    split
    · exact hm
    · exact smap_wf_set hm _ _
  · exact h

theorem canonical_exportHost {s : State} (h : s.Canonical) (ok : Nat → HByte → Bool) : (s.exportHost ok).Canonical :=
  ⟨smap_wf_foldl _ _ (fun _ _ hm => smap_wf_set hm _ _) h.1, smap_wf_foldl _ _ (fun _ _ hm => smap_wf_set hm _ _) h.2.1, h.2.2⟩

theorem canonical_dropHost {s : State} (h : s.Canonical) (ok : Nat → Bool) : (s.dropHost ok).Canonical :=
  ⟨h.1, smap_wf_filter h.2.1 _, smap_wf_filter h.2.2 _⟩

theorem wf_clearRange {α : Type} [DecidableEq α] {d : α} {m : SMap α} (h : SMap.wf d m = true) (lo n : Nat) :
    SMap.wf d (clearRange m lo n) = true := smap_wf_filter h _

theorem canonical_copyPage {s : State} (h : s.Canonical) (m : Mig) : (s.copyPage m).Canonical := by
  refine ⟨?_, wf_clearRange h.2.1 _ _, wf_clearRange h.2.2 _ _⟩
  refine smap_wf_foldl _ _ (fun _ e hx => ?_) <| smap_wf_foldl _ _ (fun _ e hx => ?_) <|
    smap_wf_foldl _ _ (fun _ _ hm => smap_wf_set hm _ _) (wf_clearRange h.1 _ _)
  all_goals split
  all_goals first | exact smap_wf_set hx _ _ | exact hx

theorem canonical_writeSpace {s : State} (h : s.Canonical) (team thr lid : Nat) (sp : Space) (addr n x : Nat) :
    (s.writeSpace team thr lid sp addr n x).Canonical := by
  cases sp with
  | mem => exact canonical_wrHome h _ _ _ _ _ _
  | scr => exact canonical_of_eq h rfl rfl rfl
  | priv l => exact canonical_of_eq h rfl rfl rfl

theorem canonical_cacheHost {s : State} (h : s.Canonical) (sp : Space) (addr n : Nat) : (s.cacheHost sp addr n).Canonical := by
  unfold State.cacheHost
  split
  · refine ⟨h.1, smap_wf_foldl _ _ ?_ h.2.1, h.2.2⟩
    intro m k hm
    split
    · exact hm
    · exact smap_wf_set hm _ _
  · exact h

/-- A start clears device memory and keeps the host's. -/
theorem canonical_start {s : State} (h : s.Canonical) (warm skip : Bool) : (s.start warm skip).Canonical :=
  ⟨smap_wf_filter h.1 _, rfl, rfl⟩

/-- A record that arises waits for the end of its clock. -/
theorem canonical_emit {s : State} (h : s.Canonical) (key p ty die : Nat) (body : List Byte) : (s.emit key p ty die body).Canonical := h

theorem canonical_putEvent {s : State} (h : s.Canonical) (x : Rec) : (s.putEvent x).Canonical := by
  unfold State.putEvent
  dsimp only
  split
  · exact h
  · split
    · exact canonical_of_eq h rfl rfl rfl
    · exact canonical_of_eq (canonical_wrBytes h _ _) rfl rfl rfl

theorem canonical_putTeam {s : State} (h : s.Canonical) (x : Rec) : (s.putTeam x).Canonical := by
  unfold State.putTeam
  dsimp only
  split
  · exact h
  · split
    · exact canonical_of_eq h rfl rfl rfl
    · exact canonical_of_eq (canonical_wrBytes h _ _) rfl rfl rfl

/-- The end of a clock writes its records to their rings. -/
theorem canonical_flushRecs {s : State} (h : s.Canonical) (core : Nat) : (s.flushRecs core).Canonical := by
  unfold State.flushRecs
  refine List.foldlRecOn (motive := State.Canonical) _ _ (canonical_of_eq h rfl rfl rfl) fun t ht x _ => ?_
  unfold State.putRec
  split
  · exact canonical_putTeam ht x
  · exact canonical_putEvent ht x

end Sys2Proof.Machine
end

