-- ==== Sys2Proof/Laws/State.lean ====
section
/-! SUPPORT. What each named update of the state changes: one lemma per field, and the crews, teams and launches found
after it. -/

namespace Sys2Proof.Machine

/-! ### Lists -/

@[simp] theorem setAt_length {α : Type} (xs : List α) (i : Nat) (v : α) : (setAt xs i v).length = xs.length := by
  induction xs generalizing i with
  | nil => rfl
  | cons x xs ih => cases i with
    | zero => rfl
    | succ i => simp [setAt, ih]

@[simp] theorem modAt_length {α : Type} (xs : List α) (i : Nat) (f : α → α) : (modAt xs i f).length = xs.length := by
  induction xs generalizing i with
  | nil => rfl
  | cons x xs ih => cases i with
    | zero => rfl
    | succ i => simp [modAt, ih]

theorem setAt_getElem? {α : Type} (xs : List α) (i j : Nat) (v : α) :
    (setAt xs i v)[j]? = if i = j then (xs[j]?).map fun _ => v else xs[j]? := by
  induction xs generalizing i j with
  | nil => simp [setAt]
  | cons x xs ih =>
    cases i with
    | zero => cases j <;> simp [setAt]
    | succ i => cases j with
      | zero => simp [setAt]
      | succ j => simp [setAt, ih]

theorem modAt_getElem? {α : Type} (xs : List α) (i j : Nat) (f : α → α) :
    (modAt xs i f)[j]? = if i = j then (xs[j]?).map f else xs[j]? := by
  induction xs generalizing i j with
  | nil => simp [modAt]
  | cons x xs ih =>
    cases i with
    | zero => cases j <;> simp [modAt]
    | succ i => cases j with
      | zero => simp [modAt]
      | succ j => simp [modAt, ih]

/-- Changing an element is setting it to its changed value. -/
theorem modAt_eq_setAt {α : Type} {xs : List α} {i : Nat} {v : α} (h : xs[i]? = some v) (f : α → α) :
    modAt xs i f = setAt xs i (f v) := by
  induction xs generalizing i with
  | nil => rfl
  | cons x xs ih => cases i with
    | zero => simp at h; simp [modAt, setAt, h]
    | succ i => simp at h; simp [modAt, setAt, ih h]

@[simp] theorem setAt_setAt {α : Type} (xs : List α) (i : Nat) (v w : α) : setAt (setAt xs i v) i w = setAt xs i w := by
  induction xs generalizing i with
  | nil => rfl
  | cons x xs ih => cases i with
    | zero => rfl
    | succ i => simp [setAt, ih]

/-! ### Crews -/

@[simp] theorem sset_id (c : Crew) (r : BitVec 6) (v : W64) : (c.sset r v).id = c.id := by unfold Crew.sset; split <;> rfl
@[simp] theorem sset_paths (c : Crew) (r : BitVec 6) (v : W64) : (c.sset r v).paths = c.paths := by
  unfold Crew.sset; split <;> rfl
@[simp] theorem sset_path (c : Crew) (r : BitVec 6) (v : W64) (i : Nat) : (c.sset r v).path i = c.path i := by
  simp [Crew.path]
@[simp] theorem modPath_id (c : Crew) (i : Nat) (f : Path → Path) : (c.modPath i f).id = c.id := rfl
@[simp] theorem cset_id (c : Crew) (r : BitVec 3) (v : BitVec 8) : (c.cset r v).id = c.id := rfl
@[simp] theorem cset_paths (c : Crew) (r : BitVec 3) (v : BitVec 8) : (c.cset r v).paths = c.paths := rfl
@[simp] theorem withPath_id (c : Crew) (i : Nat) (p : Path) : (c.withPath i p).id = c.id := rfl

/-- An entry that exists is the path at its index. -/
theorem path_of_entry {c : Crew} {i : Nat} {p : Path} (h : c.paths[i]? = some p) : c.path i = p := by
  simp [Crew.path, List.getD, h]

theorem modPath_eq_withPath {c : Crew} {i : Nat} {p : Path} (h : c.paths[i]? = some p) (f : Path → Path) :
    c.modPath i f = c.withPath i (f p) := by
  simp [Crew.modPath, Crew.withPath, modAt_eq_setAt h]

/-! ### Finding a crew after a change -/

theorem find_map_id {f : Crew → Crew} (hf : ∀ c, (f c).id = c.id) (cs : List Crew) (id j : Nat) :
    ((cs.map fun c => if c.id == id then f c else c).find? fun c => c.id == j)
      = (cs.find? fun c => c.id == j).map fun c => if c.id == id then f c else c := by
  induction cs with
  | nil => rfl
  | cons c cs ih =>
    simp only [List.map_cons, List.find?_cons]
    have h : (if c.id == id then f c else c).id = c.id := by split <;> simp [hf]
    rw [h]
    cases hc : c.id == j with
    | true => rfl
    | false => exact ih

/-- The crew of an id after the crew of an id has been changed. -/
theorem crewOf_modCrew {f : Crew → Crew} (hf : ∀ c, (f c).id = c.id) (s : State) (id j : Nat) :
    (s.modCrew id f).crewOf j = (s.crewOf j).map fun c => if c.id == id then f c else c := by
  simp only [State.crewOf, State.modCrew]
  exact find_map_id hf s.crews id j

theorem crewOf_id {s : State} {id : Nat} {c : Crew} (h : s.crewOf id = some c) : c.id = id := by
  have := List.find?_some h
  simpa using this

theorem crewOf_modCrew_self {f : Crew → Crew} (hf : ∀ c, (f c).id = c.id) {s : State} {id : Nat} {c : Crew}
    (h : s.crewOf id = some c) : (s.modCrew id f).crewOf id = some (f c) := by
  rw [crewOf_modCrew hf, h]
  simp [crewOf_id h]

theorem crewOf_modCrew_ne {f : Crew → Crew} (hf : ∀ c, (f c).id = c.id) {s : State} {id j : Nat} (h : j ≠ id) :
    (s.modCrew id f).crewOf j = s.crewOf j := by
  rw [crewOf_modCrew hf]
  cases hj : s.crewOf j with
  | none => rfl
  | some c => simp [crewOf_id hj, h]

/-- Changing a crew changes that crew alone. -/
theorem onlyCrew_modCrew {f : Crew → Crew} (hf : ∀ c, (f c).id = c.id) (s : State) (id : Nat) :
    OnlyCrew id s (s.modCrew id f) := by
  refine ⟨rfl, ?_⟩
  simp only [State.modCrew, List.map_map]
  apply List.map_congr_left
  intro c _
  by_cases h : c.id = id <;> simp [veil, h, hf]

theorem onlyCrew_refl (id : Nat) (s : State) : OnlyCrew id s s := ⟨rfl, rfl⟩

theorem OnlyCrew.trans {id : Nat} {s t u : State} (h : OnlyCrew id s t) (k : OnlyCrew id t u) : OnlyCrew id s u := by
  obtain ⟨h1, h2⟩ := h
  obtain ⟨k1, k2⟩ := k
  refine ⟨?_, k2.trans h2⟩
  rw [k1, h1]

end Sys2Proof.Machine
end

