-- ==== Sys2Proof/Laws/Ops.lean ====
section
/-! SUPPORT. What each shared operation of the words does: one lemma for each, which later proofs cite. -/

namespace Sys2Proof.Machine

/-! ### The issuing path -/

theorem withCur_of {s : State} {c : Crew} {i : Nat} {p : Path} (h : Issuing s c i p) (k : Crew → Path → Out) :
    withCur s k = k c p := by
  simp [withCur, h.cur, h.crew, path_of_entry h.entry]

theorem curPath_of {s : State} {c : Crew} {i : Nat} {p : Path} (h : Issuing s c i p) : s.curPath = i := by
  simp [State.curPath, h.cur]

theorem modCur_of {s : State} {c : Crew} {i : Nat} {p : Path} (h : Issuing s c i p) (f : Crew → Crew) :
    s.modCur f = s.modCrew c.id f := by
  simp [State.modCur, h.cur]

theorem modCurPath_of {s : State} {c : Crew} {i : Nat} {p : Path} (h : Issuing s c i p) (f : Path → Path) :
    s.modCurPath f = s.modCrew c.id fun c => c.modPath i f := by
  simp [State.modCurPath, State.modPath, h.cur]

/-- A change of the issuing crew that keeps its name and its table leaves the path issuing. -/
theorem Issuing.modCrew {s : State} {c : Crew} {i : Nat} {p q : Path} (h : Issuing s c i p) {f : Crew → Crew}
    (hf : ∀ c, (f c).id = c.id) (hp : (f c).paths[i]? = some q) : Issuing (s.modCrew c.id f) (f c) i q where
  cur := by rw [hf]; exact h.cur
  crew := by rw [hf]; exact crewOf_modCrew_self hf h.crew
  entry := hp

/-- The outcome of a change of the issuing crew alone. -/
theorem completes_of_modCrew {s : State} {c : Crew} {i : Nat} {p : Path} {ins : Instr} (h : Issuing s c i p)
    {f : Crew → Crew} (hf : ∀ c, (f c).id = c.id) (he : exec ins s = .next (s.modCrew c.id f)) :
    Completes ins s c (f c) :=
  ⟨_, he, onlyCrew_modCrew hf s c.id, crewOf_modCrew_self hf h.crew⟩

/-! ### Changes of the issuing crew and path in turn -/

theorem modCrew_modCrew {f g : Crew → Crew} (hf : ∀ c, (f c).id = c.id) (s : State) (id : Nat) :
    (s.modCrew id f).modCrew id g = s.modCrew id fun c => g (f c) := by
  simp only [State.modCrew, List.map_map]
  congr 1
  apply List.map_congr_left
  intro c _
  by_cases h : c.id = id <;> simp [h, hf]

theorem cur_modCrew (s : State) (id : Nat) (f : Crew → Crew) : (s.modCrew id f).cur = s.cur := rfl

/-- A change of the issuing crew, and then the word is past (R26). -/
theorem modCur_advance {s : State} {c : Crew} {i : Nat} {p : Path} (h : Issuing s c i p) {f : Crew → Crew}
    (hf : ∀ c, (f c).id = c.id) (n : Nat) :
    (s.modCur f).advance n = s.modCrew c.id fun d => (f d).modPath i fun p => p.past n := by
  rw [modCur_of h, State.advance, State.modCurPath, cur_modCrew, h.cur]
  exact modCrew_modCrew hf s c.id

theorem advance_of {s : State} {c : Crew} {i : Nat} {p : Path} (h : Issuing s c i p) (n : Nat) :
    s.advance n = s.modCrew c.id fun d => d.modPath i fun p => p.past n := by
  rw [State.advance, modCurPath_of h]; rfl

theorem stall_of {s : State} {c : Crew} {i : Nat} {p : Path} (h : Issuing s c i p) (code : Nat) :
    s.stall code = s.modCrew c.id fun d => d.modPath i fun p => p.stalled code := by
  rw [State.stall, modCurPath_of h]; rfl

/-! ### Sources of scalar words (R149) -/

theorem srcS_given (c : Crew) (b : SSrc) : c.srcS b = c.given false b := by cases b <;> rfl
theorem srcN_given (c : Crew) (b : SSrc) : c.srcN b = c.given true b := by cases b <;> rfl

/-! ### Words that write a scalar register (R48, R149) -/

/-- A scalar word writes its register and goes on, or waits for a pending one. -/
theorem scalarWord_of {s : State} {c : Crew} {i : Nat} {p : Path} (h : Issuing s c i p) (d : BitVec 6)
    (srcs : List (BitVec 6)) (n : Nat) (v : Crew → W64) :
    scalarWord s d srcs n v =
      if c.pending (d :: srcs) then .next (s.modCrew c.id fun e => e.modPath i fun p => p.stalled stInterlock)
      else .next (s.modCrew c.id fun e => (e.sset d (v e)).modPath i fun p => p.past n) := by
  rw [scalarWord, withCur_of h]
  split
  · rw [waitFor, stall_of h]
  · rw [modCur_advance h (fun _ => sset_id _ _ _)]

/-- The word is a scalar word of this value. -/
theorem setsScalar_of {ins : Instr} {d : BitVec 6} {srcs : List (BitVec 6)} {n : Nat} {v w : Crew → W64}
    (he : ∀ s, exec ins s = scalarWord s d srcs n v) (hv : ∀ c, v c = w c) : SetsScalar ins (d :: srcs) d n w := by
  intro s c i p h hp
  have key : exec ins s = .next (s.modCrew c.id fun e => (e.sset d (v e)).modPath i fun p => p.past n) := by
    rw [he, scalarWord_of h, hp]; rfl
  have := completes_of_modCrew h (f := fun e => (e.sset d (v e)).modPath i fun p => p.past n) (by simp) key
  rw [modPath_eq_withPath (c := c.sset d (v c)) (by rw [sset_paths]; exact h.entry)] at this
  rw [← hv c]
  exact this

/-! ### Lane-recoverable faults of scalar words (R374, R375, R380) -/

theorem faultLanes_faulting (p : Path) : p.faultLanes = p.faulting := rfl

theorem faulting_covers (p : Path) : p.m0 &&& ~~~p.faulting = 0 := by
  unfold Path.faulting
  split
  · rename_i h
    rw [h]
    exact BitVec.zero_and
  · exact BitVec.and_not_self _

/-- The crew after the trap point of an entry: records alone have changed (R376). -/
theorem trapPoint_eq (c : Crew) (i : Nat) : c.trapPoint i = { c with paths := (c.trapPoint i).paths } := rfl

theorem trapPoint_path_inPlace {c : Crew} {i j : Nat} {t : TrapRec} (h : (c.path j).trap = some t) (ht : t.inPlace = true) :
    (c.trapPoint i).path j = c.path j := by
  unfold Crew.trapPoint Crew.path at *
  rw [List.getD_eq_getElem?_getD, List.getD_eq_getElem?_getD] at *
  simp only [List.getElem?_map]
  cases hj : c.paths[j]? with
  | none => rfl
  | some q => simp [hj] at h; simp [h, ht]

theorem path_modPath_self {c : Crew} {i : Nat} {p : Path} (h : c.paths[i]? = some p) (f : Path → Path) :
    (c.modPath i f).path i = f p := by
  simp [Crew.path, Crew.modPath, List.getD_eq_getElem?_getD, modAt_getElem?, h]

/-- A scalar word of no handler takes its fault in place, with the recorded point of q. -/
theorem scalarFault_inPlace {s : State} {c : Crew} {i : Nat} {p : Path} {ins : Instr} (h : Issuing s c i p)
    (hp : p.isHandler = false) {q : Path} {code detail : Nat} (hq : q.m0 = p.m0) (hm : q.mask = p.mask)
    (ht : q.trap = p.trap) (he : exec ins s = scalarFault s c q code detail) :
    FaultsInPlace ins s c i p q code detail p.faulting false := by
  have hl : q.faultLanes = p.faulting := by simp [Path.faultLanes, Path.faulting, hq, hm]
  have hn : ¬ q.isHandler = true := by simpa [Path.isHandler, ht] using hp
  let r := trapRec c i q false code detail s.nextId p.faulting true
  let f : Crew → Crew := fun c => ((c.deferProp p.faulting).modPath i fun x =>
    { x with m0 := 0, st := .fault, wait := none, want := none
             trap := some (trapRec c i q false code detail s.nextId p.faulting true) }).trapPoint i
  have key : exec ins s = .next (s.modCrew c.id f) := by
    rw [he, scalarFault, hl, State.defer, curPath_of h, if_neg (by exact hn), if_pos (by rw [hq]; exact faulting_covers p)]
  have hid : ∀ c, (f c).id = c.id := fun _ => rfl
  have hpath : (f c).path i = { p with m0 := 0, st := .fault, wait := none, want := none, trap := some r } := by
    have e : ((c.deferProp p.faulting).modPath i fun x =>
        { x with m0 := 0, st := .fault, wait := none, want := none, trap := some r }).path i
          = { p with m0 := 0, st := .fault, wait := none, want := none, trap := some r } := path_modPath_self h.entry _
    show (Crew.trapPoint _ i).path i = _
    rw [trapPoint_path_inPlace (t := r) (by rw [e]) rfl, e]
  exact ⟨_, f c, r, key, onlyCrew_modCrew hid s c.id, crewOf_modCrew_self hid h.crew, rfl, hpath,
    ⟨rfl, rfl, rfl, rfl, rfl, rfl, rfl, rfl, rfl, rfl, rfl⟩⟩

/-- A lane-recoverable fault of a handler is HANDLER_FAULT (R380). -/
theorem scalarFault_handler {s : State} {c : Crew} {p : Path} {ins : Instr} (hp : p.isHandler = true) {code detail : Nat}
    (he : exec ins s = scalarFault s c p code detail) : Halts ins s c p false 39 code 0 := by
  unfold Halts
  rw [he, scalarFault, State.defer, if_pos (by exact hp)]
  rfl

end Sys2Proof.Machine
end

