-- ==== Sys2Proof/Laws/PerInstr.lean ====
section
/-! SUPPORT. What is stated of every instruction as syntax, one lemma for each constructor: the family Fields says how many bytes its
words take (R25, R26). -/

namespace Sys2Proof.Laws

/-- The words of the instruction take its size in bytes: 4 or 8 in the scalar stream, 12 or 24 in the lane stream, and none for a
step of another agent (R25, R26, R32, R42). -/
def Fields.Statement (i : Instr) : Prop :=
  (∀ w, encode i = some w → w.bytes.length = i.size ∧ i.size ∈ [4, 8, 12, 24]) ∧ (encode i = none → i.size = 0)

/-- The size is that of the words. -/
theorem fields_of_encode (i : Instr) : Fields.Statement i := by
  unfold Fields.Statement Instr.size
  constructor
  · intro w h
    rw [h]
    cases w with
    | scalar w l => cases l <;> simp [Code.bytes, bytesOf]
    | lane w l => cases l <;> simp [Code.bytes, bytesOf]
  · intro h
    rw [h]

theorem Fields.nop : Fields.Statement (.nop) := fields_of_encode _
theorem Fields.issue (n : BitVec 7) (rep : BitVec 12) : Fields.Statement (.issue n rep) := fields_of_encode _
theorem Fields.issueReg (rs : BitVec 6) (n : BitVec 7) : Fields.Statement (.issueReg rs n) := fields_of_encode _
theorem Fields.lpc (lo : BitVec 12) : Fields.Statement (.lpc lo) := fields_of_encode _
theorem Fields.split (a : BitVec 4) (so lo : BitVec 16) : Fields.Statement (.split a so lo) := fields_of_encode _
theorem Fields.splitReg (a : BitVec 4) (b : BitVec 6) : Fields.Statement (.splitReg a b) := fields_of_encode _
theorem Fields.join (a : BitVec 4) : Fields.Statement (.join a) := fields_of_encode _
theorem Fields.br (so : BitVec 13) (lo : BitVec 12) : Fields.Statement (.br so lo) := fields_of_encode _
theorem Fields.brLong (so lo : BitVec 16) : Fields.Statement (.brLong so lo) := fields_of_encode _
theorem Fields.call (so : BitVec 13) (lo : BitVec 12) : Fields.Statement (.call so lo) := fields_of_encode _
theorem Fields.callLong (so lo : BitVec 16) : Fields.Statement (.callLong so lo) := fields_of_encode _
theorem Fields.ret : Fields.Statement (.ret) := fields_of_encode _
theorem Fields.loop (so : BitVec 13) (lo : BitVec 12) : Fields.Statement (.loop so lo) := fields_of_encode _
theorem Fields.brm (a : BitVec 4) (test : BitVec 2) (so lo : BitVec 16) : Fields.Statement (.brm a test so lo) := fields_of_encode _
theorem Fields.exit : Fields.Statement (.exit) := fields_of_encode _
theorem Fields.brc (c : BitVec 3) (so : BitVec 13) (lo : BitVec 12) : Fields.Statement (.brc c so lo) := fields_of_encode _
theorem Fields.bar (b m : BitVec 4) : Fields.Statement (.bar b m) := fields_of_encode _
theorem Fields.arrive (d : BitVec 6) (b m : BitVec 4) : Fields.Statement (.arrive d b m) := fields_of_encode _
theorem Fields.bwait (b : BitVec 4) (r : BitVec 6) : Fields.Statement (.bwait b r) := fields_of_encode _
theorem Fields.rolesigPost (crew : BitVec 2) (b : BitVec 6) : Fields.Statement (.rolesigPost crew b) := fields_of_encode _
theorem Fields.rolesigTake (b : BitVec 6) : Fields.Statement (.rolesigTake b) := fields_of_encode _
theorem Fields.trap (code : BitVec 13) : Fields.Statement (.trap code) := fields_of_encode _
theorem Fields.tret : Fields.Statement (.tret) := fields_of_encode _
theorem Fields.tretSkip : Fields.Statement (.tretSkip) := fields_of_encode _
theorem Fields.haltd (tag : BitVec 6) : Fields.Statement (.haltd tag) := fields_of_encode _
theorem Fields.yield : Fields.Statement (.yield) := fields_of_encode _
theorem Fields.sadd (d a : BitVec 6) (b : SSrc) : Fields.Statement (.sadd d a b) := fields_of_encode _
theorem Fields.ssub (d a : BitVec 6) (b : SSrc) : Fields.Statement (.ssub d a b) := fields_of_encode _
theorem Fields.smul (d a : BitVec 6) (b : SSrc) : Fields.Statement (.smul d a b) := fields_of_encode _
theorem Fields.smulh (d a : BitVec 6) (b : SSrc) : Fields.Statement (.smulh d a b) := fields_of_encode _
theorem Fields.smulhn (d a : BitVec 6) (b : SSrc) : Fields.Statement (.smulhn d a b) := fields_of_encode _
theorem Fields.sdiv (d a : BitVec 6) (b : SSrc) : Fields.Statement (.sdiv d a b) := fields_of_encode _
theorem Fields.sdivn (d a : BitVec 6) (b : SSrc) : Fields.Statement (.sdivn d a b) := fields_of_encode _
theorem Fields.srem (n : Bool) (d a : BitVec 6) (b : SSrc) : Fields.Statement (.srem n d a b) := fields_of_encode _
theorem Fields.sand (d a : BitVec 6) (b : SSrc) : Fields.Statement (.sand d a b) := fields_of_encode _
theorem Fields.sor (d a : BitVec 6) (b : SSrc) : Fields.Statement (.sor d a b) := fields_of_encode _
theorem Fields.sxor (d a : BitVec 6) (b : SSrc) : Fields.Statement (.sxor d a b) := fields_of_encode _
theorem Fields.sshl (d a : BitVec 6) (b : SSrc) : Fields.Statement (.sshl d a b) := fields_of_encode _
theorem Fields.sshr (d a : BitVec 6) (b : SSrc) : Fields.Statement (.sshr d a b) := fields_of_encode _
theorem Fields.ssar (d a : BitVec 6) (b : SSrc) : Fields.Statement (.ssar d a b) := fields_of_encode _
theorem Fields.smin (d a : BitVec 6) (b : SSrc) : Fields.Statement (.smin d a b) := fields_of_encode _
theorem Fields.smax (d a : BitVec 6) (b : SSrc) : Fields.Statement (.smax d a b) := fields_of_encode _
theorem Fields.sminn (d a : BitVec 6) (b : SSrc) : Fields.Statement (.sminn d a b) := fields_of_encode _
theorem Fields.smaxn (d a : BitVec 6) (b : SSrc) : Fields.Statement (.smaxn d a b) := fields_of_encode _
theorem Fields.scmp (cc : BitVec 4) (d : BitVec 3) (a : BitVec 6) (b : SSrc) : Fields.Statement (.scmp cc d a b) := fields_of_encode _
theorem Fields.ssel (d a : BitVec 6) (b : SSrc) (k : BitVec 3) : Fields.Statement (.ssel d a b k) := fields_of_encode _
theorem Fields.sbfe (sgn : Bool) (d a : BitVec 6) (b : SSrc) : Fields.Statement (.sbfe sgn d a b) := fields_of_encode _
theorem Fields.spopc (d a : BitVec 6) : Fields.Statement (.spopc d a) := fields_of_encode _
theorem Fields.sclz (d a : BitVec 6) : Fields.Statement (.sclz d a) := fields_of_encode _
theorem Fields.slit (d : BitVec 6) (lit : W32) : Fields.Statement (.slit d lit) := fields_of_encode _
theorem Fields.slitHi (d a : BitVec 6) (lit : W32) : Fields.Statement (.slitHi d a lit) := fields_of_encode _
theorem Fields.sli (d : BitVec 6) (imm : BitVec 19) : Fields.Statement (.sli d imm) := fields_of_encode _
theorem Fields.saddi (d a : BitVec 6) (imm : BitVec 13) : Fields.Statement (.saddi d a imm) := fields_of_encode _
theorem Fields.sandi (d a : BitVec 6) (imm : BitVec 13) : Fields.Statement (.sandi d a imm) := fields_of_encode _
theorem Fields.sori (d a : BitVec 6) (imm : BitVec 13) : Fields.Statement (.sori d a imm) := fields_of_encode _
theorem Fields.sxori (d a : BitVec 6) (imm : BitVec 13) : Fields.Statement (.sxori d a imm) := fields_of_encode _
theorem Fields.sshli (d a : BitVec 6) (k : BitVec 6) : Fields.Statement (.sshli d a k) := fields_of_encode _
theorem Fields.sshri (d a : BitVec 6) (k : BitVec 6) : Fields.Statement (.sshri d a k) := fields_of_encode _
theorem Fields.srd (d : BitVec 6) (addr : BitVec 12) : Fields.Statement (.srd d addr) := fields_of_encode _
theorem Fields.swr (addr : BitVec 12) (r : BitVec 6) : Fields.Statement (.swr addr r) := fields_of_encode _
theorem Fields.time (d : BitVec 6) : Fields.Statement (.time d) := fields_of_encode _
theorem Fields.timeCyc (d : BitVec 6) : Fields.Statement (.timeCyc d) := fields_of_encode _
theorem Fields.tagof (d a : BitVec 6) (v : BitVec 8) : Fields.Statement (.tagof d a v) := fields_of_encode _
theorem Fields.reggrow (d : BitVec 6) (wait : Bool) (target : BitVec 9) : Fields.Statement (.reggrow d wait target) := fields_of_encode _
theorem Fields.regshrink (d : BitVec 6) (target : BitVec 9) : Fields.Statement (.regshrink d target) := fields_of_encode _
theorem Fields.rotset (size : BitVec 7) : Fields.Statement (.rotset size) := fields_of_encode _
theorem Fields.propose (base : BitVec 8) (len : BitVec 4) : Fields.Statement (.propose base len) := fields_of_encode _
theorem Fields.abandon : Fields.Statement (.abandon) := fields_of_encode _
theorem Fields.pstat (d : BitVec 6) (sel : BitVec 2) : Fields.Statement (.pstat d sel) := fields_of_encode _
theorem Fields.mand (d a b : BitVec 4) : Fields.Statement (.mand d a b) := fields_of_encode _
theorem Fields.mor (d a b : BitVec 4) : Fields.Statement (.mor d a b) := fields_of_encode _
theorem Fields.mxor (d a b : BitVec 4) : Fields.Statement (.mxor d a b) := fields_of_encode _
theorem Fields.mnot (d a : BitVec 4) : Fields.Statement (.mnot d a) := fields_of_encode _
theorem Fields.mpop (d : BitVec 6) (a : BitVec 4) : Fields.Statement (.mpop d a) := fields_of_encode _
theorem Fields.mexec (a : BitVec 4) : Fields.Statement (.mexec a) := fields_of_encode _
theorem Fields.sld (d a : BitVec 6) (w : BitVec 3) (off : BitVec 10) : Fields.Statement (.sld d a w off) := fields_of_encode _
theorem Fields.sst (d a : BitVec 6) (w : BitVec 3) (off : BitVec 10) : Fields.Statement (.sst d a w off) := fields_of_encode _
theorem Fields.sldk (d a : BitVec 6) (k : BitVec 13) : Fields.Statement (.sldk d a k) := fields_of_encode _
theorem Fields.handoverIn (a b : BitVec 6) : Fields.Statement (.handoverIn a b) := fields_of_encode _
theorem Fields.handoverOut (a b : BitVec 6) : Fields.Statement (.handoverOut a b) := fields_of_encode _
theorem Fields.wait (a : BitVec 6) (path : BitVec 3) : Fields.Statement (.wait a path) := fields_of_encode _
theorem Fields.bankset (d a : BitVec 6) (mode : BitVec 2) : Fields.Statement (.bankset d a mode) := fields_of_encode _
theorem Fields.fence (order : BitVec 2) (scope : BitVec 3) : Fields.Statement (.fence order scope) := fields_of_encode _
theorem Fields.cwait (d a b : BitVec 6) (eq : Bool) (scope : BitVec 3) : Fields.Statement (.cwait d a b eq scope) := fields_of_encode _
theorem Fields.yjob (d a : BitVec 6) : Fields.Statement (.yjob d a) := fields_of_encode _
theorem Fields.ystat (d a : BitVec 6) (wait : Bool) : Fields.Statement (.ystat d a wait) := fields_of_encode _
theorem Fields.deckFence : Fields.Statement (.deckFence) := fields_of_encode _
theorem Fields.deckQuery (d : BitVec 6) : Fields.Statement (.deckQuery d) := fields_of_encode _
theorem Fields.obres (d a : BitVec 6) (wait : Bool) (res : BitVec 3) : Fields.Statement (.obres d a wait res) := fields_of_encode _
theorem Fields.obrel (res : BitVec 3) : Fields.Statement (.obrel res) := fields_of_encode _
theorem Fields.gang (a : BitVec 6) : Fields.Statement (.gang a) := fields_of_encode _
theorem Fields.accz (tile : BitVec 2) (res : BitVec 3) : Fields.Statement (.accz tile res) := fields_of_encode _
theorem Fields.acczFree (tile : BitVec 2) : Fields.Statement (.acczFree tile) := fields_of_encode _
theorem Fields.launch (d a : BitVec 6) : Fields.Statement (.launch d a) := fields_of_encode _
theorem Fields.cidx (d a : BitVec 6) : Fields.Statement (.cidx d a) := fields_of_encode _
theorem Fields.cidxRank (d a : BitVec 6) : Fields.Statement (.cidxRank d a) := fields_of_encode _
theorem Fields.estrd (d a : BitVec 6) : Fields.Statement (.estrd d a) := fields_of_encode _
theorem Fields.estrdCpl (d : BitVec 6) : Fields.Statement (.estrdCpl d) := fields_of_encode _
theorem Fields.estwait (d a : BitVec 6) (test : BitVec 2) : Fields.Statement (.estwait d a test) := fields_of_encode _
theorem Fields.eststat (d a : BitVec 6) : Fields.Statement (.eststat d a) := fields_of_encode _
theorem Fields.eststatReset (d a : BitVec 6) (conf : BitVec 2) : Fields.Statement (.eststatReset d a conf) := fields_of_encode _
theorem Fields.blaze (k : BitVec 3) (so : BitVec 13) (lo : BitVec 12) : Fields.Statement (.blaze k so lo) := fields_of_encode _
theorem Fields.blazeTrap (k : BitVec 3) : Fields.Statement (.blazeTrap k) := fields_of_encode _
theorem Fields.vmov (w : LaneA) : Fields.Statement (.vmov w) := fields_of_encode _
theorem Fields.vadd (w : LaneA) : Fields.Statement (.vadd w) := fields_of_encode _
theorem Fields.vsub (w : LaneA) : Fields.Statement (.vsub w) := fields_of_encode _
theorem Fields.vmul (w : LaneA) : Fields.Statement (.vmul w) := fields_of_encode _
theorem Fields.vmulh (w : LaneA) : Fields.Statement (.vmulh w) := fields_of_encode _
theorem Fields.vmad (w : LaneA) : Fields.Statement (.vmad w) := fields_of_encode _
theorem Fields.vabsd (w : LaneA) : Fields.Statement (.vabsd w) := fields_of_encode _
theorem Fields.vmin (w : LaneA) : Fields.Statement (.vmin w) := fields_of_encode _
theorem Fields.vmax (w : LaneA) : Fields.Statement (.vmax w) := fields_of_encode _
theorem Fields.vand (w : LaneA) : Fields.Statement (.vand w) := fields_of_encode _
theorem Fields.vor (w : LaneA) : Fields.Statement (.vor w) := fields_of_encode _
theorem Fields.vxor (w : LaneA) : Fields.Statement (.vxor w) := fields_of_encode _
theorem Fields.vtri (w : LaneA) : Fields.Statement (.vtri w) := fields_of_encode _
theorem Fields.vsel (w : LaneA) : Fields.Statement (.vsel w) := fields_of_encode _
theorem Fields.vcmp (w : LaneA) : Fields.Statement (.vcmp w) := fields_of_encode _
theorem Fields.vshl (w : LaneA) : Fields.Statement (.vshl w) := fields_of_encode _
theorem Fields.vshr (w : LaneA) : Fields.Statement (.vshr w) := fields_of_encode _
theorem Fields.vsar (w : LaneA) : Fields.Statement (.vsar w) := fields_of_encode _
theorem Fields.vfshl (w : LaneA) : Fields.Statement (.vfshl w) := fields_of_encode _
theorem Fields.vfshr (w : LaneA) : Fields.Statement (.vfshr w) := fields_of_encode _
theorem Fields.vpopc (w : LaneA) : Fields.Statement (.vpopc w) := fields_of_encode _
theorem Fields.vclz (w : LaneA) : Fields.Statement (.vclz w) := fields_of_encode _
theorem Fields.vbrev (w : LaneA) : Fields.Statement (.vbrev w) := fields_of_encode _
theorem Fields.vbfe (w : LaneA) : Fields.Statement (.vbfe w) := fields_of_encode _
theorem Fields.vbfi (w : LaneA) : Fields.Statement (.vbfi w) := fields_of_encode _
theorem Fields.vlane (w : LaneA) : Fields.Statement (.vlane w) := fields_of_encode _
theorem Fields.fadd (w : LaneA) : Fields.Statement (.fadd w) := fields_of_encode _
theorem Fields.fsub (w : LaneA) : Fields.Statement (.fsub w) := fields_of_encode _
theorem Fields.fmul (w : LaneA) : Fields.Statement (.fmul w) := fields_of_encode _
theorem Fields.ffma (w : LaneA) : Fields.Statement (.ffma w) := fields_of_encode _
theorem Fields.fmin (w : LaneA) : Fields.Statement (.fmin w) := fields_of_encode _
theorem Fields.fmax (w : LaneA) : Fields.Statement (.fmax w) := fields_of_encode _
theorem Fields.fcmp (w : LaneA) : Fields.Statement (.fcmp w) := fields_of_encode _
theorem Fields.fclass (w : LaneA) : Fields.Statement (.fclass w) := fields_of_encode _
theorem Fields.frcp (w : LaneA) : Fields.Statement (.frcp w) := fields_of_encode _
theorem Fields.frsq (w : LaneA) : Fields.Statement (.frsq w) := fields_of_encode _
theorem Fields.fsqrt (w : LaneA) : Fields.Statement (.fsqrt w) := fields_of_encode _
theorem Fields.fdiv (w : LaneA) : Fields.Statement (.fdiv w) := fields_of_encode _
theorem Fields.fexp2 (w : LaneA) : Fields.Statement (.fexp2 w) := fields_of_encode _
theorem Fields.flog2 (w : LaneA) : Fields.Statement (.flog2 w) := fields_of_encode _
theorem Fields.fcvt (w : LaneA) : Fields.Statement (.fcvt w) := fields_of_encode _
theorem Fields.frnd (w : LaneA) : Fields.Statement (.frnd w) := fields_of_encode _
theorem Fields.vshuf (w : LaneA) : Fields.Statement (.vshuf w) := fields_of_encode _
theorem Fields.vbcast (w : LaneA) : Fields.Statement (.vbcast w) := fields_of_encode _
theorem Fields.vrot (w : LaneA) : Fields.Statement (.vrot w) := fields_of_encode _
theorem Fields.vscan (w : LaneA) : Fields.Statement (.vscan w) := fields_of_encode _
theorem Fields.vred (w : LaneA) : Fields.Statement (.vred w) := fields_of_encode _
theorem Fields.msave (w : LaneA) : Fields.Statement (.msave w) := fields_of_encode _
theorem Fields.mload (w : LaneA) : Fields.Statement (.mload w) := fields_of_encode _
theorem Fields.accept (h : Hdr) (d : BitVec 4) (a : BitVec 8) (b : Option (BitVec 8)) : Fields.Statement (.accept h d a b) := fields_of_encode _
theorem Fields.qpush (h : Hdr) (ty : Ty) (c : BitVec 8) (q : BitVec 4) : Fields.Statement (.qpush h ty c q) := fields_of_encode _
theorem Fields.qpop (h : Hdr) (ty : Ty) (d : BitVec 8) (q : BitVec 4) : Fields.Statement (.qpop h ty d q) := fields_of_encode _
theorem Fields.rand (h : Hdr) (ty : Ty) (d : BitVec 8) : Fields.Statement (.rand h ty d) := fields_of_encode _
theorem Fields.randf (h : Hdr) (ty : Ty) (d : BitVec 8) : Fields.Statement (.randf h ty d) := fields_of_encode _
theorem Fields.randn (h : Hdr) (ty : Ty) (d : BitVec 8) : Fields.Statement (.randn h ty d) := fields_of_encode _
theorem Fields.estadd (h : Hdr) (ty : Ty) (a : BitVec 8) (hs : HandleSrc) : Fields.Statement (.estadd h ty a hs) := fields_of_encode _
theorem Fields.vld (w : LaneM) : Fields.Statement (.vld w) := fields_of_encode _
theorem Fields.vst (w : LaneM) : Fields.Statement (.vst w) := fields_of_encode _
theorem Fields.vstSlc (w : LaneM) : Fields.Statement (.vstSlc w) := fields_of_encode _
theorem Fields.vpfx (w : LaneM) : Fields.Statement (.vpfx w) := fields_of_encode _
theorem Fields.vat (w : LaneAt) : Fields.Statement (.vat w) := fields_of_encode _
theorem Fields.vatr (w : LaneAt) : Fields.Statement (.vatr w) := fields_of_encode _
theorem Fields.vlds (w : LaneM) : Fields.Statement (.vlds w) := fields_of_encode _
theorem Fields.vsts (w : LaneM) : Fields.Statement (.vsts w) := fields_of_encode _
theorem Fields.fpush (h : Hdr) (ty : Ty) (c : BitVec 8) (rel : Bool) (f : BitVec 3) : Fields.Statement (.fpush h ty c rel f) := fields_of_encode _
theorem Fields.fpop (h : Hdr) (ty : Ty) (d : BitVec 8) (acq : Bool) (f : BitVec 3) : Fields.Statement (.fpop h ty d acq f) := fields_of_encode _
theorem Fields.obld (w : LaneM) : Fields.Statement (.obld w) := fields_of_encode _
theorem Fields.mma (h : Hdr) (b : BitVec 8) (tile : BitVec 2) (res : BitVec 3) (slab : SlabSrc) (fmt : BitVec 4) : Fields.Statement (.mma h b tile res slab fmt) := fields_of_encode _
theorem Fields.accrd (h : Hdr) (ty : Ty) (d a : BitVec 8) (rnd : BitVec 2) (alt ftz : Bool) (tile : BitVec 2) (z : Bool) : Fields.Statement (.accrd h ty d a rnd alt ftz tile z) := fields_of_encode _
theorem Fields.accxRd (h : Hdr) (tile : BitVec 2) (d a : BitVec 8) : Fields.Statement (.accxRd h tile d a) := fields_of_encode _
theorem Fields.accxWr (h : Hdr) (tile : BitVec 2) (a c : BitVec 8) : Fields.Statement (.accxWr h tile a c) := fields_of_encode _
theorem Fields.accxAdd (h : Hdr) (tile : BitVec 2) (a c : BitVec 8) : Fields.Statement (.accxAdd h tile a c) := fields_of_encode _
theorem Fields.accxFlg (h : Hdr) (tile : BitVec 2) (d : BitVec 8) : Fields.Statement (.accxFlg h tile d) := fields_of_encode _
theorem Fields.accxOrf (h : Hdr) (tile : BitVec 2) (c : BitVec 8) : Fields.Statement (.accxOrf h tile c) := fields_of_encode _
theorem Fields.trapDispatch (p : PathRef) : Fields.Statement (.trapDispatch p) := fields_of_encode _
theorem Fields.deferralHoldExpiry (p : PathRef) : Fields.Statement (.deferralHoldExpiry p) := fields_of_encode _
theorem Fields.switchMarkerWaitEnd (p : PathRef) : Fields.Statement (.switchMarkerWaitEnd p) := fields_of_encode _
theorem Fields.longLatencyWriteback (core slot wid : Nat) : Fields.Statement (.longLatencyWriteback core slot wid) := fields_of_encode _
theorem Fields.forwardProgressEviction (core : Nat) : Fields.Statement (.forwardProgressEviction core) := fields_of_encode _
theorem Fields.allotmentDeadlockEviction (core : Nat) : Fields.Statement (.allotmentDeadlockEviction core) := fields_of_encode _
theorem Fields.reggrowGrant (p : PathRef) : Fields.Statement (.reggrowGrant p) := fields_of_encode _
theorem Fields.writeReservationGrant (p : PathRef) : Fields.Statement (.writeReservationGrant p) := fields_of_encode _
theorem Fields.tileAllotment (p : PathRef) : Fields.Statement (.tileAllotment p) := fields_of_encode _
theorem Fields.obresGrant (p : PathRef) : Fields.Statement (.obresGrant p) := fields_of_encode _
theorem Fields.scratchRefillDone (p : PathRef) : Fields.Statement (.scratchRefillDone p) := fields_of_encode _
theorem Fields.bankDrainDone (stand bank : Nat) : Fields.Statement (.bankDrainDone stand bank) := fields_of_encode _
theorem Fields.loadTakesEffect (p : PathRef) (id : Nat) : Fields.Statement (.loadTakesEffect p id) := fields_of_encode _
theorem Fields.storeTakesEffect (p : PathRef) (id : Nat) : Fields.Statement (.storeTakesEffect p id) := fields_of_encode _
theorem Fields.returningAtomic (p : PathRef) (id : Nat) : Fields.Statement (.returningAtomic p id) := fields_of_encode _
theorem Fields.commutativeMerge (stand k : Nat) : Fields.Statement (.commutativeMerge stand k) := fields_of_encode _
theorem Fields.stagingLogRelease (l : LaunchRef) : Fields.Statement (.stagingLogRelease l) := fields_of_encode _
theorem Fields.ticketPass (l : LaunchRef) : Fields.Statement (.ticketPass l) := fields_of_encode _
theorem Fields.translationWalkDone (p : PathRef) : Fields.Statement (.translationWalkDone p) := fields_of_encode _
theorem Fields.wordReplay (p : PathRef) : Fields.Statement (.wordReplay p) := fields_of_encode _
theorem Fields.invalidationComplete (part : Nat) : Fields.Statement (.invalidationComplete part) := fields_of_encode _
theorem Fields.scrubComplete (frame : Nat) : Fields.Statement (.scrubComplete frame) := fields_of_encode _
theorem Fields.migration (part leaf : Nat) : Fields.Statement (.migration part leaf) := fields_of_encode _
theorem Fields.migrationComplete (part leaf : Nat) : Fields.Statement (.migrationComplete part leaf) := fields_of_encode _
theorem Fields.jobDispatch (part : Nat) : Fields.Statement (.jobDispatch part) := fields_of_encode _
theorem Fields.jobRemoteDispatch (part : Nat) : Fields.Statement (.jobRemoteDispatch part) := fields_of_encode _
theorem Fields.jobComplete (part job : Nat) : Fields.Statement (.jobComplete part job) := fields_of_encode _
theorem Fields.jointForm (t : TeamRef) : Fields.Statement (.jointForm t) := fields_of_encode _
theorem Fields.jointComplete (core : Nat) : Fields.Statement (.jointComplete core) := fields_of_encode _
theorem Fields.admission (part : Nat) : Fields.Statement (.admission part) := fields_of_encode _
theorem Fields.placement (part : Nat) : Fields.Statement (.placement part) := fields_of_encode _
theorem Fields.priorityPreempt (part : Nat) : Fields.Statement (.priorityPreempt part) := fields_of_encode _
theorem Fields.sliceExpiry (t : TeamRef) : Fields.Statement (.sliceExpiry t) := fields_of_encode _
theorem Fields.timeLimit (l : LaunchRef) : Fields.Statement (.timeLimit l) := fields_of_encode _
theorem Fields.teamSave (t : TeamRef) : Fields.Statement (.teamSave t) := fields_of_encode _
theorem Fields.commitStep (l : LaunchRef) : Fields.Statement (.commitStep l) := fields_of_encode _
theorem Fields.stopRuleFire (l : LaunchRef) : Fields.Statement (.stopRuleFire l) := fields_of_encode _
theorem Fields.launchCompletion (l : LaunchRef) : Fields.Statement (.launchCompletion l) := fields_of_encode _
theorem Fields.sensorSample : Fields.Statement (.sensorSample) := fields_of_encode _
theorem Fields.refreshClassFall (pair : Nat) : Fields.Statement (.refreshClassFall pair) := fields_of_encode _
theorem Fields.classChangeDone (part : Nat) : Fields.Statement (.classChangeDone part) := fields_of_encode _
theorem Fields.haltLine (part : Nat) : Fields.Statement (.haltLine part) := fields_of_encode _
theorem Fields.stepComplete (p : PathRef) : Fields.Statement (.stepComplete p) := fields_of_encode _
theorem Fields.debugWriteVreg (part : Nat) (cmd : W64) : Fields.Statement (.debugWriteVreg part cmd) := fields_of_encode _
theorem Fields.debugWriteSreg (part : Nat) (cmd : W64) : Fields.Statement (.debugWriteSreg part cmd) := fields_of_encode _
theorem Fields.profileSample (core : Nat) : Fields.Statement (.profileSample core) := fields_of_encode _
theorem Fields.partitionResetDone (part : Nat) : Fields.Statement (.partitionResetDone part) := fields_of_encode _
theorem Fields.kickComplete (part : Nat) : Fields.Statement (.kickComplete part) := fields_of_encode _
theorem Fields.firmwareVerify : Fields.Statement (.firmwareVerify) := fields_of_encode _
theorem Fields.microcodeSwitch (unit : Nat) : Fields.Statement (.microcodeSwitch unit) := fields_of_encode _
theorem Fields.vaultRecalDone (vault : Nat) : Fields.Statement (.vaultRecalDone vault) := fields_of_encode _
theorem Fields.handoverComplete (p : PathRef) : Fields.Statement (.handoverComplete p) := fields_of_encode _
theorem Fields.gatherQueueEntry (part job : Nat) : Fields.Statement (.gatherQueueEntry part job) := fields_of_encode _
theorem Fields.storeBufferLeave (p : PathRef) (id : Nat) : Fields.Statement (.storeBufferLeave p id) := fields_of_encode _
theorem Fields.coreClock (core : Nat) : Fields.Statement (.coreClock core) := fields_of_encode _
theorem Fields.faultAnswer (part : Nat) (v : W64) : Fields.Statement (.faultAnswer part v) := fields_of_encode _
theorem Fields.faultQueueBase (part : Nat) (v : W64) : Fields.Statement (.faultQueueBase part v) := fields_of_encode _
theorem Fields.faultQueueHead (part : Nat) (v : W64) : Fields.Statement (.faultQueueHead part v) := fields_of_encode _
theorem Fields.invalidationGo (part : Nat) (v : W64) : Fields.Statement (.invalidationGo part v) := fields_of_encode _
theorem Fields.frameFree (part : Nat) (v : W64) : Fields.Statement (.frameFree part v) := fields_of_encode _
theorem Fields.nearRingSet (part : Nat) (v : W64) : Fields.Statement (.nearRingSet part v) := fields_of_encode _
theorem Fields.releasedRingSet (part : Nat) (v : W64) : Fields.Statement (.releasedRingSet part v) := fields_of_encode _
theorem Fields.collectiveTimeout (part job : Nat) : Fields.Statement (.collectiveTimeout part job) := fields_of_encode _
theorem Fields.teamRestore (t : TeamRef) (core : Nat) : Fields.Statement (.teamRestore t core) := fields_of_encode _
theorem Fields.dramRefresh (vault bank : Nat) : Fields.Statement (.dramRefresh vault bank) := fields_of_encode _
theorem Fields.slopeEpisode (part : Nat) (on : Bool) : Fields.Statement (.slopeEpisode part on) := fields_of_encode _
theorem Fields.powerCapSet (part : Nat) (v : W64) : Fields.Statement (.powerCapSet part v) := fields_of_encode _
theorem Fields.powerShareSet (part : Nat) (v : W64) : Fields.Statement (.powerShareSet part v) := fields_of_encode _
theorem Fields.vaultFloorSet (part : Nat) (v : W64) : Fields.Statement (.vaultFloorSet part v) := fields_of_encode _
theorem Fields.classChange (part : Nat) (v : W64) : Fields.Statement (.classChange part v) := fields_of_encode _
theorem Fields.powerStatusRead (part : Nat) : Fields.Statement (.powerStatusRead part) := fields_of_encode _
theorem Fields.uncorrectable (part kind pa : Nat) : Fields.Statement (.uncorrectable part kind pa) := fields_of_encode _
theorem Fields.debugHold (part : Nat) (cmd : W64) : Fields.Statement (.debugHold part cmd) := fields_of_encode _
theorem Fields.debugRelease (part : Nat) (cmd : W64) : Fields.Statement (.debugRelease part cmd) := fields_of_encode _
theorem Fields.debugStep (part : Nat) (cmd : W64) : Fields.Statement (.debugStep part cmd) := fields_of_encode _
theorem Fields.debugDump (part : Nat) (cmd : W64) : Fields.Statement (.debugDump part cmd) := fields_of_encode _
theorem Fields.breakpointHit (p : PathRef) : Fields.Statement (.breakpointHit p) := fields_of_encode _
theorem Fields.eventRingSet (part : Nat) (team : Bool) (v : W64) : Fields.Statement (.eventRingSet part team v) := fields_of_encode _
theorem Fields.dropCountClear (part : Nat) : Fields.Statement (.dropCountClear part) := fields_of_encode _
theorem Fields.partitionReset (part : Nat) (v : W64) : Fields.Statement (.partitionReset part v) := fields_of_encode _
theorem Fields.kickIn (part : Nat) : Fields.Statement (.kickIn part) := fields_of_encode _
theorem Fields.kickOut (part : Nat) : Fields.Statement (.kickOut part) := fields_of_encode _
theorem Fields.launchSubmit (part : Nat) (v : W64) : Fields.Statement (.launchSubmit part v) := fields_of_encode _
theorem Fields.completionRingSet (part : Nat) (v : W64) : Fields.Statement (.completionRingSet part v) := fields_of_encode _
theorem Fields.stopAreaSet (part : Nat) (v : W64) : Fields.Statement (.stopAreaSet part v) := fields_of_encode _
theorem Fields.estimatorAlloc (part die : Nat) : Fields.Statement (.estimatorAlloc part die) := fields_of_encode _
theorem Fields.estimatorFree (part : Nat) (v : W64) : Fields.Statement (.estimatorFree part v) := fields_of_encode _
theorem Fields.snapshotPoolSet (part : Nat) (len : Bool) (v : W64) : Fields.Statement (.snapshotPoolSet part len v) := fields_of_encode _
theorem Fields.startCold : Fields.Statement (.startCold) := fields_of_encode _
theorem Fields.startWarm : Fields.Statement (.startWarm) := fields_of_encode _
theorem Fields.partitionSplit (v : W64) : Fields.Statement (.partitionSplit v) := fields_of_encode _
theorem Fields.microcodeUpdate (v : W64) : Fields.Statement (.microcodeUpdate v) := fields_of_encode _
theorem Fields.spareSwap (v : W64) : Fields.Statement (.spareSwap v) := fields_of_encode _
theorem Fields.vaultRecal (v : W64) : Fields.Statement (.vaultRecal v) := fields_of_encode _
theorem Fields.attestation (v : W64) : Fields.Statement (.attestation v) := fields_of_encode _
theorem Fields.registerWrite (off : Nat) (v : W64) : Fields.Statement (.registerWrite off v) := fields_of_encode _
theorem Fields.completionRingHead (part : Nat) (v : W64) : Fields.Statement (.completionRingHead part v) := fields_of_encode _
theorem Fields.bar2Access (addr : Nat) (w : Option (List Byte)) (len : Nat) : Fields.Statement (.bar2Access addr w len) := fields_of_encode _
theorem Fields.coreClockGating (core : Nat) (gate : Bool) : Fields.Statement (.coreClockGating core gate) := fields_of_encode _
theorem Fields.voltageDroop (stand : Nat) (on : Bool) : Fields.Statement (.voltageDroop stand on) := fields_of_encode _
theorem Fields.portTrainedAndUp (port : Nat) (up : Bool) : Fields.Statement (.portTrainedAndUp port up) := fields_of_encode _

end Sys2Proof.Laws
end

