-- ==== Sys2Proof/Laws/Tiles.lean ====
section
/-! SUPPORT. The race detector and tile effects (R305): while it holds accesses of one crew alone, an effect of that crew meets
no conflict. -/

namespace Sys2Proof.Machine

/-- Every access that the detector holds is of this crew. -/
def State.DetOwn (s : State) (crew : Nat) : Prop := ∀ d ∈ s.det, ∀ a ∈ d.writes ++ d.reads, a.crew = crew

/-- A record whose accesses are all of one crew. -/
def Det.Own (d : Det) (crew : Nat) : Prop := ∀ a ∈ d.writes ++ d.reads, a.crew = crew

theorem detOf_own {s : State} {crew : Nat} (h : s.DetOwn crew) (g : Gran) : (s.detOf g).Own crew := by
  unfold State.detOf
  cases e : s.det.find? fun d => d.gran == g with
  | none => intro a ha; simp at ha
  | some d => exact h d (List.mem_of_find?_eq_some e)

theorem race_none {d : Det} {x : DAcc} (h : d.Own x.crew) (w : Bool) (k : Clock) : d.race x w k = none := by
  have c : ∀ a ∈ d.writes ++ d.reads, ∀ b : Bool, conflicts a b x w = false := fun a ha b => by
    simp [conflicts, h a ha]
  have f : ∀ (ys : List DAcc) (b : Bool), (∀ a ∈ ys, a ∈ d.writes ++ d.reads) →
      ys.find? (fun p => conflicts p b x w && decide (SMap.get 0 k p.thr < p.place) && SMap.get 0 k (selfKey p.id) == 0) = none := fun ys b hs => by
    rw [List.find?_eq_none]
    intro a ha
    simp [c a (hs a ha) b]
  unfold Det.race
  simp only [f d.writes true (fun a ha => List.mem_append_left _ ha), f d.reads false (fun a ha => List.mem_append_right _ ha)]

theorem note_own {d : Det} {x : DAcc} (h : d.Own x.crew) (w : Bool) : (d.note x w).Own x.crew := by
  intro a ha
  have own : a = x ∨ a ∈ d.writes ++ d.reads := by
    cases w <;> simp only [Det.note, Bool.false_eq_true, if_false, if_true, List.mem_append, List.mem_filter, List.mem_singleton] at ha ⊢ <;> tauto
  rcases own with rfl | m
  · rfl
  · exact h a m

theorem setDet_own {s : State} {crew : Nat} {d : Det} (h : s.DetOwn crew) (hd : d.Own crew) : (s.setDet d).DetOwn crew := by
  intro e he
  simp only [State.setDet, List.mem_cons] at he
  rcases he with rfl | he
  · exact hd
  · exact h e (List.mem_filter.mp he).1

/-- A tile access of one crew, where the detector holds no access of another. -/
theorem tileAccess_ok {s : State} {part team tile n : Nat} {a : DAcc} {k : Clock} {w : Bool} (h : s.DetOwn a.crew) :
    ∃ u, s.tileAccess part team tile n [(a, k)] w = .ok u ∧ u.DetOwn a.crew := by
  have r : (s.detOf (.tile team tile n)).race { a with who := { a.who with addr := 32 * n } } w k = none :=
    race_none (detOf_own h _) w k
  refine ⟨s.setDet ((s.detOf (.tile team tile n)).note { a with who := { a.who with addr := 32 * n } } w), ?_, ?_⟩
  · simp [State.tileAccess, r]
  · exact setDet_own h (note_own (x := { a with who := { a.who with addr := 32 * n } }) (detOf_own h _) w)

theorem tileAccesses_ok {part team tile : Nat} {a : DAcc} {k : Clock} {w : Bool} (ns : List Nat) :
    ∀ {s : State}, s.DetOwn a.crew → ∃ u, s.tileAccesses part team tile ns [(a, k)] w = .ok u := by
  induction ns with
  | nil => intro s _; exact ⟨s, rfl⟩
  | cons n ns ih =>
    intro s h
    obtain ⟨u, e, hu⟩ := tileAccess_ok (part := part) (team := team) (tile := tile) (n := n) (k := k) (w := w) h
    obtain ⟨v, ev⟩ := ih hu
    exact ⟨v, by simpa [State.tileAccesses, e] using ev⟩

/-- A tile effect of one crew, where the detector holds no access of another. -/
theorem tileEffect_ok {s : State} {c : Crew} {p : Path} {tile : Nat} {ns : List Nat} {w : Bool} (h : s.DetOwn c.id) :
    ∃ u, s.tileEffect c p tile ns w = .ok u := tileAccesses_ok (distinct ns) h

end Sys2Proof.Machine
end

