-- ==== Sys2Proof/Laws/Updates.lean ====
section
/-! SUPPORT. The fields of the state after each named update: one lemma for each field, so that no later proof unfolds a record
update. -/

namespace Sys2Proof.Machine

/-! ### modCrew -/

@[simp] theorem modCrew_time (s : State) (id : Nat) (f : Crew → Crew) : (s.modCrew id f).time = s.time := rfl
@[simp] theorem modCrew_sampled (s : State) (id : Nat) (f : Crew → Crew) : (s.modCrew id f).sampled = s.sampled := rfl
@[simp] theorem modCrew_mem (s : State) (id : Nat) (f : Crew → Crew) : (s.modCrew id f).mem = s.mem := rfl
@[simp] theorem modCrew_host (s : State) (id : Nat) (f : Crew → Crew) : (s.modCrew id f).host = s.host := rfl
@[simp] theorem modCrew_frames (s : State) (id : Nat) (f : Crew → Crew) : (s.modCrew id f).frames = s.frames := rfl
@[simp] theorem modCrew_farCnt (s : State) (id : Nat) (f : Crew → Crew) : (s.modCrew id f).farCnt = s.farCnt := rfl
@[simp] theorem modCrew_past (s : State) (id : Nat) (f : Crew → Crew) : (s.modCrew id f).past = s.past := rfl
@[simp] theorem modCrew_unseen (s : State) (id : Nat) (f : Crew → Crew) : (s.modCrew id f).unseen = s.unseen := rfl
@[simp] theorem modCrew_undos (s : State) (id : Nat) (f : Crew → Crew) : (s.modCrew id f).undos = s.undos := rfl
@[simp] theorem modCrew_recs (s : State) (id : Nat) (f : Crew → Crew) : (s.modCrew id f).recs = s.recs := rfl
@[simp] theorem modCrew_raised (s : State) (id : Nat) (f : Crew → Crew) : (s.modCrew id f).raised = s.raised := rfl
@[simp] theorem modCrew_launches (s : State) (id : Nat) (f : Crew → Crew) : (s.modCrew id f).launches = s.launches := rfl
@[simp] theorem modCrew_teams (s : State) (id : Nat) (f : Crew → Crew) : (s.modCrew id f).teams = s.teams := rfl
@[simp] theorem modCrew_crews (s : State) (id : Nat) (f : Crew → Crew) : (s.modCrew id f).crews = (s.crews.map fun c => if c.id == id then f c else c) := rfl
@[simp] theorem modCrew_jobs (s : State) (id : Nat) (f : Crew → Crew) : (s.modCrew id f).jobs = s.jobs := rfl
@[simp] theorem modCrew_ests (s : State) (id : Nat) (f : Crew → Crew) : (s.modCrew id f).ests = s.ests := rfl
@[simp] theorem modCrew_det (s : State) (id : Nat) (f : Crew → Crew) : (s.modCrew id f).det = s.det := rfl
@[simp] theorem modCrew_cores (s : State) (id : Nat) (f : Crew → Crew) : (s.modCrew id f).cores = s.cores := rfl
@[simp] theorem modCrew_stands (s : State) (id : Nat) (f : Crew → Crew) : (s.modCrew id f).stands = s.stands := rfl
@[simp] theorem modCrew_pairs (s : State) (id : Nat) (f : Crew → Crew) : (s.modCrew id f).pairs = s.pairs := rfl
@[simp] theorem modCrew_parts (s : State) (id : Nat) (f : Crew → Crew) : (s.modCrew id f).parts = s.parts := rfl
@[simp] theorem modCrew_svc (s : State) (id : Nat) (f : Crew → Crew) : (s.modCrew id f).svc = s.svc := rfl
@[simp] theorem modCrew_msix (s : State) (id : Nat) (f : Crew → Crew) : (s.modCrew id f).msix = s.msix := rfl
@[simp] theorem modCrew_cur (s : State) (id : Nat) (f : Crew → Crew) : (s.modCrew id f).cur = s.cur := rfl
@[simp] theorem modCrew_inputs (s : State) (id : Nat) (f : Crew → Crew) : (s.modCrew id f).inputs = s.inputs := rfl
@[simp] theorem modCrew_free (s : State) (id : Nat) (f : Crew → Crew) : (s.modCrew id f).free = s.free := rfl
@[simp] theorem modCrew_nextId (s : State) (id : Nat) (f : Crew → Crew) : (s.modCrew id f).nextId = s.nextId := rfl
@[simp] theorem modCrew_homeLast (s : State) (id : Nat) (f : Crew → Crew) : (s.modCrew id f).homeLast = s.homeLast := rfl

/-! ### modTeam -/

@[simp] theorem modTeam_time (s : State) (id : Nat) (f : Team → Team) : (s.modTeam id f).time = s.time := rfl
@[simp] theorem modTeam_sampled (s : State) (id : Nat) (f : Team → Team) : (s.modTeam id f).sampled = s.sampled := rfl
@[simp] theorem modTeam_mem (s : State) (id : Nat) (f : Team → Team) : (s.modTeam id f).mem = s.mem := rfl
@[simp] theorem modTeam_host (s : State) (id : Nat) (f : Team → Team) : (s.modTeam id f).host = s.host := rfl
@[simp] theorem modTeam_frames (s : State) (id : Nat) (f : Team → Team) : (s.modTeam id f).frames = s.frames := rfl
@[simp] theorem modTeam_farCnt (s : State) (id : Nat) (f : Team → Team) : (s.modTeam id f).farCnt = s.farCnt := rfl
@[simp] theorem modTeam_past (s : State) (id : Nat) (f : Team → Team) : (s.modTeam id f).past = s.past := rfl
@[simp] theorem modTeam_unseen (s : State) (id : Nat) (f : Team → Team) : (s.modTeam id f).unseen = s.unseen := rfl
@[simp] theorem modTeam_undos (s : State) (id : Nat) (f : Team → Team) : (s.modTeam id f).undos = s.undos := rfl
@[simp] theorem modTeam_recs (s : State) (id : Nat) (f : Team → Team) : (s.modTeam id f).recs = s.recs := rfl
@[simp] theorem modTeam_raised (s : State) (id : Nat) (f : Team → Team) : (s.modTeam id f).raised = s.raised := rfl
@[simp] theorem modTeam_launches (s : State) (id : Nat) (f : Team → Team) : (s.modTeam id f).launches = s.launches := rfl
@[simp] theorem modTeam_teams (s : State) (id : Nat) (f : Team → Team) : (s.modTeam id f).teams = (s.teams.map fun t => if t.id == id then f t else t) := rfl
@[simp] theorem modTeam_crews (s : State) (id : Nat) (f : Team → Team) : (s.modTeam id f).crews = s.crews := rfl
@[simp] theorem modTeam_jobs (s : State) (id : Nat) (f : Team → Team) : (s.modTeam id f).jobs = s.jobs := rfl
@[simp] theorem modTeam_ests (s : State) (id : Nat) (f : Team → Team) : (s.modTeam id f).ests = s.ests := rfl
@[simp] theorem modTeam_det (s : State) (id : Nat) (f : Team → Team) : (s.modTeam id f).det = s.det := rfl
@[simp] theorem modTeam_cores (s : State) (id : Nat) (f : Team → Team) : (s.modTeam id f).cores = s.cores := rfl
@[simp] theorem modTeam_stands (s : State) (id : Nat) (f : Team → Team) : (s.modTeam id f).stands = s.stands := rfl
@[simp] theorem modTeam_pairs (s : State) (id : Nat) (f : Team → Team) : (s.modTeam id f).pairs = s.pairs := rfl
@[simp] theorem modTeam_parts (s : State) (id : Nat) (f : Team → Team) : (s.modTeam id f).parts = s.parts := rfl
@[simp] theorem modTeam_svc (s : State) (id : Nat) (f : Team → Team) : (s.modTeam id f).svc = s.svc := rfl
@[simp] theorem modTeam_msix (s : State) (id : Nat) (f : Team → Team) : (s.modTeam id f).msix = s.msix := rfl
@[simp] theorem modTeam_cur (s : State) (id : Nat) (f : Team → Team) : (s.modTeam id f).cur = s.cur := rfl
@[simp] theorem modTeam_inputs (s : State) (id : Nat) (f : Team → Team) : (s.modTeam id f).inputs = s.inputs := rfl
@[simp] theorem modTeam_free (s : State) (id : Nat) (f : Team → Team) : (s.modTeam id f).free = s.free := rfl
@[simp] theorem modTeam_nextId (s : State) (id : Nat) (f : Team → Team) : (s.modTeam id f).nextId = s.nextId := rfl
@[simp] theorem modTeam_homeLast (s : State) (id : Nat) (f : Team → Team) : (s.modTeam id f).homeLast = s.homeLast := rfl

/-! ### modLaunch -/

@[simp] theorem modLaunch_time (s : State) (part lid : Nat) (f : Launch → Launch) : (s.modLaunch part lid f).time = s.time := rfl
@[simp] theorem modLaunch_sampled (s : State) (part lid : Nat) (f : Launch → Launch) : (s.modLaunch part lid f).sampled = s.sampled := rfl
@[simp] theorem modLaunch_mem (s : State) (part lid : Nat) (f : Launch → Launch) : (s.modLaunch part lid f).mem = s.mem := rfl
@[simp] theorem modLaunch_host (s : State) (part lid : Nat) (f : Launch → Launch) : (s.modLaunch part lid f).host = s.host := rfl
@[simp] theorem modLaunch_frames (s : State) (part lid : Nat) (f : Launch → Launch) : (s.modLaunch part lid f).frames = s.frames := rfl
@[simp] theorem modLaunch_farCnt (s : State) (part lid : Nat) (f : Launch → Launch) : (s.modLaunch part lid f).farCnt = s.farCnt := rfl
@[simp] theorem modLaunch_past (s : State) (part lid : Nat) (f : Launch → Launch) : (s.modLaunch part lid f).past = s.past := rfl
@[simp] theorem modLaunch_unseen (s : State) (part lid : Nat) (f : Launch → Launch) : (s.modLaunch part lid f).unseen = s.unseen := rfl
@[simp] theorem modLaunch_undos (s : State) (part lid : Nat) (f : Launch → Launch) : (s.modLaunch part lid f).undos = s.undos := rfl
@[simp] theorem modLaunch_recs (s : State) (part lid : Nat) (f : Launch → Launch) : (s.modLaunch part lid f).recs = s.recs := rfl
@[simp] theorem modLaunch_raised (s : State) (part lid : Nat) (f : Launch → Launch) : (s.modLaunch part lid f).raised = s.raised := rfl
@[simp] theorem modLaunch_launches (s : State) (part lid : Nat) (f : Launch → Launch) : (s.modLaunch part lid f).launches = (s.launches.map fun l => if l.part == part && l.lid == lid then f l else l) := rfl
@[simp] theorem modLaunch_teams (s : State) (part lid : Nat) (f : Launch → Launch) : (s.modLaunch part lid f).teams = s.teams := rfl
@[simp] theorem modLaunch_crews (s : State) (part lid : Nat) (f : Launch → Launch) : (s.modLaunch part lid f).crews = s.crews := rfl
@[simp] theorem modLaunch_jobs (s : State) (part lid : Nat) (f : Launch → Launch) : (s.modLaunch part lid f).jobs = s.jobs := rfl
@[simp] theorem modLaunch_ests (s : State) (part lid : Nat) (f : Launch → Launch) : (s.modLaunch part lid f).ests = s.ests := rfl
@[simp] theorem modLaunch_det (s : State) (part lid : Nat) (f : Launch → Launch) : (s.modLaunch part lid f).det = s.det := rfl
@[simp] theorem modLaunch_cores (s : State) (part lid : Nat) (f : Launch → Launch) : (s.modLaunch part lid f).cores = s.cores := rfl
@[simp] theorem modLaunch_stands (s : State) (part lid : Nat) (f : Launch → Launch) : (s.modLaunch part lid f).stands = s.stands := rfl
@[simp] theorem modLaunch_pairs (s : State) (part lid : Nat) (f : Launch → Launch) : (s.modLaunch part lid f).pairs = s.pairs := rfl
@[simp] theorem modLaunch_parts (s : State) (part lid : Nat) (f : Launch → Launch) : (s.modLaunch part lid f).parts = s.parts := rfl
@[simp] theorem modLaunch_svc (s : State) (part lid : Nat) (f : Launch → Launch) : (s.modLaunch part lid f).svc = s.svc := rfl
@[simp] theorem modLaunch_msix (s : State) (part lid : Nat) (f : Launch → Launch) : (s.modLaunch part lid f).msix = s.msix := rfl
@[simp] theorem modLaunch_cur (s : State) (part lid : Nat) (f : Launch → Launch) : (s.modLaunch part lid f).cur = s.cur := rfl
@[simp] theorem modLaunch_inputs (s : State) (part lid : Nat) (f : Launch → Launch) : (s.modLaunch part lid f).inputs = s.inputs := rfl
@[simp] theorem modLaunch_free (s : State) (part lid : Nat) (f : Launch → Launch) : (s.modLaunch part lid f).free = s.free := rfl
@[simp] theorem modLaunch_nextId (s : State) (part lid : Nat) (f : Launch → Launch) : (s.modLaunch part lid f).nextId = s.nextId := rfl
@[simp] theorem modLaunch_homeLast (s : State) (part lid : Nat) (f : Launch → Launch) : (s.modLaunch part lid f).homeLast = s.homeLast := rfl

/-! ### modPart -/

@[simp] theorem modPart_time (s : State) (p : Nat) (f : Part → Part) : (s.modPart p f).time = s.time := rfl
@[simp] theorem modPart_sampled (s : State) (p : Nat) (f : Part → Part) : (s.modPart p f).sampled = s.sampled := rfl
@[simp] theorem modPart_mem (s : State) (p : Nat) (f : Part → Part) : (s.modPart p f).mem = s.mem := rfl
@[simp] theorem modPart_host (s : State) (p : Nat) (f : Part → Part) : (s.modPart p f).host = s.host := rfl
@[simp] theorem modPart_frames (s : State) (p : Nat) (f : Part → Part) : (s.modPart p f).frames = s.frames := rfl
@[simp] theorem modPart_farCnt (s : State) (p : Nat) (f : Part → Part) : (s.modPart p f).farCnt = s.farCnt := rfl
@[simp] theorem modPart_past (s : State) (p : Nat) (f : Part → Part) : (s.modPart p f).past = s.past := rfl
@[simp] theorem modPart_unseen (s : State) (p : Nat) (f : Part → Part) : (s.modPart p f).unseen = s.unseen := rfl
@[simp] theorem modPart_undos (s : State) (p : Nat) (f : Part → Part) : (s.modPart p f).undos = s.undos := rfl
@[simp] theorem modPart_recs (s : State) (p : Nat) (f : Part → Part) : (s.modPart p f).recs = s.recs := rfl
@[simp] theorem modPart_raised (s : State) (p : Nat) (f : Part → Part) : (s.modPart p f).raised = s.raised := rfl
@[simp] theorem modPart_launches (s : State) (p : Nat) (f : Part → Part) : (s.modPart p f).launches = s.launches := rfl
@[simp] theorem modPart_teams (s : State) (p : Nat) (f : Part → Part) : (s.modPart p f).teams = s.teams := rfl
@[simp] theorem modPart_crews (s : State) (p : Nat) (f : Part → Part) : (s.modPart p f).crews = s.crews := rfl
@[simp] theorem modPart_jobs (s : State) (p : Nat) (f : Part → Part) : (s.modPart p f).jobs = s.jobs := rfl
@[simp] theorem modPart_ests (s : State) (p : Nat) (f : Part → Part) : (s.modPart p f).ests = s.ests := rfl
@[simp] theorem modPart_det (s : State) (p : Nat) (f : Part → Part) : (s.modPart p f).det = s.det := rfl
@[simp] theorem modPart_cores (s : State) (p : Nat) (f : Part → Part) : (s.modPart p f).cores = s.cores := rfl
@[simp] theorem modPart_stands (s : State) (p : Nat) (f : Part → Part) : (s.modPart p f).stands = s.stands := rfl
@[simp] theorem modPart_pairs (s : State) (p : Nat) (f : Part → Part) : (s.modPart p f).pairs = s.pairs := rfl
@[simp] theorem modPart_parts (s : State) (p : Nat) (f : Part → Part) : (s.modPart p f).parts = (modAt s.parts p f) := rfl
@[simp] theorem modPart_svc (s : State) (p : Nat) (f : Part → Part) : (s.modPart p f).svc = s.svc := rfl
@[simp] theorem modPart_msix (s : State) (p : Nat) (f : Part → Part) : (s.modPart p f).msix = s.msix := rfl
@[simp] theorem modPart_cur (s : State) (p : Nat) (f : Part → Part) : (s.modPart p f).cur = s.cur := rfl
@[simp] theorem modPart_inputs (s : State) (p : Nat) (f : Part → Part) : (s.modPart p f).inputs = s.inputs := rfl
@[simp] theorem modPart_free (s : State) (p : Nat) (f : Part → Part) : (s.modPart p f).free = s.free := rfl
@[simp] theorem modPart_nextId (s : State) (p : Nat) (f : Part → Part) : (s.modPart p f).nextId = s.nextId := rfl
@[simp] theorem modPart_homeLast (s : State) (p : Nat) (f : Part → Part) : (s.modPart p f).homeLast = s.homeLast := rfl

/-! ### modCore -/

@[simp] theorem modCore_time (s : State) (k : Nat) (f : Core → Core) : (s.modCore k f).time = s.time := rfl
@[simp] theorem modCore_sampled (s : State) (k : Nat) (f : Core → Core) : (s.modCore k f).sampled = s.sampled := rfl
@[simp] theorem modCore_mem (s : State) (k : Nat) (f : Core → Core) : (s.modCore k f).mem = s.mem := rfl
@[simp] theorem modCore_host (s : State) (k : Nat) (f : Core → Core) : (s.modCore k f).host = s.host := rfl
@[simp] theorem modCore_frames (s : State) (k : Nat) (f : Core → Core) : (s.modCore k f).frames = s.frames := rfl
@[simp] theorem modCore_farCnt (s : State) (k : Nat) (f : Core → Core) : (s.modCore k f).farCnt = s.farCnt := rfl
@[simp] theorem modCore_past (s : State) (k : Nat) (f : Core → Core) : (s.modCore k f).past = s.past := rfl
@[simp] theorem modCore_unseen (s : State) (k : Nat) (f : Core → Core) : (s.modCore k f).unseen = s.unseen := rfl
@[simp] theorem modCore_undos (s : State) (k : Nat) (f : Core → Core) : (s.modCore k f).undos = s.undos := rfl
@[simp] theorem modCore_recs (s : State) (k : Nat) (f : Core → Core) : (s.modCore k f).recs = s.recs := rfl
@[simp] theorem modCore_raised (s : State) (k : Nat) (f : Core → Core) : (s.modCore k f).raised = s.raised := rfl
@[simp] theorem modCore_launches (s : State) (k : Nat) (f : Core → Core) : (s.modCore k f).launches = s.launches := rfl
@[simp] theorem modCore_teams (s : State) (k : Nat) (f : Core → Core) : (s.modCore k f).teams = s.teams := rfl
@[simp] theorem modCore_crews (s : State) (k : Nat) (f : Core → Core) : (s.modCore k f).crews = s.crews := rfl
@[simp] theorem modCore_jobs (s : State) (k : Nat) (f : Core → Core) : (s.modCore k f).jobs = s.jobs := rfl
@[simp] theorem modCore_ests (s : State) (k : Nat) (f : Core → Core) : (s.modCore k f).ests = s.ests := rfl
@[simp] theorem modCore_det (s : State) (k : Nat) (f : Core → Core) : (s.modCore k f).det = s.det := rfl
@[simp] theorem modCore_cores (s : State) (k : Nat) (f : Core → Core) : (s.modCore k f).cores = (modAt s.cores k f) := rfl
@[simp] theorem modCore_stands (s : State) (k : Nat) (f : Core → Core) : (s.modCore k f).stands = s.stands := rfl
@[simp] theorem modCore_pairs (s : State) (k : Nat) (f : Core → Core) : (s.modCore k f).pairs = s.pairs := rfl
@[simp] theorem modCore_parts (s : State) (k : Nat) (f : Core → Core) : (s.modCore k f).parts = s.parts := rfl
@[simp] theorem modCore_svc (s : State) (k : Nat) (f : Core → Core) : (s.modCore k f).svc = s.svc := rfl
@[simp] theorem modCore_msix (s : State) (k : Nat) (f : Core → Core) : (s.modCore k f).msix = s.msix := rfl
@[simp] theorem modCore_cur (s : State) (k : Nat) (f : Core → Core) : (s.modCore k f).cur = s.cur := rfl
@[simp] theorem modCore_inputs (s : State) (k : Nat) (f : Core → Core) : (s.modCore k f).inputs = s.inputs := rfl
@[simp] theorem modCore_free (s : State) (k : Nat) (f : Core → Core) : (s.modCore k f).free = s.free := rfl
@[simp] theorem modCore_nextId (s : State) (k : Nat) (f : Core → Core) : (s.modCore k f).nextId = s.nextId := rfl
@[simp] theorem modCore_homeLast (s : State) (k : Nat) (f : Core → Core) : (s.modCore k f).homeLast = s.homeLast := rfl

/-! ### modStand -/

@[simp] theorem modStand_time (s : State) (k : Nat) (f : Stand → Stand) : (s.modStand k f).time = s.time := rfl
@[simp] theorem modStand_sampled (s : State) (k : Nat) (f : Stand → Stand) : (s.modStand k f).sampled = s.sampled := rfl
@[simp] theorem modStand_mem (s : State) (k : Nat) (f : Stand → Stand) : (s.modStand k f).mem = s.mem := rfl
@[simp] theorem modStand_host (s : State) (k : Nat) (f : Stand → Stand) : (s.modStand k f).host = s.host := rfl
@[simp] theorem modStand_frames (s : State) (k : Nat) (f : Stand → Stand) : (s.modStand k f).frames = s.frames := rfl
@[simp] theorem modStand_farCnt (s : State) (k : Nat) (f : Stand → Stand) : (s.modStand k f).farCnt = s.farCnt := rfl
@[simp] theorem modStand_past (s : State) (k : Nat) (f : Stand → Stand) : (s.modStand k f).past = s.past := rfl
@[simp] theorem modStand_unseen (s : State) (k : Nat) (f : Stand → Stand) : (s.modStand k f).unseen = s.unseen := rfl
@[simp] theorem modStand_undos (s : State) (k : Nat) (f : Stand → Stand) : (s.modStand k f).undos = s.undos := rfl
@[simp] theorem modStand_recs (s : State) (k : Nat) (f : Stand → Stand) : (s.modStand k f).recs = s.recs := rfl
@[simp] theorem modStand_raised (s : State) (k : Nat) (f : Stand → Stand) : (s.modStand k f).raised = s.raised := rfl
@[simp] theorem modStand_launches (s : State) (k : Nat) (f : Stand → Stand) : (s.modStand k f).launches = s.launches := rfl
@[simp] theorem modStand_teams (s : State) (k : Nat) (f : Stand → Stand) : (s.modStand k f).teams = s.teams := rfl
@[simp] theorem modStand_crews (s : State) (k : Nat) (f : Stand → Stand) : (s.modStand k f).crews = s.crews := rfl
@[simp] theorem modStand_jobs (s : State) (k : Nat) (f : Stand → Stand) : (s.modStand k f).jobs = s.jobs := rfl
@[simp] theorem modStand_ests (s : State) (k : Nat) (f : Stand → Stand) : (s.modStand k f).ests = s.ests := rfl
@[simp] theorem modStand_det (s : State) (k : Nat) (f : Stand → Stand) : (s.modStand k f).det = s.det := rfl
@[simp] theorem modStand_cores (s : State) (k : Nat) (f : Stand → Stand) : (s.modStand k f).cores = s.cores := rfl
@[simp] theorem modStand_stands (s : State) (k : Nat) (f : Stand → Stand) : (s.modStand k f).stands = (modAt s.stands k f) := rfl
@[simp] theorem modStand_pairs (s : State) (k : Nat) (f : Stand → Stand) : (s.modStand k f).pairs = s.pairs := rfl
@[simp] theorem modStand_parts (s : State) (k : Nat) (f : Stand → Stand) : (s.modStand k f).parts = s.parts := rfl
@[simp] theorem modStand_svc (s : State) (k : Nat) (f : Stand → Stand) : (s.modStand k f).svc = s.svc := rfl
@[simp] theorem modStand_msix (s : State) (k : Nat) (f : Stand → Stand) : (s.modStand k f).msix = s.msix := rfl
@[simp] theorem modStand_cur (s : State) (k : Nat) (f : Stand → Stand) : (s.modStand k f).cur = s.cur := rfl
@[simp] theorem modStand_inputs (s : State) (k : Nat) (f : Stand → Stand) : (s.modStand k f).inputs = s.inputs := rfl
@[simp] theorem modStand_free (s : State) (k : Nat) (f : Stand → Stand) : (s.modStand k f).free = s.free := rfl
@[simp] theorem modStand_nextId (s : State) (k : Nat) (f : Stand → Stand) : (s.modStand k f).nextId = s.nextId := rfl
@[simp] theorem modStand_homeLast (s : State) (k : Nat) (f : Stand → Stand) : (s.modStand k f).homeLast = s.homeLast := rfl

/-! ### modEst -/

@[simp] theorem modEst_time (s : State) (h : Nat) (f : Est → Est) : (s.modEst h f).time = s.time := rfl
@[simp] theorem modEst_sampled (s : State) (h : Nat) (f : Est → Est) : (s.modEst h f).sampled = s.sampled := rfl
@[simp] theorem modEst_mem (s : State) (h : Nat) (f : Est → Est) : (s.modEst h f).mem = s.mem := rfl
@[simp] theorem modEst_host (s : State) (h : Nat) (f : Est → Est) : (s.modEst h f).host = s.host := rfl
@[simp] theorem modEst_frames (s : State) (h : Nat) (f : Est → Est) : (s.modEst h f).frames = s.frames := rfl
@[simp] theorem modEst_farCnt (s : State) (h : Nat) (f : Est → Est) : (s.modEst h f).farCnt = s.farCnt := rfl
@[simp] theorem modEst_past (s : State) (h : Nat) (f : Est → Est) : (s.modEst h f).past = s.past := rfl
@[simp] theorem modEst_unseen (s : State) (h : Nat) (f : Est → Est) : (s.modEst h f).unseen = s.unseen := rfl
@[simp] theorem modEst_undos (s : State) (h : Nat) (f : Est → Est) : (s.modEst h f).undos = s.undos := rfl
@[simp] theorem modEst_recs (s : State) (h : Nat) (f : Est → Est) : (s.modEst h f).recs = s.recs := rfl
@[simp] theorem modEst_raised (s : State) (h : Nat) (f : Est → Est) : (s.modEst h f).raised = s.raised := rfl
@[simp] theorem modEst_launches (s : State) (h : Nat) (f : Est → Est) : (s.modEst h f).launches = s.launches := rfl
@[simp] theorem modEst_teams (s : State) (h : Nat) (f : Est → Est) : (s.modEst h f).teams = s.teams := rfl
@[simp] theorem modEst_crews (s : State) (h : Nat) (f : Est → Est) : (s.modEst h f).crews = s.crews := rfl
@[simp] theorem modEst_jobs (s : State) (h : Nat) (f : Est → Est) : (s.modEst h f).jobs = s.jobs := rfl
@[simp] theorem modEst_ests (s : State) (h : Nat) (f : Est → Est) : (s.modEst h f).ests = (SMap.set Est.none s.ests (h % 2 ^ 14) (f (s.est h))) := rfl
@[simp] theorem modEst_det (s : State) (h : Nat) (f : Est → Est) : (s.modEst h f).det = s.det := rfl
@[simp] theorem modEst_cores (s : State) (h : Nat) (f : Est → Est) : (s.modEst h f).cores = s.cores := rfl
@[simp] theorem modEst_stands (s : State) (h : Nat) (f : Est → Est) : (s.modEst h f).stands = s.stands := rfl
@[simp] theorem modEst_pairs (s : State) (h : Nat) (f : Est → Est) : (s.modEst h f).pairs = s.pairs := rfl
@[simp] theorem modEst_parts (s : State) (h : Nat) (f : Est → Est) : (s.modEst h f).parts = s.parts := rfl
@[simp] theorem modEst_svc (s : State) (h : Nat) (f : Est → Est) : (s.modEst h f).svc = s.svc := rfl
@[simp] theorem modEst_msix (s : State) (h : Nat) (f : Est → Est) : (s.modEst h f).msix = s.msix := rfl
@[simp] theorem modEst_cur (s : State) (h : Nat) (f : Est → Est) : (s.modEst h f).cur = s.cur := rfl
@[simp] theorem modEst_inputs (s : State) (h : Nat) (f : Est → Est) : (s.modEst h f).inputs = s.inputs := rfl
@[simp] theorem modEst_free (s : State) (h : Nat) (f : Est → Est) : (s.modEst h f).free = s.free := rfl
@[simp] theorem modEst_nextId (s : State) (h : Nat) (f : Est → Est) : (s.modEst h f).nextId = s.nextId := rfl
@[simp] theorem modEst_homeLast (s : State) (h : Nat) (f : Est → Est) : (s.modEst h f).homeLast = s.homeLast := rfl

/-! ### raise -/

@[simp] theorem raise_time (s : State) (part : Nat) (z : Cause) (y : Option Cause) : (s.raise part z y).time = s.time := rfl
@[simp] theorem raise_sampled (s : State) (part : Nat) (z : Cause) (y : Option Cause) : (s.raise part z y).sampled = s.sampled := rfl
@[simp] theorem raise_mem (s : State) (part : Nat) (z : Cause) (y : Option Cause) : (s.raise part z y).mem = s.mem := rfl
@[simp] theorem raise_host (s : State) (part : Nat) (z : Cause) (y : Option Cause) : (s.raise part z y).host = s.host := rfl
@[simp] theorem raise_frames (s : State) (part : Nat) (z : Cause) (y : Option Cause) : (s.raise part z y).frames = s.frames := rfl
@[simp] theorem raise_farCnt (s : State) (part : Nat) (z : Cause) (y : Option Cause) : (s.raise part z y).farCnt = s.farCnt := rfl
@[simp] theorem raise_past (s : State) (part : Nat) (z : Cause) (y : Option Cause) : (s.raise part z y).past = s.past := rfl
@[simp] theorem raise_unseen (s : State) (part : Nat) (z : Cause) (y : Option Cause) : (s.raise part z y).unseen = s.unseen := rfl
@[simp] theorem raise_undos (s : State) (part : Nat) (z : Cause) (y : Option Cause) : (s.raise part z y).undos = s.undos := rfl
@[simp] theorem raise_recs (s : State) (part : Nat) (z : Cause) (y : Option Cause) : (s.raise part z y).recs = s.recs := rfl
@[simp] theorem raise_raised (s : State) (part : Nat) (z : Cause) (y : Option Cause) : (s.raise part z y).raised = (SMap.set [] s.raised part (SMap.get [] s.raised part ++ [(z, y)])) := rfl
@[simp] theorem raise_launches (s : State) (part : Nat) (z : Cause) (y : Option Cause) : (s.raise part z y).launches = s.launches := rfl
@[simp] theorem raise_teams (s : State) (part : Nat) (z : Cause) (y : Option Cause) : (s.raise part z y).teams = s.teams := rfl
@[simp] theorem raise_crews (s : State) (part : Nat) (z : Cause) (y : Option Cause) : (s.raise part z y).crews = s.crews := rfl
@[simp] theorem raise_jobs (s : State) (part : Nat) (z : Cause) (y : Option Cause) : (s.raise part z y).jobs = s.jobs := rfl
@[simp] theorem raise_ests (s : State) (part : Nat) (z : Cause) (y : Option Cause) : (s.raise part z y).ests = s.ests := rfl
@[simp] theorem raise_det (s : State) (part : Nat) (z : Cause) (y : Option Cause) : (s.raise part z y).det = s.det := rfl
@[simp] theorem raise_cores (s : State) (part : Nat) (z : Cause) (y : Option Cause) : (s.raise part z y).cores = s.cores := rfl
@[simp] theorem raise_stands (s : State) (part : Nat) (z : Cause) (y : Option Cause) : (s.raise part z y).stands = s.stands := rfl
@[simp] theorem raise_pairs (s : State) (part : Nat) (z : Cause) (y : Option Cause) : (s.raise part z y).pairs = s.pairs := rfl
@[simp] theorem raise_parts (s : State) (part : Nat) (z : Cause) (y : Option Cause) : (s.raise part z y).parts = s.parts := rfl
@[simp] theorem raise_svc (s : State) (part : Nat) (z : Cause) (y : Option Cause) : (s.raise part z y).svc = s.svc := rfl
@[simp] theorem raise_msix (s : State) (part : Nat) (z : Cause) (y : Option Cause) : (s.raise part z y).msix = s.msix := rfl
@[simp] theorem raise_cur (s : State) (part : Nat) (z : Cause) (y : Option Cause) : (s.raise part z y).cur = s.cur := rfl
@[simp] theorem raise_inputs (s : State) (part : Nat) (z : Cause) (y : Option Cause) : (s.raise part z y).inputs = s.inputs := rfl
@[simp] theorem raise_free (s : State) (part : Nat) (z : Cause) (y : Option Cause) : (s.raise part z y).free = s.free := rfl
@[simp] theorem raise_nextId (s : State) (part : Nat) (z : Cause) (y : Option Cause) : (s.raise part z y).nextId = s.nextId := rfl
@[simp] theorem raise_homeLast (s : State) (part : Nat) (z : Cause) (y : Option Cause) : (s.raise part z y).homeLast = s.homeLast := rfl

/-! ### setDet -/

@[simp] theorem setDet_time (s : State) (d : Det) : (s.setDet d).time = s.time := rfl
@[simp] theorem setDet_sampled (s : State) (d : Det) : (s.setDet d).sampled = s.sampled := rfl
@[simp] theorem setDet_mem (s : State) (d : Det) : (s.setDet d).mem = s.mem := rfl
@[simp] theorem setDet_host (s : State) (d : Det) : (s.setDet d).host = s.host := rfl
@[simp] theorem setDet_frames (s : State) (d : Det) : (s.setDet d).frames = s.frames := rfl
@[simp] theorem setDet_farCnt (s : State) (d : Det) : (s.setDet d).farCnt = s.farCnt := rfl
@[simp] theorem setDet_past (s : State) (d : Det) : (s.setDet d).past = s.past := rfl
@[simp] theorem setDet_unseen (s : State) (d : Det) : (s.setDet d).unseen = s.unseen := rfl
@[simp] theorem setDet_undos (s : State) (d : Det) : (s.setDet d).undos = s.undos := rfl
@[simp] theorem setDet_recs (s : State) (d : Det) : (s.setDet d).recs = s.recs := rfl
@[simp] theorem setDet_raised (s : State) (d : Det) : (s.setDet d).raised = s.raised := rfl
@[simp] theorem setDet_launches (s : State) (d : Det) : (s.setDet d).launches = s.launches := rfl
@[simp] theorem setDet_teams (s : State) (d : Det) : (s.setDet d).teams = s.teams := rfl
@[simp] theorem setDet_crews (s : State) (d : Det) : (s.setDet d).crews = s.crews := rfl
@[simp] theorem setDet_jobs (s : State) (d : Det) : (s.setDet d).jobs = s.jobs := rfl
@[simp] theorem setDet_ests (s : State) (d : Det) : (s.setDet d).ests = s.ests := rfl
@[simp] theorem setDet_det (s : State) (d : Det) : (s.setDet d).det = (d :: s.det.filter (fun e => e.gran != d.gran)) := rfl
@[simp] theorem setDet_cores (s : State) (d : Det) : (s.setDet d).cores = s.cores := rfl
@[simp] theorem setDet_stands (s : State) (d : Det) : (s.setDet d).stands = s.stands := rfl
@[simp] theorem setDet_pairs (s : State) (d : Det) : (s.setDet d).pairs = s.pairs := rfl
@[simp] theorem setDet_parts (s : State) (d : Det) : (s.setDet d).parts = s.parts := rfl
@[simp] theorem setDet_svc (s : State) (d : Det) : (s.setDet d).svc = s.svc := rfl
@[simp] theorem setDet_msix (s : State) (d : Det) : (s.setDet d).msix = s.msix := rfl
@[simp] theorem setDet_cur (s : State) (d : Det) : (s.setDet d).cur = s.cur := rfl
@[simp] theorem setDet_inputs (s : State) (d : Det) : (s.setDet d).inputs = s.inputs := rfl
@[simp] theorem setDet_free (s : State) (d : Det) : (s.setDet d).free = s.free := rfl
@[simp] theorem setDet_nextId (s : State) (d : Det) : (s.setDet d).nextId = s.nextId := rfl
@[simp] theorem setDet_homeLast (s : State) (d : Det) : (s.setDet d).homeLast = s.homeLast := rfl

/-! ### setFrame -/

@[simp] theorem setFrame_time (s : State) (f : Nat) (w : Frame) : (s.setFrame f w).time = s.time := rfl
@[simp] theorem setFrame_sampled (s : State) (f : Nat) (w : Frame) : (s.setFrame f w).sampled = s.sampled := rfl
@[simp] theorem setFrame_mem (s : State) (f : Nat) (w : Frame) : (s.setFrame f w).mem = s.mem := rfl
@[simp] theorem setFrame_host (s : State) (f : Nat) (w : Frame) : (s.setFrame f w).host = s.host := rfl
@[simp] theorem setFrame_frames (s : State) (f : Nat) (w : Frame) : (s.setFrame f w).frames = (SMap.set ⟨0, 0, 0⟩ s.frames f w) := rfl
@[simp] theorem setFrame_farCnt (s : State) (f : Nat) (w : Frame) : (s.setFrame f w).farCnt = s.farCnt := rfl
@[simp] theorem setFrame_past (s : State) (f : Nat) (w : Frame) : (s.setFrame f w).past = s.past := rfl
@[simp] theorem setFrame_unseen (s : State) (f : Nat) (w : Frame) : (s.setFrame f w).unseen = s.unseen := rfl
@[simp] theorem setFrame_undos (s : State) (f : Nat) (w : Frame) : (s.setFrame f w).undos = s.undos := rfl
@[simp] theorem setFrame_recs (s : State) (f : Nat) (w : Frame) : (s.setFrame f w).recs = s.recs := rfl
@[simp] theorem setFrame_raised (s : State) (f : Nat) (w : Frame) : (s.setFrame f w).raised = s.raised := rfl
@[simp] theorem setFrame_launches (s : State) (f : Nat) (w : Frame) : (s.setFrame f w).launches = s.launches := rfl
@[simp] theorem setFrame_teams (s : State) (f : Nat) (w : Frame) : (s.setFrame f w).teams = s.teams := rfl
@[simp] theorem setFrame_crews (s : State) (f : Nat) (w : Frame) : (s.setFrame f w).crews = s.crews := rfl
@[simp] theorem setFrame_jobs (s : State) (f : Nat) (w : Frame) : (s.setFrame f w).jobs = s.jobs := rfl
@[simp] theorem setFrame_ests (s : State) (f : Nat) (w : Frame) : (s.setFrame f w).ests = s.ests := rfl
@[simp] theorem setFrame_det (s : State) (f : Nat) (w : Frame) : (s.setFrame f w).det = s.det := rfl
@[simp] theorem setFrame_cores (s : State) (f : Nat) (w : Frame) : (s.setFrame f w).cores = s.cores := rfl
@[simp] theorem setFrame_stands (s : State) (f : Nat) (w : Frame) : (s.setFrame f w).stands = s.stands := rfl
@[simp] theorem setFrame_pairs (s : State) (f : Nat) (w : Frame) : (s.setFrame f w).pairs = s.pairs := rfl
@[simp] theorem setFrame_parts (s : State) (f : Nat) (w : Frame) : (s.setFrame f w).parts = s.parts := rfl
@[simp] theorem setFrame_svc (s : State) (f : Nat) (w : Frame) : (s.setFrame f w).svc = s.svc := rfl
@[simp] theorem setFrame_msix (s : State) (f : Nat) (w : Frame) : (s.setFrame f w).msix = s.msix := rfl
@[simp] theorem setFrame_cur (s : State) (f : Nat) (w : Frame) : (s.setFrame f w).cur = s.cur := rfl
@[simp] theorem setFrame_inputs (s : State) (f : Nat) (w : Frame) : (s.setFrame f w).inputs = s.inputs := rfl
@[simp] theorem setFrame_free (s : State) (f : Nat) (w : Frame) : (s.setFrame f w).free = s.free := rfl
@[simp] theorem setFrame_nextId (s : State) (f : Nat) (w : Frame) : (s.setFrame f w).nextId = s.nextId := rfl
@[simp] theorem setFrame_homeLast (s : State) (f : Nat) (w : Frame) : (s.setFrame f w).homeLast = s.homeLast := rfl

/-! ### wrBytes -/

@[simp] theorem wrBytes_time (s : State) (pa : Nat) (bs : List Byte) : (s.wrBytes pa bs).time = s.time := rfl
@[simp] theorem wrBytes_sampled (s : State) (pa : Nat) (bs : List Byte) : (s.wrBytes pa bs).sampled = s.sampled := rfl
@[simp] theorem wrBytes_host (s : State) (pa : Nat) (bs : List Byte) : (s.wrBytes pa bs).host = s.host := rfl
@[simp] theorem wrBytes_frames (s : State) (pa : Nat) (bs : List Byte) : (s.wrBytes pa bs).frames = s.frames := rfl
@[simp] theorem wrBytes_farCnt (s : State) (pa : Nat) (bs : List Byte) : (s.wrBytes pa bs).farCnt = s.farCnt := rfl
@[simp] theorem wrBytes_past (s : State) (pa : Nat) (bs : List Byte) : (s.wrBytes pa bs).past = s.pastWith pa bs.length := rfl
@[simp] theorem wrBytes_unseen (s : State) (pa : Nat) (bs : List Byte) : (s.wrBytes pa bs).unseen = s.unseen := rfl
@[simp] theorem wrBytes_undos (s : State) (pa : Nat) (bs : List Byte) : (s.wrBytes pa bs).undos = s.undos := rfl
@[simp] theorem wrBytes_recs (s : State) (pa : Nat) (bs : List Byte) : (s.wrBytes pa bs).recs = s.recs := rfl
@[simp] theorem wrBytes_raised (s : State) (pa : Nat) (bs : List Byte) : (s.wrBytes pa bs).raised = s.raised := rfl
@[simp] theorem wrBytes_launches (s : State) (pa : Nat) (bs : List Byte) : (s.wrBytes pa bs).launches = s.launches := rfl
@[simp] theorem wrBytes_teams (s : State) (pa : Nat) (bs : List Byte) : (s.wrBytes pa bs).teams = s.teams := rfl
@[simp] theorem wrBytes_crews (s : State) (pa : Nat) (bs : List Byte) : (s.wrBytes pa bs).crews = s.crews := rfl
@[simp] theorem wrBytes_jobs (s : State) (pa : Nat) (bs : List Byte) : (s.wrBytes pa bs).jobs = s.jobs := rfl
@[simp] theorem wrBytes_ests (s : State) (pa : Nat) (bs : List Byte) : (s.wrBytes pa bs).ests = s.ests := rfl
@[simp] theorem wrBytes_det (s : State) (pa : Nat) (bs : List Byte) : (s.wrBytes pa bs).det = s.det := rfl
@[simp] theorem wrBytes_cores (s : State) (pa : Nat) (bs : List Byte) : (s.wrBytes pa bs).cores = s.cores := rfl
@[simp] theorem wrBytes_stands (s : State) (pa : Nat) (bs : List Byte) : (s.wrBytes pa bs).stands = s.stands := rfl
@[simp] theorem wrBytes_pairs (s : State) (pa : Nat) (bs : List Byte) : (s.wrBytes pa bs).pairs = s.pairs := rfl
@[simp] theorem wrBytes_parts (s : State) (pa : Nat) (bs : List Byte) : (s.wrBytes pa bs).parts = s.parts := rfl
@[simp] theorem wrBytes_svc (s : State) (pa : Nat) (bs : List Byte) : (s.wrBytes pa bs).svc = s.svc := rfl
@[simp] theorem wrBytes_msix (s : State) (pa : Nat) (bs : List Byte) : (s.wrBytes pa bs).msix = s.msix := rfl
@[simp] theorem wrBytes_cur (s : State) (pa : Nat) (bs : List Byte) : (s.wrBytes pa bs).cur = s.cur := rfl
@[simp] theorem wrBytes_inputs (s : State) (pa : Nat) (bs : List Byte) : (s.wrBytes pa bs).inputs = s.inputs := rfl
@[simp] theorem wrBytes_free (s : State) (pa : Nat) (bs : List Byte) : (s.wrBytes pa bs).free = s.free := rfl
@[simp] theorem wrBytes_nextId (s : State) (pa : Nat) (bs : List Byte) : (s.wrBytes pa bs).nextId = s.nextId := rfl
@[simp] theorem wrBytes_homeLast (s : State) (pa : Nat) (bs : List Byte) : (s.wrBytes pa bs).homeLast = s.homeLast := rfl

/-! ### wrPA -/

@[simp] theorem wrPA_time (s : State) (pa n x : Nat) : (s.wrPA pa n x).time = s.time := rfl
@[simp] theorem wrPA_sampled (s : State) (pa n x : Nat) : (s.wrPA pa n x).sampled = s.sampled := rfl
@[simp] theorem wrPA_host (s : State) (pa n x : Nat) : (s.wrPA pa n x).host = s.host := rfl
@[simp] theorem wrPA_frames (s : State) (pa n x : Nat) : (s.wrPA pa n x).frames = s.frames := rfl
@[simp] theorem wrPA_farCnt (s : State) (pa n x : Nat) : (s.wrPA pa n x).farCnt = s.farCnt := rfl
@[simp] theorem wrPA_past (s : State) (pa n x : Nat) : (s.wrPA pa n x).past = s.pastWith pa (bytesOfNat n x).length := rfl
@[simp] theorem wrPA_unseen (s : State) (pa n x : Nat) : (s.wrPA pa n x).unseen = s.unseen := rfl
@[simp] theorem wrPA_undos (s : State) (pa n x : Nat) : (s.wrPA pa n x).undos = s.undos := rfl
@[simp] theorem wrPA_recs (s : State) (pa n x : Nat) : (s.wrPA pa n x).recs = s.recs := rfl
@[simp] theorem wrPA_raised (s : State) (pa n x : Nat) : (s.wrPA pa n x).raised = s.raised := rfl
@[simp] theorem wrPA_launches (s : State) (pa n x : Nat) : (s.wrPA pa n x).launches = s.launches := rfl
@[simp] theorem wrPA_teams (s : State) (pa n x : Nat) : (s.wrPA pa n x).teams = s.teams := rfl
@[simp] theorem wrPA_crews (s : State) (pa n x : Nat) : (s.wrPA pa n x).crews = s.crews := rfl
@[simp] theorem wrPA_jobs (s : State) (pa n x : Nat) : (s.wrPA pa n x).jobs = s.jobs := rfl
@[simp] theorem wrPA_ests (s : State) (pa n x : Nat) : (s.wrPA pa n x).ests = s.ests := rfl
@[simp] theorem wrPA_det (s : State) (pa n x : Nat) : (s.wrPA pa n x).det = s.det := rfl
@[simp] theorem wrPA_cores (s : State) (pa n x : Nat) : (s.wrPA pa n x).cores = s.cores := rfl
@[simp] theorem wrPA_stands (s : State) (pa n x : Nat) : (s.wrPA pa n x).stands = s.stands := rfl
@[simp] theorem wrPA_pairs (s : State) (pa n x : Nat) : (s.wrPA pa n x).pairs = s.pairs := rfl
@[simp] theorem wrPA_parts (s : State) (pa n x : Nat) : (s.wrPA pa n x).parts = s.parts := rfl
@[simp] theorem wrPA_svc (s : State) (pa n x : Nat) : (s.wrPA pa n x).svc = s.svc := rfl
@[simp] theorem wrPA_msix (s : State) (pa n x : Nat) : (s.wrPA pa n x).msix = s.msix := rfl
@[simp] theorem wrPA_cur (s : State) (pa n x : Nat) : (s.wrPA pa n x).cur = s.cur := rfl
@[simp] theorem wrPA_inputs (s : State) (pa n x : Nat) : (s.wrPA pa n x).inputs = s.inputs := rfl
@[simp] theorem wrPA_free (s : State) (pa n x : Nat) : (s.wrPA pa n x).free = s.free := rfl
@[simp] theorem wrPA_nextId (s : State) (pa n x : Nat) : (s.wrPA pa n x).nextId = s.nextId := rfl
@[simp] theorem wrPA_homeLast (s : State) (pa n x : Nat) : (s.wrPA pa n x).homeLast = s.homeLast := rfl

/-! ### dropHost -/

@[simp] theorem dropHost_time (s : State) (ok : Nat → Bool) : (s.dropHost ok).time = s.time := rfl
@[simp] theorem dropHost_sampled (s : State) (ok : Nat → Bool) : (s.dropHost ok).sampled = s.sampled := rfl
@[simp] theorem dropHost_mem (s : State) (ok : Nat → Bool) : (s.dropHost ok).mem = s.mem := rfl
@[simp] theorem dropHost_frames (s : State) (ok : Nat → Bool) : (s.dropHost ok).frames = s.frames := rfl
@[simp] theorem dropHost_farCnt (s : State) (ok : Nat → Bool) : (s.dropHost ok).farCnt = s.farCnt := rfl
@[simp] theorem dropHost_past (s : State) (ok : Nat → Bool) : (s.dropHost ok).past = s.past := rfl
@[simp] theorem dropHost_host (s : State) (ok : Nat → Bool) : (s.dropHost ok).host = s.host.filter (fun e => !ok e.1) := rfl
@[simp] theorem dropHost_unseen (s : State) (ok : Nat → Bool) : (s.dropHost ok).unseen = s.unseen.filter (fun e => !ok e.1) := rfl
@[simp] theorem dropHost_undos (s : State) (ok : Nat → Bool) : (s.dropHost ok).undos = s.undos := rfl
@[simp] theorem dropHost_recs (s : State) (ok : Nat → Bool) : (s.dropHost ok).recs = s.recs := rfl
@[simp] theorem dropHost_raised (s : State) (ok : Nat → Bool) : (s.dropHost ok).raised = s.raised := rfl
@[simp] theorem dropHost_launches (s : State) (ok : Nat → Bool) : (s.dropHost ok).launches = s.launches := rfl
@[simp] theorem dropHost_teams (s : State) (ok : Nat → Bool) : (s.dropHost ok).teams = s.teams := rfl
@[simp] theorem dropHost_crews (s : State) (ok : Nat → Bool) : (s.dropHost ok).crews = s.crews := rfl
@[simp] theorem dropHost_jobs (s : State) (ok : Nat → Bool) : (s.dropHost ok).jobs = s.jobs := rfl
@[simp] theorem dropHost_ests (s : State) (ok : Nat → Bool) : (s.dropHost ok).ests = s.ests := rfl
@[simp] theorem dropHost_det (s : State) (ok : Nat → Bool) : (s.dropHost ok).det = s.det := rfl
@[simp] theorem dropHost_cores (s : State) (ok : Nat → Bool) : (s.dropHost ok).cores = s.cores := rfl
@[simp] theorem dropHost_stands (s : State) (ok : Nat → Bool) : (s.dropHost ok).stands = s.stands := rfl
@[simp] theorem dropHost_pairs (s : State) (ok : Nat → Bool) : (s.dropHost ok).pairs = s.pairs := rfl
@[simp] theorem dropHost_parts (s : State) (ok : Nat → Bool) : (s.dropHost ok).parts = s.parts := rfl
@[simp] theorem dropHost_svc (s : State) (ok : Nat → Bool) : (s.dropHost ok).svc = s.svc := rfl
@[simp] theorem dropHost_msix (s : State) (ok : Nat → Bool) : (s.dropHost ok).msix = s.msix := rfl
@[simp] theorem dropHost_cur (s : State) (ok : Nat → Bool) : (s.dropHost ok).cur = s.cur := rfl
@[simp] theorem dropHost_inputs (s : State) (ok : Nat → Bool) : (s.dropHost ok).inputs = s.inputs := rfl
@[simp] theorem dropHost_free (s : State) (ok : Nat → Bool) : (s.dropHost ok).free = s.free := rfl
@[simp] theorem dropHost_nextId (s : State) (ok : Nat → Bool) : (s.dropHost ok).nextId = s.nextId := rfl
@[simp] theorem dropHost_homeLast (s : State) (ok : Nat → Bool) : (s.dropHost ok).homeLast = s.homeLast := rfl

/-! ### modPath -/

@[simp] theorem modPath_time (s : State) (id i : Nat) (f : Path → Path) : (s.modPath id i f).time = s.time := rfl
@[simp] theorem modPath_sampled (s : State) (id i : Nat) (f : Path → Path) : (s.modPath id i f).sampled = s.sampled := rfl
@[simp] theorem modPath_mem (s : State) (id i : Nat) (f : Path → Path) : (s.modPath id i f).mem = s.mem := rfl
@[simp] theorem modPath_host (s : State) (id i : Nat) (f : Path → Path) : (s.modPath id i f).host = s.host := rfl
@[simp] theorem modPath_frames (s : State) (id i : Nat) (f : Path → Path) : (s.modPath id i f).frames = s.frames := rfl
@[simp] theorem modPath_farCnt (s : State) (id i : Nat) (f : Path → Path) : (s.modPath id i f).farCnt = s.farCnt := rfl
@[simp] theorem modPath_past (s : State) (id i : Nat) (f : Path → Path) : (s.modPath id i f).past = s.past := rfl
@[simp] theorem modPath_unseen (s : State) (id i : Nat) (f : Path → Path) : (s.modPath id i f).unseen = s.unseen := rfl
@[simp] theorem modPath_undos (s : State) (id i : Nat) (f : Path → Path) : (s.modPath id i f).undos = s.undos := rfl
@[simp] theorem modPath_recs (s : State) (id i : Nat) (f : Path → Path) : (s.modPath id i f).recs = s.recs := rfl
@[simp] theorem modPath_raised (s : State) (id i : Nat) (f : Path → Path) : (s.modPath id i f).raised = s.raised := rfl
@[simp] theorem modPath_launches (s : State) (id i : Nat) (f : Path → Path) : (s.modPath id i f).launches = s.launches := rfl
@[simp] theorem modPath_teams (s : State) (id i : Nat) (f : Path → Path) : (s.modPath id i f).teams = s.teams := rfl
@[simp] theorem modPath_jobs (s : State) (id i : Nat) (f : Path → Path) : (s.modPath id i f).jobs = s.jobs := rfl
@[simp] theorem modPath_ests (s : State) (id i : Nat) (f : Path → Path) : (s.modPath id i f).ests = s.ests := rfl
@[simp] theorem modPath_det (s : State) (id i : Nat) (f : Path → Path) : (s.modPath id i f).det = s.det := rfl
@[simp] theorem modPath_cores (s : State) (id i : Nat) (f : Path → Path) : (s.modPath id i f).cores = s.cores := rfl
@[simp] theorem modPath_stands (s : State) (id i : Nat) (f : Path → Path) : (s.modPath id i f).stands = s.stands := rfl
@[simp] theorem modPath_pairs (s : State) (id i : Nat) (f : Path → Path) : (s.modPath id i f).pairs = s.pairs := rfl
@[simp] theorem modPath_parts (s : State) (id i : Nat) (f : Path → Path) : (s.modPath id i f).parts = s.parts := rfl
@[simp] theorem modPath_svc (s : State) (id i : Nat) (f : Path → Path) : (s.modPath id i f).svc = s.svc := rfl
@[simp] theorem modPath_msix (s : State) (id i : Nat) (f : Path → Path) : (s.modPath id i f).msix = s.msix := rfl
@[simp] theorem modPath_cur (s : State) (id i : Nat) (f : Path → Path) : (s.modPath id i f).cur = s.cur := rfl
@[simp] theorem modPath_inputs (s : State) (id i : Nat) (f : Path → Path) : (s.modPath id i f).inputs = s.inputs := rfl
@[simp] theorem modPath_free (s : State) (id i : Nat) (f : Path → Path) : (s.modPath id i f).free = s.free := rfl
@[simp] theorem modPath_nextId (s : State) (id i : Nat) (f : Path → Path) : (s.modPath id i f).nextId = s.nextId := rfl
@[simp] theorem modPath_homeLast (s : State) (id i : Nat) (f : Path → Path) : (s.modPath id i f).homeLast = s.homeLast := rfl

/-! ### modCur -/

@[simp] theorem modCur_time (s : State) (f : Crew → Crew) : (s.modCur f).time = s.time := by unfold State.modCur; split <;> rfl
@[simp] theorem modCur_sampled (s : State) (f : Crew → Crew) : (s.modCur f).sampled = s.sampled := by unfold State.modCur; split <;> rfl
@[simp] theorem modCur_mem (s : State) (f : Crew → Crew) : (s.modCur f).mem = s.mem := by unfold State.modCur; split <;> rfl
@[simp] theorem modCur_host (s : State) (f : Crew → Crew) : (s.modCur f).host = s.host := by unfold State.modCur; split <;> rfl
@[simp] theorem modCur_frames (s : State) (f : Crew → Crew) : (s.modCur f).frames = s.frames := by unfold State.modCur; split <;> rfl
@[simp] theorem modCur_farCnt (s : State) (f : Crew → Crew) : (s.modCur f).farCnt = s.farCnt := by unfold State.modCur; split <;> rfl
@[simp] theorem modCur_past (s : State) (f : Crew → Crew) : (s.modCur f).past = s.past := by unfold State.modCur; split <;> rfl
@[simp] theorem modCur_unseen (s : State) (f : Crew → Crew) : (s.modCur f).unseen = s.unseen := by unfold State.modCur; split <;> rfl
@[simp] theorem modCur_undos (s : State) (f : Crew → Crew) : (s.modCur f).undos = s.undos := by unfold State.modCur; split <;> rfl
@[simp] theorem modCur_recs (s : State) (f : Crew → Crew) : (s.modCur f).recs = s.recs := by unfold State.modCur; split <;> rfl
@[simp] theorem modCur_raised (s : State) (f : Crew → Crew) : (s.modCur f).raised = s.raised := by unfold State.modCur; split <;> rfl
@[simp] theorem modCur_launches (s : State) (f : Crew → Crew) : (s.modCur f).launches = s.launches := by unfold State.modCur; split <;> rfl
@[simp] theorem modCur_teams (s : State) (f : Crew → Crew) : (s.modCur f).teams = s.teams := by unfold State.modCur; split <;> rfl
@[simp] theorem modCur_jobs (s : State) (f : Crew → Crew) : (s.modCur f).jobs = s.jobs := by unfold State.modCur; split <;> rfl
@[simp] theorem modCur_ests (s : State) (f : Crew → Crew) : (s.modCur f).ests = s.ests := by unfold State.modCur; split <;> rfl
@[simp] theorem modCur_det (s : State) (f : Crew → Crew) : (s.modCur f).det = s.det := by unfold State.modCur; split <;> rfl
@[simp] theorem modCur_cores (s : State) (f : Crew → Crew) : (s.modCur f).cores = s.cores := by unfold State.modCur; split <;> rfl
@[simp] theorem modCur_stands (s : State) (f : Crew → Crew) : (s.modCur f).stands = s.stands := by unfold State.modCur; split <;> rfl
@[simp] theorem modCur_pairs (s : State) (f : Crew → Crew) : (s.modCur f).pairs = s.pairs := by unfold State.modCur; split <;> rfl
@[simp] theorem modCur_parts (s : State) (f : Crew → Crew) : (s.modCur f).parts = s.parts := by unfold State.modCur; split <;> rfl
@[simp] theorem modCur_svc (s : State) (f : Crew → Crew) : (s.modCur f).svc = s.svc := by unfold State.modCur; split <;> rfl
@[simp] theorem modCur_msix (s : State) (f : Crew → Crew) : (s.modCur f).msix = s.msix := by unfold State.modCur; split <;> rfl
@[simp] theorem modCur_cur (s : State) (f : Crew → Crew) : (s.modCur f).cur = s.cur := by unfold State.modCur; split <;> rfl
@[simp] theorem modCur_inputs (s : State) (f : Crew → Crew) : (s.modCur f).inputs = s.inputs := by unfold State.modCur; split <;> rfl
@[simp] theorem modCur_free (s : State) (f : Crew → Crew) : (s.modCur f).free = s.free := by unfold State.modCur; split <;> rfl
@[simp] theorem modCur_nextId (s : State) (f : Crew → Crew) : (s.modCur f).nextId = s.nextId := by unfold State.modCur; split <;> rfl
@[simp] theorem modCur_homeLast (s : State) (f : Crew → Crew) : (s.modCur f).homeLast = s.homeLast := by unfold State.modCur; split <;> rfl

/-! ### modCurPath -/

@[simp] theorem modCurPath_time (s : State) (f : Path → Path) : (s.modCurPath f).time = s.time := by unfold State.modCurPath; split <;> rfl
@[simp] theorem modCurPath_sampled (s : State) (f : Path → Path) : (s.modCurPath f).sampled = s.sampled := by unfold State.modCurPath; split <;> rfl
@[simp] theorem modCurPath_mem (s : State) (f : Path → Path) : (s.modCurPath f).mem = s.mem := by unfold State.modCurPath; split <;> rfl
@[simp] theorem modCurPath_host (s : State) (f : Path → Path) : (s.modCurPath f).host = s.host := by unfold State.modCurPath; split <;> rfl
@[simp] theorem modCurPath_frames (s : State) (f : Path → Path) : (s.modCurPath f).frames = s.frames := by unfold State.modCurPath; split <;> rfl
@[simp] theorem modCurPath_farCnt (s : State) (f : Path → Path) : (s.modCurPath f).farCnt = s.farCnt := by unfold State.modCurPath; split <;> rfl
@[simp] theorem modCurPath_past (s : State) (f : Path → Path) : (s.modCurPath f).past = s.past := by unfold State.modCurPath; split <;> rfl
@[simp] theorem modCurPath_unseen (s : State) (f : Path → Path) : (s.modCurPath f).unseen = s.unseen := by unfold State.modCurPath; split <;> rfl
@[simp] theorem modCurPath_undos (s : State) (f : Path → Path) : (s.modCurPath f).undos = s.undos := by unfold State.modCurPath; split <;> rfl
@[simp] theorem modCurPath_recs (s : State) (f : Path → Path) : (s.modCurPath f).recs = s.recs := by unfold State.modCurPath; split <;> rfl
@[simp] theorem modCurPath_raised (s : State) (f : Path → Path) : (s.modCurPath f).raised = s.raised := by unfold State.modCurPath; split <;> rfl
@[simp] theorem modCurPath_launches (s : State) (f : Path → Path) : (s.modCurPath f).launches = s.launches := by unfold State.modCurPath; split <;> rfl
@[simp] theorem modCurPath_teams (s : State) (f : Path → Path) : (s.modCurPath f).teams = s.teams := by unfold State.modCurPath; split <;> rfl
@[simp] theorem modCurPath_jobs (s : State) (f : Path → Path) : (s.modCurPath f).jobs = s.jobs := by unfold State.modCurPath; split <;> rfl
@[simp] theorem modCurPath_ests (s : State) (f : Path → Path) : (s.modCurPath f).ests = s.ests := by unfold State.modCurPath; split <;> rfl
@[simp] theorem modCurPath_det (s : State) (f : Path → Path) : (s.modCurPath f).det = s.det := by unfold State.modCurPath; split <;> rfl
@[simp] theorem modCurPath_cores (s : State) (f : Path → Path) : (s.modCurPath f).cores = s.cores := by unfold State.modCurPath; split <;> rfl
@[simp] theorem modCurPath_stands (s : State) (f : Path → Path) : (s.modCurPath f).stands = s.stands := by unfold State.modCurPath; split <;> rfl
@[simp] theorem modCurPath_pairs (s : State) (f : Path → Path) : (s.modCurPath f).pairs = s.pairs := by unfold State.modCurPath; split <;> rfl
@[simp] theorem modCurPath_parts (s : State) (f : Path → Path) : (s.modCurPath f).parts = s.parts := by unfold State.modCurPath; split <;> rfl
@[simp] theorem modCurPath_svc (s : State) (f : Path → Path) : (s.modCurPath f).svc = s.svc := by unfold State.modCurPath; split <;> rfl
@[simp] theorem modCurPath_msix (s : State) (f : Path → Path) : (s.modCurPath f).msix = s.msix := by unfold State.modCurPath; split <;> rfl
@[simp] theorem modCurPath_cur (s : State) (f : Path → Path) : (s.modCurPath f).cur = s.cur := by unfold State.modCurPath; split <;> rfl
@[simp] theorem modCurPath_inputs (s : State) (f : Path → Path) : (s.modCurPath f).inputs = s.inputs := by unfold State.modCurPath; split <;> rfl
@[simp] theorem modCurPath_free (s : State) (f : Path → Path) : (s.modCurPath f).free = s.free := by unfold State.modCurPath; split <;> rfl
@[simp] theorem modCurPath_nextId (s : State) (f : Path → Path) : (s.modCurPath f).nextId = s.nextId := by unfold State.modCurPath; split <;> rfl
@[simp] theorem modCurPath_homeLast (s : State) (f : Path → Path) : (s.modCurPath f).homeLast = s.homeLast := by unfold State.modCurPath; split <;> rfl

end Sys2Proof.Machine
end

