-- ==== Sys2Proof/Tests/Slice0.lean ====
section
/-! SUPPORT. Tests of the model: words written out from the specification's encodings, ill-formed terms, single steps, and
for each statement a concrete state that meets its hypotheses. -/

open Sys2Proof Sys2Proof.Machine

namespace Sys2Proof.Tests

set_option Elab.async false


/-! ### Decoding -/

/-- Words written out from R28 to R34, R91 to R101 and the opcode table. -/
theorem test_decode_control :
    decodeScalar 0x02000000 0x0 = .ok (.nop)
    ∧ decodeScalar 0x04005003 0x0 = .ok (.issue 5 3)
    ∧ decodeScalar 0x04485000 0x0 = .ok (.issueReg 9 5)
    ∧ decodeScalar 0x06000802 0x0 = .ok (.lpc 0x802)
    ∧ decodeScalar 0x08006040 0xFFF00021 = .ok (.split 3 0xFFF0 0x0021)
    ∧ decodeScalar 0x08006480 0x0 = .ok (.splitReg 3 9)
    ∧ decodeScalar 0x0A006000 0x0 = .ok (.join 3)
    ∧ decodeScalar 0x11FFE804 0x0 = .ok (.br 0x1FFE 0x804)
    ∧ decodeScalar 0x15FFE804 0x0 = .ok (.call 0x1FFE 0x804)
    ∧ decodeScalar 0x1BFFE804 0x0 = .ok (.loop 0x1FFE 0x804)
    ∧ decodeScalar 0x12000040 0x80010402 = .ok (.brLong 0x8001 0x0402)
    ∧ decodeScalar 0x16000040 0x80010402 = .ok (.callLong 0x8001 0x0402)
    ∧ decodeScalar 0x18000000 0x0 = .ok (.ret)
    ∧ decodeScalar 0x1C00A042 0x10FFF8 = .ok (.brm 5 2 0x0010 0xFFF8)
    ∧ decodeScalar 0x1E000000 0x0 = .ok (.exit)
    ∧ decodeScalar 0x2D001007 0x0 = .ok (.brc 6 0x1001 7) := by
  refine ⟨?_, ?_, ?_, ?_, ?_, ?_, ?_, ?_, ?_, ?_, ?_, ?_, ?_, ?_, ?_, ?_⟩ <;> decide

/-- Words written out from R53, R102 to R106, R381, R382, R393, R394 and the opcode table. -/
theorem test_decode_barriers_and_traps :
    decodeScalar 0x30008100 0x0 = .ok (.bar 4 2)
    ∧ decodeScalar 0x32388100 0x0 = .ok (.arrive 7 4 2)
    ∧ decodeScalar 0x34008380 0x0 = .ok (.bwait 4 7)
    ∧ decodeScalar 0x36002300 0x0 = .ok (.rolesigPost 1 6)
    ∧ decodeScalar 0x36000301 0x0 = .ok (.rolesigTake 6)
    ∧ decodeScalar 0x38001234 0x0 = .ok (.trap 0x1234)
    ∧ decodeScalar 0x3A000000 0x0 = .ok (.tret)
    ∧ decodeScalar 0x3A000001 0x0 = .ok (.tretSkip)
    ∧ decodeScalar 0x3C000025 0x0 = .ok (.haltd 37)
    ∧ decodeScalar 0x3E000000 0x0 = .ok (.yield)
    ∧ decodeScalar 0xFBFFF008 0x0 = .ok (.blaze 5 0x1FFF 8)
    ∧ decodeScalar 0xFA000000 0x0 = .ok (.blazeTrap 5) := by
  refine ⟨?_, ?_, ?_, ?_, ?_, ?_, ?_, ?_, ?_, ?_, ?_, ?_⟩ <;> decide

/-- Words written out from R150 to R154 and the opcode table. -/
theorem test_decode_scalar_two_source :
    decodeScalar 0x40084180 0x0 = .ok (.sadd 1 2 (.reg 3))
    ∧ decodeScalar 0x42106040 0xFFFF0001 = .ok (.ssub 2 3 (.lit 0xFFFF0001))
    ∧ decodeScalar 0x44188280 0x0 = .ok (.smul 3 4 (.reg 5))
    ∧ decodeScalar 0x4620A040 0xFFFF0001 = .ok (.smulh 4 5 (.lit 0xFFFF0001))
    ∧ decodeScalar 0x4828C380 0x0 = .ok (.smulhn 5 6 (.reg 7))
    ∧ decodeScalar 0x4A30E040 0xFFFF0001 = .ok (.sdiv 6 7 (.lit 0xFFFF0001))
    ∧ decodeScalar 0x4C390480 0x0 = .ok (.sdivn 7 8 (.reg 9))
    ∧ decodeScalar 0x50412040 0xFFFF0001 = .ok (.sand 8 9 (.lit 0xFFFF0001))
    ∧ decodeScalar 0x52494580 0x0 = .ok (.sor 9 10 (.reg 11))
    ∧ decodeScalar 0x54516040 0xFFFF0001 = .ok (.sxor 10 11 (.lit 0xFFFF0001))
    ∧ decodeScalar 0x56598680 0x0 = .ok (.sshl 11 12 (.reg 13))
    ∧ decodeScalar 0x5861A040 0xFFFF0001 = .ok (.sshr 12 13 (.lit 0xFFFF0001))
    ∧ decodeScalar 0x5A69C780 0x0 = .ok (.ssar 13 14 (.reg 15))
    ∧ decodeScalar 0x5C71E040 0xFFFF0001 = .ok (.smin 14 15 (.lit 0xFFFF0001))
    ∧ decodeScalar 0x5E7A0880 0x0 = .ok (.smax 15 16 (.reg 17))
    ∧ decodeScalar 0x60822040 0xFFFF0001 = .ok (.sminn 16 17 (.lit 0xFFFF0001))
    ∧ decodeScalar 0x628A4980 0x0 = .ok (.smaxn 17 18 (.reg 19))
    ∧ decodeScalar 0x4E412501 0x0 = .ok (.srem true 8 9 (.reg 10))
    ∧ decodeScalar 0x64088282 0x0 = .ok (.scmp 2 1 4 (.reg 5))
    ∧ decodeScalar 0x6630E405 0x0 = .ok (.ssel 6 7 (.reg 8) 5)
    ∧ decodeScalar 0x6830E401 0x0 = .ok (.sbfe true 6 7 (.reg 8)) := by
  refine ⟨?_, ?_, ?_, ?_, ?_, ?_, ?_, ?_, ?_, ?_, ?_, ?_, ?_, ?_, ?_, ?_, ?_, ?_, ?_, ?_, ?_⟩ <;> decide

/-- Words written out from R155 to R157 and the opcode table. -/
theorem test_decode_scalar_one_source :
    decodeScalar 0x6A30E000 0x0 = .ok (.spopc 6 7)
    ∧ decodeScalar 0x6C30E000 0x0 = .ok (.sclz 6 7)
    ∧ decodeScalar 0x6E280040 0x12345678 = .ok (.slit 5 0x12345678)
    ∧ decodeScalar 0x6E28C041 0x12345678 = .ok (.slitHi 5 6 0x12345678)
    ∧ decodeScalar 0x703FFFFF 0x0 = .ok (.sli 7 0x7FFFF)
    ∧ decodeScalar 0x7230C001 0x0 = .ok (.saddi 6 6 1)
    ∧ decodeScalar 0x74313F0F 0x0 = .ok (.sandi 6 9 0x1F0F)
    ∧ decodeScalar 0x76313F0F 0x0 = .ok (.sori 6 9 0x1F0F)
    ∧ decodeScalar 0x78313F0F 0x0 = .ok (.sxori 6 9 0x1F0F)
    ∧ decodeScalar 0x7A31203F 0x0 = .ok (.sshli 6 9 63)
    ∧ decodeScalar 0x7C31203F 0x0 = .ok (.sshri 6 9 63) := by
  refine ⟨?_, ?_, ?_, ?_, ?_, ?_, ?_, ?_, ?_, ?_, ?_⟩ <;> decide

/-- Words written out from R120, R121, R136, R140, R141, R158 to R161 and the opcode table. -/
theorem test_decode_special_and_units :
    decodeScalar 0x8048001A 0x0 = .ok (.srd 9 0x01A)
    ∧ decodeScalar 0x8248001A 0x0 = .ok (.swr 0x01A 9)
    ∧ decodeScalar 0x84480000 0x0 = .ok (.time 9)
    ∧ decodeScalar 0x84480001 0x0 = .ok (.timeCyc 9)
    ∧ decodeScalar 0x864940C3 0x0 = .ok (.tagof 9 10 0xC3)
    ∧ decodeScalar 0x884802F8 0x0 = .ok (.reggrow 9 true 248)
    ∧ decodeScalar 0x8A480010 0x0 = .ok (.regshrink 9 16)
    ∧ decodeScalar 0x8C000020 0x0 = .ok (.rotset 32)
    ∧ decodeScalar 0x90000808 0x0 = .ok (.propose 0x40 8)
    ∧ decodeScalar 0x92000000 0x0 = .ok (.abandon)
    ∧ decodeScalar 0x94480002 0x0 = .ok (.pstat 9 2)
    ∧ decodeScalar 0x9809C180 0x0 = .ok (.mand 1 14 3)
    ∧ decodeScalar 0x9A09C180 0x0 = .ok (.mor 1 14 3)
    ∧ decodeScalar 0x9C09C180 0x0 = .ok (.mxor 1 14 3)
    ∧ decodeScalar 0x9E09C000 0x0 = .ok (.mnot 1 14)
    ∧ decodeScalar 0xA141C000 0x0 = .ok (.mpop 40 14)
    ∧ decodeScalar 0xA201C000 0x0 = .ok (.mexec 14) := by
  refine ⟨?_, ?_, ?_, ?_, ?_, ?_, ?_, ?_, ?_, ?_, ?_, ?_, ?_, ?_, ?_, ?_, ?_⟩ <;> decide

/-- Words written out from R203, R214, R221, R236, R251, R252, R278 to R281 and the opcode table. -/
theorem test_decode_scalar_memory :
    decodeScalar 0xA8488FF8 0x0 = .ok (.sld 9 4 3 0x3F8)
    ∧ decodeScalar 0xAA488804 0x0 = .ok (.sst 9 4 2 4)
    ∧ decodeScalar 0xAC489FF8 0x0 = .ok (.sldk 9 4 0x1FF8)
    ∧ decodeScalar 0xAE008280 0x0 = .ok (.handoverIn 4 5)
    ∧ decodeScalar 0xAE008281 0x0 = .ok (.handoverOut 4 5)
    ∧ decodeScalar 0xB0008002 0x0 = .ok (.wait 4 2)
    ∧ decodeScalar 0xB2488002 0x0 = .ok (.bankset 9 4 2)
    ∧ decodeScalar 0xB400001D 0x0 = .ok (.fence 3 5)
    ∧ decodeScalar 0xB648828C 0x0 = .ok (.cwait 9 4 5 true 4)
    ∧ decodeScalar 0xB8488000 0x0 = .ok (.yjob 9 4)
    ∧ decodeScalar 0xBA488001 0x0 = .ok (.ystat 9 4 true)
    ∧ decodeScalar 0xBC000000 0x0 = .ok (.deckFence)
    ∧ decodeScalar 0xBC480001 0x0 = .ok (.deckQuery 9) := by
  refine ⟨?_, ?_, ?_, ?_, ?_, ?_, ?_, ?_, ?_, ?_, ?_, ?_, ?_⟩ <;> decide

/-- Words written out from R293, R294, R297, R307, R329, R330, R346 to R350 and the opcode table. -/
theorem test_decode_matrix_launch_landing :
    decodeScalar 0xC030A00A 0x0 = .ok (.obres 6 5 true 2)
    ∧ decodeScalar 0xC2000002 0x0 = .ok (.obrel 2)
    ∧ decodeScalar 0xC400A000 0x0 = .ok (.gang 5)
    ∧ decodeScalar 0xC6000006 0x0 = .ok (.accz 2 1)
    ∧ decodeScalar 0xC6000021 0x0 = .ok (.acczFree 1)
    ∧ decodeScalar 0xC8308000 0x0 = .ok (.launch 6 4)
    ∧ decodeScalar 0xCA390000 0x0 = .ok (.cidx 7 8)
    ∧ decodeScalar 0xCA390001 0x0 = .ok (.cidxRank 7 8)
    ∧ decodeScalar 0xD0428000 0x0 = .ok (.estrd 8 20)
    ∧ decodeScalar 0xD0400001 0x0 = .ok (.estrdCpl 8)
    ∧ decodeScalar 0xD2490001 0x0 = .ok (.estwait 9 8 1)
    ∧ decodeScalar 0xD4490000 0x0 = .ok (.eststat 9 8)
    ∧ decodeScalar 0xD4490009 0x0 = .ok (.eststatReset 9 8 2) := by
  refine ⟨?_, ?_, ?_, ?_, ?_, ?_, ?_, ?_, ?_, ?_, ?_, ?_, ?_⟩ <;> decide

/-- Words written out from R36 to R42, R163 to R173. -/
theorem test_decode_lane_integer :
    decodeLane 0x001308000600000000000000 0x0 = .ok (.vmov ⟨⟨false, 0⟩, .n64, 8, 0, .reg 6, 0, ⟨0, false, false, false, false, false, false, false, false⟩, 0⟩)
    ∧ decodeLane 0x002005060700300000000000 0x0 = .ok (.vadd ⟨⟨false, 3⟩, .i32, 5, 6, .reg 7, 0, ⟨0, false, false, false, false, false, false, false, false⟩, 0⟩)
    ∧ decodeLane 0x003A05060700020000000000 0x0 = .ok (.vsub ⟨⟨false, 0⟩, .i16x2, 5, 6, .reg 7, 0, ⟨0, true, false, false, false, false, false, false, false⟩, 0⟩)
    ∧ decodeLane 0x004105060900000400000000 0x0 = .ok (.vmul ⟨⟨false, 0⟩, .n32, 5, 6, .sreg 9, 0, ⟨0, false, false, false, false, false, false, false, false⟩, 0⟩)
    ∧ decodeLane 0x005204060800000000000000 0x0 = .ok (.vmulh ⟨⟨false, 0⟩, .i64, 4, 6, .reg 8, 0, ⟨0, false, false, false, false, false, false, false, false⟩, 0⟩)
    ∧ decodeLane 0x006005060708001000000000 0x0 = .ok (.vmad ⟨⟨false, 0⟩, .i32, 5, 6, .reg 7, 8, ⟨0, false, false, false, false, false, true, false, false⟩, 0⟩)
    ∧ decodeLane 0x007D05060700000000000000 0x0 = .ok (.vabsd ⟨⟨false, 0⟩, .i8x4, 5, 6, .reg 7, 0, ⟨0, false, false, false, false, false, false, false, false⟩, 0⟩)
    ∧ decodeLane 0x0080050600000001FFFFFFFF 0x0 = .ok (.vmin ⟨⟨false, 0⟩, .i32, 5, 6, .imm 0xFFFFFFFF, 0, ⟨0, false, false, false, false, false, false, false, false⟩, 0⟩)
    ∧ decodeLane 0x009E05060700000000000000 0x0 = .ok (.vmax ⟨⟨false, 0⟩, .n8x4, 5, 6, .reg 7, 0, ⟨0, false, false, false, false, false, false, false, false⟩, 0⟩)
    ∧ decodeLane 0x00AC0506000000010000FF00 0x0 = .ok (.vand ⟨⟨false, 0⟩, .b32, 5, 6, .imm 0xFF00, 0, ⟨0, false, false, false, false, false, false, false, false⟩, 0⟩)
    ∧ decodeLane 0x80BC05060700000000000000 0x0 = .ok (.vor ⟨⟨true, 0⟩, .b32, 5, 6, .reg 7, 0, ⟨0, false, false, false, false, false, false, false, false⟩, 0⟩)
    ∧ decodeLane 0x40C204060000000000000000 0x2200000011 = .ok (.vxor ⟨⟨false, 0⟩, .i64, 4, 6, .lit 0x11 0x22 0, 0, ⟨0, false, false, false, false, false, false, false, false⟩, 0⟩)
    ∧ decodeLane 0x00DC050607080000000000E8 0x0 = .ok (.vtri ⟨⟨false, 0⟩, .b32, 5, 6, .reg 7, 8, ⟨0, false, false, false, false, false, false, false, false⟩, 232⟩)
    ∧ decodeLane 0x00EC05060709000000000000 0x0 = .ok (.vsel ⟨⟨false, 0⟩, .b32, 5, 6, .reg 7, 9, ⟨0, false, false, false, false, false, false, false, false⟩, 0⟩)
    ∧ decodeLane 0x00F009060705000000000000 0x0 = .ok (.vcmp ⟨⟨false, 0⟩, .i32, 9, 6, .reg 7, 5, ⟨0, false, false, false, false, false, false, false, false⟩, 0⟩)
    ∧ decodeLane 0x010105060000000100000003 0x0 = .ok (.vshl ⟨⟨false, 0⟩, .n32, 5, 6, .imm 3, 0, ⟨0, false, false, false, false, false, false, false, false⟩, 0⟩)
    ∧ decodeLane 0x011204060800000000000000 0x0 = .ok (.vshr ⟨⟨false, 0⟩, .i64, 4, 6, .reg 8, 0, ⟨0, false, false, false, false, false, false, false, false⟩, 0⟩)
    ∧ decodeLane 0x012005060700000000000000 0x0 = .ok (.vsar ⟨⟨false, 0⟩, .i32, 5, 6, .reg 7, 0, ⟨0, false, false, false, false, false, false, false, false⟩, 0⟩)
    ∧ decodeLane 0x013C05060708000000000000 0x0 = .ok (.vfshl ⟨⟨false, 0⟩, .b32, 5, 6, .reg 7, 8, ⟨0, false, false, false, false, false, false, false, false⟩, 0⟩)
    ∧ decodeLane 0x414C05060000000000000000 0x2200000011 = .ok (.vfshr ⟨⟨false, 0⟩, .b32, 5, 6, .lit 0x11 0x22 0, 0, ⟨0, false, false, false, false, false, false, false, false⟩, 0⟩)
    ∧ decodeLane 0x015C05060000000000000000 0x0 = .ok (.vpopc ⟨⟨false, 0⟩, .b32, 5, 6, .reg 0, 0, ⟨0, false, false, false, false, false, false, false, false⟩, 0⟩)
    ∧ decodeLane 0x016C05060000000000000000 0x0 = .ok (.vclz ⟨⟨false, 0⟩, .b32, 5, 6, .reg 0, 0, ⟨0, false, false, false, false, false, false, false, false⟩, 0⟩)
    ∧ decodeLane 0x017C05060000000000000000 0x0 = .ok (.vbrev ⟨⟨false, 0⟩, .b32, 5, 6, .reg 0, 0, ⟨0, false, false, false, false, false, false, false, false⟩, 0⟩)
    ∧ decodeLane 0x018005060000000100000805 0x0 = .ok (.vbfe ⟨⟨false, 0⟩, .i32, 5, 6, .imm 0x0805, 0, ⟨0, false, false, false, false, false, false, false, false⟩, 0⟩)
    ∧ decodeLane 0x019C05060708000000000000 0x0 = .ok (.vbfi ⟨⟨false, 0⟩, .b32, 5, 6, .reg 7, 8, ⟨0, false, false, false, false, false, false, false, false⟩, 0⟩)
    ∧ decodeLane 0x01A00500000000000000101A 0x0 = .ok (.vlane ⟨⟨false, 0⟩, .i32, 5, 0, .reg 0, 0, ⟨0, false, false, false, false, false, false, false, false⟩, 4122⟩) := by
  refine ⟨?_, ?_, ?_, ?_, ?_, ?_, ?_, ?_, ?_, ?_, ?_, ?_, ?_, ?_, ?_, ?_, ?_, ?_, ?_, ?_, ?_, ?_, ?_, ?_, ?_, ?_⟩ <;> decide

/-- Words written out from R36 to R42, R163, R174 to R179. -/
theorem test_decode_lane_float :
    decodeLane 0x020405060700040200000000 0x0 = .ok (.fadd ⟨⟨false, 0⟩, .f32, 5, 6, .reg 7, 0, ⟨1, false, false, false, false, false, false, false, true⟩, 0⟩)
    ∧ decodeLane 0x021504060800010000000000 0x0 = .ok (.fsub ⟨⟨false, 0⟩, .f64, 4, 6, .reg 8, 0, ⟨0, false, true, false, false, false, false, false, false⟩, 0⟩)
    ∧ decodeLane 0x022605060700002000000000 0x0 = .ok (.fmul ⟨⟨false, 0⟩, .f16, 5, 6, .reg 7, 0, ⟨0, false, false, false, false, true, false, false, false⟩, 0⟩)
    ∧ decodeLane 0x023401020304050000000000 0x0 = .ok (.ffma ⟨⟨false, 0⟩, .f32, 1, 2, .reg 3, 4, ⟨1, false, true, false, false, false, false, false, false⟩, 0⟩)
    ∧ decodeLane 0x024705060700000000000000 0x0 = .ok (.fmin ⟨⟨false, 0⟩, .bf16, 5, 6, .reg 7, 0, ⟨0, false, false, false, false, false, false, false, false⟩, 0⟩)
    ∧ decodeLane 0x025405060900000400000000 0x0 = .ok (.fmax ⟨⟨false, 0⟩, .f32, 5, 6, .sreg 9, 0, ⟨0, false, false, false, false, false, false, false, false⟩, 0⟩)
    ∧ decodeLane 0x026409060707000000000000 0x0 = .ok (.fcmp ⟨⟨false, 0⟩, .f32, 9, 6, .reg 7, 7, ⟨0, false, false, false, false, false, false, false, false⟩, 0⟩)
    ∧ decodeLane 0x027505060000000000000000 0x0 = .ok (.fclass ⟨⟨false, 0⟩, .f64, 5, 6, .reg 0, 0, ⟨0, false, false, false, false, false, false, false, false⟩, 0⟩)
    ∧ decodeLane 0x028405060000000000000000 0x0 = .ok (.frcp ⟨⟨false, 0⟩, .f32, 5, 6, .reg 0, 0, ⟨0, false, false, false, false, false, false, false, false⟩, 0⟩)
    ∧ decodeLane 0x029405060000008000000000 0x0 = .ok (.frsq ⟨⟨false, 0⟩, .f32, 5, 6, .reg 0, 0, ⟨0, false, false, true, false, false, false, false, false⟩, 0⟩)
    ∧ decodeLane 0x02A504060000080000000000 0x0 = .ok (.fsqrt ⟨⟨false, 0⟩, .f64, 4, 6, .reg 0, 0, ⟨2, false, false, false, false, false, false, false, false⟩, 0⟩)
    ∧ decodeLane 0x02B4050607000C0000000000 0x0 = .ok (.fdiv ⟨⟨false, 0⟩, .f32, 5, 6, .reg 7, 0, ⟨3, false, false, false, false, false, false, false, false⟩, 0⟩)
    ∧ decodeLane 0x02C405060000000000000000 0x0 = .ok (.fexp2 ⟨⟨false, 0⟩, .f32, 5, 6, .reg 0, 0, ⟨0, false, false, false, false, false, false, false, false⟩, 0⟩)
    ∧ decodeLane 0x02D405060000000000000000 0x0 = .ok (.flog2 ⟨⟨false, 0⟩, .f32, 5, 6, .reg 0, 0, ⟨0, false, false, false, false, false, false, false, false⟩, 0⟩)
    ∧ decodeLane 0x02E809030004000000000000 0x0 = .ok (.fcvt ⟨⟨false, 0⟩, .f8e4, 9, 3, .reg 0, 4, ⟨0, false, false, false, false, false, false, false, false⟩, 0⟩)
    ∧ decodeLane 0x02F405060000080000000000 0x0 = .ok (.frnd ⟨⟨false, 0⟩, .f32, 5, 6, .reg 0, 0, ⟨2, false, false, false, false, false, false, false, false⟩, 0⟩) := by
  refine ⟨?_, ?_, ?_, ?_, ?_, ?_, ?_, ?_, ?_, ?_, ?_, ?_, ?_, ?_, ?_, ?_⟩ <;> decide

/-- Words written out from R163, R180 to R182. -/
theorem test_decode_lane_cross_and_mask :
    decodeLane 0x030C05060700000000000000 0x0 = .ok (.vshuf ⟨⟨false, 0⟩, .b32, 5, 6, .reg 7, 0, ⟨0, false, false, false, false, false, false, false, false⟩, 0⟩)
    ∧ decodeLane 0x031C05060900000400000000 0x0 = .ok (.vbcast ⟨⟨false, 0⟩, .b32, 5, 6, .sreg 9, 0, ⟨0, false, false, false, false, false, false, false, false⟩, 0⟩)
    ∧ decodeLane 0x032304060000000100000001 0x0 = .ok (.vrot ⟨⟨false, 0⟩, .n64, 4, 6, .imm 1, 0, ⟨0, false, false, false, false, false, false, false, false⟩, 0⟩)
    ∧ decodeLane 0x0330050602000000C0000000 0x0 = .ok (.vscan ⟨⟨false, 0⟩, .i32, 5, 6, .reg 2, 0, ⟨0, false, false, false, false, false, false, false, false⟩, 3221225472⟩)
    ∧ decodeLane 0x034407060000000080000000 0x0 = .ok (.vred ⟨⟨false, 0⟩, .f32, 7, 6, .reg 0, 0, ⟨0, false, false, false, false, false, false, false, false⟩, 2147483648⟩)
    ∧ decodeLane 0x035005090000000000000000 0x0 = .ok (.msave ⟨⟨false, 0⟩, .i32, 5, 9, .reg 0, 0, ⟨0, false, false, false, false, false, false, false, false⟩, 0⟩)
    ∧ decodeLane 0x036009050000000000000000 0x0 = .ok (.mload ⟨⟨false, 0⟩, .i32, 9, 5, .reg 0, 0, ⟨0, false, false, false, false, false, false, false, false⟩, 0⟩) := by
  refine ⟨?_, ?_, ?_, ?_, ?_, ?_, ?_⟩ <;> decide

/-- Words written out from R139, R283, R336, R353. -/
theorem test_decode_lane_other :
    decodeLane 0x0384050A0000080000000000 0x0 = .ok (.accept ⟨false, 0⟩ 5 10 none)
    ∧ decodeLane 0x039C00000009000000000003 0x0 = .ok (.qpush ⟨false, 0⟩ .b32 9 3)
    ∧ decodeLane 0x03AC09000000200000000003 0x0 = .ok (.qpop ⟨false, 2⟩ .b32 9 3)
    ∧ decodeLane 0x03C105000000000000000000 0x0 = .ok (.rand ⟨false, 0⟩ .n32 5)
    ∧ decodeLane 0x03D40C000000000000000000 0x0 = .ok (.randf ⟨false, 0⟩ .f32 12)
    ∧ decodeLane 0x03E514000000000000000000 0x0 = .ok (.randn ⟨false, 0⟩ .f64 20)
    ∧ decodeLane 0x03F4000A0900000100000000 0x0 = .ok (.estadd ⟨false, 0⟩ .f32 10 (.sreg 9)) := by
  refine ⟨?_, ?_, ?_, ?_, ?_, ?_, ?_⟩ <;> decide

/-- Words written out from R196, R201, R202, R228, R229, R233, R253, R295. -/
theorem test_decode_lane_memory :
    decodeLane 0x040408020400000E00000010 0x0 = .ok (.vld ⟨⟨false, 0⟩, .f32, 8, 2, .sreg 4, 0, 0, 0, false, false, 1, 2, 0, 16⟩)
    ∧ decodeLane 0x041100020409000E00000000 0x0 = .ok (.vst ⟨⟨false, 0⟩, .n32, 0, 2, .sreg 4, 9, 0, 0, false, false, 1, 2, 0, 0⟩)
    ∧ decodeLane 0x042100020409002E80000004 0x0 = .ok (.vstSlc ⟨⟨false, 0⟩, .n32, 0, 2, .sreg 4, 9, 0, 0, false, true, 1, 2, 2, 4⟩)
    ∧ decodeLane 0x04340002060010133FFFFFF0 0x0 = .ok (.vpfx ⟨⟨false, 1⟩, .f32, 0, 2, .vreg 6, 0, 0, 0, false, false, 2, 3, 0, 0x3FFFFFF0⟩)
    ∧ decodeLane 0x044C00020409070E50000008 0x0 = .ok (.vat ⟨⟨false, 0⟩, .b32, 0, 2, .sreg 4, 9, 3, 2, 1, 2, 5, 8⟩)
    ∧ decodeLane 0x84530800060A00009FFFFFF8 0x0 = .ok (.vatr ⟨⟨true, 0⟩, .n64, 8, 0, .vreg 6, 10, 0, 0, 0, 0, 9, 0xFFFFFF8⟩)
    ∧ decodeLane 0x048408020400000E00000000 0x0 = .ok (.vlds ⟨⟨false, 0⟩, .f32, 8, 2, .sreg 4, 0, 0, 0, false, false, 1, 2, 0, 0⟩)
    ∧ decodeLane 0x049100020409000E00000000 0x0 = .ok (.vsts ⟨⟨false, 0⟩, .n32, 0, 2, .sreg 4, 9, 0, 0, false, false, 1, 2, 0, 0⟩)
    ∧ decodeLane 0x04AC00000009000000000002 0x0 = .ok (.fpush ⟨false, 0⟩ .b32 9 false 2)
    ∧ decodeLane 0x04BC09000000000000000002 0x0 = .ok (.fpop ⟨false, 0⟩ .b32 9 false 2)
    ∧ decodeLane 0x050C01020403000E00000000 0x0 = .ok (.obld ⟨⟨false, 0⟩, .b32, 1, 2, .sreg 4, 3, 0, 0, false, false, 1, 2, 0, 0⟩) := by
  refine ⟨?_, ?_, ?_, ?_, ?_, ?_, ?_, ?_, ?_, ?_, ?_⟩ <;> decide

/-- Words written out from R299, R308, R309. -/
theorem test_decode_lane_matrix :
    decodeLane 0x051000004000008000000003 0x0 = .ok (.mma ⟨false, 0⟩ 0x40 0 1 (.imm 3) 0)
    ∧ decodeLane 0x052414040000000000000005 0x0 = .ok (.accrd ⟨false, 0⟩ .f32 20 4 0 false false 1 true)
    ∧ decodeLane 0x053028040000000200000000 0x0 = .ok (.accxRd ⟨false, 0⟩ 2 40 4)
    ∧ decodeLane 0x053000040028000600000000 0x0 = .ok (.accxWr ⟨false, 0⟩ 2 4 40)
    ∧ decodeLane 0x05300004002C000900000000 0x0 = .ok (.accxAdd ⟨false, 0⟩ 1 4 44)
    ∧ decodeLane 0x053007000000000F00000000 0x0 = .ok (.accxFlg ⟨false, 0⟩ 3 7)
    ∧ decodeLane 0x053000000009001000000000 0x0 = .ok (.accxOrf ⟨false, 0⟩ 0 9) := by
  refine ⟨?_, ?_, ?_, ?_, ?_, ?_, ?_⟩ <;> decide

/-! ### Ill-formed terms, one for each check (R39, R52 and each encoding) -/

/-- A layout A word to spoil: `vadd.i32 v5, v6, v7`. -/
def wordA : LaneA := ⟨⟨false, 0⟩, .i32, 5, 6, .reg 7, 0, ⟨0, false, false, false, false, false, false, false, false⟩, 0⟩
/-- A layout M word to spoil: `vld.f32 v8, [s4 + v2*4 + 16]`. -/
def wordM : LaneM := ⟨⟨false, 0⟩, .f32, 8, 2, .sreg 4, 0, 0, 0, false, false, 1, 2, 0, 16⟩
/-- An atomic word to spoil: `vat.add.i32 [s4 + v2*4], v9`. -/
def wordAt : LaneAt := ⟨⟨false, 0⟩, .i32, 0, 2, .sreg 4, 9, 0, 0, 1, 2, 0, 0⟩

theorem test_wf_accepts : (Instr.vadd wordA).wf = true ∧ (Instr.vld wordM).wf = true ∧ (Instr.vat wordAt).wf = true := by decide

theorem test_wf_refuses_scalar_fields :
    (Instr.issue 0 1).wf = false ∧ (Instr.issueReg 0 1).wf = false ∧ (Instr.issueReg 1 0).wf = false ∧ (Instr.join 0).wf = false
    ∧ (Instr.brm 1 3 0 0).wf = false ∧ (Instr.scmp 10 1 2 (.reg 3)).wf = false ∧ (Instr.srd 1 0x003).wf = false
    ∧ (Instr.swr 0x000 1).wf = false ∧ (Instr.reggrow 1 false 12).wf = false ∧ (Instr.reggrow 1 false 0).wf = false
    ∧ (Instr.regshrink 1 256).wf = false ∧ (Instr.rotset 12).wf = false ∧ (Instr.rotset 72).wf = false
    ∧ (Instr.propose 248 0).wf = false ∧ (Instr.pstat 1 3).wf = false := by
  refine ⟨?_, ?_, ?_, ?_, ?_, ?_, ?_, ?_, ?_, ?_, ?_, ?_, ?_, ?_, ?_⟩ <;> decide

theorem test_wf_refuses_system_fields :
    (Instr.sld 1 2 7 0).wf = false ∧ (Instr.sst 1 2 3 0).wf = false ∧ (Instr.wait 1 6).wf = false
    ∧ (Instr.bankset 1 2 3).wf = false ∧ (Instr.fence 0 1).wf = false ∧ (Instr.fence 1 7).wf = false
    ∧ (Instr.cwait 1 2 3 true 7).wf = false ∧ (Instr.estrd 9 1).wf = false ∧ (Instr.estrdCpl 0).wf = false
    ∧ (Instr.estwait 1 2 3).wf = false ∧ (Instr.blaze 1 0 0).wf = false := by
  refine ⟨?_, ?_, ?_, ?_, ?_, ?_, ?_, ?_, ?_, ?_, ?_⟩ <;> decide

/-- Types, modifiers, sources, codes, constants and registers of layout A (R40, R42, R163 to R165). -/
theorem test_wf_refuses_layout_a :
    (Instr.vadd { wordA with ty := .f32 }).wf = false ∧ (Instr.fcvt { wordA with b := .reg 0, c := 10 }).wf = false
    ∧ (Instr.vadd { wordA with m := { wordA.m with rnd := 1 } }).wf = false
    ∧ (Instr.vand { wordA with m := { wordA.m with na := true } }).wf = false
    ∧ (Instr.vadd { wordA with b := .imm 1, x := 1 }).wf = false ∧ (Instr.fadd { wordA with ty := .f64, d := 4, b := .imm 1 }).wf = false
    ∧ (Instr.vadd { wordA with b := .lit 1 0 1 }).wf = false ∧ (Instr.vbcast { wordA with ty := .b32 }).wf = false
    ∧ (Instr.vcmp { wordA with c := 6 }).wf = false ∧ (Instr.vscan { wordA with c := 3 }).wf = false
    ∧ (Instr.vadd { wordA with x := 1 }).wf = false ∧ (Instr.vtri { wordA with ty := .b32, x := 0x100 }).wf = false
    ∧ (Instr.vadd { wordA with ty := .i64 }).wf = false ∧ (Instr.vcmp { wordA with d := 16 }).wf = false
    ∧ (Instr.vadd { wordA with c := 1 }).wf = false ∧ (Instr.vmov wordA).wf = false := by
  refine ⟨?_, ?_, ?_, ?_, ?_, ?_, ?_, ?_, ?_, ?_, ?_, ?_, ?_, ?_, ?_, ?_⟩ <;> decide

/-- Types, fields, base, scope and order of layout M and of the atomics (R196, R197, R228, R253, R254, R256, R295). -/
theorem test_wf_refuses_memory_words :
    (Instr.obld wordM).wf = false ∧ (Instr.vld { wordM with c := 1 }).wf = false ∧ (Instr.vld { wordM with order := 2 }).wf = false
    ∧ (Instr.vst { wordM with d := 0, inv := true }).wf = false ∧ (Instr.vld { wordM with base := .vreg 5 }).wf = false
    ∧ (Instr.vld { wordM with x := 3 }).wf = false ∧ (Instr.vld { wordM with x := 0 }).wf = false
    ∧ (Instr.vld { wordM with mem := 1 }).wf = false ∧ (Instr.vld { wordM with mem := 3 }).wf = false
    ∧ (Instr.vld { wordM with scope := 1 }).wf = false ∧ (Instr.vlds { wordM with order := 1, scope := 3 }).wf = false
    ∧ (Instr.vpfx { wordM with d := 1 }).wf = false ∧ (Instr.vstSlc { wordM with d := 0, base := .vreg 4 }).wf = false
    ∧ (Instr.vat { wordAt with op := 10 }).wf = false ∧ (Instr.vatr { wordAt with op := 1 }).wf = false
    ∧ (Instr.vat { wordAt with op := 3 }).wf = false ∧ (Instr.vat { wordAt with d := 1 }).wf = false
    ∧ (Instr.vat { wordAt with ty := .b32, op := 6 }).wf = false ∧ (Instr.vat { wordAt with order := 1 }).wf = false := by
  refine ⟨?_, ?_, ?_, ?_, ?_, ?_, ?_, ?_, ?_, ?_, ?_, ?_, ?_, ?_, ?_, ?_, ?_, ?_, ?_⟩ <;> decide

theorem test_wf_refuses_other_lane_words :
    (Instr.qpush ⟨false, 0⟩ .f64 9 3).wf = false ∧ (Instr.qpop ⟨false, 0⟩ .i64 9 3).wf = false
    ∧ (Instr.fpush ⟨false, 0⟩ .f16 9 false 2).wf = false ∧ (Instr.fpop ⟨false, 0⟩ .n64 9 false 2).wf = false
    ∧ (Instr.rand ⟨false, 0⟩ .f32 5).wf = false ∧ (Instr.rand ⟨false, 0⟩ .n64 5).wf = false ∧ (Instr.randf ⟨false, 0⟩ .f16 5).wf = false
    ∧ (Instr.estadd ⟨false, 0⟩ .i64 4 (.imm 0)).wf = false ∧ (Instr.estadd ⟨false, 0⟩ .f64 5 (.imm 0)).wf = false
    ∧ (Instr.mma ⟨false, 0⟩ 0x40 0 1 (.imm 3) 3).wf = false ∧ (Instr.accrd ⟨false, 0⟩ .i32 20 4 0 false false 1 true).wf = false
    ∧ (Instr.accrd ⟨false, 0⟩ .f64 21 4 0 false false 1 true).wf = false ∧ (Instr.accxRd ⟨false, 0⟩ 2 41 4).wf = false
    ∧ (Instr.accxWr ⟨false, 0⟩ 2 4 41).wf = false := by
  refine ⟨?_, ?_, ?_, ?_, ?_, ?_, ?_, ?_, ?_, ?_, ?_, ?_, ?_, ?_⟩ <;> decide

/-- An encoding with a reserved bit set, an unassigned opcode, and a slot cut short decode to no instruction. -/
theorem test_decode_refuses : (decodeScalar 0x00000001 0).toOption = none ∧ (decodeLane 0 0).toOption = none
    ∧ decodeScalarBytes [0, 0] = .error .truncated := by decide

/-! ### Showing that a hypothesis holds -/

/-- The conditions of `LaneReady`, computed. -/
def readyB (c : Crew) (i : Nat) (p : Path) (w : LaneInfo) : Bool :=
  decide (c.groups ≤ 32) && (!w.h.sw || (!c.outstanding i && decide (p.late = []))) && !isVoid p (selMask c p w.h)
  && (w.reads ++ w.writes ++ w.late).all (fun v => !decide (v < 1024) || c.present (c.physical v))
  && (w.h.sw || p.newSeg || (((w.reads ++ w.late ++ [maskReg 0, maskReg w.h.mask.toNat] ++ w.writes).map c.phys).all (fun r => !p.segW.contains r)
      && (w.writes.map c.phys).all (fun r => !p.segB.contains r)))
  && (!w.long || decide ((c.words.filter (·.slot)).length < 32))
  && (match w.counter with | some k => decide (c.inflight i k < 255) | none => true)

theorem ready_of {s : State} {c : Crew} {i : Nat} {p : Path} {w : LaneInfo} (h : Issuing s c i p) (b : readyB c i p w = true) :
    LaneReady s c i p w := by
  simp only [readyB, Bool.and_eq_true, decide_eq_true_eq, Bool.or_eq_true, Bool.not_eq_true', List.all_eq_true,
    List.contains_eq_mem, decide_eq_false_iff_not] at b
  obtain ⟨⟨⟨⟨⟨⟨g, m⟩, a⟩, pr⟩, hz⟩, sl⟩, ct⟩ := b
  refine ⟨h, g, fun e => ?_, a, fun v hv lt => ?_, ?_, fun e => ?_, fun k e => ?_⟩
  · exact m.resolve_left (by simp [e])
  · exact (pr v hv).resolve_left (by simp [lt])
  · rcases hz with (e | e) | e
    · exact .inl e
    · exact .inr (.inl e)
    · exact .inr (.inr e)
  · exact sl.resolve_left (by simp [e])
  · rw [e] at ct
    simpa using ct

/-- A result that is no error. -/
def isOk {ε α : Type} : Except ε α → Bool
  | .ok _ => true
  | .error _ => false
theorem exists_ok {ε α : Type} {x : Except ε α} (h : isOk x = true) : ∃ u, x = .ok u := by
  cases x with
  | ok u => exact ⟨u, rfl⟩
  | error e => cases h
theorem exists_some {α : Type} {x : Option α} (h : x.isSome = true) : ∃ u, x = some u := Option.isSome_iff_exists.mp h

/-! ### A small machine: one team of one crew of one group, on core 0 (log 5) -/

/-- The launch: cruise, determinism and the block's other fields as given. -/
def tLaunch (b : Block) : Launch := { newLaunch 0 1 b { loadDesc with accum := 2, fifo := 1, scr := 4 } [7] 0 [] [] with
  eligible := true, next := 1 }
/-- A path that issues: every lane of its group is in m0. -/
def tPath : Path := { Path.empty with
  st := .ready, spc := 0x100000, lpc := 0x108000, mask := 0xFFFFFFFF, m0 := 0xFFFFFFFF, thr := 4 }
/-- A crew with this path in entry 0. -/
def crewOf (p : Path) : Crew := { newCrew 3 2 0 0 0 ⟨0, 0, 248, 0, 0, 0⟩ (tLaunch loadBlock) 4 with
  s := [(4, 0x100100), (5, 8)], c := [], paths := p :: List.replicate 8 Path.empty }
/-- Its team. -/
def tTeam : Team := { newTeam 2 { tLaunch loadBlock with next := 0 } 0 0 with scrLen := 4096 }
/-- The machine with this crew, team and launch, path 0 of the crew issuing, and the program's page in the core's TLB. -/
def machine (c : Crew) (t : Team) (b : Block) : State := { State.reset with
  launches := [tLaunch b], teams := [t], crews := [c], cur := some ⟨3, 0⟩, nextId := 10
  cores := modAt State.reset.cores 0 fun k => { k with tlb := [loadTrans] }
  pairs := List.replicate 72 { Pair.reset with tar := some 0 } }
/-- The same with the plain team and block. -/
def with_ (c : Crew) : State := machine c tTeam loadBlock
/-- A path that runs its handler, and one that has a record which is due. -/
def tRec (running : Bool) : TrapRec := ⟨14, 0x1234, 0x100004, 0x108000, none, 0, 0, 0xF, true, false, 0, 0, 0, 0, true, running⟩
def tHandler : Path := { tPath with trap := some (tRec true) }
/-- A word in flight that will write v5. -/
def tWord : Word where
  wid := 9
  path := 0
  instr := .frcp ⟨⟨false, 0⟩, .f32, 5, 6, .reg 0, 0, ⟨0, false, false, false, false, false, false, false, false⟩, 0⟩
  spc := 0x100000
  lpc := 0x108000
  iss := none
  depth := 0
  lcnt := 0
  lanes := 0xFFFFFFFF
  slot := true
  counter := none
  dests := [5]
  shadow := 0
  prop := 0
  bcast := []
  resv := []
  vals := [(0, 7)]
  ops := []
  owed := 0
  open_ := []
  srcs := []
  undo := []
  done := true

/-! ### Every hypothesis of a statement is met: a witness for each clause -/

theorem witness_scalarWords : let c := crewOf tPath
    Issuing (with_ c) c 0 tPath ∧ c.pending [1, 2, 3] = false := by
  and_intros <;> first | exact ⟨rfl, rfl, rfl⟩ | decide +kernel

theorem witness_scmp : let c := crewOf tPath
    Issuing (with_ c) c 0 tPath ∧ (9 : BitVec 4).toNat < 10 ∧ c.pending (4 :: SSrc.regs (.reg 5)) = false := by
  and_intros <;> first | exact ⟨rfl, rfl, rfl⟩ | decide +kernel

theorem witness_division : let c := crewOf tPath
    let q := { tPath with m0 := 0 }
    (Issuing (with_ c) c 0 tPath ∧ c.pending (1 :: 4 :: SSrc.regs (.reg 5)) = false ∧ c.given false (.reg 5) ≠ 0)
    ∧ (Issuing (with_ (crewOf q)) (crewOf q) 0 q ∧ (crewOf q).given false (.lit 0) = 0 ∧ q.m0 = 0)
    ∧ (c.given true (.reg 0) = 0 ∧ tPath.m0 ≠ 0 ∧ tPath.isHandler = false)
    ∧ (Issuing (with_ (crewOf tHandler)) (crewOf tHandler) 0 tHandler ∧ (crewOf tHandler).given false (.reg 0) = 0
      ∧ tHandler.m0 ≠ 0 ∧ tHandler.isHandler = true) := by
  and_intros <;> first | exact ⟨rfl, rfl, rfl⟩ | decide +kernel

theorem witness_issue : let c := crewOf tPath
    let q := { tPath with iss := some ⟨1, 1, 0, false, 0x108000, []⟩ }
    (Issuing (with_ c) c 0 tPath ∧ tPath.iss = none ∧ c.sPend = [])
    ∧ Issuing (with_ (crewOf q)) (crewOf q) 0 q ∧ q.iss ≠ none := by
  and_intros <;> first | exact ⟨rfl, rfl, rfl⟩ | decide +kernel

theorem witness_branches : let c := crewOf tPath
    Issuing (with_ c) c 0 tPath ∧ tPath.iss = none ∧ c.maskPending 0 5 = false ∧ tPath.isHandler = false := by
  and_intros <;> first | exact ⟨rfl, rfl, rfl⟩ | decide +kernel

theorem witness_calls : let q := { tPath with link := List.replicate 16 ⟨0, 0, false, 0⟩ }
    (Issuing (with_ (crewOf tPath)) (crewOf tPath) 0 tPath ∧ tPath.iss = none ∧ tPath.link.length < 16)
    ∧ Issuing (with_ (crewOf q)) (crewOf q) 0 q ∧ q.iss = none ∧ 16 ≤ q.link.length ∧ q.isHandler = false := by
  and_intros <;> first | exact ⟨rfl, rfl, rfl⟩ | decide +kernel

theorem witness_ret : let q := { tPath with link := [⟨0x100040, 0x108030, false, 0⟩] }
    (Issuing (with_ (crewOf q)) (crewOf q) 0 q ∧ q.iss = none ∧ q.isHandler = false ∧ (crewOf q).outstanding 0 = false ∧ q.late = []
      ∧ q.link = ⟨0x100040, 0x108030, false, 0⟩ :: [])
    ∧ Issuing (with_ (crewOf tPath)) (crewOf tPath) 0 tPath ∧ tPath.link = [] := by
  and_intros <;> first | exact ⟨rfl, rfl, rfl⟩ | decide +kernel

theorem witness_split :
    let c := { crewOf tPath with m := [(1, 0xFFFFFFFF), (2, 0xF)] }
    let d := { c with paths := List.replicate 8 tPath ++ [Path.empty] }
    (Issuing (with_ c) c 0 tPath ∧ Free c 0 tPath ∧ c.pending [5] = false ∧ tPath.m0 &&& ~~~c.mget tPath 1 = 0)
    ∧ (tPath.m0 &&& ~~~c.mget tPath 3 ≠ 0 ∧ tPath.m0 &&& c.mget tPath 3 = 0)
    ∧ (Issuing (with_ d) d 0 tPath ∧ Free d 0 tPath ∧ tPath.m0 &&& ~~~d.mget tPath 2 ≠ 0 ∧ tPath.m0 &&& d.mget tPath 2 ≠ 0
      ∧ d.freeEntry = none)
    ∧ (tPath.m0 &&& ~~~c.mget tPath 2 ≠ 0 ∧ tPath.m0 &&& c.mget tPath 2 ≠ 0 ∧ c.freeEntry = some 1 ∧ 1 ≠ 0 ∧ 1 < c.paths.length) := by
  and_intros <;> first | exact ⟨rfl, rfl, rfl⟩ | exact ⟨rfl, rfl, rfl, rfl, rfl, rfl⟩ | decide +kernel

theorem witness_join :
    let c := { crewOf tPath with m := [(1, 0xFFFFFFFF)] }
    let j := { tPath with st := .join, joinM := 1 }
    let d := { c with paths := [j, { j with mask := 0, m0 := 0 }] ++ List.replicate 7 Path.empty }
    (Issuing (with_ c) c 0 tPath ∧ Free c 0 tPath ∧ tPath.mask &&& c.mget tPath 3 = 0)
    ∧ tPath.mask &&& c.mget tPath 1 ≠ 0 ∧ d.atSite 0x100000 = 0 :: [1] ∧ 0 < d.paths.length := by
  and_intros <;> first | exact ⟨rfl, rfl, rfl⟩ | exact ⟨rfl, rfl, rfl, rfl, rfl, rfl⟩ | decide +kernel

theorem witness_exit : let c := { crewOf tPath with prop := some ⟨8, 1, 3, 0, [], []⟩ }
    Issuing (with_ c) c 0 tPath ∧ Free c 0 tPath ∧ 0 < 8 ∧ c.paths.length = 9 ∧ (with_ c).teamOf c.team = some tTeam
    ∧ tTeam.exitChecks tPath.mask ((with_ c).barWaits tTeam) = [] ∧ c.prop = some ⟨8, 1, 3, 0, [], []⟩ := by
  and_intros <;> first | exact ⟨rfl, rfl, rfl⟩ | exact ⟨rfl, rfl, rfl, rfl, rfl, rfl⟩ | decide +kernel

theorem witness_barriers : let c := { crewOf tPath with m := [(1, 0xFFFFFFFF)], s := [(6, 0xFFFFFFFF)] }
    let bar := tTeam.bar 2
    (Issuing (with_ c) c 0 tPath ∧ Free c 0 tPath ∧ c.pending [7] = false ∧ c.pending [5] = false ∧ (with_ c).teamOf c.team = some tTeam
      ∧ bar.checks (c.mget tPath 1) tPath.m0 = [])
    ∧ (1 ≤ (bar.phase - (c.sget 6).setWidth 32).toNat ∧ (bar.phase - (c.sget 6).setWidth 32).toNat ≤ 2 ^ 31)
    ∧ ¬ (1 ≤ (bar.phase - (c.sget 5).setWidth 32).toNat ∧ (bar.phase - (c.sget 5).setWidth 32).toNat ≤ 2 ^ 31) := by
  and_intros <;> first | exact ⟨rfl, rfl, rfl⟩ | exact ⟨rfl, rfl, rfl, rfl, rfl, rfl⟩ | decide +kernel

theorem witness_barrierPhase : let b : Barrier := ⟨0, 3, 3, true, 0, [], []⟩
    let d : Barrier := ⟨0, 3, 1, true, 0, [], []⟩
    (b.opn = true ∧ b.memb &&& 3 &&& ~~~b.arr = 0) ∧ d.opn = true ∧ d.memb &&& 3 &&& ~~~d.arr ≠ 0 := by decide +kernel

theorem witness_roleSignals : let c := crewOf tPath
    let q := { tPath with st := .rolesig, need := 2 }
    let d := { crewOf q with sig := 2 }
    (Issuing (with_ c) c 0 tPath ∧ Free c 0 tPath ∧ c.pending [5] = false ∧ (0 : BitVec 2).toNat < ((with_ c).crewsOf c.team).length)
    ∧ ((with_ c).crewsOf c.team).length ≤ (1 : BitVec 2).toNat
    ∧ (c.sget 0).toNat % 2 ^ 32 = 0 ∧ (c.sget 5).toNat % 2 ^ 32 ≠ 0
    ∧ ((crewOf q).path 0).st = .rolesig ∧ (crewOf q).sig.toNat < ((crewOf q).path 0).need.toNat
    ∧ (d.path 0).st = .rolesig ∧ (d.path 0).need.toNat ≤ d.sig.toNat ∧ 0 < d.paths.length := by
  and_intros <;> first | exact ⟨rfl, rfl, rfl⟩ | exact ⟨rfl, rfl, rfl, rfl, rfl, rfl⟩ | decide +kernel

theorem witness_traps : let p := { tPath with trap := some (tRec false) }
    let c := { crewOf p with ltvec := 0x10 }
    let s := with_ c
    (s.named ⟨0, 0, 0⟩ = some (c, p) ∧ c.paths[0]? = some p ∧ s.crewOf c.id = some c ∧ c.dueRec 0 = some (tRec false)
      ∧ c.handler = none ∧ c.nextTrap = some 0 ∧ c.trapWaits (tRec false) = false ∧ s.kdOf c = some (tLaunch loadBlock).kd ∧ c.ltvec ≠ 0)
    ∧ (with_ (crewOf p)).named ⟨0, 0, 0⟩ = some (crewOf p, p) ∧ (crewOf p).ltvec = 0 := by
  and_intros <;> decide +kernel

theorem witness_tret : let c := crewOf tHandler
    (Issuing (with_ c) c 0 tHandler ∧ tHandler.iss = none ∧ c.outstanding 0 = false ∧ tHandler.late = []
      ∧ tHandler.trap = some (tRec true) ∧ (tRec true).running = true)
    ∧ tPath.isHandler = false := by
  and_intros <;> first | exact ⟨rfl, rfl, rfl⟩ | decide +kernel

theorem witness_handlerWords : let p := { tHandler with link := [⟨0, 0, false, 0⟩], trap := some { tRec true with depth := 1 } }
    let c := crewOf p
    Issuing (with_ c) c 0 p ∧ p.isHandler = true ∧ c.pending [5] = false ∧ (0 : BitVec 2).toNat < ((with_ c).crewsOf c.team).length
    ∧ p.link = ⟨0, 0, false, 0⟩ :: [] ∧ p.trap = some { tRec true with depth := 1 } ∧ p.link.length ≤ ({ tRec true with depth := 1 } : TrapRec).depth
    ∧ p.iss = none ∧ c.outstanding 0 = false ∧ p.late = [] := by
  and_intros <;> first | exact ⟨rfl, rfl, rfl⟩ | decide +kernel

theorem witness_haltd : let c := crewOf tPath
    let s := with_ c
    let s' := { s with parts := [{ Part.reset 4 with dbgCtl := 1 }] }
    (Issuing s c 0 tPath ∧ tPath.st = .ready ∧ s.part? (s.partOf c) = some (Part.reset 4) ∧ (Part.reset 4).mode = 0)
    ∧ Issuing s' c 0 tPath ∧ s'.part? (s'.partOf c) = some { Part.reset 4 with dbgCtl := 1 }
    ∧ ({ Part.reset 4 with dbgCtl := 1 } : Part).mode = 1 := by
  and_intros <;> first | exact ⟨rfl, rfl, rfl⟩ | decide +kernel

theorem witness_yield : let c := crewOf tPath
    Issuing (with_ c) c 0 tPath ∧ tPath.iss = none ∧ c.undispatched 0 = false ∧ (with_ c).teamOf c.team = some tTeam := by
  and_intros <;> first | exact ⟨rfl, rfl, rfl⟩ | decide +kernel

theorem witness_specialRegisters : let c := crewOf tPath
    let p := { tPath with m0 := 0, trap := some (tRec false) }
    (Issuing (with_ c) c 0 tPath ∧ tPath.iss = none ∧ c.pending [5] = false ∧ ¬ (with_ c).time.ult c.lastT)
    ∧ (tPath.trap = none ∧ maskLowest tPath.m0 = some 0 ∧ tPath.m0.getLsbD 31 = true ∧ tPath.m0.getLsbD 32 = false)
    ∧ ((crewOf p).path 0).trap = some (tRec false) ∧ ((crewOf p).path 0).m0 = 0 ∧ { c with rot := 8 }.rot ≠ 0 := by
  and_intros <;> first | exact ⟨rfl, rfl, rfl⟩ | decide +kernel

theorem witness_reggrow : let c := { crewOf tPath with nRegs := 8 }
    let full := { c with v := (List.range 32).map fun k => (k, .gen (List.replicate 32 1)), groups := 32 }
    (Issuing (with_ c) c 0 tPath ∧ c.pending [5] = false ∧ (8 : BitVec 9).toNat ≤ c.nRegs)
    ∧ (c.nRegs < (16 : BitVec 9).toNat ∧ (16 - c.nRegs) * c.groups * 8 ≤ (with_ c).crewFree c)
    ∧ Issuing (with_ full) full 0 tPath ∧ full.nRegs < (248 : BitVec 9).toNat
    ∧ (with_ full).crewFree full < (248 - full.nRegs) * full.groups * 8 := by
  and_intros <;> first | exact ⟨rfl, rfl, rfl⟩ | decide +kernel

theorem witness_regshrink : let c := { crewOf tPath with nRegs := 16 }
    let r := { crewOf tPath with rot := 8 }
    (Issuing (with_ c) c 0 tPath ∧ c.pending [5] = false
      ∧ c.busyRegs ((List.range (c.nRegs - 8)).map (· + 8)) = false ∧ ¬ (0 < c.rot ∧ 8 < 128 + c.rot) ∧ 8 < c.nRegs)
    ∧ c.nRegs ≤ 16 ∧ Issuing (with_ r) r 0 tPath ∧ 0 < r.rot ∧ 128 < 128 + r.rot ∧ tPath.isHandler = false := by
  and_intros <;> first | exact ⟨rfl, rfl, rfl⟩ | decide +kernel

theorem witness_tagofAndRotset : let c := crewOf tPath
    let w := { c with prop := some ⟨120, 16, 1, 0, [], []⟩, rot := 8 }
    (Issuing (with_ c) c 0 tPath ∧ tPath.iss = none ∧ c.pending [9, 5] = false
      ∧ c.owesWrite 0 (c.physical 8) = false)
    ∧ (Issuing (with_ w) w 0 tPath ∧ w.rotOverlaps w.rot ∧ tPath.isHandler = false)
    ∧ (¬ (c.rotOverlaps c.rot ∨ c.rotOverlaps 32) ∧ { c with nRegs := 136 }.nRegs < 128 + 32) ∧ 128 + 32 ≤ c.nRegs := by
  and_intros <;> first | exact ⟨rfl, rfl, rfl⟩ | decide +kernel

theorem witness_propose : let c := crewOf tPath
    let q := { tPath with m0 := 0 }
    let w := { c with prop := some ⟨8, 1, 1, 0, [], []⟩ }
    let r := { c with rot := 8 }
    (Issuing (with_ r) r 0 tPath ∧ tPath.iss = none ∧ tPath.isHandler = false ∧ r.badWindow 120 16 = true)
    ∧ (c.badWindow 8 4 = false ∧ c.busyRegs ((List.range 4).map (· + 8)) = false
      ∧ tPath.m0 ≠ 0 ∧ c.prop = none ∧ 8 + 4 ≤ c.nRegs ∧ c.windowCost 8 4 ≤ (with_ c).crewFree c)
    ∧ (Issuing (with_ (crewOf q)) (crewOf q) 0 q ∧ q.m0 = 0) ∧ (Issuing (with_ w) w 0 tPath ∧ w.prop ≠ none)
    ∧ { c with nRegs := 8 }.nRegs < 8 + 4 ∧ c.windowBusy = false := by
  and_intros <;> first | exact ⟨rfl, rfl, rfl⟩ | decide +kernel

theorem witness_closing : let c := { crewOf tPath with prop := some ⟨8, 1, 3, 0, [0], [(0, .uni 7)]⟩ }
    c.prop = some ⟨8, 1, 3, 0, [0], [(0, .uni 7)]⟩ ∧ c.groupWord ((3 : Mask) &&& 3) 0 ≠ 0 ∧ (some (0 : Mask)) ≠ none
    ∧ (3 : Mask) &&& ~~~((3 : Mask) &&& 3) = 0 ∧ (3 : Mask) &&& ~~~((1 : Mask) &&& 3) ≠ 0
    ∧ 0 < c.groups ∧ c.groups ≤ 32 := by decide +kernel

theorem witness_pstat : let c := crewOf tPath
    Issuing (with_ c) c 0 tPath ∧ tPath.iss = none ∧ c.pending [9] = false ∧ (2 : BitVec 2) ≠ 3 := by
  and_intros <;> first | exact ⟨rfl, rfl, rfl⟩ | decide +kernel

/-- One access of a path, to 8 bytes at a physical address. -/
def tAcc (kind : AccKind) (addr : Nat) : Acc where
  id := 5
  thr := 4
  entry := 0
  clk := none
  wid := 9
  lane := 0
  kind := kind
  space := .mem
  addr := addr
  width := 8
  data := 0x1122334455667788
  expect := 0
  op := 0
  ty := .n64
  acq := false
  rel := false
  scope := 0
  fences := []
  quiet := false
  acode := 1
  va := 0x100100
  spc := 0x100000
  lpc := 0x108000
  scalar := true

theorem witness_scalarAccesses : let c := { crewOf tPath with s := [(4, 0x100100), (5, 0x4000)] }
    let s := with_ c
    (Issuing s c 0 tPath ∧ tPath.st = .ready ∧ 0 < 8 ∧ tPath.want = none ∧ c.pending [9, 4] = false ∧ c.inflight 0 0 < 255
      ∧ s.logFull c 8 = false ∧ (6 : BitVec 3) ≠ 7)
    ∧ s.check c tPath none tPath.slotLane (c.sget 4 + 8 * (2 : BitVec 10).signExtend 64) 8 false true = .go .mem 0x30110 (some loadTrans)
    ∧ s.cruiseFault c (.sld 9 4 6 2) (memSpec (.sld 9 4 6 2)) 0x100110 false = none
    ∧ s.check c tPath none tPath.slotLane (c.sget 4 + 8 * (0x3FF : BitVec 10).signExtend 64) 8 true true = .go .mem 0x300F8 (some loadTrans)
    ∧ s.cruiseFault c (.sst 9 4 6 0x3FF) (memSpec (.sst 9 4 6 0x3FF)) 0x1000F8 false = none := by
  and_intros <;> first | exact ⟨rfl, rfl, rfl⟩ | decide +kernel

theorem witness_sldk : let c := crewOf tPath
    let s := with_ c
    (Issuing s c 0 tPath ∧ c.pending [9, 0] = false ∧ (c.sget 0 + 8 * (0 : BitVec 13).setWidth 64).toNat % 8 = 0 ∧ s.kargWord c 0 = some 7)
    ∧ ({ c with s := [(4, 4)] }.sget 4).toNat % 8 ≠ 0 ∧ s.kargWord c 8 = none ∧ (8 : Nat) % 8 = 0 ∧ tPath.isHandler = false
    ∧ tPath.faulting ≠ 0 := by
  and_intros <;> first | exact ⟨rfl, rfl, rfl⟩ | decide +kernel

theorem witness_waitAndFence : let c := crewOf tPath
    let d := { c with words := [{ tWord with counter := some 2 }] }
    (Issuing (with_ c) c 0 tPath ∧ tPath.iss = none ∧ c.pending [0] = false ∧ c.inflight 0 2 ≤ (c.sget 0).toNat % 256)
    ∧ (Issuing (with_ d) d 0 tPath ∧ (d.sget 0).toNat % 256 < d.inflight 0 2)
    ∧ tPath.queue = [] ∧ tPath.sbuf = [] ∧ (with_ c).effectsDone c tPath = true
    ∧ ((with_ c).mergeThreads (tPath.thr :: tPath.kin)).stopping ((with_ c).partOf c) = false := by
  and_intros <;> first | exact ⟨rfl, rfl, rfl⟩ | decide +kernel

theorem exists_okCrew {ε : Type} {x : Except ε State} {id : Nat}
    (h : (match x with | .ok u => (u.crewOf id).isSome | .error _ => false) = true) : ∃ u, x = .ok u ∧ ∃ e, u.crewOf id = some e := by
  cases x with
  | ok u => exact ⟨u, rfl, exists_some h⟩
  | error e => cases h

theorem witness_cwait : let c := crewOf tPath
    let s := with_ c
    let ins : Instr := .cwait 9 4 0 true 0
    let w := scalarInFlight s tPath ins ⟨tPath.slotLane, c.sget 4, 0, 0⟩
    let c0 := { c with words := c.words ++ [w] }
    let s0 := { s with nextId := s.nextId + 1 }.modCur fun c => { c with words := c.words ++ [w] }
    let x := cwaitAcc s0 tPath w.wid 0x30100 5 (c.sget 4) true
    let s1 := (s0.mergeGran (0x30100 / 32)).cacheHost .mem 0x30100 8
    let v := BitVec.ofNat 64 (s1.readSpace c.team .mem 0x30100 8)
    (Issuing s c 0 tPath ∧ tPath.iss = none ∧ c.pending [9, 4, 0] = false ∧ tPath.want = none ∧ c.cwaitWord 0 = none
      ∧ c.inflight 0 0 < 255 ∧ s.check c tPath none tPath.slotLane (c.sget 4) 8 false false = .go .mem 0x30100 (some loadTrans)
      ∧ s.cruiseFault c ins (memSpec ins) (c.sget 4) false = none ∧ s.behindTicket c = false ∧ tPath.mayEffect 0 x = true
      ∧ tPath.granReady 0 x = true ∧ s0.hbReady c0 0 x = true ∧ s.effectsDone c tPath = true
      ∧ (s0.mergeGran (0x30100 / 32)).stopping (s.partOf c) = false)
    ∧ (v = c.sget 0 ∧ ∃ u, { s1 with nextId := s1.nextId + 1 }.observe c0 0 x = .ok u ∧ ∃ e, u.crewOf c.id = some e)
    ∧ (v ≠ c.sget 5 ∧ ∃ u, { s1 with nextId := s1.nextId + 1 }.observe c0 0 { x with acq := false } = .ok u ∧ ∃ e, u.crewOf c.id = some e) := by
  and_intros <;> first | exact ⟨rfl, rfl, rfl⟩ | exact exists_okCrew (by decide +kernel) | decide +kernel

theorem witness_cwaitAgain : let w : Word := { tWord with instr := .cwait 9 4 5 false 0, counter := some 0, done := false }
    let p := { tPath with want := some (.cwait 0x30100 0x100100 8 none) }
    let q := { tPath with want := some (.cwait 0x30100 0x100100 8 (some 0)) }
    let r := { tPath with want := some (.cwait 0x30100 0x100100 8 (some 1)) }
    let c := { crewOf p with words := [w] }
    let d := { crewOf q with words := [w] }
    let e := { crewOf r with words := [w] }
    Issuing (with_ c) c 0 p ∧ c.cwaitWord 0 = some w ∧ ¬ (8 : W64).toNat ≤ 0
    ∧ (Issuing (with_ d) d 0 q ∧ (with_ d).granChanged (0x30100 / 32) (some 0) = false)
    ∧ Issuing (with_ e) e 0 r ∧ (with_ e).granChanged (0x30100 / 32) (some 1) = true := by
  and_intros <;> first | exact ⟨rfl, rfl, rfl⟩ | decide +kernel

/-- The outcome of a walk over a region has no error. -/
def regionOk (x : Except (W64 × Option Nat) (List (Nat × Nat)) × State) : Bool := isOk x.1 && SMap.wf none x.2.host
theorem exists_region {x : Except (W64 × Option Nat) (List (Nat × Nat)) × State} (h : regionOk x = true) :
    ∃ rs u, x = (.ok rs, u) ∧ SMap.wf none u.host = true := by
  obtain ⟨y, u⟩ := x
  simp only [regionOk, Bool.and_eq_true] at h
  obtain ⟨rs, e⟩ := exists_ok h.1
  exact ⟨rs, u, by rw [e], h.2⟩

theorem witness_handover : let c := crewOf tPath
    let s := with_ c
    let w := { tPath with want := some .handover }
    (Issuing s c 0 tPath ∧ tPath.iss = none ∧ tPath.want = none ∧ c.pending [4, 0] = false ∧ c.sget 0 = 0 ∧ s.isCruise c = false)
    ∧ (c.sget 5 ≠ 0 ∧ ∃ rs u, s.walkRegion c tPath (pageParts ((c.sget 4).toNat / 512 * 512)
        (roundUp ((c.sget 4).toNat + (c.sget 5).toNat) 512)) [] = (.ok rs, u) ∧ SMap.wf none u.host = true)
    ∧ (tPath.queue.all (fun x => !x.writes) = true ∧ tPath.sbuf = [] ∧ s.effectsDone c tPath = true
      ∧ (s.mergeThreads (tPath.thr :: tPath.kin)).stopping (s.partOf c) = false
      ∧ ∃ rs u, (s.mergeThreads (tPath.thr :: tPath.kin)).walkRegion c tPath (pageParts ((c.sget 4).toNat / 512 * 512)
        (roundUp ((c.sget 4).toNat + (c.sget 5).toNat) 512)) [] = (.ok rs, u) ∧ SMap.wf none u.host = true)
    ∧ (machine c tTeam { loadBlock with cruise := true }).isCruise c = true
    ∧ (with_ (crewOf w)).named ⟨0, 0, 0⟩ = some (crewOf w, w) ∧ w.want = some .handover
    ∧ (with_ (crewOf w)).crewOf (crewOf w).id = some (crewOf w) ∧ (crewOf w).paths[0]? = some w := by
  and_intros <;> first | exact ⟨rfl, rfl, rfl⟩ | exact exists_region (by decide +kernel) | decide +kernel

theorem witness_storeEffect : let p := { tPath with sbuf := [tAcc .store 0x30100] }
    let c := { crewOf p with words := [{ tWord with slot := false, owed := 1 }] }
    let s := with_ c
    let x := tAcc .store 0x30100
    s.named ⟨0, 0, 0⟩ = some (c, p) ∧ s.crewOf c.id = some c ∧ c.paths[0]? = some p ∧ p.st ≠ .free ∧ accOf p.sbuf 5 = some x
    ∧ s.writeReady c 0 x .store = true ∧ x.space = .mem ∧ x.addr.testBit 51 = false ∧ (∀ k, k < x.width → (x.addr + k).testBit 51 = false)
    ∧ (s.beforeEffect c 0 x).stopping (s.partOf c) = false
    ∧ ∃ u, (s.beforeEffect c 0 x).observe c 0 x = .ok u := by
  and_intros <;> first | exact exists_ok (by decide +kernel) | decide +kernel

theorem exists_okWord {ε : Type} {x : Except ε State} {id wid : Nat}
    (h : (match x with | .ok u => (u.crewOf id).any fun e => (e.word? wid).any (·.slot) | .error _ => false) = true) :
    ∃ u, x = .ok u ∧ ∃ e, u.crewOf id = some e ∧ ∃ w, e.word? wid = some w ∧ w.slot = true := by
  cases x with
  | ok u =>
    obtain ⟨e, he, hw⟩ := (Option.any_eq_true _ _).mp h
    obtain ⟨w, hw, hs⟩ := (Option.any_eq_true _ _).mp hw
    exact ⟨u, rfl, e, he, w, hw, hs⟩
  | error e => cases h

theorem witness_loadEffect : let x := tAcc .load 0x30100
    let p := { tPath with queue := [x] }
    let q := { tPath with queue := [{ x with id := 6 }], sbuf := [tAcc .store 0x30100] }
    let c := { crewOf p with words := [tWord] }
    let d := { crewOf q with words := [tWord] }
    let s := with_ c
    let u := with_ d
    let y : Acc := { x with id := 6 }
    (s.named ⟨0, 0, 0⟩ = some (c, p) ∧ s.crewOf c.id = some c ∧ c.paths[0]? = some p ∧ accOf p.queue 5 = some x
      ∧ s.loadReady c 0 x = true ∧ c.word? x.wid = some tWord ∧ tWord.slot = true
      ∧ forwardFrom (s.earlierWrites c 0 x) x = none ∧ x.isInv = false ∧ ({ x with quiet := true } : Acc).isInv = true
      ∧ (s.beforeEffect c 0 x).stopping (s.partOf c) = false
      ∧ ∃ u, (s.beforeEffect c 0 x).observeLoad c 0 x = .ok u ∧ ∃ e, u.crewOf c.id = some e ∧ ∃ w, e.word? x.wid = some w ∧ w.slot = true)
    ∧ u.named ⟨0, 0, 0⟩ = some (d, q) ∧ accOf q.queue 6 = some y ∧ u.loadReady d 0 y = true
    ∧ forwardFrom (u.earlierWrites d 0 y) y = some 0x1122334455667788
    ∧ ∃ v, u.observeLoad d 0 y = .ok v ∧ ∃ e, v.crewOf d.id = some e ∧ ∃ w, e.word? y.wid = some w ∧ w.slot = true := by
  and_intros <;> first | exact exists_okWord (by decide +kernel) | decide +kernel

theorem witness_atomicEffect : let x := { tAcc .atomic 0x30100 with op := 9 }
    let p := { tPath with queue := [x] }
    let c := { crewOf p with words := [tWord] }
    let s := with_ c
    s.named ⟨0, 0, 0⟩ = some (c, p) ∧ s.crewOf c.id = some c ∧ c.paths[0]? = some p ∧ p.st ≠ .free ∧ accOf p.queue 5 = some x
    ∧ s.writeReady c 0 x .atomic = true ∧ x.space = .mem ∧ x.addr.testBit 51 = false ∧ x.op ≤ 9
    ∧ (∀ k, k < x.width → (x.addr + k).testBit 51 = false) ∧ (s.beforeEffect c 0 x).stopping (s.partOf c) = false
    ∧ ∃ u, (s.beforeEffect c 0 x).observe c 0 x = .ok u := by
  and_intros <;> first | exact exists_ok (by decide +kernel) | decide +kernel

/-! Lane words -/

/-- A layout A word `op.b32 v5, v6, v7`. -/
def wordB : LaneA := { wordA with ty := .b32 }

/-- A crew whose core has no unit left, and with a general value in v6. -/
def fullCrew : Crew := { crewOf tPath with
  v := [(192, .gen ((List.range 32).map fun k => w32 (k * k)))]
  words := [{ tWord with path := 1, resv := [(5, 49152 - 263)] }] }

/-- A word `frcp.f32 v5, v6`. -/
def wordR : LaneA := { wordA with ty := .f32, b := .reg 0 }

theorem witness_elementwise :
    let c := crewOf tPath
    let e : Elementwise := ⟨.vadd, wordA, .linear, valVadd wordA⟩
    elementwise (.vadd wordA) = some e ∧ (e.long = false ∧ LaneReady (with_ c) c 0 tPath (e.info (.vadd wordA)) ∧ Room (with_ c) c)
    ∧ LaneReady (with_ fullCrew) fullCrew 0 tPath (e.info (.vadd wordA))
    ∧ (fullCrew.writePasses ((with_ fullCrew).crewFree fullCrew) fullCrew.held
        (elemPasses fullCrew tPath e.o e.w e.cls (decide ((OpA.writes e.o e.w).length = 2)) (selMask fullCrew tPath e.w.h) e.val)).2 ≠ [] := by
  refine ⟨rfl, ?_⟩
  and_intros <;> first | exact ready_of ⟨rfl, rfl, rfl⟩ (by decide +kernel) | (show _ ≤ _; decide +kernel) | decide +kernel

theorem witness_longWords :
    let c := crewOf tPath
    let e : Elementwise := ⟨.frcp, wordR, .elementwise, valFrcp wordR⟩
    elementwise (.frcp wordR) = some e ∧ e.long = true ∧ LaneReady (with_ c) c 0 tPath (e.info (.frcp wordR))
    ∧ ((reservations c (selMask c tPath e.w.h) ((OpA.writes e.o e.w).filter (· < 1024) |>.map c.physical)).map (·.2)).sum
      ≤ (with_ c).crewFree c
    ∧ tPath.keptUnits = [] ∧ LaneReady (with_ fullCrew) fullCrew 0 tPath (e.info (.frcp wordR))
    ∧ (with_ fullCrew).crewFree fullCrew
      < ((reservations fullCrew (selMask fullCrew tPath e.w.h) ((OpA.writes e.o e.w).filter (· < 1024) |>.map fullCrew.physical)).map (·.2)).sum := by
  refine ⟨rfl, ?_⟩
  and_intros <;> first | exact ready_of ⟨rfl, rfl, rfl⟩ (by decide +kernel) | decide +kernel

theorem witness_writeback : let c := { crewOf tPath with words := [tWord] }
    let s := with_ c
    (s.coreCrews 0).find? (fun d => d.slot == 0) = some c ∧ s.crewOf c.id = some c ∧ c.groups ≤ 32 ∧ c.word? 9 = some tWord
    ∧ tWord.done = true ∧ tWord.slot = true ∧ tWord.maskDest = none ∧ c.prop = none ∧ (c.paths.any fun p => p.st != .free) = true
    ∧ (∀ d ∈ tWord.dests, c.present d = true) ∧ tWord.dests.Nodup ∧ tWord.bcast = [] := by
  and_intros <;> decide +kernel

theorem witness_writeback_mask : let w := { tWord with instr := .fcmp { wordR with ty := .f64 }, dests := [] }
    let c := { crewOf tPath with words := [w] }
    let s := with_ c
    (s.coreCrews 0).find? (fun d => d.slot == 0) = some c ∧ s.crewOf c.id = some c ∧ c.groups ≤ 32 ∧ c.word? 9 = some w ∧ w.done = true
    ∧ w.slot = true ∧ w.dests = [] ∧ (c.paths.any fun p => p.st != .free) = true ∧ w.path < c.paths.length
    ∧ (wordR.d.setWidth 4 : BitVec 4) ≠ 0 := by
  and_intros <;> decide +kernel

theorem witness_writeback_instr : (∀ d a k off, tWord.instr ≠ .sld d a k off) ∧ (∀ d a k, tWord.instr ≠ .sldk d a k)
    ∧ ∀ d a b e k, tWord.instr ≠ .cwait d a b e k :=
  ⟨fun _ _ _ _ h => (nomatch h), fun _ _ _ h => (nomatch h), fun _ _ _ _ _ h => (nomatch h)⟩

/-- A word `cmp m9, v6, v7`, and `mload m9, v5`. -/
def wordC : LaneA := { wordA with d := 9 }
def wordL : LaneA := { wordA with d := 9, a := 5, b := .reg 0 }

theorem witness_laneTests : let c := crewOf tPath
    LaneReady (with_ c) c 0 tPath (infoA (.vcmp wordC) .vcmp wordC false) ∧ c.first + c.groups ≤ 32
    ∧ LaneReady (with_ c) c 0 tPath (infoA (.fcmp { wordC with ty := .f32 }) .fcmp { wordC with ty := .f32 } false)
    ∧ LaneReady (with_ c) c 0 tPath (infoA (.mload wordL) .mload wordL false)
    ∧ LaneReady (with_ c) c 0 tPath (infoA (.fcmp { wordC with ty := .f64, b := .reg 8 }) .fcmp { wordC with ty := .f64, b := .reg 8 } true)
    ∧ (selMask c tPath wordC.h).getLsbD 32 = false ∧ (wordC.d.setWidth 4 : BitVec 4) ≠ 0 := by
  and_intros <;> first | exact ready_of ⟨rfl, rfl, rfl⟩ (by decide +kernel) | decide +kernel

theorem witness_laneTests_m0 : let p := { tPath with m0 := 1 }
    let c := crewOf p
    let w := { wordC with d := 0 }
    LaneReady (with_ c) c 0 p (infoA (.vcmp w) .vcmp w false) ∧ p.mask.getLsbD 0 = true ∧ (selMask c p w.h).getLsbD 1 = false
    ∧ p.mask.getLsbD 1 = true := by
  and_intros <;> first | exact ready_of ⟨rfl, rfl, rfl⟩ (by decide +kernel) | decide +kernel

theorem witness_picking : let c := crewOf tPath
    let w := { wordB with c := 9 }
    let u := { wordB with b := .sreg 9 }
    let l := { wordA with a := 0, b := .reg 0, x := 0x1010 }
    let m := { wordA with a := 9, b := .reg 0 }
    c.first + c.groups ≤ 32 ∧ Room (with_ c) c ∧ LaneReady (with_ c) c 0 tPath (infoA (.vsel w) .vsel w false)
    ∧ LaneReady (with_ c) c 0 tPath (infoA (.vshuf wordB) .vshuf wordB false)
    ∧ LaneReady (with_ c) c 0 tPath (infoA (.vrot wordB) .vrot wordB false)
    ∧ LaneReady (with_ c) c 0 tPath (infoA (.vbcast u) .vbcast u false)
    ∧ LaneReady (with_ c) c 0 tPath (infoA (.vlane l) .vlane l false) ∧ l.x.extractLsb' 0 12 ≠ 0
    ∧ LaneReady (with_ c) c 0 tPath (infoA (.msave m) .msave m false) ∧ m.ty.is64 = false := by
  and_intros <;> first | exact ready_of ⟨rfl, rfl, rfl⟩ (by decide +kernel) | (show _ ≤ _; decide +kernel) | decide +kernel

theorem witness_scans : let c := crewOf tPath
    let w := { wordA with b := .reg 2 }
    c.first + c.groups ≤ 32 ∧ Room (with_ c) c ∧ LaneReady (with_ c) c 0 tPath (infoA (.vscan w) .vscan w false)
    ∧ LaneReady (with_ c) c 0 tPath (infoA (.vred w) .vred w false) := by
  and_intros <;> first | exact ready_of ⟨rfl, rfl, rfl⟩ (by decide +kernel) | (show _ ≤ _; decide +kernel) | decide +kernel

theorem witness_random : let c := crewOf tPath
    let h : Hdr := ⟨false, 0⟩
    c.first + c.groups ≤ 32 ∧ Room (with_ c) c ∧ LaneReady (with_ c) c 0 tPath (infoO (.rand h .n32 5) h .n32 5 false)
    ∧ LaneReady (with_ c) c 0 tPath (infoO (.rand h .n64 4) h .n64 4 false) ∧ Ty.n64.is64 = true ∧ Ty.n32.is64 = false
    ∧ LaneReady (with_ c) c 0 tPath (infoO (.randf h .f32 5) h .f32 5 false) ∧ Ty.f32.is64 = false
    ∧ LaneReady (with_ c) c 0 tPath (infoO (.randn h .f64 4) h .f64 4 true) ∧ Ty.f64.is64 = true
    ∧ LaneReady (with_ c) c 0 tPath (infoO (.randn h .f32 5) h .f32 5 false)
    ∧ LaneReady (with_ c) c 0 tPath (infoO (.randf h .f64 4) h .f64 4 true) := by
  and_intros <;> first | exact ready_of ⟨rfl, rfl, rfl⟩ (by decide +kernel) | (show _ ≤ _; decide +kernel) | decide +kernel

theorem witness_accept : let c := crewOf tPath
    let d := { c with prop := some ⟨8, 1, 3, 0, [], []⟩ }
    let h : Hdr := ⟨false, 0⟩
    let ins := Instr.accept h 5 10 none
    let info : LaneInfo := { instr := ins, h := h, late := [], long := false, counter := none, reads := [10], writes := [maskReg 5] }
    (LaneReady (with_ c) c 0 tPath info ∧ c.windowBusy = false ∧ c.prop = none ∧ selMask c tPath h = tPath.m0 ∧ tPath.isHandler = false)
    ∧ LaneReady (with_ d) d 0 tPath info ∧ d.windowBusy = false ∧ d.prop = some ⟨8, 1, 3, 0, [], []⟩ := by
  and_intros <;> first | exact ready_of ⟨rfl, rfl, rfl⟩ (by decide +kernel) | decide +kernel

theorem witness_voidAndFaulting :
    let v := { tPath with iss := some ⟨1, 1, 0, true, 0x108000, []⟩ }
    let p := { tPath with newSeg := false }
    let q := { tPath with newSeg := false, segW := [6] }
    let c := { crewOf p with nRegs := 6 }
    let d := crewOf q
    let e : Elementwise := ⟨.vadd, wordA, .linear, valVadd wordA⟩
    let names := (OpA.reads e.o e.w ++ OpA.writes e.o e.w).filter (· < 1024)
    elementwise (.vadd wordA) = some e
    ∧ (Issuing (with_ (crewOf v)) (crewOf v) 0 v ∧ e.w.h.sw = false ∧ isVoid v (selMask (crewOf v) v e.w.h) = true)
    ∧ (Issuing (with_ c) c 0 p ∧ p.newSeg = false ∧ isVoid p (selMask c p e.w.h) = false
      ∧ (names.any fun v => !c.present (c.physical v)) = true ∧ selMask c p e.w.h = p.m0 ∧ p.isHandler = false)
    ∧ Issuing (with_ d) d 0 q ∧ isVoid q (selMask d q e.w.h) = false ∧ (∀ v ∈ names, d.present (d.physical v) = true)
    ∧ ∃ v ∈ names, d.physical v ∈ q.segW := by
  refine ⟨rfl, ?_⟩
  and_intros <;> first | exact ⟨rfl, rfl, rfl⟩ | decide +kernel

/-! Lane memory words -/

/-- One lane in m0. -/
def onePath : Path := { tPath with m0 := 1 }
/-- A crew whose path has one lane in m0, s4 the address 0x100100. -/
def oneCrew : Crew := crewOf onePath
/-- Words of R196 and R253: `[s4 + v2*4 + 16]`, v2 zero. -/
def wordSt : LaneM := { wordM with ty := .n32, d := 0, c := 9, off := 0 }
def wordVat : LaneAt := { wordAt with op := 0 }
def wordVatr : LaneAt := { wordAt with op := 8, ty := .b32, d := 5 }

theorem witness_laneMemory : let c := oneCrew
    let s := with_ c
    let p := onePath
    (p.st = .ready ∧ Room s c ∧ s.isCruise c = false ∧ s.detMode c = false ∧ s.logFull c (4 * (maskLanes 1024 (selMask c p wordSt.h)).length) = false)
    ∧ (let ea : W64 := 0x100110
      s.cruiseFault c (.vld wordM) (memSpec (.vld wordM)) ea false = none
      ∧ s.cruiseFault c (.vst wordSt) (memSpec (.vst wordSt)) ea false = none
      ∧ s.cruiseFault c (.vat wordVat) (memSpec (.vat wordVat)) ea false = none
      ∧ s.cruiseFault c (.vatr wordVatr) (memSpec (.vatr wordVatr)) ea false = none)
    ∧ LaneReady s c 0 p (infoM (.vld wordM) wordM true true true (some 0))
    ∧ (∀ l, l < 1024 → (selMask c p wordM.h).getLsbD l = true → s.check c p (some l) l
        (laneEa c p wordM.base wordM.x wordM.y wordM.a wordM.off.toInt l) 4 false true = .go .mem (0x30110 + 4 * l) (some loadTrans))
    ∧ LaneReady s c 0 p (infoM (.vst wordSt) wordSt true false false (some 0))
    ∧ (∀ l, l < 1024 → (selMask c p wordSt.h).getLsbD l = true → s.check c p (some l) l
        (laneEa c p wordSt.base wordSt.x wordSt.y wordSt.a wordSt.off.toInt l) 4 true true = .go .mem (0x30100 + 4 * l) (some loadTrans))
    ∧ LaneReady s c 0 p (infoAt (.vat wordVat) wordVat false) ∧ LaneReady s c 0 p (infoAt (.vatr wordVatr) wordVatr true)
    ∧ (∀ l, l < 1024 → (selMask c p wordVat.h).getLsbD l = true → s.check c p (some l) l
        (laneEa c p wordVat.base wordVat.x wordVat.y wordVat.a wordVat.off.toInt l) 4 true false
          = .go .mem (0x30100 + 4 * l) (some loadTrans)) := by
  and_intros <;> first | exact ready_of ⟨rfl, rfl, rfl⟩ (by decide +kernel) | (show _ ≤ _; decide +kernel) | decide +kernel

/-- A cruise of 4 teams, a slice of 256 bytes each at 0x100000. -/
def cruiseBlock : Block := { loadBlock with
  cruise := true, teams := 4, sbase := 0x100000, stride := 256, d0 := 4, d1 := 1, d2 := 1 }

theorem witness_sliceStores : let c := { oneCrew with s := [(4, 16)] }
    let d := { oneCrew with s := [(4, 256)] }
    let s := machine c tTeam cruiseBlock
    let p := onePath
    p.st = .ready ∧ Room s c ∧ s.blkOf c = some cruiseBlock ∧ cruiseBlock.cruise = true
    ∧ s.logFull c (4 * (maskLanes 1024 (selMask c p wordSt.h)).length) = false
    ∧ LaneReady s c 0 p (infoM (.vstSlc wordSt) wordSt true false false (some 0))
    ∧ (∀ l, l < 1024 → (selMask c p wordSt.h).getLsbD l = true →
        (0 ≤ laneOffset c p wordSt (fun _ => 0) l ∧ laneOffset c p wordSt (fun _ => 0) l + 4 ≤ cruiseBlock.stride)
        ∧ s.check c p (some l) l (BitVec.ofInt 64 (s.sliceStart c cruiseBlock + laneOffset c p wordSt (fun _ => 0) l)) 4 true false
          = .go .mem (0x30010 + 4 * l) (some loadTrans))
    ∧ LaneReady (machine d tTeam cruiseBlock) d 0 p (infoM (.vstSlc wordSt) wordSt true false false (some 0))
    ∧ ∃ l, l < 1024 ∧ (selMask d p wordSt.h).getLsbD l = true ∧ ¬ laneOffset d p wordSt (fun _ => 0) l + 4 ≤ cruiseBlock.stride := by
  and_intros <;> first | exact ready_of ⟨rfl, rfl, rfl⟩ (by decide +kernel) | exact ⟨0, by decide +kernel⟩ | (show _ ≤ _; decide +kernel) | decide +kernel

theorem witness_prefetch : let w := { wordM with d := 0 }
    LaneReady (with_ oneCrew) oneCrew 0 onePath (infoM (.vpfx w) w true true false none) :=
  ready_of ⟨rfl, rfl, rfl⟩ (by decide +kernel)

theorem witness_scratchpad : let c := { oneCrew with s := [(4, 4080)] }
    let pinnedTeam := { tTeam with pins := [⟨0, 0, false⟩] }
    let s := machine c pinnedTeam loadBlock
    let w := { wordM with off := 12 }
    let v := { wordSt with off := 12 }
    let off := fun (l : Nat) => laneOffset c onePath w (fun _ => 0) l
    onePath.st = .ready ∧ Room s c ∧ s.teamOf c.team = some pinnedTeam
    ∧ (∀ l, l < 1024 → (selMask c onePath w.h).getLsbD l = true → 0 ≤ off l ∧ off l + 4 ≤ (tTeam.scrLen : Int) ∧ off l % 4 = 0
        ∧ (pinnedTeam.pins.any fun q => q.page == (off l).toNat / 4096) = true)
    ∧ LaneReady s c 0 onePath (infoM (.vlds w) w false true true (some 1))
    ∧ LaneReady s c 0 onePath (infoM (.vsts v) v false false false (some 1))
    ∧ (with_ c).teamOf c.team = some tTeam ∧ tTeam.pins = []
    ∧ LaneReady (with_ c) c 0 onePath (infoM (.vlds w) w false true true (some 1)) := by
  and_intros <;> first | exact ready_of ⟨rfl, rfl, rfl⟩ (by decide +kernel) | (show _ ≤ _; decide +kernel) | decide +kernel

theorem witness_scratchRange : let c := { oneCrew with s := [(4, 8192)] }
    let w := { wordM with off := 0 }
    let v := { wordSt with off := 0 }
    LaneReady (with_ c) c 0 onePath (infoM (.vlds w) w false true true (some 1))
    ∧ LaneReady (with_ c) c 0 onePath (infoM (.vsts v) v false false false (some 1))
    ∧ (∀ l, l < 1024 → (selMask c onePath w.h).getLsbD l = true → ¬ laneOffset c onePath w (fun _ => 0) l + 4 ≤ (tTeam.scrLen : Int))
    ∧ selMask c onePath w.h = onePath.m0 ∧ onePath.isHandler = false := by
  and_intros <;> first | exact ready_of ⟨rfl, rfl, rfl⟩ (by decide +kernel) | decide +kernel

/-- No contribution of the crew's path waits in a buffer, so a release of it stops nothing. -/
theorem noMerge_stops : ∀ ws bs, (((with_ (crewOf tPath)).modCurPath fun q => { q with segW := ws, segB := bs, newSeg := false }).mergeThreads
    (tPath.thr :: tPath.kin)).stopping ((with_ (crewOf tPath)).partOf (crewOf tPath)) = false := by
  intro ws bs
  rfl

theorem witness_fifos : let c := crewOf tPath
    let h : Hdr := ⟨false, 0⟩
    let fullTeam := { tTeam with fifos := [⟨0, List.replicate 64 ⟨[], none⟩⟩] }
    let push := Instr.fpush h .b32 9 false 0
    let pop := Instr.fpop h .b32 9 false 0
    (Room (with_ c) c ∧ (with_ c).teamOf c.team = some tTeam ∧ tTeam.fifos[0]? = some ⟨0, []⟩
      ∧ LaneReady (with_ c) c 0 tPath { instr := push, h := h, reads := [9], writes := [], late := [], long := false, counter := some 2 }
      ∧ 0 + (c.passes (selMask c tPath h)).length ≤ 64)
    ∧ (fullTeam.fifos[0]? = some ⟨0, List.replicate 64 ⟨[], none⟩⟩ ∧ 64 < 64 + (c.passes (selMask c tPath h)).length
      ∧ LaneReady (machine c fullTeam loadBlock) c 0 tPath
        { instr := pop, h := h, reads := [], writes := [9], late := [], long := true, counter := some 2 }
      ∧ (c.passes (selMask c tPath h)).length ≤ 64)
    ∧ 0 < (c.passes (selMask c tPath h)).length ∧ tPath.queue = [] ∧ tPath.sbuf = [] ∧ (with_ c).effectsDone c tPath = true
    ∧ (∀ ws bs, (((with_ c).modCurPath fun q => { q with segW := ws, segB := bs, newSeg := false }).mergeThreads
      (tPath.thr :: tPath.kin)).stopping ((with_ c).partOf c) = false)
    ∧ (Issuing (with_ c) c 0 tPath ∧ tTeam.fifos[7]? = none ∧ selMask c tPath h = tPath.m0 ∧ tPath.isHandler = false) := by
  and_intros <;> first
    | exact ⟨rfl, rfl, rfl⟩ | exact ready_of ⟨rfl, rfl, rfl⟩ (by decide +kernel) | exact noMerge_stops | (show _ ≤ _; decide +kernel)
    | decide +kernel

theorem witness_operandLoads : let w := { wordM with ty := .b32, d := 1, c := 3, off := 0 }
    let info : LaneInfo := { instr := .obld w, h := w.h, reads := addrRegs w.base true w.x w.a ++ [w.c.toNat], writes := [], late := []
                             long := false, counter := some 5 }
    let r : Resv := ⟨0, 1, 0, [], 0⟩
    let c := { oneCrew with resv := [(1, some r)] }
    let p := onePath
    (p.st = .ready ∧ Room (with_ c) c ∧ (with_ c).isCruise c = false ∧ LaneReady (with_ c) c 0 p info
      ∧ SMap.get none c.resv 1 = some r ∧ (with_ c).slabsNamed c 1 = []
      ∧ (∀ l, l < 1024 → (selMask c p w.h).getLsbD l = true →
        (with_ c).check c p (some l) l (laneEa c p w.base w.x w.y w.a w.off.toInt l) 4 false false = .go .mem (0x30100 + 4 * l) (some loadTrans)
        ∧ (c.vget 3 l).toNat % 4 = 0 ∧ (c.vget 3 l).toNat + 4 ≤ r.units * 1024))
    ∧ (with_ c).cruiseFault c (.obld w) (memSpec (.obld w)) 0x100100 false = none
    ∧ (let s := machine c { tTeam with latches := [⟨0, [⟨0, 0, 3, 0, 9, 1, 0, 1, 0, 0, [], 0, 5, 4, [], none⟩]⟩] } loadBlock
       Room s c ∧ LaneReady s c 0 p info ∧ s.slabsNamed c 1 = [0] ∧ (c.vget 3 0).toNat < slabSize (recFmt r.rec_))
    ∧ LaneReady (with_ oneCrew) oneCrew 0 p info ∧ SMap.get none oneCrew.resv 1 = none ∧ selMask oneCrew p w.h = p.m0
    ∧ p.isHandler = false := by
  and_intros <;> first | exact ready_of ⟨rfl, rfl, rfl⟩ (by decide +kernel) | (show _ ≤ _; decide +kernel) | decide +kernel

theorem witness_queueWords : let c := crewOf tPath
    let h : Hdr := ⟨false, 0⟩
    let out := { c with qs := [(3, ⟨2, 0, 8, [], [], []⟩)] }
    let inn := { c with qs := [(3, ⟨1, 8, 0, List.replicate 16 [], [], []⟩)] }
    let push := Instr.qpush h .b32 9 3
    let pop := Instr.qpop h .b32 9 3
    let infoPush : LaneInfo := { instr := push, h := h, reads := [9], writes := [], late := [], long := false, counter := some 3 }
    let infoPop : LaneInfo := { instr := pop, h := h, reads := [], writes := [9], late := [], long := true, counter := some 3 }
    let gs := c.passes (selMask c tPath h)
    (Room (with_ c) c ∧ selMask c tPath h = tPath.m0 ∧ tPath.isHandler = false ∧ LaneReady (with_ c) c 0 tPath infoPush
      ∧ (c.q 3).dir ≠ 2 ∧ (c.q 3).entries.length + gs.length ≤ 8 ∧ (c.q 3).pops = [] ∧ (c.q 3).pushes = []
      ∧ LaneReady (with_ c) c 0 tPath infoPop ∧ (c.q 3).dir ≠ 1 ∧ (c.q 3).entries.length + (c.q 3).supply < (c.q 3).pops.length + gs.length)
    ∧ (LaneReady (with_ out) out 0 tPath infoPush ∧ (out.q 3).dir = 2 ∧ LaneReady (with_ out) out 0 tPath infoPop ∧ (out.q 3).dir ≠ 1
      ∧ (out.q 3).pops.length + gs.length ≤ (out.q 3).entries.length + (out.q 3).supply ∧ (out.q 3).pushes = [])
    ∧ (LaneReady (with_ inn) inn 0 tPath infoPush ∧ (inn.q 3).dir ≠ 2 ∧ 8 + (inn.q 3).demand < (inn.q 3).entries.length + gs.length
      ∧ LaneReady (with_ inn) inn 0 tPath infoPop ∧ (inn.q 3).dir = 1)
    ∧ { c with words := [tWord] }.word? 9 = some tWord ∧ tWord.slot = true := by
  and_intros <;> first | exact ready_of ⟨rfl, rfl, rfl⟩ (by decide +kernel) | (show _ ≤ _; decide +kernel) | decide +kernel

theorem witness_yjob : let c := crewOf tPath
    let s := with_ c
    let parts := [0x30100, 0x30140, 0x30180]
    let read := (s.mergeThreads (tPath.thr :: tPath.kin)).observeCard c tPath parts (c.sget 4)
    let o := { tPath with want := some (.card (zeros 192)) }
    let g := crewOf o
    (Issuing s c 0 tPath ∧ tPath.iss = none ∧ tPath.want = none ∧ c.pending [9, 4] = false ∧ c.inflight 0 3 < 255 ∧ tPath.queue = []
      ∧ tPath.sbuf = [] ∧ s.effectsDone c tPath = true ∧ s.cardParts c tPath (c.sget 4) = .at_ parts
      ∧ (s.mergeThreads (tPath.thr :: tPath.kin)).stopping (s.partOf c) = false)
    ∧ (match read with
      | .ok u => (cardPrivate (u.cardBytes c parts)).isNone && (u.cardCruise c (u.cardBytes c parts)).isNone
        && (u.slotJob c (c.nextSeq.toNat % 32)).isNone && (u.crewOf c.id).isSome
      | .error _ => false) = true
    ∧ Issuing (with_ g) g 0 o ∧ o.iss = none ∧ g.pending [9, 4] = false ∧ g.inflight 0 3 < 255 ∧ o.queue = [] ∧ o.sbuf = []
    ∧ (with_ g).effectsDone g o = true ∧ (with_ g).cardCruise g (zeros 192) = none ∧ (with_ g).slotJob g (g.nextSeq.toNat % 32) = none := by
  and_intros <;> first | exact ⟨rfl, rfl, rfl⟩ | decide +kernel

/-- A scrub card job of the crew, running on die 0. -/
def tJob (bytes : List Byte) : Job where
  id := 7
  part := 0
  lid := 1
  team := 2
  crew := 3
  path := 0
  wid := 9
  token := 0
  kind := .card bytes
  addr := 0x100100
  die := 0
  at_ := some 0
  level := 5
  age := 0
  edges := []
  prog := 0
  popped := 0
  pushed := 0
  input := []
  fault := none
  page := 0
  clk := []
  began := 0
  yarder := 0

/-- The slot of the next token is held, and a card that is not faulty. -/
theorem witness_yjobHeld : let s := { with_ (crewOf tPath) with jobs := [{ tJob [] with token := 0 }] }
    (s.slotJob (crewOf tPath) ((crewOf tPath).nextSeq.toNat % 32)).isSome = true
    ∧ (with_ (crewOf tPath)).cardBad (crewOf tPath) (bytesOfNat 8 1 ++ zeros 16 ++ bytesOfNat 8 64 ++ bytesOfNat 4 1 ++ bytesOfNat 4 1 ++ zeros 152) = false
    ∧ (with_ (crewOf tPath)).cardBad (crewOf tPath) (zeros 192) = true := by
  and_intros <;> decide +kernel

theorem witness_ystat : let c := { crewOf tPath with nextSeq := 1 }
    let s := { with_ c with jobs := [tJob []] }
    (Issuing s c 0 tPath ∧ c.pending [9, 0] = false ∧ (c.nextSeq - (c.sget 0).extractLsb' 0 32).toNat = 1
      ∧ (s.jobs.find? fun j => j.isCard && j.crew == c.id && j.token.toNat % 32 == ((c.sget 0).extractLsb' 0 32).toNat % 32) = some (tJob []))
    ∧ Issuing (with_ c) c 0 tPath ∧ (with_ c).jobs = [] ∧ tPath.iss = none ∧ c.pending [9] = false := by
  and_intros <;> first | exact ⟨rfl, rfl, rfl⟩ | decide +kernel

theorem witness_bankset : let c := { crewOf tPath with s := [(4, 0x100), (5, 0x1), (6, 0x200)] }
    let b := { loadBlock with bankctl := true }
    let s := machine c tTeam b
    let moving := fun (r : BitVec 6) (m : Nat) => (List.range 32).filter fun x => (c.sget r).getLsbD x && s.bankMode 0 x != m
    let drain := fun (r : BitVec 6) (m : Nat) => (moving r m).filter fun x => s.bankMode 0 x == 0 || (s.lentBanks 0).contains x || s.draining 0 x
    let used := { s with teams := [{ tTeam with pins := [⟨0, 0, false⟩] }] }
    (Issuing s c 0 tPath ∧ tPath.iss = none ∧ tPath.want = none ∧ c.pending [9, 4] = false ∧ s.blkOf c = some b ∧ s.coreOf c.team = some 0
      ∧ s.bankWaits 0 = []
      ∧ s.stands[standOfCore 0]? = some Stand.reset ∧ Stand.reset.modes.length = 32)
    ∧ (with_ c).blkOf c = some loadBlock ∧ loadBlock.bankctl = false
    ∧ (s.bankBusy 0 (moving 6 2) = false ∧ moving 6 2 = [9] ∧ drain 6 2 = [])
    ∧ (s.bankBusy 0 (moving 5 1) = false ∧ drain 5 1 = [0])
    ∧ used.bankBusy 0 (List.range 32) = true := by
  and_intros <;> first | exact ⟨rfl, rfl, rfl⟩ | decide +kernel

/-- An estimator that is allotted, bound to no launch. -/
def tEst : Est := ⟨true, 0, 0, 0, 0x7FF0000000000000, 0xFFF0000000000000, 0, 0x7FF0000000000000, 0, false, false, 0, 0, 0, 0⟩

theorem witness_estadd : let c := crewOf tPath
    let h : Hdr := ⟨false, 0⟩
    let ins := Instr.estadd h .f32 10 (.imm 5)
    let info : LaneInfo := { instr := ins, h := h, reads := regPair false 10, writes := [], late := [], long := false, counter := some 4 }
    let s := { with_ c with ests := [(5, tEst)] }
    let b := { with_ c with ests := [(5, { tEst with bound := 9 })] }
    let fullTeam := { tTeam with stage := List.replicate 8192 ⟨5, 0, 0, 0⟩ }
    (LaneReady s c 0 tPath info ∧ s.teamOf c.team = some tTeam ∧ s.estValid (s.partOf c) 5 = true ∧ (s.est 5).bound = 0
      ∧ tTeam.stage.length + maskCount (selMask c tPath h) ≤ 8192 ∧ selMask c tPath h = tPath.m0 ∧ tPath.isHandler = false)
    ∧ (LaneReady (with_ c) c 0 tPath info ∧ (with_ c).estValid ((with_ c).partOf c) 5 = false)
    ∧ (LaneReady b c 0 tPath info ∧ (b.est 5).bound ≠ 0 ∧ (b.est 5).bound ≠ b.lidOf c)
    ∧ 8192 < fullTeam.stage.length + maskCount (selMask c tPath h) := by
  and_intros <;> first | exact ready_of ⟨rfl, rfl, rfl⟩ (by decide +kernel) | decide +kernel

/-- A coupled launch, and a snapshot for its only prefix. -/
def coupledBlock : Block := { loadBlock with dmode := 3, prod := 1 }

theorem witness_estrd : let c := crewOf tPath
    let s := { with_ c with ests := [(8, tEst)] }
    let l := { tLaunch coupledBlock with snaps := [⟨some 0, 0, some (List.replicate 8 1)⟩] }
    let m := { machine c tTeam coupledBlock with launches := [l] }
    (Issuing s c 0 tPath ∧ (8 : BitVec 6).toNat % 8 = 0 ∧ tPath.iss = none ∧ c.pending (5 :: imageRegs 8) = false
      ∧ s.estValid (s.partOf c) ((c.sget 5).toNat % 2 ^ 16) = true)
    ∧ ((with_ c).estValid ((with_ c).partOf c) 8 = false ∧ tPath.isHandler = false ∧ tPath.faulting ≠ 0)
    ∧ (s.launchOf (s.partOf c) (s.lidOf c) = some (tLaunch loadBlock) ∧ (tLaunch loadBlock).blk.dmode ≠ 3)
    ∧ (Issuing m c 0 tPath ∧ c.pending (imageRegs 8) = false ∧ m.launchOf (m.partOf c) (m.lidOf c) = some l ∧ m.teamOf c.team = some tTeam
      ∧ l.blk.dmode = 3 ∧ ∃ img, m.snapshotFor l tTeam.rank = some img)
    ∧ (machine c tTeam coupledBlock).snapshotFor (tLaunch coupledBlock) tTeam.rank = none := by
  and_intros <;> first | exact ⟨rfl, rfl, rfl⟩ | exact exists_some (by decide +kernel) | decide +kernel

theorem witness_estimatorWords : let c := crewOf tPath
    let s := { with_ c with ests := [(8, tEst)] }
    (Issuing s c 0 tPath ∧ c.pending [9, 5] = false ∧ s.estValid (s.partOf c) ((c.sget 5).toNat % 2 ^ 16) = true ∧ tPath.iss = none
      ∧ (c.sget 9).toNat % 2 ^ 32 ≤ (s.est 8).version.toNat)
    ∧ ((s.est 8).closed = false ∧ ¬ (c.sget 5).toNat % 2 ^ 32 ≤ (s.est 8).version.toNat ∧ leF64 (s.est 8).width (c.sget 5) = false)
    ∧ (tPath.queue = [] ∧ tPath.sbuf = [] ∧ s.effectsDone c tPath = true ∧ (s.est 8).bound = 0
      ∧ (s.mergeThreads (tPath.thr :: tPath.kin)).stopping (s.partOf c) = false)
    ∧ (with_ c).estValid ((with_ c).partOf c) 8 = false ∧ tPath.isHandler = false ∧ tPath.faulting ≠ 0 := by
  and_intros <;> first | exact ⟨rfl, rfl, rfl⟩ | decide +kernel

theorem witness_launch : let c := crewOf tPath
    let s := with_ c
    let d := { c with s := [(4, 0x100104)] }
    let e := { c with s := [(4, 0xFFFFFF0000000000)] }
    (Issuing s c 0 tPath ∧ s.submitted c 0 = false ∧ tPath.iss = none ∧ tPath.want = none ∧ c.pending [6, 4] = false
      ∧ s.isCruise c = false ∧ tPath.queue = [] ∧ tPath.sbuf = [] ∧ s.effectsDone c tPath = true ∧ (c.sget 4).toNat % 64 = 0
      ∧ (s.mergeThreads (tPath.thr :: tPath.kin)).stopping (s.partOf c) = false
      ∧ canonical (c.sget 4) = true ∧ canonical (c.sget 4 + 255) = true ∧ (c.sget 4).toNat + 256 ≤ 2 ^ 64 - 2 ^ 40)
    ∧ (match (s.mergeThreads (tPath.thr :: tPath.kin)).walkRegion c tPath (pageParts 0x100100 (0x100100 + 256)) [] with
      | (.ok rs, u) => (match u.observeBlock c tPath rs 0x100100 with
        | .ok v => (v.part? (v.partOf c)).isSome && (v.crewOf c.id).isSome
        | .error _ => false)
      | _ => false) = true
    ∧ ((d.sget 4).toNat % 64 ≠ 0 ∧ tPath.isHandler = false ∧ tPath.faulting ≠ 0)
    ∧ ((e.sget 4).toNat % 64 = 0 ∧ canonical (e.sget 4) = true ∧ canonical (e.sget 4 + 255) = true
      ∧ 2 ^ 64 - 2 ^ 40 < (e.sget 4).toNat + 256)
    ∧ Issuing (machine c tTeam cruiseBlock) c 0 tPath ∧ (machine c tTeam cruiseBlock).isCruise c = true := by
  and_intros <;> first | exact ⟨rfl, rfl, rfl⟩ | decide +kernel

theorem witness_cidx : let c := { crewOf tPath with s := [(4, 3), (5, 4)] }
    let s := machine c tTeam cruiseBlock
    (Issuing s c 0 tPath ∧ c.pending [9, 4] = false ∧ s.blkOf c = some cruiseBlock ∧ cruiseBlock.cruise = true
      ∧ (c.sget 4).toNat < cruiseBlock.teams ∧ cruiseBlock.teams ≤ (c.sget 5).toNat)
    ∧ (∃ y, cruiseBlock.order 3 = some y) ∧ (∃ y, cruiseBlock.rankOf 3 = some y)
    ∧ (with_ c).blkOf c = some loadBlock ∧ loadBlock.cruise = false ∧ tPath.isHandler = false
    ∧ cruiseBlock.morton = false ∧ 0 < cruiseBlock.teams := by
  and_intros <;> first | exact ⟨rfl, rfl, rfl⟩ | exact exists_some (by decide +kernel) | decide +kernel

/-! The matrix array -/

theorem witness_reservations : let c := { crewOf tPath with s := [(4, 0), (5, 3)] }
    let held := { c with resv := [(2, some ⟨0, 1, 0, [], 0⟩)] }
    let full := { c with resv := [(7, some ⟨0, 512, 0, [], 0⟩)] }
    let s := with_ c
    (Issuing s c 0 tPath ∧ s.coreOf c.team = some 0 ∧ c.pending [6, 4] = false ∧ tPath.want = none ∧ (c.sget 5).toNat % 16 = 3)
    ∧ ((c.sget 4).toNat / 2 ^ 42 = 0 ∧ (c.sget 4).toNat % 16 ≠ 3 ∧ slabSize 0 * 1 ≤ 512 * 1024 ∧ SMap.get none held.resv 2 ≠ none
      ∧ SMap.get none c.resv 2 = none ∧ ∃ x, s.obufFit 0 (slabSize 0 * 1 / 1024) = some x)
    ∧ (Issuing (with_ full) full 0 tPath ∧ (with_ full).obufFit 0 (slabSize 0 * 1 / 1024) = none)
    ∧ c.loading 2 s.nextId = false ∧ (s.jointsOf c).any (fun j => j.names c.id 2) = false := by
  and_intros <;> first | exact ⟨rfl, rfl, rfl⟩ | exact exists_some (by decide +kernel) | decide +kernel

/-- A gang of members 0 and 1, quarters from positions 0, 0, 1 and 1. -/
def tGang : Nat := 2 ^ 5 + 2 * 2 ^ 32 + 2 ^ 42 + 2 ^ 45
/-- The team with two groups, and a crew of both. -/
def twoTeam : Team := { tTeam with groups := 2 }

theorem witness_gang : let c := { crewOf tPath with s := [(4, BitVec.ofNat 64 tGang)], groups := 2 }
    let s := machine c twoTeam loadBlock
    let v := tGang
    let member := fun (k : Nat) => v / 2 ^ (5 * k) % 32
    (Issuing s c 0 tPath ∧ tPath.iss = none ∧ c.pending [4] = false ∧ s.teamOf c.team = some twoTeam ∧ (c.sget 4).toNat = tGang)
    ∧ (v / 2 ^ 48 = 0 ∧ v / 2 ^ 35 % 2 = 0 ∧ v / 2 ^ 30 % 4 = 0 ∧ v / 2 ^ 32 % 8 = 2
      ∧ (∀ x, x < 2 → ∀ y, y < 2 → member x = member y → x = y) ∧ (∀ x, x < 2 → member x < twoTeam.groups)
      ∧ (∀ q, q < 4 → v / 2 ^ (36 + 3 * q) % 8 < 2) ∧ ∀ x, x < 6 → 2 ≤ x → member x = 0)
    ∧ ¬ (c.sget 0).toNat / 2 ^ 32 % 8 = 2 ∧ tPath.isHandler = false ∧ tPath.faulting ≠ 0 := by
  and_intros <;> first | exact ⟨rfl, rfl, rfl⟩ | decide +kernel

theorem witness_mma : let c := { crewOf tPath with gang := BitVec.ofNat 48 tGang, groups := 2 }
    let s := machine c twoTeam loadBlock
    let h : Hdr := ⟨false, 0⟩
    let ins := Instr.mma h 64 0 1 (.imm 3) 0
    let groups := (c.passes (selMask c tPath h)).map fun g => c.first + g
    s.teamOf c.team = some twoTeam ∧ LaneReady s c 0 tPath { instr := ins, h := h, reads := [], writes := [], long := true, counter := some 5, late := distinct (groups.flatMap fun g => mmaBlock c.gang 64 0 g) }
    ∧ c.first + c.groups ≤ 32 ∧ groups = [0] ∧ (∀ g ∈ groups, (gangPos c.gang g).isSome = true) := by
  and_intros <;> first | exact ready_of ⟨rfl, rfl, rfl⟩ (by decide +kernel) | decide +kernel

/-- A team whose tile 0 is allotted and bound, and a crew with reservation 1. -/
def tileTeam : Team := { tTeam with ntile := 2, tiles := [⟨true, true, 3, 1, [(5, 9)], []⟩, ⟨false, false, 0, 0, [], []⟩,
  ⟨false, false, 0, 0, [], []⟩, ⟨false, false, 0, 0, [], []⟩] }
def tileCrew : Crew := { oneCrew with resv := [(1, some ⟨0, 1, 0, [], 0⟩)] }

theorem witness_accz : let c := tileCrew
    let s := machine c tileTeam loadBlock
    Issuing s c 0 onePath ∧ onePath.iss = none ∧ s.teamOf c.team = some tileTeam ∧ tileTeam.core = some 0 ∧ 0 < s.cores.length
    ∧ 0 < tileTeam.tiles.length ∧ s.tileWaiting c 0 0 = false ∧ 0 < tileTeam.ntile ∧ SMap.get none c.resv 1 = some ⟨0, 1, 0, [], 0⟩
    ∧ (tileTeam.tile 0).allot = true ∧ s.tileDrained (standOfCore 0) (tileTeam.tile 0) = true
    ∧ (∃ u, s.tileEffect c onePath 0 (List.range 8192) true = .ok u) ∧ SMap.get none c.resv 2 = none ∧ onePath.isHandler = false
    ∧ onePath.faulting ≠ 0 ∧ tileTeam.ntile ≤ 2 ∧ 2 < tileTeam.tiles.length := by
  and_intros <;> first | exact ⟨rfl, rfl, rfl⟩ | exact tileEffect_ok (fun _ h => nomatch (h : _ ∈ [])) | decide +kernel

theorem witness_tileWords : let c := tileCrew
    let s := machine c tileTeam loadBlock
    let h : Hdr := ⟨false, 0⟩
    (Room s c ∧ s.teamOf c.team = some tileTeam ∧ tileTeam.core = some 0 ∧ 0 < tileTeam.ntile ∧ 0 < tileTeam.tiles.length
      ∧ s.tileWaiting c 0 0 = false ∧ (tileTeam.tile 0).allot = true ∧ s.tileDrained (standOfCore 0) (tileTeam.tile 0) = true)
    ∧ LaneReady s c 0 onePath (infoTile (.accrd h .f32 20 4 0 false false 0 true) h [4] (regPair false 20))
    ∧ LaneReady s c 0 onePath (infoTile (.accxRd h 0 40 4) h [4] (quad 40))
    ∧ LaneReady s c 0 onePath (infoTile (.accxFlg h 0 40) h [] [40])
    ∧ LaneReady s c 0 onePath (infoTile (.accxWr h 0 4 40) h (4 :: quad 40) [])
    ∧ LaneReady s c 0 onePath (infoTile (.accxAdd h 0 4 40) h (4 :: quad 40) [])
    ∧ LaneReady s c 0 onePath (infoTile (.accxOrf h 0 40) h [40] []) := by
  and_intros <;> first | exact ready_of ⟨rfl, rfl, rfl⟩ (by decide +kernel) | (show _ ≤ _; decide +kernel) | decide +kernel

/-- The detector holds nothing, so every access of a tile meets no conflict. -/
theorem witness_tileEffects (ns : List Nat) (w : Bool) : ∀ t : State, t.nextId = (machine tileCrew tileTeam loadBlock).nextId + 1 →
    t.det = (machine tileCrew tileTeam loadBlock).det → ∃ u, t.tileEffect tileCrew onePath 0 ns w = .ok u :=
  fun _ _ hd => tileEffect_ok (fun _ h => nomatch (hd ▸ h : _ ∈ []))

/-! Steps of other agents -/

/-- The entry of the crew at slot 0 of core 0. -/
abbrev here : PathRef := ⟨0, 0, 0⟩
/-- The machine with path p in entry 0 of its crew. -/
def holding (p : Path) : State := with_ (crewOf p)

theorem witness_grants :
    let g := { tPath with want := some (.grow 6 248) }
    let c := { crewOf g with nRegs := 8 }
    let o := { tPath with want := some (.obres 6 2 0) }
    let full := { crewOf o with resv := [(7, some ⟨0, 512, 0, [], 0⟩)] }
    let u := { tPath with want := some (.units 8) }
    let pass : PassOut := ⟨0, 1, [(5, .gen (List.replicate 32 0))]⟩
    let w := { tPath with want := some (.passes 12 0 [pass]) }
    let busy := fun (s : State) => { s with cores := [{ Core.reset with laneUsed := 4, scalBy := [(8, 0), (9, 0)] }] }
    let wNone := { crewOf w with words := [{ tWord with resv := [(5, 49152 - 257)] }] }
    let none_ := { crewOf u with words := [{ tWord with resv := [(5, 49152 - 260)] }] }
    (Named (with_ c) here c g ∧ ((with_ c).waiters (· == 0) (fun w => match w with | .grow .. => true | _ => false)).head? = some (3, 0)
      ∧ (with_ c).scalRoom 0 c.id 0 = true ∧ (248 - c.nRegs) * c.groups * 8 ≤ (with_ c).freeUnits 0)
    ∧ (Named (busy (with_ c)) here c g ∧ (busy (with_ c)).scalRoom 0 c.id 0 = false)
    ∧ (Named (busy (holding o)) here (crewOf o) o ∧ (busy (holding o)).scalRoom 0 (crewOf o).id 0 = false)
    ∧ (Named (holding o) here (crewOf o) o ∧ (holding o).scalRoom 0 (crewOf o).id 0 = true ∧ SMap.get none (crewOf o).resv 2 = none
      ∧ ((holding o).waiters (· == 0) (fun w => match w with | .obres .. => true | _ => false)).head? = some (3, 0)
      ∧ (∃ x, (holding o).obufFit 0 (recSize 0 / 1024) = some x))
    ∧ (Named (with_ full) here full o ∧ (with_ full).obufFit 0 (recSize 0 / 1024) = none)
    ∧ (Named (holding u) here (crewOf u) u ∧ 8 ≤ (holding u).freeUnits 0)
    ∧ (Named (with_ none_) here none_ u ∧ (with_ none_).freeUnits 0 < 8)
    ∧ (Named (holding w) here (crewOf w) w ∧ (∃ k, (holding w).cores[0]? = some k ∧ k.laneUsed < 4)
      ∧ (crewOf w).passNeed pass ≤ (holding w).freeUnits 0)
    ∧ (Named (busy (holding w)) here (crewOf w) w ∧ ∃ k, (busy (holding w)).cores[0]? = some k ∧ 4 ≤ k.laneUsed)
    ∧ (Named (with_ wNone) here wNone w ∧ (with_ wNone).freeUnits 0 < wNone.passNeed pass) := by
  and_intros <;> first | exact ⟨rfl, rfl, rfl⟩ | exact exists_some (by decide +kernel) | decide +kernel

theorem witness_standGrants :
    let r := { tPath with refill := [0] }
    let t := { tPath with want := some (.tile 1) }
    let b := { tPath with want := some (.banks 9 6 [8] 2) }
    let s := holding r
    let none_ := { s with stands := [{ Stand.reset with modes := List.replicate 32 0 }] }
    let d := { holding b with stands := [{ Stand.reset with drains := [8] }] }
    (Named s here (crewOf r) r ∧ s.teamOf (crewOf r).team = some tTeam ∧ r.refill ≠ []
      ∧ ∃ u, r.refill.foldl (fun o g => match o with
        | some u => State.pinPage u (standOfCore 0) (crewOf r).team g
        | none => none) (some s) = some u)
    ∧ (Named none_ here (crewOf r) r ∧ (r.refill.foldl (fun o g => match o with
        | some u => State.pinPage u (standOfCore 0) (crewOf r).team g
        | none => none) (some none_)) = none)
    ∧ (Named (holding t) here (crewOf t) t ∧ (holding t).tileWaits (standOfCore 0) = (3, 0, 1) :: []
      ∧ (holding t).tileRoom (standOfCore 0) = true ∧ tTeam.joints = [] ∧ 1 < tTeam.tiles.length ∧ (tTeam.tile 1).allot = false)
    ∧ (d.draining 0 8 = true ∧ d.crewOf 3 = some (crewOf b) ∧ d.crews.filter (fun e => e.id == 3) = [crewOf b] ∧ (crewOf b).paths[0]? = some b
      ∧ d.coreOf (crewOf b).team = some 0 ∧ standOfCore 0 = 0 ∧ (∀ x ∈ [8], x < 32) ∧ (∀ x ∈ [8], d.draining 0 x = true → x = 8)
      ∧ (d.stands[0]?).map (fun k => k.modes.length) = some 32) := by
  and_intros <;> first | exact ⟨rfl, rfl, rfl⟩ | exact exists_some (by decide +kernel) | decide +kernel

/-- The only path that waits for banks is the one of the witness. -/
theorem witness_standGrants_only : let b := { tPath with want := some (.banks 9 6 [8] 2) }
    ∀ e ∈ (holding b).crews, ∀ k, k < 8 → (e.id, k) ≠ (3, 0) → (e.path k).want = none := by decide +kernel

/-- A launch of teams of 64 groups, which fit only an empty core. -/
def bigLaunch : Launch := { tLaunch { loadBlock with teams := 2, gsize := 64 } with lid := 2, kd := { loadDesc with crews := [⟨0, 0, 8, 0, 0, 0⟩] } }
/-- A path that waits for units that are not there. -/
def tStuck : Path := { tPath with want := some (.units 8), wait := some stRegs }
/-- The machine whose crew, with path p, has been quiet and blocked for some clocks, and at which another launch asks for more than is
free. -/
def blockedState (p : Path) (quiet stuck : Nat) : State :=
  let s := with_ { crewOf p with quiet := quiet, stuck := stuck }
  { s with
    cores := modAt s.cores 1 fun k => { k with fenced := true }
    launches := s.launches ++ [bigLaunch]
    pairs := [s.pairs.getD 0 Pair.reset] ++ List.replicate 71 { Pair.reset with cls := 3 } }

theorem witness_evictions : let s := blockedState tStuck 4096 1024
    (∀ c ∈ s.coreCrews 0, c.issued = false ∧ 4096 ≤ c.quiet) ∧ (∀ c ∈ s.coreCrews 0, s.crewBlocked c = true ∧ 1024 ≤ c.stuck)
    ∧ s.coreCrews 0 ≠ [] ∧ s.evictee 0 = some tTeam ∧ s.live tTeam.part = true ∧ s.leavers 0 = []
    ∧ s.waitsFor tTeam.part 0 tTeam.id = true
    ∧ (blockedState tPath 4095 1023).evictee 0 = some tTeam ∧ (blockedState tPath 4095 1023).leavers 0 = []
    ∧ (∃ c ∈ (blockedState tPath 4095 1023).coreCrews 0, c.quiet < 4096 ∧ c.stuck < 1024) := by
  and_intros <;> decide +kernel

/-- A launch of priority 0 that has been passed over since time 0, at time 20,000, with every core but 0 unfit. -/
def urgentState : State :=
  let s := blockedState tPath 0 0
  { s with
    time := 20000
    launches := [tLaunch { loadBlock with prio := 2 }, { bigLaunch with passed := some 0 }] }

theorem witness_preemption : let s := urgentState
    let h : Head := ⟨2, none⟩
    s.places 0 = true
    ∧ (s.heads 0).find? (fun h => s.needsVictims 0 h && (s.victim (s.qualify 0 (s.headPrio 0 h) h) (s.headPrio 0 h)).isSome) = some h
    ∧ s.victim (s.qualify 0 (s.headPrio 0 h) h) (s.headPrio 0 h) = some tTeam ∧ tTeam.core = some 0
    ∧ (s.evict tTeam.id).headFits 0 0 h ((s.evict tTeam.id).leavers 0) = true := by
  and_intros <;> decide +kernel

/-- The same where the resident launch has a slice of 20 µs and a time limit of 20 µs, at a time. -/
def slicedState (t : W64) : State :=
  let s := blockedState tPath 0 0
  { s with
    time := t
    parts := [{ Part.reset 4 with passedOver := [(2, 0)] }]
    launches := [tLaunch { loadBlock with prio := 2, slice := 20, tlim := 20 }, bigLaunch] }

theorem witness_slicesAndLimits : let s := slicedState 20000
    (s.teamRef ⟨0, 1, 0⟩ = some tTeam ∧ (∃ b, s.teamBlk tTeam = some b ∧ b.slice = 20) ∧ s.live 0 = true ∧ s.choosable tTeam = true
      ∧ s.parkedTeam tTeam = false ∧ tTeam.placed.toNat + 1000 * 20 + tTeam.heldNs ≤ s.time.toNat ∧ s.displaced tTeam = true)
    ∧ (slicedState 19999).time.toNat < tTeam.placed.toNat + 1000 * 20 + tTeam.heldNs
    ∧ (∃ l, s.launchOf 0 1 = some l ∧ l.blk.tlim = 20 ∧ l.retired = false ∧ s.unfinished l = true ∧ l.heldIn = false
      ∧ l.admitAt.toNat + 1000 * (l.blk.tlim + l.extUs) ≤ s.time.toNat) := by
  and_intros <;> first | decide +kernel | exact ⟨_, rfl, by decide +kernel⟩ | exact ⟨_, rfl, by decide +kernel, by decide +kernel, by decide +kernel, by decide +kernel⟩

/-- A launch of two teams, one placed. -/
def unplaced : State := { holding tPath with launches := [{ tLaunch { loadBlock with teams := 2 } with next := 1 }] }

theorem witness_placement : let s := unplaced
    s.places 0 = true ∧ s.part? 0 = some (Part.reset 4)
    ∧ (∃ core, s.placeChoice 0 = (some (⟨1, none⟩, core), [])) ∧ (∃ l, s.launchOf 0 1 = some l ∧ l.blk.regs.length = 8)
    ∧ (holding tPath).placeChoice 0 = (none, []) := by
  and_intros <;> first | exact ⟨0, by decide +kernel⟩ | exact ⟨_, rfl, by decide +kernel⟩ | decide +kernel

/-- The team leaves its core; and it is saved and waits. -/
def leavingTeam : Team := { tTeam with leaving := true }
def savedTeam : Team := { tTeam with core := none, saved := true }
def savedState : State := { machine (crewOf tPath) savedTeam loadBlock with parts := [{ Part.reset 4 with requeue := [2] }] }

theorem witness_saveAndRestore : let s := machine (crewOf tPath) leavingTeam loadBlock
    (s.teamRef ⟨0, 1, 0⟩ = some leavingTeam ∧ s.teamOf 2 = some leavingTeam ∧ s.part? 0 = some (Part.reset 4) ∧ leavingTeam.leaving = true
      ∧ leavingTeam.core ≠ none ∧ s.live 0 = true ∧ s.drained leavingTeam = true)
    ∧ (savedState.teamRef ⟨0, 1, 0⟩ = some savedTeam ∧ savedTeam.leaving = false ∧ savedState.places 0 = true
      ∧ (∃ core, savedState.placeChoice 0 = (some (⟨1, some 2⟩, core), [])))
    ∧ unplaced.teamRef ⟨0, 1, 0⟩ = some tTeam ∧ (⟨1, none⟩ : Head).team ≠ some tTeam.id := by
  and_intros <;> first | exact ⟨0, by decide +kernel⟩ | decide +kernel

/-! Launches -/

/-- The 256 bytes of a block of one team, its descriptor at 0x100100. -/
def blockBytes (version : Nat) : List Byte :=
  bytesOfNat 8 (version + 2 ^ 24) ++ bytesOfNat 8 0x100100 ++ bytesOfNat 8 1 ++ bytesOfNat 8 0x10000 ++ bytesOfNat 8 0 ++ bytesOfNat 8 (2 ^ 16)
  ++ bytesOfNat 208 0
/-- The 96 bytes of a descriptor of one crew of 8 registers. -/
def descBytes (version : Nat) : List Byte :=
  bytesOfNat 8 version ++ bytesOfNat 8 0x100000 ++ bytesOfNat 8 0x108000 ++ bytesOfNat 8 16 ++ bytesOfNat 8 (8 * 64) ++ bytesOfNat 56 0
/-- The machine with this block submitted by the host, and this descriptor at 0x100100. -/
def submitted (bs kd : List Byte) (frame : Frame) : State :=
  let s := { State.reset with
    parts := [{ Part.reset 4 with subs := [⟨0x40000, bs, none, 0⟩], lnBusy := true }], frames := SMap.set ⟨0, 0, 0⟩ [] 3 frame }
  s.loadTables.wrBytes 0x30100 kd

/-- What the checks of R316 answer. -/
def answer (x : Checked × State) : Option Nat := match x.1 with | .refused k => some k | .passed .. => some 0 | .waits => none

theorem witness_admission :
    let s := submitted (blockBytes 1) (descBytes 1) ⟨1, 0, 0⟩
    let bad := submitted (blockBytes 2) (descBytes 1) ⟨1, 0, 0⟩
    let kd := submitted (blockBytes 1) (descBytes 2) ⟨1, 0, 0⟩
    let wait := submitted (blockBytes 1) (descBytes 1) ⟨3, 0, 0⟩
    let ans := fun (s : State) => answer ((s.modPart 0 fun x => { x with subs := [] }).checkBlock 0 (parseBlock (blockBytes 1)) none)
    (∃ q, s.part? 0 = some q ∧ q.subs = ⟨0x40000, blockBytes 1, none, 0⟩ :: [] ∧ q.newCls = none) ∧ s.live 0 = true
    ∧ blockFormed 0x40000 (blockBytes 1) = true ∧ ans s = some 0 ∧ ans kd = some 2 ∧ ans wait = none
    ∧ blockFormed 0x40000 (blockBytes 2) = false ∧ (∃ q, bad.part? 0 = some q ∧ q.subs = ⟨0x40000, blockBytes 2, none, 0⟩ :: []) := by
  and_intros <;> first | exact ⟨_, rfl, by decide +kernel, by decide +kernel⟩ | exact ⟨_, rfl, by decide +kernel⟩ | decide +kernel

/-- A launch of one team, retired with a sample, and ready to commit. -/
def retiringLaunch : Launch := { tLaunch loadBlock with nRetired := 1, commits := [⟨0, [⟨5, 0, 0, 0x3FF0000000000000⟩], []⟩] }
def retiredTeam : Team := { tTeam with core := none, retired := true }
def retiring : State := { machine (crewOf tPath) retiredTeam loadBlock with launches := [retiringLaunch], crews := [], ests := [(5, tEst)] }
/-- A cruise past its energy budget. -/
def costly : Launch := { tLaunch { cruiseBlock with energy := 1 } with energy := 3000 }
def stopping : State := { machine (crewOf tPath) retiredTeam cruiseBlock with launches := [costly], ests := [(0, tEst)] }

theorem witness_commitAndStop :
    (retiring.launchOf 0 1 = some retiringLaunch ∧ retiring.live 0 = true
      ∧ retiring.readyCommit retiringLaunch = some ⟨0, [⟨5, 0, 0, 0x3FF0000000000000⟩], []⟩
      ∧ (retiring.mergeRank retiringLaunch).stopping 0 = false
      ∧ retiringLaunch.commits = [⟨0, [⟨5, 0, 0, 0x3FF0000000000000⟩], []⟩] ∧ retiringLaunch.blk.cruise = false
      ∧ (∀ x ∈ [(⟨5, 0, 0, 0x3FF0000000000000⟩ : Sample)], x.handle < 2 ^ 14)
      ∧ ∀ m ∈ retiring.launches, m.blk.cruise = true → m.eligible = true ∨ m.retired = true)
    ∧ stopping.launchOf 0 1 = some costly ∧ stopping.live 0 = true ∧ stopping.readyCommit costly = none
    ∧ (costly.blk.cruise = true ∧ costly.eligible = true ∧ costly.stopped = false ∧ costly.retired = false)
    ∧ (costly.blk.energy ≠ 0 ∧ costly.blk.energy < stopping.launchEnergy costly / 1000 ∧ costly.blk.deadline = 0
      ∧ leF64 (stopping.est costly.blk.est).width (stopping.est costly.blk.est).target = false)
    ∧ (stopping.est costly.blk.est).bound = 0 ∧ { tEst with bound := 1 }.bound ≠ 0
    ∧ (stopping.teams.map (·.id)).Nodup := by
  and_intros <;> decide +kernel

theorem witness_samples : (0x3FF0000000000000 : W64).toNat / 2 ^ 52 % 2 ^ 11 ≠ 2047 ∧ ¬ (0x7FF8000000000000 : W64).toNat / 2 ^ 52 % 2 ^ 11 ≠ 2047 := by
  decide

/-- A launch whose one team has retired and committed, and its ring with room. -/
def doneLaunch : Launch := { tLaunch loadBlock with n := 1, nRetired := 1 }
def doneState (ring : W64) : State := { machine (crewOf tPath) retiredTeam loadBlock with
  launches := [doneLaunch], crews := [], parts := [{ Part.reset 4 with cring := ⟨ring, 0, 0⟩ }] }

theorem witness_completion : let s := doneState 0x50001
    s.launchOf 0 1 = some doneLaunch ∧ s.live 0 = true ∧ s.finished doneLaunch = true
    ∧ (∃ q a n, s.part? 0 = some q ∧ q.cring.slot 1 = some (a, n)) ∧ (∀ m ∈ s.launches, m.part = 0 → m.recOwed = false)
    ∧ (s.launches.filter fun m => m.part == 0 && m.lid == 1) = [doneLaunch]
    ∧ (doneState 0).launchOf 0 1 = some doneLaunch ∧ (0 : W64).toNat % 4096 = 0
    ∧ (holding tPath).finished (tLaunch loadBlock) = false := by
  and_intros <;> first | exact ⟨_, 0, 1, rfl, by decide +kernel⟩ | decide +kernel

/-! Buffers, logs, translation, frames, jobs and joints -/

/-- A commutative contribution in the store buffer, and its entry. -/
def tComm : Acc := tAcc .comm 0x30100
def commPath : Path := { tPath with sbuf := [tComm] }
def commCrew : Crew := { crewOf commPath with words := [{ tWord with slot := false, owed := 1 }] }
def commState : State := with_ commCrew
def tEntry : CEnt := ⟨0x30100 / 32, 0, .n64, [(tComm, commState.locus commCrew)]⟩
def heldEntry : State := { commState with stands := [{ Stand.reset with cbuf := [tEntry] }] }
/-- The same in deterministic mode, without the ticket, and with it. -/
def detBlock : Block := { loadBlock with det := true, log := 1024 }
def detState (ticket : Nat) : State := { machine commCrew tTeam detBlock with launches := [{ tLaunch detBlock with ticket := ticket }] }

theorem witness_storeBuffer :
    (Named commState here commCrew commPath ∧ commPath.st ≠ .free ∧ accOf commPath.sbuf 5 = some tComm ∧ commState.leaveReady commCrew 0 tComm = true
      ∧ commState.teamOf commCrew.team = some tTeam ∧ commState.stands[(commState.locus commCrew).stand]? = some Stand.reset
      ∧ commState.detMode commCrew = false ∧ tComm.rel = false ∧ tComm.fences = [] ∧ (∀ e ∈ Stand.reset.cbuf, e.gran ≠ tComm.addr / 32)
      ∧ Stand.reset.cbuf.length < 512)
    ∧ (Named heldEntry here commCrew commPath ∧ heldEntry.leaveReady commCrew 0 tComm = true
      ∧ [tEntry].find? (fun e => e.gran == tComm.addr / 32) = some tEntry ∧ tEntry.op = tComm.op ∧ tEntry.ty = tComm.ty)
    ∧ (Named (detState 1) here commCrew commPath ∧ (detState 1).leaveReady commCrew 0 tComm = true ∧ (detState 1).detMode commCrew = true
      ∧ (detState 1).ticket commCrew = false ∧ (detState 1).stageRace commCrew 0 tComm = none) ∧ (detState 0).ticket commCrew = true := by
  and_intros <;> first | exact ⟨rfl, rfl, rfl⟩ | decide +kernel

/-- A path whose load waits for the entry to merge. -/
def waitingState : State :=
  let c := { crewOf { tPath with queue := [tAcc .load 0x30100] } with words := [tWord] }
  { with_ c with stands := [{ Stand.reset with cbuf := [tEntry] }] }

/-- A retired team with a log of one store, holding its ticket. -/
def loggedTeam : Team := { retiredTeam with log := [(tAcc .store 0x30100, commState.locus commCrew)] }
def loggedState (t : Team) : State := { machine (crewOf tPath) t detBlock with launches := [tLaunch detBlock] }

theorem witness_merges :
    (waitingState.stands[0]? = some { Stand.reset with cbuf := [tEntry] } ∧ waitingState.mergeDue tEntry = true
      ∧ (∃ c, waitingState.crewOf (commState.locus commCrew).crew = some c
        ∧ (waitingState.detOf (.mem (tComm.addr / 32))).race (waitingState.dacc c tComm) true (tComm.clk.getD []) = none)
      ∧ tComm.addr.testBit 51 = false ∧ waitingState.stopping 0 = false ∧ ∀ n, n < tComm.width → (tComm.addr + n).testBit 51 = false)
    ∧ ({ with_ (crewOf tPath) with stands := [{ Stand.reset with cbuf := [tEntry] }] } : State).mergeDue tEntry = false
    ∧ ((loggedState loggedTeam).live 0 = true ∧ (loggedState loggedTeam).launchOf 0 1 = some (tLaunch detBlock) ∧ (loggedState loggedTeam).holder (tLaunch detBlock) = some loggedTeam
      ∧ (loggedState loggedTeam).teamOf loggedTeam.id = some loggedTeam ∧ (tLaunch detBlock).blk.det = true
      ∧ loggedTeam.log = [(tAcc .store 0x30100, commState.locus commCrew)])
    ∧ (loggedState retiredTeam).holder (tLaunch detBlock) = some retiredTeam ∧ retiredTeam.log = [] ∧ retiredTeam.retired = true
    ∧ (loggedState retiredTeam).quietTeam retiredTeam = true
    ∧ (∀ d ∈ (loggedState retiredTeam).stands, ∀ e ∈ d.cbuf, ∀ it ∈ e.items, it.2.team ≠ retiredTeam.id)
    ∧ ({ loggedState retiredTeam with parts := [] } : State).live 0 = false ∧ tTeam.retired = false := by
  and_intros <;> first | exact ⟨_, rfl, by decide +kernel⟩ | decide +kernel

theorem witness_logRelease : let s := loggedState loggedTeam
    let x := tAcc .store 0x30100
    let loc := commState.locus commCrew
    x.kind = .store ∧ x.space = .mem ∧ x.addr.testBit 51 = false ∧ s.crewOf loc.crew = some (crewOf tPath)
    ∧ (∀ n, n < x.width → (x.addr + n).testBit 51 = false) ∧ s.stopping (s.partOf (crewOf tPath)) = false
    ∧ (let b := (s.modTeam loggedTeam.id fun t => { t with log := [] }).beforeEffect (crewOf tPath) ((crewOf tPath).entryOf x.thr) x
      b.stopping (s.partOf (crewOf tPath)) = false
      ∧ ∃ u, ((b.noteBytes (crewOf tPath).team x.width .mem).countFar (crewOf tPath) x).observeStaged (crewOf tPath) x = .ok u) := by
  and_intros <;> first | exact exists_ok (by decide +kernel) | decide +kernel

/-- A path that waits for a walk of the page at 0x100000, with its tables, and with its frame in some state. -/
def walking : Path := { tPath with walks := [(16, false)] }
def walkState (frame : Frame) (tables : Bool) : State :=
  let s := { machine (crewOf walking) tTeam loadBlock with cores := State.reset.cores, frames := SMap.set ⟨0, 0, 0⟩ [] 3 frame }
  if tables then s.loadTables else s
/-- How a walk ends. -/
def walkEnd (s : State) : Option Nat := match (s.walk 0 0 0x10000 16 false).1 with | .ok _ => some 0 | .bad _ => some 1 | .pending _ => none
/-- A parked path whose records are all answered. -/
def parked (tags : List (Nat × Mask × Nat × Nat)) : Path := { tPath with st := .fault, park := some { word := none, lanes := 0xFFFFFFFF, reject := [], tags := tags, far := [] } }

theorem witness_walks :
    (Named (walkState ⟨1, 0, 0⟩ true) here (crewOf walking) walking ∧ (walkState ⟨1, 0, 0⟩ true).coreOf (crewOf walking).team = some 0
      ∧ walking.walks = [(16, false)] ∧ walking.want = none ∧ walking.park = none ∧ walking.st ≠ .fault ∧ (walkState ⟨1, 0, 0⟩ true).partOf (crewOf walking) = 0
      ∧ (walkState ⟨1, 0, 0⟩ true).space (crewOf walking) = (0, 0x10000))
    ∧ (walkEnd (walkState ⟨1, 0, 0⟩ true) = some 0 ∧ walkEnd (walkState ⟨1, 0, 0⟩ false) = some 1 ∧ walkEnd (walkState ⟨3, 0, 0⟩ true) = none)
    ∧ (let h := { walking with want := some (.held 1 2) }
      Named (with_ (crewOf h)) here (crewOf h) h ∧ h.park = none ∧ h.st ≠ .fault ∧ h.walks = [(16, false)])
    ∧ (Named (holding (parked [])) here (crewOf (parked [])) (parked []) ∧ (holding (parked [])).coreOf (crewOf (parked [])).team = some 0
      ∧ (parked []).walks = [] ∧ (parked []).goOn = none)
    ∧ Named (holding (parked [(0, 1, 1, 16)])) here (crewOf (parked [(0, 1, 1, 16)])) (parked [(0, 1, 1, 16)]) := by
  and_intros <;> first | exact ⟨rfl, rfl, rfl⟩ | decide +kernel

theorem witness_invalidations : let q := { Part.reset 4 with invQ := [(0x100000, 0x10000, 0)] }
    let f := { Part.reset 4 with invQ := List.replicate 16 (0x100000, 0x10000, 0) }
    let s := { holding tPath with parts := [q] }
    let b := { waitingState with parts := [q] }
    let h := { tPath with want := some (.cwait 0x30100 0x100100 9 none) }
    let w := { holding h with parts := [q] }
    (s.part? 0 = some q ∧ (0x1000 : W64).getLsbD 12 = true ∧ (0 : W64).getLsbD 12 = false ∧ q.invQ.length < 16
      ∧ s.flying 0 0 (0x100000, 0x10000, 0) = false)
    ∧ b.flying 0 0 (0x100000, 0x10000, 0) = true
    ∧ (w.part? 0 = some q ∧ w.flying 0 0 (0x100000, 0x10000, 0) = false
      ∧ w.crewOf 3 = some (crewOf h) ∧ ((crewOf h).path 0).want = some (.cwait 0x30100 0x100100 9 none))
    ∧ ({ holding tPath with parts := [f] } : State).part? 0 = some f ∧ 16 ≤ f.invQ.length ∧ (Part.reset 4).invQ = [] := by
  and_intros <;> decide +kernel

theorem witness_frames : let scrub := { tJob [] with kind := .scrub 3, crew := 0 }
    let s := { State.reset with jobs := [scrub], frames := SMap.set ⟨0, 0, 0⟩ [] 3 ⟨3, 0, 1⟩ }
    (4 * 3145728 ≤ (0xFFFFFFFFF : W64).toNat % 2 ^ 36 ∧ (3 : W64).toNat % 2 ^ 36 < 4 * 3145728)
    ∧ (s.jobs.any (fun j => j.kind == .scrub 3 && j.at_.isSome) = true ∧ s.frameFlying 3 = false ∧ (s.frame 3).state = 3
      ∧ ∀ k ∈ s.stands, ∀ e ∈ k.cbuf, e.gran / 2 ^ 11 ≠ 3) ∧ (State.reset.frame 3).state ≠ 3
    ∧ State.reset.jobs.any (fun j => j.kind == .scrub 3 && j.at_.isSome) = false := by
  and_intros <;> decide +kernel

theorem witness_migration : let m : Mig := ⟨0x22080, [(0, 16)], 0x50000, 0x30000⟩
    let q := { Part.reset 4 with migs := [m], relReg := 0x60001 }
    let full := { Part.reset 4 with migs := [m] }
    let j := { tJob [] with kind := .migrate 0x22080, crew := 0 }
    let s := { holding tPath with parts := [q] }
    let d := { s with jobs := [j] }
    let job := fun (j : Job) => j.part == 0 && j.kind == JobKind.migrate 0x22080
    (s.Canonical ∧ m.old % 2 ^ 52 + 2 ^ 16 ≤ m.new_ ∧ m.old % 2 ^ 16 = 0)
    ∧ (d.part? 0 = some q ∧ q.migs.find? (fun m => m.leaf == 0x22080) = some m ∧ d.jobs.any (fun j => job j && j.at_.isSome) = true
      ∧ d.inQueues (fun _ => true) (fun x => x.addr / 2 ^ 16 == m.old / 2 ^ 16) = false ∧ 0 < q.relFree
      ∧ (∀ k ∈ d.stands, ∀ e ∈ k.cbuf, e.gran / 2 ^ 11 ≠ m.old / 2 ^ 16) ∧ 0x22080 % 8 = 0 ∧ m.new_ % 2 ^ 16 = 0 ∧ m.new_ + 2 ^ 16 ≤ 2 ^ 51
      ∧ (∀ x ∈ [m.old, m.new_], x + 2 ^ 16 ≤ 0x22080 ∨ 0x22080 + 8 ≤ x)
      ∧ 0x22080 + 8 ≤ q.relReg.toNat % 2 ^ 52 / 4096 * 4096 + 8 * q.relTail.toNat ∧ d.jobs.any job = true)
    ∧ (full.relFree = 0 ∧ waitingState.inQueues (fun _ => true) (fun x => x.addr / 2 ^ 16 == m.old / 2 ^ 16) = true
      ∧ s.jobs.any (fun j => job j && j.at_.isSome) = false)
    ∧ s.part? 0 = some q ∧ s.jobs.any job = false ∧ s.crewOf 3 = some (crewOf tPath) ∧ s.partOf (crewOf tPath) = 0
    ∧ ({ tPath with park := some { word := none, lanes := 1, reject := [], tags := [], far := [16] } } : Path).park.isSome = true := by
  and_intros <;> first | exact ⟨by decide +kernel, by decide +kernel, by decide +kernel⟩ | decide +kernel

theorem witness_faultService : let s := holding (parked [(7, 1, 1, 16)])
    let h := { Part.reset 4 with fqHeld := [List.replicate 32 1], fqSize := 2 }
    (s.part? 0 = some (Part.reset 4) ∧ (Part.reset 4).fqHeld = [] ∧ s.jobs = [] ∧ s.crewOf 3 = some (crewOf (parked [(7, 1, 1, 16)]))
      ∧ s.partOf (crewOf (parked [(7, 1, 1, 16)])) = 0 ∧ (0x100000007 : W64).getLsbD 32 = true ∧ (7 : W64).getLsbD 32 = false)
    ∧ ({ s with parts := [h] } : State).part? 0 = some h ∧ h.fqHeld = [List.replicate 32 1] ∧ 2 ≤ h.fqSize.toNat := by
  and_intros <;> decide +kernel

/-- A card of no units, and of a gather that pops its indexes, and of a collective. -/
def scrubBytes : List Byte := bytesOfNat 8 3 ++ zeros 184
def gatherBytes : List Byte := bytesOfNat 8 (2 + 2 ^ 5 + 3 * 2 ^ 8) ++ bytesOfNat 8 1 ++ zeros 176
def collBytes : List Byte := bytesOfNat 8 5 ++ zeros 24 ++ bytesOfNat 8 9 ++ zeros 152
def jobState (j : Job) : State := { with_ { crewOf tPath with qs := [(3, ⟨1, 0, 0, [[5]], [], []⟩)] } with jobs := [j] }

theorem witness_yarders : let j := { tJob scrubBytes with at_ := none }
    let old := { j with age := 64 }
    let busy := { jobState old with jobs := old :: List.replicate 32 { tJob [] with kind := .scrub 1, id := 8 } }
    (jobState j).nextJob 0 = some (j, 0) ∧ busy.nextJob 0 = some (old, 1) ∧ 1 ≠ old.die ∧ State.reset.nextJob 0 = none := by
  and_intros <;> decide +kernel

/-- A job's units all complete. -/
def unitsDone (x : Nat × Option JobEnd × State) : Bool := x.2.1.isNone

/-- The group of handle 9: four members, of which this device is the second, with a time limit in microseconds (R417). -/
def groupState (us : Nat) : State :=
  { jobState (tJob collBytes) with parts := [{ Part.reset 4 with gtab := 0x60001 }] }.wrBytes 0x60000
    (bytesOfNat 4 9 ++ bytesOfNat 4 4 ++ bytesOfNat 4 1 ++ bytesOfNat 4 us)

theorem witness_jobs :
    ((jobState (tJob scrubBytes)).running 0 7 = some (tJob scrubBytes) ∧ queued (tJob scrubBytes) = false
      ∧ unitsDone (State.runUnits (fun s k => s.jobUnit (tJob scrubBytes) k) (cardUnits (tJob scrubBytes).card - 0) 0 (jobState (tJob scrubBytes))) = true)
    ∧ ((jobState (tJob gatherBytes)).running 0 7 = some (tJob gatherBytes) ∧ queued (tJob gatherBytes) = true
      ∧ (tJob gatherBytes).prog ≠ cardUnits (tJob gatherBytes).card ∧ cardQie (tJob gatherBytes).card = true ∧ (tJob gatherBytes).input = []
      ∧ (jobState (tJob gatherBytes)).outFull (tJob gatherBytes) = false
      ∧ (∃ c, (jobState (tJob gatherBytes)).crewOf 3 = some c ∧ (c.q (cardQin (tJob gatherBytes).card)).entries = [5] :: []
        ∧ (c.q (cardQin (tJob gatherBytes).card)).pops = [] ∧ (c.q (cardQin (tJob gatherBytes).card)).pushes = []))
    ∧ (queued { tJob gatherBytes with prog := 1 } = true ∧ 1 = cardUnits { tJob gatherBytes with prog := 1 }.card
      ∧ (jobState { tJob gatherBytes with prog := 1 }).running 0 7 = some { tJob gatherBytes with prog := 1 })
    ∧ ((groupState 0).running 0 7 = some (tJob collBytes) ∧ cardKind (tJob collBytes).card = 5
      ∧ (groupState 0).group 0 (cardParam (tJob collBytes).card 2 % 2 ^ 32) = some (4, 1, 0)
      ∧ (tJob collBytes).began.toNat + 1000 * 0 ≤ (groupState 0).time.toNat)
    ∧ ((groupState 5).running 0 7 = some (tJob collBytes)
      ∧ (groupState 5).group 0 (cardParam (tJob collBytes).card 2 % 2 ^ 32) = some (4, 1, 5)
      ∧ (groupState 5).time.toNat < (tJob collBytes).began.toNat + 1000 * 5)
    ∧ cardKind (tJob scrubBytes).card ≠ 5 := by
  and_intros <;> first | exact ⟨_, rfl, by decide +kernel, by decide +kernel, by decide +kernel⟩ | decide +kernel

/-- Arrivals of both members of the gang. -/
def tArr (pos : Nat) : Arrival := ⟨pos, pos, 3, 0, 9, maskRange (32 * pos) 32, 0, 1, 0, 0, List.range 16 |>.map (· + 64), 0, 5, 4, [], none⟩
/-- The joint that they make. -/
def tJoint (bands : Nat) : Joint := ⟨6, BitVec.ofNat 48 tGang, [tArr 0, tArr 1], [], bands, false⟩
def jointTeam (joints : List Joint) : Team := { tileTeam with
  groups := 2, tiles := [⟨true, false, 0, 0, [], []⟩, ⟨false, false, 0, 0, [], []⟩, ⟨false, false, 0, 0, [], []⟩, ⟨false, false, 0, 0, [], []⟩]
  latches := [⟨BitVec.ofNat 48 tGang, [tArr 0, tArr 1]⟩]
  joints := joints }
def jointCrew : Crew := { tileCrew with groups := 2, gang := BitVec.ofNat 48 tGang, words := [{ tWord with open_ := [0, 1], done := false }] }
def jointState (joints : List Joint) : State := machine jointCrew (jointTeam joints) loadBlock

theorem witness_jointForms :
    let t := jointTeam [tJoint 0]
    let s := jointState [tJoint 0]
    s.teamRef ⟨0, 1, 0⟩ = some t ∧ s.teamOf t.id = some t
    ∧ ((t.latches.take 4).findSome? fun l => l.ready.map fun arrs => (l.gang, arrs)) = some (BitVec.ofNat 48 tGang, tArr 0 :: [tArr 1])
    ∧ s.jointCheck t (BitVec.ofNat 48 tGang) [tArr 0, tArr 1] = none ∧ s.jointResv (tArr 0) = some ⟨0, 1, 0, [], 0⟩
    ∧ (t.tile (tArr 0).tile).allot = true ∧ (t.tile (tArr 0).tile).bound = false := by
  and_intros <;> decide +kernel

/-- Every access that the detector has noted is of this crew. -/
def OnlyOf (crew : Nat) (s : State) : Prop := ∀ d ∈ s.det, ∀ p, p ∈ d.writes ∨ p ∈ d.reads → p.crew = crew

theorem note_onlyOf {crew : Nat} (as : List (DAcc × Clock)) (h : ∀ a ∈ as, a.1.crew = crew) : ∀ (d : Det),
    (∀ p, p ∈ d.writes ∨ p ∈ d.reads → p.crew = crew) →
    ∀ p, p ∈ (as.foldl (fun d a => d.note a.1 true) d).writes ∨ p ∈ (as.foldl (fun d a => d.note a.1 true) d).reads → p.crew = crew := by
  induction as with
  | nil => exact fun _ hd => hd
  | cons a as ih =>
    intro d hd
    refine ih (fun b hb => h b (.tail _ hb)) _ fun p hp => ?_
    have ha := h a (.head _)
    rcases hp with hp | hp
    · simp only [Det.note, if_true, List.mem_append, List.mem_filter, List.mem_singleton] at hp
      rcases hp with hp | hp
      · exact hd p (.inl hp.1)
      · exact hp ▸ ha
    · exact hd p (.inr (by simpa [Det.note] using hp))

/-- The accesses of one crew meet no others, so none races. -/
theorem accesses_ok {crew part team tile : Nat} (as : List (DAcc × Clock)) (h : ∀ a ∈ as, a.1.crew = crew) (ns : List Nat) :
    ∀ s, OnlyOf crew s → ∃ u, s.tileAccesses part team tile ns as true = .ok u := by
  induction ns with
  | nil => exact fun s _ => ⟨s, rfl⟩
  | cons n ns ih =>
    intro s hs
    have hd : ∀ p, p ∈ (s.detOf (.tile team tile n)).writes ∨ p ∈ (s.detOf (.tile team tile n)).reads → p.crew = crew := by
      unfold State.detOf
      cases e : s.det.find? (fun d => d.gran == .tile team tile n) with
      | none => simp
      | some d => exact hs d (List.mem_of_find?_eq_some e)
    let bs := as.map fun a => ({ a.1 with who := { a.1.who with addr := 32 * n } }, a.2)
    have hb : ∀ b ∈ bs, b.1.crew = crew := by
      intro b hb
      obtain ⟨a, ha, rfl⟩ := List.mem_map.mp hb
      exact h a ha
    have hr : bs.findSome? (fun a => ((s.detOf (.tile team tile n)).race a.1 true a.2).map fun q => (a.1, q)) = none := by
      rw [List.findSome?_eq_none_iff]
      intro a ha
      have hc : ∀ p, p.crew = crew → ∀ w, conflicts p w a.1 true = false := fun p hp w => by simp [conflicts, hp, hb a ha]
      simp only [Option.map_eq_none_iff, Det.race]
      rw [List.find?_eq_none.mpr fun p hp => by simp [hc p (hd p (.inl hp))], List.find?_eq_none.mpr fun p hp => by simp [hc p (hd p (.inr hp))]]
    have he : s.tileAccess part team tile n as true
        = .ok (s.setDet (bs.foldl (fun d a => d.note a.1 true) (s.detOf (.tile team tile n)))) := by
      simp only [State.tileAccess]
      rw [show as.map _ = bs from rfl, hr]
    obtain ⟨u, hu⟩ := ih _ (show OnlyOf crew (s.setDet (bs.foldl (fun d a => d.note a.1 true) (s.detOf (.tile team tile n)))) by
      intro d hd' p hp
      rcases List.mem_cons.mp hd' with rfl | hd'
      · exact note_onlyOf bs hb _ hd p hp
      · exact hs d (List.mem_filter.mp hd').1 p hp)
    refine ⟨u, ?_⟩
    simp only [State.tileAccesses, List.foldl_cons, he]
    exact hu

theorem witness_jointCompletes (bands : Nat) (h : bands = 0 ∨ bands = 2) :
    let t := jointTeam [tJoint bands]
    let s := jointState [tJoint bands]
    s.arrayJoint 0 = some (t, tJoint bands) ∧ s.teamOf t.id = some t ∧ t.leaving = false ∧ (tJoint bands).arrs = tArr 0 :: [tArr 1]
    ∧ s.jointResv (tArr 0) = some ⟨0, 1, 0, [], 0⟩ ∧ (tArr 0).tile < t.tiles.length ∧ (tJoint bands).bands ≤ 8
    ∧ (∀ b ∈ (tJoint bands).arrs, ∀ c, s.crewOf b.crew = some c → ∃ p ∈ c.paths, p.st ≠ .free)
    ∧ ∃ u, (if (tJoint bands).bands = 0 then s.jointAccesses t.id (tArr 0).tile (tJoint bands).arrs else .ok s) = .ok u := by
  rcases h with rfl | rfl <;> (and_intros <;> try decide +kernel)
  · exact accesses_ok (crew := 3) _ (by decide +kernel) _ _ (fun d hd => absurd hd (by simp [jointState, machine, State.reset]))
  · exact ⟨_, rfl⟩

/-! The host, power, clocks, the debug agent and starts -/

theorem witness_hostRegisters : State.reset.part? 0 = some (Part.reset 4) ∧ (Part.reset 4).bps.length = 4 ∧ State.reset.part? 1 = none
    ∧ State.reset.part? 0 ≠ none := by and_intros <;> decide +kernel

theorem witness_rings : let s := doneState 0
    (State.reset.part? 0 = some (Part.reset 4) ∧ State.reset.launches.any (fun l => l.part == 0 && l.recOwed) = false
      ∧ (Part.reset 4).lnBusy = false ∧ (1 : W64).getLsbD 0 = true)
    ∧ { s with launches := [{ doneLaunch with recOwed := true }] }.launches.any (fun l => l.part == 0 && l.recOwed) = true
    ∧ { Part.reset 4 with lnBusy := true }.lnBusy = true := by and_intros <;> decide +kernel

theorem witness_estimators : let s := { State.reset with ests := [(5, tEst)] }
    let b := { State.reset with ests := [(5, { tEst with bound := 9 })] }
    ((0 : Nat) < 4 ∧ partOfDie s.svc.split 0 = 0 ∧ s.freeEst 0 = some 0 ∧ partOfDie s.svc.split 0 ≠ 1)
    ∧ (s.part? 0 = some (Part.reset 4) ∧ s.estValid 0 5 = true ∧ (s.est 5).bound = 0 ∧ s.estStop 0 5 = false ∧ s.estValid 0 6 = false
      ∧ s.coupled 0 = false)
    ∧ (b.estValid 0 5 = true ∧ (b.est 5).bound ≠ 0) ∧ (machine (crewOf tPath) tTeam { coupledBlock with cruise := true }).coupled 0 = true := by
  and_intros <;> decide +kernel

theorem witness_power : let s := State.reset
    (s.part? 0 = some (Part.reset 4) ∧ (599 : W64).toNat % 2 ^ 12 < 600 ∧ 2600 < (2601 : W64).toNat % 2 ^ 12
      ∧ 600 ≤ (600 : W64).toNat % 2 ^ 12 ∧ (2600 : W64).toNat % 2 ^ 12 ≤ 2600 ∧ (600 : W64).toNat % 2 ^ 12 < s.shareSum)
    ∧ (s.svc.cap.toNat < s.shareSum - (Part.reset 4).share.toNat + 2601 ∧ s.shareSum - (Part.reset 4).share.toNat + 2600 ≤ s.svc.cap.toNat
      ∧ s.anyLaunch 0 = false ∧ (holding tPath).anyLaunch 0 = true ∧ { Part.reset 4 with newCls := some 1 }.newCls = some 1) := by
  and_intros <;> decide +kernel

theorem witness_samplesAndTiming : let s := State.reset
    let p := { Pair.reset with cool := 1000, cls := 1 }
    (({ s with sampled := 1 } : State).time.toNat < 1000 * 1 ∧ 1000 * s.sampled ≤ s.time.toNat ∧ (s.teams.map (·.id)).Nodup
      ∧ s.pairs[0]? = some Pair.reset)
    ∧ (({ s with pairs := [p] } : State).pairs[0]? = some p ∧ 1000 ≤ p.cool ∧ 0 < p.cls ∧ Pair.reset.cool < 1000)
    ∧ s.part? 0 = some (Part.reset 4) ∧ s.stands[0]? = some Stand.reset ∧ s.pairs[(3 : W64).toNat % 512 / 4]? = some Pair.reset := by
  and_intros <;> first | rfl | decide +kernel

/-- Code at the path's two addresses: `slit s5, 0x12345678` and `vxor.i64 v4, v6, 0x2200000011`, each with its literal; or `sadd` and
`vadd` (R25 to R27). -/
def codeState (lit : Bool) : State :=
  let s := with_ (crewOf tPath)
  let t := if lit then (s.wrBytes 0x30000 (bytesOf 8 (0x123456786E280040 : W64))).wrBytes 0x38000
      (bytesOf 24 ((0x000000000000002200000011 : Slot) ++ (0x40C204060000000000000000 : Slot)))
    else (s.wrBytes 0x30000 (bytesOf 4 (0x40084180 : W32))).wrBytes 0x38000 (bytesOf 12 (0x002005060700300000000000 : Slot))
  { t with past := [] }

theorem witness_fetch : let c := crewOf tPath
    let s := codeState true
    (s.codeAt c tPath tPath.spc 4 = .ok (bytesOf 4 (0x6E280040 : W32)) ∧ scalarHasLit 0x6E280040 = true
      ∧ s.codeAt c tPath (tPath.spc + 4) 4 = .ok (bytesOf 4 (0x12345678 : W32)) ∧ decodeScalar 0x6E280040 0x12345678 = .ok (.slit 5 0x12345678))
    ∧ ((codeState false).codeAt c tPath tPath.spc 4 = .ok (bytesOf 4 (0x40084180 : W32)) ∧ scalarHasLit 0x40084180 = false
      ∧ decodeScalar 0x40084180 0 = .ok (.sadd 1 2 (.reg 3)))
    ∧ ((s.codeAt c tPath tPath.lpc 12 = .ok (bytesOf 12 (0x40C204060000000000000000 : Slot)) ∧ laneHasLit 0x40C204060000000000000000 = true
      ∧ s.codeAt c tPath (tPath.lpc + 12) 12 = .ok (bytesOf 12 (0x2200000011 : Slot)))
    ∧ (codeState false).codeAt c tPath tPath.lpc 12 = .ok (bytesOf 12 (0x002005060700300000000000 : Slot))
      ∧ laneHasLit 0x002005060700300000000000 = false) := by
  and_intros <;> decide +kernel

/-- The outcome is a next state in which the crews' first paths are at these scalar addresses. -/
def nextAt (o : Out) (spcs : List W64) : Bool := match o with | .next t => t.crews.map (fun c => (c.path 0).spc) == spcs | _ => false
/-- The outcome is a next state. -/
def isNext (o : Out) : Bool := match o with | .next _ => true | _ => false

/-- The machine right after reset with a word placed as its next instruction: a step runs it (log 5). -/
theorem test_step_runs_sadd : let s := State.reset.withFetchWord 32 0x40108300
    s.toHalt = none ∧ s.inputs = [] ∧ decodeTableWord 32 0x40108300 = some (.sadd 2 4 (.reg 6)) ∧ nextAt (step s) [0x100004] = true := by
  and_intros <;> decide +kernel

/-- The next picked word of the machine is this instruction, and it acts, or waits. -/
def acts (s : State) (i : Instr) (waits : Bool) : Bool := match s.nextPick with
  | some (core, k, u) => (match u.crewOf k.crew with
    | some c => u.mayIssue k && (if k.lane then u.fetchLane c (c.path k.path) else u.fetchScalar c (c.path k.path)) == .word i
        && (k.lane || (u.bpHit c (c.path k.path)).isNone) && (match exec i { u with cur := some ⟨k.crew, k.path⟩ } with
          | .next t => t.waits k.crew k.path == waits && (if waits then !k.ahead else k.sure)
          | _ => false)
    | none => false)
  | none => false
/-- The machine after reset with `sadd s2, s4, s6` as its next word, of whose sources s6 may be outstanding. -/
def saddState (pend : List (Nat × Nat)) : State :=
  let s := State.reset.withFetchWord 32 0x40108300
  { s with crews := s.crews.map fun (c : Crew) => { c with sPend := pend } }
/-- The same before its core has picked a word. -/
def unplanned : State := { saddState [] with cores := (saddState []).cores.map fun k => { k with plan := none } }

theorem exists_plan {s : State} {core : Nat} (h : (match s.cores[core]? with
    | some d => (match d.plan with | some ks => !ks.isEmpty | none => false)
    | none => false) = true) : ∃ d ks, s.cores[core]? = some d ∧ d.plan = some ks ∧ ks ≠ [] := by
  split at h
  · next d e =>
    split at h
    · next ks f => exact ⟨d, ks, e, f, by simpa using h⟩
    · cases h
  · cases h

theorem witness_step :
    (acts (saddState []) (.sadd 2 4 (.reg 6)) false = true ∧ acts (saddState [(6, 1)]) (.sadd 2 4 (.reg 6)) true = true
      ∧ acts (State.reset.withFetchWord 96 0x002005060700000000000000) (.vadd wordA) false = true)
    ∧ (∃ d ks, (unplanned.planCore exec 0 false).cores[0]? = some d ∧ d.plan = some ks ∧ ks ≠ []) ∧ unplanned.cands 0 false ≠ []
    ∧ unplanned.runCrews 0 ≠ [] := by
  refine ⟨⟨?_, ?_, ?_⟩, exists_plan (by decide +kernel), ?_, ?_⟩ <;> decide +kernel

theorem witness_otherSteps : let e := { State.reset with inputs := [.event (.coreClock 0)] }
    let r := { State.reset with raised := [(0, [(launchCause 0 38 1, none)])] }
    let b := { State.reset with svc := { Service.reset with boot := 1 } }
    let m := { waitingState with inputs := [.event (.commutativeMerge 0 0)] }
    (e.nextPick = none ∧ e.toHalt = none ∧ encode (.coreClock 0) = none ∧ isNext (exec (.coreClock 0) State.reset) = true
      ∧ State.reset.homePlace (.coreClock 0) = 0)
    ∧ (m.nextPick = none ∧ m.toHalt = none ∧ encode (.commutativeMerge 0 0) = none ∧ 0 < waitingState.homePlace (.commutativeMerge 0 0)
      ∧ waitingState.homePlace (.commutativeMerge 0 0) < 2 ^ 20 + 1 ∧ m.homeLast ≤ waitingState.homePlace (.commutativeMerge 0 0)
      ∧ (match exec (.commutativeMerge 0 0) waitingState with | .next t => t.stands != waitingState.stands | _ => false) = true)
    ∧ (r.nextPick = none ∧ r.toHalt = some 0)
    ∧ (({ State.reset with inputs := [.core 0 true] } : State).nextPick = none ∧ ({ State.reset with inputs := [.host 0 [1]] } : State).nextPick = none)
    ∧ (b.nextPick = none ∧ b.toHalt = none ∧ b.inputs = [] ∧ b.svc.booting = true) := by
  and_intros <;> decide +kernel

theorem witness_clocks : let s := holding tPath
    (∃ k, s.cores[0]? = some k ∧ k.gated = false ∧ k.laneUsed ≤ 4 ∧ k.swap = false) ∧ s.recs = [] ∧ (crewOf tPath).issued = false
    ∧ ({ crewOf tPath with issued := true } : Crew).issued = true ∧ (s.coreCrews 0 ≠ []) ∧ (crewOf tPath ∈ s.coreCrews 0 ∧ s.crewOf 3 = some (crewOf tPath))
    ∧ State.reset.coreCrews 0 = [] ∧ (∃ k, { s with cores := [{ Core.reset with gated := true }] }.cores[0]? = some k ∧ k.gated = true) := by
  and_intros <;> first | exact ⟨_, rfl, by decide +kernel⟩ | decide +kernel

theorem witness_records : let q := { Part.reset 4 with ering := ⟨0x50001, 0, 0⟩ }
    let p := { Part.reset 4 with sper := 256, dbgCtl := 8 }
    let s := { State.reset with parts := [q] }
    let d := { holding tPath with parts := [p] }
    let a : Rec := ⟨0, 0, 16, 0, 0, zeros 48⟩
    let b : Rec := ⟨9, 0, 16, 0, 0, zeros 48⟩
    (a.ty ≠ 21 ∧ s.part? a.part = some q ∧ (record a.ty a.die q.seqE.toNat a.time a.body).length / 64 = 1
      ∧ (∃ a n, q.ering.slot 1 = some (a, n)) ∧ (Part.reset 4).ering.slot 1 = none)
    ∧ (({ s with recs := [b, a] } : State).recs = [b, a] ∧ a.key < b.key ∧ b.key / 128 ≤ 0)
    ∧ (s.sampleDue 0 = false ∧ ∃ k, s.cores[0]? = some k)
    ∧ ({ d with cores := modAt d.cores 0 fun k => { k with count := 256 } } : State).sampleDue 0 = true
    ∧ (∃ c, d.sampled? 0 15 = some c) ∧ State.reset.sampled? 0 15 = none := by
  and_intros <;> first | exact ⟨0, 1, by decide +kernel⟩ | exact ⟨_, rfl⟩ | exact exists_some (by decide +kernel) | decide +kernel

theorem witness_halts : let s := holding tPath
    let r := { s with raised := [(0, [(launchCause 0 38 1, none)])] }
    (s.live 0 = true ∧ 2 ≤ 4 ∧ r.live 0 = false ∧ s.part? 0 = some (Part.reset 4) ∧ SMap.get [] s.raised 0 = [] ∧ SMap.get [] r.raised 0 ≠ []
      ∧ (Part.reset 4).halted = false ∧ r.part? 0 = some (Part.reset 4)) ∧ r.crewOf 3 = some (crewOf tPath) ∧ r.partOf (crewOf tPath) = 0 := by
  and_intros <;> decide +kernel

/-- The debug agent stops at every word of the path's address. -/
def debugPart (mode : W64) : Part := { Part.reset 4 with dbgCtl := mode, bps := [0x100001, 0, 0, 0] }
def debugState (p : Path) : State := { holding p with parts := [debugPart 0x10001] }

/-- A path in the middle of a YJOB that has read its card. -/
def begunPath : Path := { tPath with want := some (.card []) }

theorem witness_breakpoints : let s := debugState tPath
    let q := { tPath with stepping := some true }
    (Named s here (crewOf tPath) tPath ∧ tPath.runs = true ∧ tPath.iss = none ∧ tPath.skip = none ∧ (∃ k, s.bpHit (crewOf tPath) tPath = some k))
    ∧ ((holding tPath).bpHit (crewOf tPath) tPath = none ∧ ({ tPath with st := .join }).runs = false)
    ∧ ((debugState q).at? here = some (crewOf q, q) ∧ (debugState q).crewOf 3 = some (crewOf q) ∧ (crewOf q).paths[0]? = some q
      ∧ (debugState q).part? ((debugState q).partOf (crewOf q)) = some (debugPart 0x10001) ∧ q.stepOver = true) ∧ tPath.stepOver = false
    ∧ tPath.begun = false ∧ begunPath.begun = true ∧ Named (debugState begunPath) here (crewOf begunPath) begunPath ∧ begunPath.runs = true
    ∧ begunPath.iss = none ∧ begunPath.skip = none ∧ (∃ k, (debugState begunPath).bpHit (crewOf begunPath) begunPath = some k)
    ∧ ((debugState tPath).part? ((debugState tPath).partOf (crewOf tPath)) = some (debugPart 0x10001))
    ∧ (∃ b, { debugPart 0x10001 with dbgBusy := some (3 : W64) }.dbgBusy = some b ∧ b.toNat % 16 = 3 ∧ cmdPath b = here)
    ∧ (debugPart 0x10001).dbgBusy = none := by
  and_intros <;> first | exact ⟨rfl, rfl, rfl⟩ | exact ⟨3, rfl, by decide, by decide⟩ | exact exists_some (by decide +kernel) | decide +kernel

/-- A held path. -/
def heldPath : Path := { tPath with st := .held, held := true }

theorem witness_commands : let s := debugState heldPath
    let cmd : W64 := 3
    (s.part? 0 = some (debugPart 0x10001) ∧ (debugPart 0x10001).dbgBusy = none ∧ (partCores s.svc.split 0).contains (cmdPath cmd).core = true
      ∧ s.at? (cmdPath cmd) = some (crewOf heldPath, heldPath) ∧ s.crewOf 3 = some (crewOf heldPath) ∧ s.partOf (crewOf heldPath) = 0
      ∧ (cmdPath cmd).path < (crewOf heldPath).paths.length ∧ heldPath.st ≠ .free ∧ (debugPart 0x10001).mode ≠ 0 ∧ (debugPart 0).mode = 0
      ∧ heldPath.held = true ∧ heldPath.st = .held)
    ∧ (State.reset.at? (cmdPath cmd) = none ∧ (debugState tPath).at? (cmdPath cmd) = some (crewOf tPath, tPath) ∧ tPath.held = false
      ∧ { debugPart 0x10001 with dbgBusy := some 3 }.dbgBusy = some 3)
    ∧ (heldPath.mask.getLsbD 0 = true ∧ heldPath.mask.getLsbD 32 = false ∧ (crewOf heldPath).present ((crewOf heldPath).physical 0) = true
      ∧ (crewOf heldPath).pending [9] = false ∧ { crewOf heldPath with sPend := [(9, 1)] }.pending [9] = true)
    ∧ ((crewOf heldPath).words.any (fun w => w.slot && w.dests.contains ((crewOf heldPath).physical 5)) = false
      ∧ { crewOf heldPath with words := [tWord] }.words.any (fun w => w.slot && w.dests.contains ((crewOf heldPath).physical 5)) = true
      ∧ (let d := (crewOf heldPath).poke ((crewOf heldPath).physical 0) 0 0
         d.held ≤ s.crewFree (crewOf heldPath) + (crewOf heldPath).held)
      ∧ (crewOf heldPath).first ≤ 0 / 32 ∧ 0 / 32 - (crewOf heldPath).first < (crewOf heldPath).groups ∧ (crewOf heldPath).groups ≤ 32)
    ∧ tPath.begun = false := by
  and_intros <;> decide +kernel

theorem witness_coresOutside : (partCores 1 0).contains 36 = false ∧ (cmdPath (36 * 2 ^ 12 : W64)).core = 36 := by
  and_intros <;> decide +kernel

theorem witness_starts : let s := { State.reset with svc := { Service.reset with boot := 5, fwAddr := 2 ^ 63 } }
    let at_ := fun (k : Nat) => { State.reset with svc := { Service.reset with boot := k } }
    (State.reset.part? 4 = none ∧ s.svc.boot = 5 ∧ s.svc.bootErr = 0 ∧ State.reset.svc.boot ≠ 5 ∧ s.verifyImage = none ∧ State.reset.parts ≠ [])
    ∧ ((at_ 1).svc.boot = 1 ∧ (at_ 3).svc.boot = 3 ∧ (at_ 4).svc.boot = 4 ∧ (at_ 6).svc.boot = 6 ∧ (at_ 6).svc.bootErr = 0)
    ∧ (1 : Nat) ≤ 2 ^ 51 := by
  and_intros <;> decide +kernel

theorem witness_service : let s := State.reset
    ((3 : W64).toNat % 4 = 3 ∧ (1 : W64).toNat % 4 ≠ s.svc.split ∧ (∀ l ∈ s.launches, l.retired = true) ∧ s.svc.boot = 7)
    ∧ (s.svc.uBusy = false ∧ { Service.reset with uBusy := true }.uBusy = true ∧ (1 : W64).getLsbD 0 = true ∧ (0 : W64).getLsbD 0 = false
      ∧ s.svc.nonce.length = 48 ∧ s.svc.measure.length = 48 ∧ s.verifyImage = none)
    ∧ (36 ≤ (36 : W64).toNat % 64 ∧ (35 : W64).toNat % 64 < 36 ∧ ∃ k, s.cores[35]? = some k) := by
  and_intros <;> first | exact exists_some (by decide +kernel) | decide +kernel

theorem witness_resetsAndKicks : let h := { Part.reset 4 with halted := true }
    let r := { Part.reset 4 with resetting := true }
    let k := { Part.reset 4 with kbase := 0x1000, klen := 0x1000 }
    let s := holding tPath
    (({ s with parts := [h] } : State).part? 0 = some h ∧ h.halted = true ∧ (1 : W64).getLsbD 0 = true ∧ (Part.reset 4).halted = false)
    ∧ (({ s with parts := [r] } : State).part? 0 = some r ∧ r.resetting = true ∧ (s.teams.map (·.id)).Nodup ∧ (Part.reset 4).resetting = false)
    ∧ (({ s with parts := [k] } : State).part? 0 = some k ∧ k.kbusy = false ∧ k.klen ≠ 0 ∧ s.Canonical
      ∧ (∀ k ∈ s.stands, k.cbuf = []) ∧ (Part.reset 4).klen = 0) := by
  and_intros <;> decide +kernel

theorem witness_hostAccess : let s := State.reset
    (s.svc.boot = 7 ∧ (∀ k ∈ s.stands, k.cbuf = []) ∧ 0 + [(1 : Byte)].length ≤ 4 * 0x3000000000)
    ∧ { Service.reset with boot := 5 }.boot ≠ 7 ∧ 4 * 0x3000000000 < 4 * 0x3000000000 + [(1 : Byte)].length := by
  and_intros <;> decide +kernel

theorem witness_markers : let m := { tPath with st := .marker }
    let p := { tPath with trap := some { tRec false with due := false, age := 4096 } }
    let q := { tPath with trap := some { tRec false with due := false, age := 4095 } }
    let w := { crewOf m with words := [tWord] }
    (Named (holding m) here (crewOf m) m ∧ m.st = .marker ∧ (crewOf m).outstanding 0 = false)
    ∧ (Named (with_ w) here w m ∧ w.outstanding 0 = true)
    ∧ Named (holding p) here (crewOf p) p ∧ Named (holding q) here (crewOf q) q ∧ Named (holding tPath) here (crewOf tPath) tPath
    ∧ tPath.trap = none := by
  and_intros <;> first | exact ⟨rfl, rfl, rfl⟩ | decide +kernel

theorem witness_canonical : State.reset.Canonical
    ∧ isNext (step State.reset) = true := by
  and_intros <;> decide +kernel

theorem witness_encoding : (Instr.sadd 1 2 (.reg 3)).wf = true ∧ encode (.sadd 1 2 (.reg 3)) = some (.scalar 0x40084180 none)
    ∧ decodeScalar 0x40084180 0 = .ok (.sadd 1 2 (.reg 3)) ∧ isOk (decodeLane 0x000000010010000005000000 0) = false := by
  and_intros <;> decide +kernel

theorem witness_frameStatements : let c := crewOf tPath
    let s := with_ c
    Issuing s c 0 tPath ∧ scalarDest (.sadd 1 2 (.reg 3)) = some 1 ∧ isNext (exec (.sadd 1 2 (.reg 3)) s) = true
    ∧ maskDest (.mand 1 2 3) = some 1 ∧ isNext (exec (.mand 1 2 3) s) = true
    ∧ isNext (exec (.scmp 2 1 4 (.reg 5)) s) = true
    ∧ isNext (exec (.vadd wordA) s) = true := by
  and_intros <;> first | exact ⟨rfl, rfl, rfl⟩ | decide +kernel

/-! ### Worked examples of the specification -/

/-- The worked encodings of R31, R91, R161, R278 and R381. -/
theorem test_worked_encodings :
    decodeScalar 0x40208280 0 = .ok (.sadd 4 4 (.reg 5)) ∧ decodeScalar 0x1BFFBFFC 0 = .ok (.loop 0x1FFB 0xFFC)
    ∧ decodeScalar 0x04003000 0 = .ok (.issue 3 0) ∧ decodeScalar 0x04003007 0 = .ok (.issue 3 7)
    ∧ decodeScalar 0x98000180 0 = .ok (.mand 0 0 3) ∧ decodeScalar 0xB8288000 0 = .ok (.yjob 5 4)
    ∧ decodeScalar 0x38000011 0 = .ok (.trap 17) ∧ decodeScalar 0xF67C0000 0 = .ok (.blaze 3 0x7C0 0)
    ∧ decodeScalar 0xF6000000 0 = .ok (.blazeTrap 3) := by
  and_intros <;> decide +kernel

/-- The worked additions of packed types that stand before R167. -/
theorem test_packed_add : let w := { wordA with ty := .i8x4 }
    valVadd w 0x7F800105 0x01FF7F04 0 = 0x7F807F09 ∧ valVadd { w with m := { w.m with alt := true } } 0x7F800105 0x01FF7F04 0 = 0x807F8009
    ∧ valVadd { w with ty := .n8x4 } 0x7F800105 0x01FF7F04 0 = 0x80FF8009 := by
  and_intros <;> decide +kernel

/-- The signs of zero of R174. -/
theorem test_signs_of_zero : let w := { wordA with ty := .f32 }
    valFmul w 0xC0400000 0 0 = 0x80000000 ∧ valFfma w 0xC0400000 0 0 = 0
    ∧ valFfma { w with m := { w.m with rnd := 3 } } 0xC0400000 0 0 = 0x80000000 := by
  and_intros <;> decide +kernel

/-- The conversions of R58. -/
theorem test_convert : let w := { wordA with ty := .i32, b := .reg 0, c := 1 }
    valFcvt w 0xFFFFFFFF 0 0 = 0x7FFFFFFF ∧ valFcvt { w with m := { w.m with alt := true } } 0xFFFFFFFF 0 0 = 0xFFFFFFFF := by
  and_intros <;> decide +kernel

/-- The elements of R308: 2^101 at anchor 0 is 32.0, and at the bottom of its window 2^-69. -/
theorem test_accumulator_values : FFmt.f32.rnd 0 false false (accValue (2 ^ 101) 0) = 0x42000000
    ∧ FFmt.f32.rnd 0 false false (accValue (2 ^ 127 - 1) (-100)) = 0x1D000000 ∧ revNat 3 1 = 4 ∧ revNat 3 6 = 3 := by
  and_intros <;> decide +kernel

/-- SADD wraps, and reads its sources before it writes (R150). -/
theorem test_sadd_wraps : let c := { crewOf tPath with s := [(4, 0xFFFFFFFFFFFFFFFF), (5, 2)] }
    (match exec (.sadd 4 4 (.reg 5)) (with_ c) with | .next t => t.crews.map (fun c => c.sget 4) | _ => []) = [1] := by decide +kernel

/-- A zero divisor takes DIVIDE_ZERO in place, and s[d] keeps its value (R151). -/
theorem test_sdiv_traps : let c := { crewOf tPath with s := [(4, 7)] }
    (match exec (.sdiv 4 4 (.reg 5)) (with_ c) with
      | .next t => t.crews.map (fun c => (c.sget 4, (c.path 0).st, (c.path 0).spc, (c.path 0).trap.map (·.code)))
      | _ => []) = [(7, .fault, 0x100000, some 9)] := by decide +kernel

/-- VADD writes the active lanes alone: v6 holds the lane number, v7 is 1000 (R110, R166). -/
theorem test_vadd_lanes : let c := { crewOf { tPath with m0 := 0xF } with v := [(192, .aff 0 1), (224, .uni 1000)] }
    (match exec (.vadd { wordA with m := { wordA.m with alt := true } }) (with_ c) with
      | .next t => t.crews.map (fun c => (c.readLane 5 0 0, c.readLane 5 0 3, c.readLane 5 0 4))
      | _ => []) = [(1000, 1003, 0)] := by decide +kernel

/-- TRAP records the word after it and its code (R381). -/
theorem test_trap_records : (match exec (.trap 17) (holding tPath) with
      | .next t => t.crews.map (fun c => (c.path 0).trap.map fun r => (r.code, r.detail, r.spc))
      | _ => []) = [some (14, 17, 0x100004)] := by decide +kernel

/-- R203: of bytes that one write has replaced, a load with `.inv` may see the new or the old; of others, only what they are. -/
theorem test_views_before_a_write : let s := (with_ (crewOf tPath)).wrBytes 0x30100 [1, 2]
    s.views (s.launchFor (crewOf tPath)) 0x30100 4 = [[1, 2, 0, 0], [0, 0, 0, 0]]
    ∧ s.views (s.launchFor (crewOf tPath)) 0x30104 4 = [[0, 0, 0, 0]] := by
  and_intros <;> decide +kernel

/-! ### Operands that meet the hypotheses of the value statements -/

theorem witness_integerValues : let ty := wordA.ty
    0 < ecount ty ∧ intLeast ty ≤ min (exactOf ty false false 1 0) (exactOf ty false false 2 0)
    ∧ min (exactOf ty false false 1 0) (exactOf ty false false 2 0) ≤ intGreatest ty
    ∧ max (exactOf ty false false 1 0) (exactOf ty false false 2 0) ≤ intGreatest ty ∧ (31 : Nat) < 32 ∧ (1 : Nat) < 2 ^ 32 := by
  and_intros <;> decide +kernel

/-- One as f32, its infinity, a NaN, −1, the zeros; and the words that convert from f32 and from i32. -/
theorem witness_floatValues : let w := { wordA with ty := .f32 }
    let f := FFmt.ofTy w.ty
    let v := { w with b := .reg 0 }
    (w.ty.isFloat = true ∧ f.finPat (f.given false false false 0x3F800000) = true ∧ f.finPat 0xBF800000 = true ∧ f.negOf 0xBF800000 = true
      ∧ f.magOf 0xBF800000 ≠ 0 ∧ f.finPat 0 = true ∧ f.magOf 0 = 0 ∧ f.negOf 0x80000000 = true)
    ∧ (f.infPattern (f.given false false false 0x7F800000) = true ∧ f.infPattern 0xFF800000 = true ∧ f.negOf 0xFF800000 = true
      ∧ f.nanPat (f.given false false false 0x7FC00000) = true ∧ f.nanPat 0x3F800000 = false ∧ f.nanPat 0x7F800000 = false ∧ f.nanPat 0 = false
      ∧ f.infPattern 0x3F800000 = false)
    ∧ (w.m.alt = false ∧ w.m.rnd ≠ 3 ∧ { v with ty := .f64, c := 4 }.srcTy = some .f32 ∧ { v with ty := .f64, c := 0 }.srcTy = some .i32
      ∧ { v with ty := .i32, c := 4 }.srcTy = some .f32 ∧ { v with ty := .i32, c := 1 }.srcTy ≠ none ∧ Ty.i32.isFloat = false) := by
  and_intros <;> decide +kernel

/-- One is a power of two and an integer, and is not zero. -/
theorem witness_realValues : let f := FFmt.f32
    f.real 0x3F800000 = 1 ∧ (0 : ℚ) < f.real 0x3F800000 ∧ f.real 0x3F800000 = (1 : ℤ) ∧ f.real 0x3F800000 = 2 ^ (0 : ℤ) := by
  have h : FFmt.f32.real 0x3F800000 = 1 := by
    have e : FFmt.f32.exOf 0x3F800000 = 127 := by decide +kernel
    have m : FFmt.f32.frOf 0x3F800000 = 0 := by decide +kernel
    have n : FFmt.f32.negOf 0x3F800000 = false := by decide +kernel
    have b : FFmt.f32.bias = 127 := by decide +kernel
    have k : FFmt.f32.mbits = 23 := by decide +kernel
    simp only [FFmt.real, e, m, n, b, k]
    norm_num
  simp [h]

end Sys2Proof.Tests
end

section
/-! SUPPORT. The registers of BAR0: where a host read or write of an offset goes, and the fields a register keeps. -/

namespace Sys2Proof.Machine

/-! ### Changing a partition -/

theorem part?_modPart_self {s : State} {part : Nat} {q : Part} (h : s.part? part = some q) (f : Part → Part) :
    (s.modPart part f).part? part = some (f q) := by
  have h' : s.parts[part]? = some q := h
  simp [State.part?, modAt_getElem?, h']

/-- Changing a partition changes that partition alone. -/
theorem onlyPart_modPart (s : State) (part : Nat) (f : Part → Part) : OnlyPart part s (s.modPart part f) := by
  refine ⟨rfl, by simp, fun k hk => ?_⟩
  simp [modAt_getElem?, hk.symm]

/-! ### The fields of a register -/

/-- The lowest bits of a value are the value under their mask. -/
theorem setWidth_extractLsb'_zero (v : W64) (n : Nat) :
    (v.extractLsb' 0 n).setWidth 64 = v &&& BitVec.ofNat 64 (2 ^ n - 1) := by
  apply BitVec.eq_of_getLsbD_eq
  intro i hi
  rw [BitVec.getLsbD_and, BitVec.getLsbD_ofNat, Nat.testBit_two_pow_sub_one]
  simp [hi, Bool.and_comm]

theorem bitAt_eq_mul (b : Bool) (i : Nat) : bitAt b i = 2 ^ i * b.toNat := by cases b <;> simp [bitAt]

/-- The three fields of MC_MIG_CTL (R215) are what the last write gave them. -/
theorem migrationControl_fields (v : W64) :
    w64 (bitAt (v.getLsbD 16) 16 + (v.extractLsb' 8 8).toNat * 2 ^ 8 + (v.extractLsb' 0 5).toNat) = v &&& 0x1FF1F := by
  -- The register as nested pairs of fields, a lower one below the power of two where the next begins; the mask likewise.
  have nest : bitAt (v.getLsbD 16) 16 + (v.extractLsb' 8 8).toNat * 2 ^ 8 + (v.extractLsb' 0 5).toNat
      = 2 ^ 8 * (2 ^ 8 * (v.getLsbD 16).toNat + (v.extractLsb' 8 8).toNat) + (v.extractLsb' 0 5).toNat := by
    rw [bitAt_eq_mul]; ring
  have mask : (0x1FF1F : W64) = BitVec.ofNat 64 (2 ^ 8 * (2 ^ 8 * 1 + (2 ^ 8 - 1)) + (2 ^ 5 - 1)) := by decide
  have low : (v.extractLsb' 0 5).toNat < 2 ^ 8 := lt_trans (v.extractLsb' 0 5).isLt (by decide)
  apply BitVec.eq_of_getLsbD_eq
  intro i hi
  rw [nest, mask, BitVec.getLsbD_and, BitVec.getLsbD_ofNat, BitVec.getLsbD_ofNat,
    Nat.testBit_two_pow_mul_add _ low, Nat.testBit_two_pow_mul_add _ (v.extractLsb' 8 8).isLt,
    Nat.testBit_two_pow_mul_add _ (by decide : 2 ^ 5 - 1 < 2 ^ 8), Nat.testBit_two_pow_mul_add _ (by decide : 2 ^ 8 - 1 < 2 ^ 8),
    Nat.testBit_two_pow_sub_one, Nat.testBit_two_pow_sub_one, BitVec.testBit_toNat, BitVec.testBit_toNat]
  rcases lt_or_ge i 8 with h8 | h8
  · simp [hi, h8, Bool.and_comm]
  rcases lt_or_ge i 16 with h16 | h16
  · have hm : i - 8 < 8 := by omega
    simp [hi, h8.not_gt, hm, Nat.add_sub_cancel' h8]
  obtain rfl | h17 := h16.eq_or_lt
  · cases v.getLsbD 16 <;> simp
  · obtain ⟨k, hk⟩ : ∃ k, i - 8 - 8 = k + 1 := ⟨i - 17, by omega⟩
    have hm : ¬ i - 8 < 8 := by omega
    cases v.getLsbD 16 <;> simp [h8.not_gt, hm, hk, Nat.testBit_succ]

theorem getD_setAt_self {α : Type} {xs : List α} {k : Nat} (h : k < xs.length) (v d : α) : (setAt xs k v).getD k d = v := by
  rw [List.getD_eq_getElem?_getD, setAt_getElem?, if_pos rfl, List.getElem?_eq_getElem h]
  rfl

/-! ### Where an offset of BAR0 goes (R411) -/

/-- A write to a window of a partition that exists, by its number. -/
def writeWindow (part window reg : Nat) (v : W64) (s : State) : Out :=
  match window with
  | 0 => writeControl part reg v s
  | 1 => writeMemory part reg v s
  | 2 => writeLanding part reg v s
  | 3 => writePower part reg v s
  | 4 => writeDebug part reg v s
  | _ => .next s

/-- A read of a window of a partition that exists, by its number. -/
def readWindow (s : State) (part window reg : Nat) (q : Part) : W64 × State :=
  match window with
  | 0 => (readControl s part reg q, s)
  | 1 => (readMemory reg q, s)
  | 2 => readLanding s part reg q
  | 3 => readPower s part reg q
  | 4 => (readDebug reg q, s)
  | _ => (0, s)

theorem exec_registerWrite (off : Nat) (v : W64) (s : State) : exec (.registerWrite off v) s = execRegisterWrite off v s := rfl

section Offsets
variable {part off : Nat}

theorem offset_partition (hoff : off < 0x1000000) : (part * 0x1000000 + off) / 0x1000000 = part := by omega
theorem offset_in_partition (hoff : off < 0x1000000) : (part * 0x1000000 + off) % 0x1000000 = off := by omega
theorem offset_register : (part * 0x1000000 + off) % 0x10000 = off % 0x10000 := by omega

theorem registerWrite_window {s : State} (hp : part < 4) (hoff : off < 0x1000000) (h : s.part? part ≠ none) (v : W64) :
    exec (.registerWrite (part * 0x1000000 + off) v) s = writeWindow part (off / 0x10000) (off % 0x10000) v s := by
  have present : ¬ (s.part? part).isNone = true := by simpa using h
  simp only [exec_registerWrite, execRegisterWrite, offset_partition hoff, offset_in_partition hoff, offset_register]
  rw [if_neg hp.ne, if_neg present]
  rfl

theorem registerWrite_absent {s : State} (hp : part < 4) (hoff : off < 0x1000000) (h : s.part? part = none) (v : W64) :
    Idle (.registerWrite (part * 0x1000000 + off) v) s := by
  have absent : (s.part? part).isNone = true := by simp [h]
  simp only [Idle, exec_registerWrite, execRegisterWrite, offset_partition hoff]
  rw [if_neg hp.ne, if_pos absent]

theorem readReg_window {s : State} {q : Part} (hp : part < 4) (hoff : off < 0x1000000) (h : s.part? part = some q) :
    s.readReg (part * 0x1000000 + off) = readWindow s part (off / 0x10000) (off % 0x10000) q := by
  simp only [State.readReg, offset_partition hoff, offset_in_partition hoff, offset_register]
  rw [if_neg hp.ne, h]
  rfl

theorem readReg_absent {s : State} (hp : part < 4) (hoff : off < 0x1000000) (h : s.part? part = none) :
    s.readReg (part * 0x1000000 + off) = (0, s) := by
  simp only [State.readReg, offset_partition hoff]
  rw [if_neg hp.ne, h]

theorem registerWrite_service (hoff : off < 0x10000) (v : W64) (s : State) :
    exec (.registerWrite (0x4000000 + off) v) s = writeService off v s := by
  have number : (0x4000000 + off) / 0x1000000 = 4 := by omega
  have inside : (0x4000000 + off) % 0x1000000 < 0x10000 := by omega
  have register : (0x4000000 + off) % 0x10000 = off := by omega
  simp only [exec_registerWrite, execRegisterWrite, number, inside, register, if_true]

theorem readReg_service (hoff : off < 0x10000) (s : State) : s.readReg (0x4000000 + off) = (readService s off, s) := by
  have number : (0x4000000 + off) / 0x1000000 = 4 := by omega
  have inside : (0x4000000 + off) % 0x1000000 < 0x10000 := by omega
  have register : (0x4000000 + off) % 0x10000 = off := by omega
  simp only [State.readReg, number, inside, register, if_true]

end Offsets

/-! ### Read-write registers (R3) -/

/-- A write of the register changes its partition alone, and the register then reads as the bits of the mask that were written. -/
def ReadWrite (part window reg : Nat) (mask : W64) : Prop :=
  ∀ (v : W64) (s : State) (q : Part), s.part? part = some q → q.bps.length = 4 →
    ∃ t, exec (.registerWrite (part * 0x1000000 + window * 0x10000 + reg) v) s = .next t ∧ OnlyPart part s t
      ∧ Reads t part window reg (v &&& mask)

/-- A register is read-write with these bits where its write puts them into the partition's fields and its read gives them back. -/
theorem readWrite_of {part window reg : Nat} {mask : W64} (put : W64 → Part → Part) (hp : part < 4)
    (read : ∀ v s q, q.bps.length = 4 → (readWindow s part window reg (put v q)).1 = v &&& mask)
    (write : ∀ v s, writeWindow part window reg v s = .next (s.modPart part (put v)) := by intros; rfl)
    (hw : window < 256 := by decide) (hr : reg < 0x10000 := by decide) :
    ReadWrite part window reg mask := by
  intro v s q h hb
  have hoff : window * 0x10000 + reg < 0x1000000 := by omega
  have number : (window * 0x10000 + reg) / 0x10000 = window := by omega
  have register : (window * 0x10000 + reg) % 0x10000 = reg := by omega
  refine ⟨s.modPart part (put v), ?_, onlyPart_modPart s part _, ?_⟩
  · rw [Nat.add_assoc, registerWrite_window hp hoff (by simp [h]), number, register, write]
  · rw [Reads, Nat.add_assoc, readReg_window hp hoff (part?_modPart_self h _), number, register, read v _ q hb]

section Registers
variable {part : Nat} (hp : part < 4)
include hp

/-- PC_STOPA (R412). -/
theorem readWrite_stopArea : ReadWrite part 0 0x010 0x000FFFFFFFFFFFFF :=
  readWrite_of (fun v q => { q with stopA := v &&& 0x000FFFFFFFFFFFFF }) hp fun _ _ _ _ => rfl

/-- PC_KBASE (R412). -/
theorem readWrite_kickBase : ReadWrite part 0 0x020 0xFFFFFFFFFFFFFFFF :=
  readWrite_of (fun v q => { q with kbase := v }) hp fun _ _ _ _ => BitVec.and_allOnes.symm

/-- PC_KLEN (R412). -/
theorem readWrite_kickLength : ReadWrite part 0 0x028 0xFFFFFFFFFFFFFFFF :=
  readWrite_of (fun v q => { q with klen := v }) hp fun _ _ _ _ => BitVec.and_allOnes.symm

/-- LN_BLOCK (R412). -/
theorem readWrite_launchBlock : ReadWrite part 0 0x040 0xFFFFFFFFFFFFFFFF :=
  readWrite_of (fun v q => { q with lnBlock := v }) hp fun _ _ _ _ => BitVec.and_allOnes.symm

/-- FB_GTAB (R412). -/
theorem readWrite_groupTable : ReadWrite part 0 0x080 0x000FFFFFFFFFFFFF :=
  readWrite_of (fun v q => { q with gtab := v &&& 0x000FFFFFFFFFFFFF }) hp fun _ _ _ _ => rfl

/-- MC_INV_BASE (R215). -/
theorem readWrite_invalidationBase : ReadWrite part 1 0x000 0xFFFFFFFFFFFFFFFF :=
  readWrite_of (fun v q => { q with invBase := v }) hp fun _ _ _ _ => BitVec.and_allOnes.symm

/-- MC_INV_LEN (R215). -/
theorem readWrite_invalidationLength : ReadWrite part 1 0x008 0xFFFFFFFFFFFFFFFF :=
  readWrite_of (fun v q => { q with invLen := v }) hp fun _ _ _ _ => BitVec.and_allOnes.symm

/-- MC_MIG_CTL (R215). -/
theorem readWrite_migrationControl : ReadWrite part 1 0x040 0x1FF1F :=
  readWrite_of (fun v q => { q with migMode := v.getLsbD 16, thresh := v.extractLsb' 8 8, mblock := v.extractLsb' 0 5 }) hp
    fun v _ _ _ => migrationControl_fields v

/-- MC_MIG_COST (R215). -/
theorem readWrite_migrationCost : ReadWrite part 1 0x048 0xFFFFFFFF :=
  readWrite_of (fun v q => { q with migCost := v.extractLsb' 0 32 }) hp fun v _ _ _ => setWidth_extractLsb'_zero v 32

/-- LD_RSEL (R356). -/
theorem readWrite_estimatorSelect : ReadWrite part 2 0x040 0xFFFF :=
  readWrite_of (fun v q => { q with rsel := v.extractLsb' 0 16 }) hp fun v _ _ _ => setWidth_extractLsb'_zero v 16

/-- PW_TSEL (R371). -/
theorem readWrite_sensorSelect : ReadWrite part 3 0x028 0x1FFF :=
  readWrite_of (fun v q => { q with tsel := v.extractLsb' 0 13 }) hp fun v _ _ _ => setWidth_extractLsb'_zero v 13

/-- DBG_CTL (R408). -/
theorem readWrite_debugControl : ReadWrite part 4 0x000 0xFFFFFFFF0000000F :=
  readWrite_of (fun v q => { q with dbgCtl := v &&& 0xFFFFFFFF0000000F }) hp fun _ _ _ _ => rfl

/-- DBG_SPER (R408). -/
theorem readWrite_samplePeriod : ReadWrite part 4 0x028 0xFFFFFF :=
  readWrite_of (fun v q => { q with sper := v.extractLsb' 0 24 }) hp fun v _ _ _ => setWidth_extractLsb'_zero v 24

/-- DBG_BP0 to DBG_BP3 (R408). -/
theorem readWrite_breakpoint {k : Nat} (hk : k < 4) : ReadWrite part 4 (0x040 + 8 * k) 0x000FFFFFFFFFFFFD := by
  have get : ∀ (v : W64) (q : Part), q.bps.length = 4 → (setAt q.bps k v).getD k 0 = v :=
    fun v q hb => getD_setAt_self (by omega) v 0
  refine readWrite_of (fun v q => { q with bps := setAt q.bps k (v &&& 0x000FFFFFFFFFFFFD) }) hp ?_ ?_ (by decide) (by omega)
  · intro v s q hb
    refine Eq.trans ?_ (get (v &&& 0x000FFFFFFFFFFFFD) q hb)
    interval_cases k <;> rfl
  · intro v s
    interval_cases k <;> rfl

/-- DBG_ARG (R408). -/
theorem readWrite_debugArgument : ReadWrite part 4 0x068 0x3FFFF :=
  readWrite_of (fun v q => { q with dbgArg := v &&& 0x3FFFF }) hp fun _ _ _ _ => rfl

/-- DBG_DATA (R408). -/
theorem readWrite_debugData : ReadWrite part 4 0x070 0xFFFFFFFFFFFFFFFF :=
  readWrite_of (fun v q => { q with dbgData := v }) hp fun _ _ _ _ => BitVec.and_allOnes.symm

end Registers

/-! ### The host's registers -/

/-- The registers of a partition in the order of the claim's table, and then SV_FWADDR and SV_FWLEN (R422). -/
theorem registerWrites_readBack : Claims.RegisterWritesReadBack := by
  constructor
  · intro part v s q hp h hb e he
    have field : ReadWrite part e.1 e.2.1 e.2.2 := by
      revert e
      simp only [List.forall_mem_cons, List.not_mem_nil, false_imp_iff, implies_true, and_true]
      exact ⟨readWrite_stopArea hp, readWrite_kickBase hp, readWrite_kickLength hp, readWrite_launchBlock hp,
        readWrite_groupTable hp, readWrite_invalidationBase hp, readWrite_invalidationLength hp, readWrite_migrationControl hp,
        readWrite_migrationCost hp, readWrite_estimatorSelect hp, readWrite_sensorSelect hp, readWrite_debugControl hp,
        readWrite_samplePeriod hp, readWrite_breakpoint hp (k := 0) (by decide), readWrite_breakpoint hp (k := 1) (by decide),
        readWrite_breakpoint hp (k := 2) (by decide), readWrite_breakpoint hp (k := 3) (by decide), readWrite_debugArgument hp,
        readWrite_debugData hp⟩
    exact field v s q h hb
  · rintro off v s (rfl | rfl)
    · exact ⟨_, registerWrite_service (off := 0x010) (by decide) v s, rfl,
        congrArg Prod.fst (readReg_service (off := 0x010) (by decide) _)⟩
    · exact ⟨_, registerWrite_service (off := 0x018) (by decide) v s, rfl,
        congrArg Prod.fst (readReg_service (off := 0x018) (by decide) _)⟩

theorem registerWrites_areSteps : Claims.RegisterWritesAreSteps := by
  intro part v s hp
  refine ⟨fun h off hoff => ⟨registerWrite_absent hp hoff h v, readReg_absent hp hoff h⟩, fun h => ?_, ?_, ?_, ?_⟩
  · simp only [List.forall_mem_cons, List.not_mem_nil, false_imp_iff, implies_true, and_true]
    and_intros <;> exact registerWrite_window hp (by decide) h v
  · simp only [List.forall_mem_cons, List.not_mem_nil, false_imp_iff, implies_true, and_true]
    and_intros <;> exact registerWrite_service (by decide) v s
  · exact registerWrite_service (off := 0x008) (by decide) 1 s
  · exact registerWrite_service (off := 0x008) (by decide) 2 s

/-- Settles O45: an offset of BAR0 names a window and a register of it; a read-write register keeps the bits of its mask, and a
write that is a step of its own is what its window runs. -/
theorem hostRegistersReadAndAct : Obligations.HostRegistersReadAndAct :=
  ⟨registerWrites_readBack, registerWrites_areSteps⟩

end Sys2Proof.Machine
end

section
/-! SUPPORT. Encoding and decoding of instruction words (R25 to R43, R52): the fields of each format, parsing what the encoder makes,
and the literal that a parsed word is encoded with. -/

namespace Sys2Proof

/-! ### Fields of scalar words (R30) -/

section ScalarFields
variable (op : BitVec 7) (d a b : BitVec 6) (fn : BitVec 7) (k : BitVec 13) (m : BitVec 19) (so : BitVec 13) (lo : BitVec 12)
variable {s n i : Nat}

theorem wSA_opcode : (wSA op d a b fn).extractLsb' 25 7 = op := by
  simp (disch := decide) only [wSA, BitVec.extractLsb'_append_eq_of_le, Nat.reduceSub, BitVec.extractLsb'_eq_self]
theorem wSA_d (h : n ≤ 6) : (wSA op d a b fn).extractLsb' 19 n = d.extractLsb' 0 n := by
  simp (disch := omega) only [wSA, BitVec.extractLsb'_append_eq_of_le, BitVec.extractLsb'_append_eq_of_add_le, Nat.reduceSub]
theorem wSA_a (h : n ≤ 6) : (wSA op d a b fn).extractLsb' 13 n = a.extractLsb' 0 n := by
  simp (disch := omega) only [wSA, BitVec.extractLsb'_append_eq_of_le, BitVec.extractLsb'_append_eq_of_add_le, Nat.reduceSub]
theorem wSA_b (h : n ≤ 6) : (wSA op d a b fn).extractLsb' 7 n = b.extractLsb' 0 n := by
  simp (disch := omega) only [wSA, BitVec.extractLsb'_append_eq_of_le, BitVec.extractLsb'_append_eq_of_add_le, Nat.reduceSub]
theorem wSA_fn (h : s + n ≤ 7) : (wSA op d a b fn).extractLsb' s n = fn.extractLsb' s n := by
  simp (disch := omega) only [wSA, BitVec.extractLsb'_append_eq_of_add_le]
theorem wSA_bit (h : i < 7) : (wSA op d a b fn).getLsbD i = fn.getLsbD i := by rw [wSA, BitVec.getLsbD_append, if_pos h]

theorem wSI_opcode : (wSI op d a k).extractLsb' 25 7 = op := by
  simp (disch := decide) only [wSI, BitVec.extractLsb'_append_eq_of_le, Nat.reduceSub, BitVec.extractLsb'_eq_self]
theorem wSI_d : (wSI op d a k).extractLsb' 19 6 = d := by
  simp (disch := decide) only [wSI, BitVec.extractLsb'_append_eq_of_le, BitVec.extractLsb'_append_eq_of_add_le, Nat.reduceSub,
    BitVec.extractLsb'_eq_self]
theorem wSI_a : (wSI op d a k).extractLsb' 13 6 = a := by
  simp (disch := decide) only [wSI, BitVec.extractLsb'_append_eq_of_le, BitVec.extractLsb'_append_eq_of_add_le, Nat.reduceSub,
    BitVec.extractLsb'_eq_self]
theorem wSI_imm (h : s + n ≤ 13) : (wSI op d a k).extractLsb' s n = k.extractLsb' s n := by
  simp (disch := omega) only [wSI, BitVec.extractLsb'_append_eq_of_add_le]
theorem wSI_bit (h : i < 13) : (wSI op d a k).getLsbD i = k.getLsbD i := by rw [wSI, BitVec.getLsbD_append, if_pos h]

theorem wSL_opcode : (wSL op d m).extractLsb' 25 7 = op := by
  simp (disch := decide) only [wSL, BitVec.extractLsb'_append_eq_of_le, Nat.reduceSub, BitVec.extractLsb'_eq_self]
theorem wSL_d : (wSL op d m).extractLsb' 19 6 = d := by
  simp (disch := decide) only [wSL, BitVec.extractLsb'_append_eq_of_le, BitVec.extractLsb'_append_eq_of_add_le, Nat.reduceSub,
    BitVec.extractLsb'_eq_self]
theorem wSL_imm (h : s + n ≤ 19) : (wSL op d m).extractLsb' s n = m.extractLsb' s n := by
  simp (disch := omega) only [wSL, BitVec.extractLsb'_append_eq_of_add_le]

theorem wSB_opcode : (wSB op so lo).extractLsb' 25 7 = op := by
  simp (disch := decide) only [wSB, BitVec.extractLsb'_append_eq_of_le, Nat.reduceSub, BitVec.extractLsb'_eq_self]
/-- The number that the low bits of an opcode give (R53, R94). -/
theorem wSB_opcode_low (n : BitVec 4) (c : BitVec 3) : (wSB (n ++ c) so lo).extractLsb' 25 3 = c := by
  simp (disch := decide) only [wSB, BitVec.extractLsb'_append_eq_of_le, BitVec.extractLsb'_append_eq_of_add_le, Nat.reduceSub,
    BitVec.extractLsb'_eq_self]
theorem wSB_so : (wSB op so lo).extractLsb' 12 13 = so := by
  simp (disch := decide) only [wSB, BitVec.extractLsb'_append_eq_of_le, BitVec.extractLsb'_append_eq_of_add_le, Nat.reduceSub,
    BitVec.extractLsb'_eq_self]
theorem wSB_lo : (wSB op so lo).extractLsb' 0 12 = lo := by
  simp (disch := decide) only [wSB, BitVec.extractLsb'_append_eq_of_add_le, BitVec.extractLsb'_eq_self]

/-- The payload of a word with an offset is not zero (R53). -/
theorem wSB_payload_ne_zero (h : so ≠ 0 ∨ lo ≠ 0) : (wSB op so lo).extractLsb' 0 25 ≠ 0 := by
  intro hz
  have hs := congrArg (BitVec.extractLsb' 12 13) hz
  have hl := congrArg (BitVec.extractLsb' 0 12) hz
  rw [BitVec.extractLsb'_extractLsb'_of_le (by decide)] at hs hl
  exact h.elim (· ((wSB_so op so lo).symm.trans hs)) (· ((wSB_lo op so lo).symm.trans hl))

end ScalarFields

theorem pad4_low (r : BitVec 4) : (pad4 r).extractLsb' 0 4 = r := by
  simp (disch := decide) only [pad4, BitVec.extractLsb'_append_eq_of_add_le, BitVec.extractLsb'_eq_self]
theorem pad3_low (r : BitVec 3) : (pad3 r).extractLsb' 0 3 = r := by
  simp (disch := decide) only [pad3, BitVec.extractLsb'_append_eq_of_add_le, BitVec.extractLsb'_eq_self]

theorem zero_getLsbD {n i : Nat} : (0 : BitVec n).getLsbD i = false := BitVec.getLsbD_zero
theorem one_getLsbD {n : Nat} (h : 0 < n) : (1 : BitVec n).getLsbD 0 = true := by simp [h]
theorem bit1_getLsbD (b : Bool) : (bit1 b).getLsbD 0 = b := by cases b <;> rfl

theorem bitVec3_cases : ∀ c : BitVec 3, c = 0 ∨ c = 1 ∨ c = 2 ∨ c = 3 ∨ c = 4 ∨ c = 5 ∨ c = 6 ∨ c = 7 := by decide

theorem append_bit1_getLsbD {n : Nat} (x : BitVec n) (b : Bool) : (x ++ bit1 b).getLsbD 0 = b := by
  rw [BitVec.getLsbD_append, if_pos Nat.zero_lt_one, bit1_getLsbD]

theorem source_fn_bit (b : SSrc) (fn : BitVec 6) : (b.bit ++ fn).getLsbD 0 = fn.getLsbD 0 := by
  rw [BitVec.getLsbD_append, if_pos (by decide)]

/-- Source b of its own fields (R32). -/
theorem source_of_fields (b : SSrc) (fn : BitVec 6) :
    (if (b.bit ++ fn).getLsbD 6 = true then SSrc.lit (b.word.getD 0) else .reg b.field) = b := by
  rw [BitVec.getLsbD_append, if_neg (Nat.lt_irrefl 6)]
  cases b <;> simp [SSrc.bit, SSrc.field, SSrc.word]

/-! ### Parsing a scalar word -/

/-- The words are scalar words, and parsed to this instruction. -/
def ParsesTo (i : Instr) : Code → Prop
  | .scalar w l => parseScalar w (l.getD 0) = some i
  | .lane .. => False

/-- What the encoder makes of a scalar instruction is parsed to it again. The instructions are taken by the format of their words: those
of fixed words, SA words with a source b, SA words, SI words, SL words, SB words, and SA words with a literal. -/
theorem parsesTo_of_encodeScalar {i : Instr} {c : Code} (hi : i.wf = true) (h : encodeScalar i = some c) : ParsesTo i c := by
  cases i with
  | nop | ret | exit | tret | tretSkip | yield | abandon | deckFence =>
    obtain rfl := Option.some.inj h
    rfl
  | sadd | ssub | smul | smulh | smulhn | sdiv | sdivn | srem | sand | sor | sxor | sshl | sshr | ssar | smin | smax | sminn | smaxn
  | scmp | ssel | sbfe =>
    obtain rfl := Option.some.inj h
    rw [cSrc, ParsesTo, parseScalar, wSA_opcode]
    conv_lhs => whnf
    simp (disch := decide) only [wSA_d, wSA_a, wSA_b, wSA_fn, wSA_bit, source_of_fields, source_fn_bit, pad3_low,
      BitVec.extractLsb'_append_eq_of_add_le, BitVec.extractLsb'_eq_self, append_bit1_getLsbD]
  | splitReg | join | bar | arrive | bwait | rolesigPost | rolesigTake | haltd | spopc | sclz | time | timeCyc | mand | mor | mxor | mnot
  | mpop | mexec | handoverIn | handoverOut | wait | fence | cwait | yjob | deckQuery | obres | gang | launch | cidx | cidxRank =>
    obtain rfl := Option.some.inj h
    rw [cSA, ParsesTo, parseScalar, wSA_opcode]
    conv_lhs => whnf
    simp (disch := decide) only [wSA_d, wSA_a, wSA_b, wSA_fn, wSA_bit, pad4_low, BitVec.extractLsb'_append_eq_of_le,
      BitVec.extractLsb'_append_eq_of_add_le, Nat.reduceSub, BitVec.extractLsb'_eq_self, BitVec.getLsbD_append, Nat.reduceLT, ↓reduceIte,
      bit1_getLsbD, zero_getLsbD, one_getLsbD, Bool.false_eq_true]
  | trap | saddi | sandi | sori | sxori | sshli | sshri | tagof | reggrow | regshrink | rotset | propose | pstat | sld | sst | sldk | bankset
  | ystat | obrel | accz | acczFree | estrd | estrdCpl | estwait | eststat | eststatReset =>
    obtain rfl := Option.some.inj h
    rw [cSI, ParsesTo, parseScalar, wSI_opcode]
    conv_lhs => whnf
    simp (disch := decide) only [wSI_d, wSI_a, wSI_imm, wSI_bit, BitVec.extractLsb'_append_eq_of_le,
      BitVec.extractLsb'_append_eq_of_add_le, Nat.reduceSub, BitVec.extractLsb'_eq_self, BitVec.getLsbD_append, Nat.reduceLT, ↓reduceIte,
      bit1_getLsbD, zero_getLsbD, one_getLsbD, Bool.false_eq_true]
  | sli | srd | swr =>
    obtain rfl := Option.some.inj h
    rw [cSL, ParsesTo, parseScalar, wSL_opcode]
    conv_lhs => whnf
    simp (disch := decide) only [wSL_d, wSL_imm, BitVec.extractLsb'_append_eq_of_add_le, BitVec.extractLsb'_eq_self]
  | issue | issueReg =>
    obtain rfl := Option.some.inj h
    rw [cSL, ParsesTo, parseScalar, wSL_opcode]
    conv_lhs => whnf
    simp (disch := decide) only [wSL_d, wSL_imm, BitVec.extractLsb'_append_eq_of_le, BitVec.extractLsb'_append_eq_of_add_le, Nat.reduceSub,
      BitVec.extractLsb'_eq_self]
    simp_all [Instr.wf]
  | lpc | br | call | loop =>
    obtain rfl := Option.some.inj h
    rw [cSB, ParsesTo, parseScalar, wSB_opcode]
    conv_lhs => whnf
    simp only [wSB_so, wSB_lo]
  | brc c so lo =>
    obtain rfl := Option.some.inj h
    rw [cSB, ParsesTo, parseScalar, wSB_opcode, wSB_opcode_low, wSB_so, wSB_lo]
    rcases bitVec3_cases c with rfl | rfl | rfl | rfl | rfl | rfl | rfl | rfl <;> rfl
  | blaze c so lo =>
    obtain rfl := Option.some.inj h
    have payload : (wSB ((0xF : BitVec 4) ++ c) so lo).extractLsb' 0 25 ≠ 0 := wSB_payload_ne_zero _ _ _ (by simpa [Instr.wf] using hi)
    rw [cSB, ParsesTo, parseScalar, wSB_opcode, wSB_opcode_low, wSB_so, wSB_lo]
    simp only [if_neg payload]
    rcases bitVec3_cases c with rfl | rfl | rfl | rfl | rfl | rfl | rfl | rfl <;> rfl
  | blazeTrap c =>
    obtain rfl := Option.some.inj h
    rcases bitVec3_cases c with rfl | rfl | rfl | rfl | rfl | rfl | rfl | rfl <;> rfl
  | split | brLong | callLong | brm =>
    obtain rfl := Option.some.inj h
    rw [cLong, ParsesTo, parseScalar, wSA_opcode]
    conv_lhs => whnf
    simp (disch := decide) only [Option.getD_some, wSA_a, wSA_fn, wSA_bit, pad4_low, BitVec.extractLsb'_append_eq_of_le,
      BitVec.extractLsb'_append_eq_of_add_le, Nat.reduceSub, BitVec.extractLsb'_eq_self, BitVec.getLsbD_append, Nat.reduceLT, ↓reduceIte,
      one_getLsbD]
  | slit | slitHi =>
    obtain rfl := Option.some.inj h
    rw [ParsesTo, parseScalar, wSA_opcode]
    conv_lhs => whnf
    simp (disch := decide) only [Option.getD_some, wSA_d, wSA_a, wSA_bit, BitVec.extractLsb'_eq_self]
    rfl
  | _ => exact absurd h nofun

/-! ### The literal of a parsed scalar word -/

/-- The literal word that a scalar instruction is encoded with (R32). -/
def scalarLiteral (i : Instr) : Option W32 :=
  match encodeScalar i with
  | some (.scalar _ l) => l
  | _ => none

theorem halves_append (lit : W32) : lit.extractLsb' 16 16 ++ lit.extractLsb' 0 16 = lit :=
  (BitVec.extractLsb'_append_extractLsb'_eq_extractLsb' rfl).trans BitVec.extractLsb'_eq_self

/-- A parsed instruction has the word after it as its literal, or none. -/
theorem scalarLiteral_of_parse {w lit : W32} {i : Instr} (h : parseScalar w lit = some i) :
    scalarLiteral i = none ∨ scalarLiteral i = some lit := by
  unfold parseScalar at h
  dsimp only at h
  split at h
  all_goals cases h
  any_goals exact .inl rfl
  -- Two instructions of one opcode, and a source b that is a register or the literal.
  any_goals split
  any_goals exact .inl rfl
  any_goals exact .inr rfl
  -- The offsets of a branch are the halves of the literal.
  all_goals exact .inr (congrArg some (halves_append lit))

/-! ### Lane words -/

theorem Ty.ofCode_code (t : Ty) : Ty.ofCode t.code = some t := by cases t <;> rfl

@[simp] theorem bit1_getElem (b : Bool) : (bit1 b)[0] = b := by cases b <;> rfl

theorem hdr_fields (h : Hdr) (f : LaneFields) (hs : f.sw = bit1 h.sw) (hm : f.mask = h.mask) : f.hdr = h := by
  rw [LaneFields.hdr, hs, hm, bit1_getLsbD]

theorem ofWord_word (f : LaneFields) : LaneFields.ofWord f.word = f := by
  obtain ⟨sw, lf, op, ty, d, a, b, c, mask, mods, imm⟩ := f
  simp (disch := decide) only [LaneFields.ofWord, LaneFields.word, BitVec.extractLsb'_append_eq_of_le,
    BitVec.extractLsb'_append_eq_of_add_le, Nat.reduceSub, BitVec.extractLsb'_eq_self]

/-- A type that the test accepts is parsed. -/
theorem typed_of {f : LaneFields} {ty : Ty} (h : f.ty = ty.code) {ok : Ty → Bool} (hok : ok ty = true) (k : Ty → Except Reject Instr) :
    f.typed ok k = k ty := by
  rw [LaneFields.typed, h, Ty.ofCode_code]
  exact if_pos hok

/-- The modifier field of a layout A word with its sb and ib bits (R40). -/
def modsField (m : Mods) (sb ib : BitVec 1) : BitVec 12 :=
  m.rnd ++ bit1 m.alt ++ bit1 m.na ++ bit1 m.aa ++ bit1 m.nb ++ bit1 m.ab ++ bit1 m.nc ++ bit1 m.ac ++ sb ++ bit1 m.ftz ++ ib

/-- A layout A word parsed from fields with these modifiers. -/
theorem toA_eq (f : LaneFields) (ty : Ty) (lit : Slot) (m : Mods) (sb ib : BitVec 1) (h : f.mods = modsField m sb ib) :
    f.toA ty lit = {
      h := f.hdr, ty := ty, d := f.d, a := f.a, c := f.c, m := m
      b := if f.lf.getLsbD 0 then .lit (lit.extractLsb' 0 32) (lit.extractLsb' 32 32) (lit.extractLsb' 64 32)
        else if sb.getLsbD 0 then .sreg (f.b.extractLsb' 0 6) else if ib.getLsbD 0 then .imm f.imm else .reg f.b
      x := if !f.lf.getLsbD 0 && !sb.getLsbD 0 && ib.getLsbD 0 then 0 else f.imm } := by
  simp (disch := decide) only [LaneFields.toA, h, modsField, BitVec.getLsbD_append, Nat.reduceLT, Nat.reduceSub, ↓reduceIte,
    bit1_getLsbD, BitVec.extractLsb'_append_eq_of_le, BitVec.extractLsb'_eq_self]

theorem toA_fields {o : OpA} {w : LaneA} (op : BitVec 10) (h : o.srcOk w = true) :
    (w.fields op).toA w.ty (w.literal.getD 0) = w := by
  obtain ⟨⟨sw, mask⟩, ty, d, a, b, c, m, x⟩ := w
  cases b with
  | reg r =>
    rw [toA_eq _ _ _ m 0 0 rfl]
    simp [LaneA.fields, LaneFields.hdr]
  | sreg r =>
    rw [toA_eq _ _ _ m 1 0 rfl]
    simp only [LaneA.fields, LaneFields.hdr, bit1_getLsbD]
    simp (disch := decide) only [BitVec.extractLsb'_append_eq_of_add_le, BitVec.extractLsb'_eq_self]
    simp
  | imm k =>
    rw [toA_eq _ _ _ m 0 1 rfl]
    have hx : x = 0 := by simp_all [OpA.srcOk]
    simp [LaneA.fields, LaneFields.hdr, hx]
  | lit l0 l1 l2 =>
    rw [toA_eq _ _ _ m 0 0 rfl]
    simp only [LaneA.fields, LaneA.literal, LaneFields.hdr, bit1_getLsbD, Option.getD_some]
    simp (disch := decide) only [BitVec.extractLsb'_append_eq_of_add_le, BitVec.extractLsb'_append_eq_of_le, Nat.reduceSub,
      BitVec.extractLsb'_eq_self]
    simp

theorem parseA_fields {o : OpA} {w : LaneA} (op : BitVec 10) (h : o.ok w = true) (mk : LaneA → Instr) :
    (w.fields op).parseA (w.literal.getD 0) o mk = .ok (mk w) := by
  simp only [OpA.ok, OpA.typeOk, OpA.bodyOk, Bool.and_eq_true] at h
  obtain ⟨⟨htype, hsrc⟩, ⟨⟨⟨-, hb⟩, -⟩, -⟩, -⟩ := h
  rw [LaneFields.parseA, typed_of rfl htype]
  dsimp only
  rw [toA_fields op hb, if_pos hsrc]

theorem base_fields (b : Base) (f : LaneFields) (hb : f.b = b.field) (hm : f.mods.getLsbD 2 = b.bit.getLsbD 0) : f.base = b := by
  rw [LaneFields.base, hb, hm]
  cases b with
  | sreg r =>
    simp (disch := decide) only [Base.field, BitVec.extractLsb'_append_eq_of_add_le, BitVec.extractLsb'_eq_self]
    simp [Base.bit]
  | vreg r => simp [Base.field, Base.bit]

theorem toM_fields (w : LaneM) (op : BitVec 10) : (w.fields op).toM w.ty = w := by
  obtain ⟨⟨sw, mask⟩, ty, d, a, base, c, scope, order, inv, nt, x, y, mem, off⟩ := w
  have hb := base_fields base (LaneM.fields ⟨⟨sw, mask⟩, ty, d, a, base, c, scope, order, inv, nt, x, y, mem, off⟩ op) rfl
    (by simp only [LaneM.fields, BitVec.getLsbD_append, Nat.reduceLT, Nat.reduceSub, ↓reduceIte])
  rw [LaneFields.toM, hb]
  simp (disch := decide) only [LaneM.fields, LaneFields.hdr, bit1_getLsbD, BitVec.getLsbD_append, Nat.reduceLT, Nat.reduceSub, ↓reduceIte,
    BitVec.extractLsb'_append_eq_of_add_le, BitVec.extractLsb'_append_eq_of_le, BitVec.extractLsb'_eq_self]

theorem toAt_fields (w : LaneAt) (op : BitVec 10) : (w.fields op).toAt w.ty = w := by
  obtain ⟨⟨sw, mask⟩, ty, d, a, base, c, scope, order, x, y, k, off⟩ := w
  have hb := base_fields base (LaneAt.fields ⟨⟨sw, mask⟩, ty, d, a, base, c, scope, order, x, y, k, off⟩ op) rfl
    (by simp only [LaneAt.fields, BitVec.getLsbD_append, Nat.reduceLT, Nat.reduceSub, ↓reduceIte])
  rw [LaneFields.toAt, hb]
  simp (disch := decide) only [LaneAt.fields, LaneFields.hdr, bit1_getLsbD, Nat.reduceSub,
    BitVec.extractLsb'_append_eq_of_add_le, BitVec.extractLsb'_append_eq_of_le, BitVec.extractLsb'_eq_self]

theorem parseM_fields {o : OpM} {w : LaneM} (op : BitVec 10) (h : o.ok w = true) (mk : LaneM → Instr) :
    (w.fields op).parseM o mk = .ok (mk w) := by
  simp only [OpM.ok, Bool.and_eq_true] at h
  rw [LaneFields.parseM, typed_of rfl h.1, toM_fields]

/-- A type that an op of an atomic takes is one that its opcode takes (R254). -/
theorem atAnyType_of {ret : Bool} {op : BitVec 4} {t : Ty} (hop : atOpOk ret op = true) (h : atTypeOk op t = true) :
    atAnyType t = true := by
  revert ret op
  cases t <;> decide

theorem parseAt_fields {ret : Bool} {w : LaneAt} (op : BitVec 10) (ht : atTypeOk w.op w.ty = true) (h : atBodyOk ret w = true)
    (mk : LaneAt → Instr) : (w.fields op).parseAt ret mk = .ok (mk w) := by
  simp only [atBodyOk, Bool.and_eq_true, and_assoc] at h
  obtain ⟨hok, -⟩ := h
  have hop : (w.fields op).imm.extractLsb' 28 4 = w.op := by
    simp (disch := decide) only [LaneAt.fields, BitVec.extractLsb'_append_eq_of_le, Nat.reduceSub, BitVec.extractLsb'_eq_self]
  have htype : (atAnyType w.ty && (!atOpOk ret w.op || atTypeOk w.op w.ty)) = true := by
    simp [atAnyType_of hok ht, ht]
  rw [LaneFields.parseAt, hop, typed_of rfl htype, toAt_fields]


theorem accxFields_mode {f : LaneFields} {mode : BitVec 3} {tile : BitVec 2} (h : f.mods = (0 : BitVec 7) ++ mode ++ tile) :
    f.mods.extractLsb' 2 3 = mode := by
  simp (disch := decide) only [h, BitVec.extractLsb'_append_eq_of_add_le, BitVec.extractLsb'_append_eq_of_le, Nat.reduceSub,
    BitVec.extractLsb'_eq_self]

theorem accxFields_tile {f : LaneFields} {mode : BitVec 3} {tile : BitVec 2} (h : f.mods = (0 : BitVec 7) ++ mode ++ tile) :
    f.mods.extractLsb' 0 2 = tile := by
  simp (disch := decide) only [h, BitVec.extractLsb'_append_eq_of_add_le, BitVec.extractLsb'_eq_self]

theorem parse_mma {f : LaneFields} {tile : BitVec 2} {res : BitVec 3} {bySreg : BitVec 1} {fmt : BitVec 4} {n : BitVec 6}
    (hop : f.op = 0x051) (hty : f.ty = Ty.code .i32) (hmods : f.mods = tile ++ res ++ bySreg ++ (0 : BitVec 2) ++ fmt)
    (himm : f.imm = (0 : BitVec 26) ++ n) (lit : Slot) :
    f.parse lit = .ok (.mma f.hdr f.b tile res (if bySreg.getLsbD 0 then .sreg n else .imm n) fmt) := by
  rw [LaneFields.parse, hop]
  refine (typed_of hty rfl _).trans ?_
  simp (disch := decide) only [hmods, himm, BitVec.extractLsb'_append_eq_of_add_le, BitVec.extractLsb'_append_eq_of_le, Nat.reduceSub,
    BitVec.extractLsb'_eq_self, BitVec.getLsbD_append, Nat.reduceLT, ↓reduceIte]

/-- The fields of a lane instruction and its literal are parsed to it again. -/
theorem parse_of_laneFields {i : Instr} {f : LaneFields} {l : Option Slot} (hi : i.wf = true) (h : laneFields i = some (f, l)) :
    f.parse (l.getD 0) = .ok i := by
  cases i with
  | vmov | vadd | vsub | vmul | vmulh | vmad | vabsd | vmin | vmax | vand | vor | vxor | vtri | vsel | vcmp | vshl | vshr | vsar | vfshl
  | vfshr | vpopc | vclz | vbrev | vbfe | vbfi | vlane | fadd | fsub | fmul | ffma | fmin | fmax | fcmp | fclass | frcp | frsq | fsqrt | fdiv
  | fexp2 | flog2 | fcvt | frnd | vshuf | vbcast | vrot | vscan | vred | msave | mload =>
    obtain ⟨rfl, rfl⟩ := Prod.mk.inj (Option.some.inj h)
    exact parseA_fields _ hi _
  | vld | vst | vstSlc | vpfx | vlds | vsts | obld =>
    obtain ⟨rfl, rfl⟩ := Prod.mk.inj (Option.some.inj h)
    exact parseM_fields _ hi _
  | vat | vatr =>
    obtain ⟨rfl, rfl⟩ := Prod.mk.inj (Option.some.inj h)
    obtain ⟨htype, hbody⟩ := (Bool.and_eq_true _ _).mp hi
    exact parseAt_fields _ htype hbody _
  | qpush h' ty c q | qpop h' ty c q =>
    obtain ⟨rfl, rfl⟩ := Prod.mk.inj (Option.some.inj h)
    refine (typed_of rfl hi _).trans ?_
    rw [hdr_fields h' _ rfl rfl]
    simp (disch := decide) only [BitVec.extractLsb'_append_eq_of_add_le, BitVec.extractLsb'_eq_self]
  | fpush h' ty c b q | fpop h' ty c b q =>
    obtain ⟨rfl, rfl⟩ := Prod.mk.inj (Option.some.inj h)
    refine (typed_of rfl hi _).trans ?_
    rw [hdr_fields h' _ rfl rfl]
    simp (disch := decide) only [BitVec.extractLsb'_append_eq_of_add_le, BitVec.extractLsb'_eq_self, BitVec.getLsbD_append,
      Nat.reduceLT, Nat.reduceSub, ↓reduceIte, bit1_getLsbD]
  | rand h' ty d | randf h' ty d | randn h' ty d =>
    obtain ⟨rfl, rfl⟩ := Prod.mk.inj (Option.some.inj h)
    simp only [Instr.wf, Bool.or_eq_true, decide_eq_true_eq, Bool.and_eq_true] at hi
    refine (typed_of rfl (ty := ty) (by simp only [Bool.or_eq_true, decide_eq_true_eq]; exact hi.imp_right And.left) _).trans ?_
    rw [hdr_fields h' _ rfl rfl]
  | estadd h' ty a src =>
    simp only [Instr.wf, Bool.or_eq_true, decide_eq_true_eq, Bool.and_eq_true] at hi
    have htype : (ty.inI || decide (ty = .f32) || decide (ty = .f64)) = true := by
      simp only [Bool.or_eq_true, decide_eq_true_eq]; exact hi.imp_right And.left
    cases src with
    | sreg r | imm k =>
      obtain ⟨rfl, rfl⟩ := Prod.mk.inj (Option.some.inj h)
      refine (typed_of rfl htype _).trans ?_
      rw [hdr_fields h' _ rfl rfl]
      simp (disch := decide) only [BitVec.extractLsb'_append_eq_of_add_le, BitVec.extractLsb'_eq_self]
      simp [LaneFields.plain]
  | mma h' b tile res slab fmt =>
    cases slab with
    | sreg r | imm k =>
      obtain ⟨rfl, rfl⟩ := Prod.mk.inj (Option.some.inj h)
      rw [parse_mma rfl rfl rfl rfl, hdr_fields h' _ rfl rfl]
      simp
  | accrd h' ty d a rnd alt ftz tile z =>
    obtain ⟨rfl, rfl⟩ := Prod.mk.inj (Option.some.inj h)
    obtain ⟨htype, -⟩ := (Bool.and_eq_true _ _).mp hi
    refine (typed_of rfl htype _).trans ?_
    rw [hdr_fields h' _ rfl rfl]
    simp (disch := decide) only [BitVec.extractLsb'_append_eq_of_add_le, BitVec.extractLsb'_append_eq_of_le,
      BitVec.extractLsb'_eq_self, BitVec.getLsbD_append, Nat.reduceLT, Nat.reduceSub, ↓reduceIte, bit1_getLsbD]
  | accept h' d a b =>
    cases b with
    | none | some r =>
      obtain ⟨rfl, rfl⟩ := Prod.mk.inj (Option.some.inj h)
      conv_lhs => whnf
      rw [hdr_fields h' _ rfl rfl]
      simp (disch := decide) only [BitVec.extractLsb'_append_eq_of_add_le, BitVec.extractLsb'_eq_self, BitVec.getLsbD_append,
        Nat.reduceLT, Nat.reduceSub, ↓reduceIte, bit1_getLsbD, Option.isNone, Option.getD_some, Bool.false_eq_true]
  | accxRd h' t | accxWr h' t | accxAdd h' t | accxFlg h' t | accxOrf h' t =>
    obtain ⟨rfl, rfl⟩ := Prod.mk.inj (Option.some.inj h)
    refine Eq.trans (b := LaneFields.parseAccx _) rfl ?_
    rw [LaneFields.parseAccx, typed_of (ty := .i32) rfl rfl, accxFields_mode rfl, accxFields_tile rfl, hdr_fields h' _ rfl rfl]
    rfl
  | _ => exact absurd h nofun

/-! ### The literal of a parsed word -/

/-- The slot that follows a lane instruction as its literal (R42). -/
def laneLiteral (i : Instr) : Option Slot := (laneFields i).bind (·.2)

theorem typed_ok {f : LaneFields} {ok : Ty → Bool} {k : Ty → Except Reject Instr} {i : Instr} (h : f.typed ok k = .ok i) :
    ∃ ty, k ty = .ok i := by
  unfold LaneFields.typed at h
  split at h
  · cases h
  · split at h
    · exact ⟨_, h⟩
    · cases h

theorem parseA_ok {f : LaneFields} {lit : Slot} {o : OpA} {mk : LaneA → Instr} {i : Instr} (h : f.parseA lit o mk = .ok i) :
    ∃ ty, mk (f.toA ty lit) = i := by
  obtain ⟨ty, h⟩ := typed_ok h
  dsimp only at h
  split at h
  · exact ⟨ty, Except.ok.inj h⟩
  · cases h

theorem thirds_append (lit : Slot) : lit.extractLsb' 64 32 ++ lit.extractLsb' 32 32 ++ lit.extractLsb' 0 32 = lit := by
  have upper : lit.extractLsb' 64 32 ++ lit.extractLsb' 32 32 = lit.extractLsb' 32 64 :=
    BitVec.extractLsb'_append_extractLsb'_eq_extractLsb' rfl
  rw [upper]
  exact (BitVec.extractLsb'_append_extractLsb'_eq_extractLsb' rfl).trans BitVec.extractLsb'_eq_self

/-- A layout A word takes the slot after it as its literal, or none. -/
theorem toA_literal (f : LaneFields) (ty : Ty) (lit : Slot) :
    (f.toA ty lit).literal = none ∨ (f.toA ty lit).literal = some lit := by
  by_cases hl : f.lf.getLsbD 0 = true
  · have hb : (f.toA ty lit).b = .lit (lit.extractLsb' 0 32) (lit.extractLsb' 32 32) (lit.extractLsb' 64 32) := if_pos hl
    rw [LaneA.literal, hb]
    exact .inr (congrArg some (thirds_append lit))
  · have hb : (f.toA ty lit).b = if f.mods.getLsbD 2 then .sreg (f.b.extractLsb' 0 6) else if f.mods.getLsbD 0 then .imm f.imm
        else .reg f.b := if_neg hl
    rw [LaneA.literal, hb]
    left
    split_ifs <;> rfl

/-- A parsed instruction has the slot after it as its literal, or none. -/
theorem laneLiteral_of_parse {f : LaneFields} {lit : Slot} {i : Instr} (h : f.parse lit = .ok i) :
    laneLiteral i = none ∨ laneLiteral i = some lit := by
  unfold LaneFields.parse at h
  split at h
  any_goals
    obtain ⟨ty, rfl⟩ := parseA_ok h
    exact toA_literal f ty lit
  any_goals
    obtain ⟨ty, h⟩ := typed_ok h
    cases h
    exact .inl rfl
  case h_56 => -- ESTADD, whose handle is in a scalar register or constant
    obtain ⟨ty, h⟩ := typed_ok h
    cases h
    left
    split <;> rfl
  case h_70 => -- ACCX, by its mode
    obtain ⟨ty, h⟩ := typed_ok h
    dsimp only at h
    split at h
    all_goals cases h
    all_goals exact .inl rfl
  case h_71 => cases h

/-! ### The encoder and the decoder -/

/-- What is accepted keeps its rules. -/
theorem accepted_ok {i j : Instr} {scalar : Bool} {w : Slot} (h : accepted i scalar w = .ok j) :
    i = j ∧ j.wf = true ∧ ∃ c, encode j = some c ∧ match c with
      | .scalar v _ => scalar = true ∧ v.setWidth 96 = w
      | .lane v _ => scalar = false ∧ v = w := by
  unfold accepted at h
  cases he : encode i with
  | none => simp [he] at h
  | some c =>
    cases c with
    | scalar v l | lane v l =>
      simp only [he, Bool.and_eq_true, Bool.not_eq_eq_eq_not, Bool.not_true, decide_eq_true_eq, ite_eq_iff, Except.ok.injEq,
        not_and, reduceCtorEq, and_false, or_false] at h
      obtain ⟨⟨hwf, hs, hv⟩, rfl⟩ := h
      exact ⟨rfl, hwf, _, he, hs, hv⟩

theorem encode_eq_some {i : Instr} {c : Code} (h : encode i = some c) : encodeScalar i = some c ∨ encodeLane i = some c := by
  unfold encode at h
  split at h
  · rename_i d hs
    exact .inl (hs.trans h)
  · exact .inr h

theorem encodeLane_eq_some {i : Instr} {c : Code} (h : encodeLane i = some c) :
    ∃ f l, laneFields i = some (f, l) ∧ .lane f.word l = c := by
  obtain ⟨⟨f, l⟩, hf, hc⟩ := Option.map_eq_some_iff.mp h
  exact ⟨f, l, hf, hc⟩

/-- The encoding of a well-formed instruction decodes to it. -/
theorem decode_encode {i : Instr} {c : Code} (hi : i.wf = true) (h : encode i = some c) : c.decode = .ok i := by
  rcases encode_eq_some h with hs | hl
  · have hp := parsesTo_of_encodeScalar hi hs
    cases c with
    | scalar w l =>
      rw [Code.decode, decodeScalar, (hp : parseScalar w (l.getD 0) = some i)]
      simp [accepted, h, hi]
    | lane w l => exact hp.elim
  · obtain ⟨f, l, hf, rfl⟩ := encodeLane_eq_some hl
    rw [Code.decode, decodeLane, ofWord_word, parse_of_laneFields hi hf]
    simp [accepted, h, hi]

theorem scalarLiteral_of_encode {i : Instr} {w : W32} {l : Option W32} (h : encode i = some (.scalar w l)) : scalarLiteral i = l := by
  rcases encode_eq_some h with hs | hl
  · rw [scalarLiteral, hs]
  · obtain ⟨f, l, -, hc⟩ := encodeLane_eq_some hl
    cases hc

theorem laneLiteral_of_encode {i : Instr} {w : Slot} {l : Option Slot} (hi : i.wf = true) (h : encode i = some (.lane w l)) :
    laneLiteral i = l := by
  rcases encode_eq_some h with hs | hl
  · exact (parsesTo_of_encodeScalar hi hs).elim
  · obtain ⟨f, l, hf, hc⟩ := encodeLane_eq_some hl
    cases hc
    rw [laneLiteral, hf]
    rfl

/-- A scalar word that decodes is the encoding of what it decodes to. -/
theorem encode_decodeScalar {w lit : W32} {i : Instr} (h : decodeScalar w lit = .ok i) :
    i.wf = true ∧ ∃ l, encode i = some (.scalar w l) ∧ (l = none ∨ l = some lit) := by
  unfold decodeScalar at h
  split at h
  · cases h
  · rename_i j hp
    obtain ⟨rfl, hwf, c, he, hc⟩ := accepted_ok h
    cases c with
    | scalar v l =>
      obtain rfl : v = w := by simpa using congrArg (BitVec.setWidth 32) hc.2
      exact ⟨hwf, l, he, scalarLiteral_of_encode he ▸ scalarLiteral_of_parse hp⟩
    | lane v l => cases hc.1

/-- A lane word that decodes is the encoding of what it decodes to. -/
theorem encode_decodeLane {w lit : Slot} {i : Instr} (h : decodeLane w lit = .ok i) :
    i.wf = true ∧ ∃ l, encode i = some (.lane w l) ∧ (l = none ∨ l = some lit) := by
  unfold decodeLane at h
  split at h
  · cases h
  · rename_i j hp
    obtain ⟨rfl, hwf, c, he, hc⟩ := accepted_ok h
    cases c with
    | scalar v l => cases hc.1
    | lane v l =>
      obtain rfl := hc.2
      exact ⟨hwf, l, he, laneLiteral_of_encode hwf he ▸ laneLiteral_of_parse hp⟩

/-- Settles O58: the encoder's words are parsed field by field, format by format, and the decoder accepts only what the encoder
makes. -/
theorem decodingAndEncodingAgree : Obligations.DecodingAndEncodingAgree :=
  ⟨fun _ _ => decode_encode, fun _ _ _ => encode_decodeScalar, fun _ _ _ => encode_decodeLane⟩

/-! ### Words written out (R28 to R43) -/

/-- A scalar word without a literal decodes to what it is the encoding of. -/
theorem decodeScalar_of_encode {w : W32} {i : Instr} (h : encode i = some (.scalar w none)) (hi : i.wf = true := by rfl) :
    decodeScalar w 0 = .ok i := decode_encode hi h

/-- Settles O57: each word is the encoding of its instruction. -/
theorem wordsDecodeToTheirInstructions : Obligations.WordsDecodeToTheirInstructions :=
  ⟨decodeScalar_of_encode rfl, decodeScalar_of_encode rfl, decodeScalar_of_encode rfl, decodeScalar_of_encode rfl,
    decodeScalar_of_encode rfl, decodeScalar_of_encode rfl, decodeScalar_of_encode rfl, decodeScalar_of_encode rfl⟩

end Sys2Proof
end

section

/-! SUPPORT. A lane word of two passes of which only the first has bank units: that pass is made, and its issue slot counts for the team
(R84, R118, log 50). So a word that waits changes its team, which the frame of the lane words denies. -/

namespace Sys2Proof.Machine

/-- A path with one lane in m0 in each of two groups. -/
def twoGroupPath : Path := { Path.empty with
  st := .ready, spc := 0x100000, lpc := 0x108000, mask := 0xFFFFFFFFFFFFFFFF, m0 := 0x100000001, thr := 4 }

/-- A word of another path, in flight with every unit of the core that crew's registers leave free. -/
def reservingWord : Word where
  wid := 9
  path := 1
  instr := .nop
  spc := 0
  lpc := 0
  iss := none
  depth := 0
  lcnt := 0
  lanes := 0
  slot := true
  counter := none
  dests := []
  shadow := 0
  prop := 0
  bcast := []
  resv := [(9, 49152 - 519)]
  vals := []
  ops := []
  owed := 0
  open_ := []
  srcs := []
  undo := []
  done := false

/-- The launch of the team: its grid and its block are of no account to the word. -/
def frameLaunch : Launch := newLaunch 0 1 loadBlock loadDesc [7] 0 [] []

/-- A crew of two groups whose v5 is general in its first group, where a pass needs no unit, and uniform in its second. -/
def twoGroupCrew : Crew := { newCrew 3 2 0 0 0 ⟨0, 0, 248, 0, 0, 0⟩ frameLaunch 4 with
  groups := 2
  paths := twoGroupPath :: List.replicate 8 Path.empty
  v := [(160, .gen ((List.range 32).map fun k => w32 (k ^ 7)))]
  words := [reservingWord] }

/-- The machine with this crew and its team, path 0 of the crew issuing. -/
def twoGroupState : State := { State.reset with
  launches := [frameLaunch], teams := [newTeam 2 frameLaunch 0 0], crews := [twoGroupCrew], cur := some ⟨3, 0⟩, nextId := 10 }

/-- `vadd.i32 v5, v6, v7`. -/
def twoPassWord : LaneA := ⟨⟨false, 0⟩, .i32, 5, 6, .reg 7, 0, ⟨0, false, false, false, false, false, false, false, false⟩, 0⟩

/-- The next state of an answer, if it has one. -/
def nextState? : Out → Option State
  | .next t => some t
  | _ => none

theorem eq_next_of_nextState? {o : Out} {t : State} (h : nextState? o = some t) : o = .next t := by
  cases o with
  | next u => exact congrArg Host.Outcome.next (Option.some.inj h)
  | _ => cases h

theorem twoGroupState_issuing : Issuing twoGroupState twoGroupCrew 0 twoGroupPath := ⟨rfl, rfl, rfl⟩

/-- The first pass takes a slot of the team, which had none. -/
theorem twoPassWord_takes_slot :
    ((nextState? (exec (.vadd twoPassWord) twoGroupState)).map fun t => t.teams.map (·.slotsUsed)) = some [1]
    ∧ twoGroupState.teams.map (·.slotsUsed) = [0] := by
  constructor <;> decide +kernel

/-- Refutes O59: `vadd.i32 v5, v6, v7` of two passes, the first of which is made while the second waits for bank units, adds an issue
slot to its team, so the teams do not stay as they were. -/
theorem not_wordsLeaveTheRestUnchanged : ¬ Obligations.WordsLeaveTheRestUnchanged := by
  rintro ⟨-, frame⟩
  obtain ⟨after, before⟩ := twoPassWord_takes_slot
  obtain ⟨t, ht, slots⟩ := Option.map_eq_some_iff.mp after
  obtain ⟨-, teams, -⟩ := frame (.vadd twoPassWord) ⟨.vadd, twoPassWord, .linear, valVadd twoPassWord⟩ twoGroupState t twoGroupCrew 0
    twoGroupPath rfl twoGroupState_issuing (eq_next_of_nextState? ht)
  rw [teams, before] at slots
  exact absurd slots (by decide)

end Sys2Proof.Machine

end

section

/-! SUPPORT. What the wrapper of the lane words does (R43 to R49, R52): one lemma for each way through it, and the words that compute
lane by lane as words under it. -/

namespace Sys2Proof.Machine

/-! ### Words that compute one result lane by lane -/

/-- What a pass writes in lane j, its destinations the parts of one value, the low one first. -/
def PassOut.valIn (q : PassOut) (j : Nat) : Nat :=
  (q.outs.zipIdx).foldl (fun x o => x + (o.1.2.val j).toNat * 2 ^ (32 * o.2)) 0

/-- The values that passes write, by team lane. -/
def passVals (first : Nat) (qs : List PassOut) : SMap Nat :=
  qs.foldl (fun m q => (List.range 32).foldl (fun m j =>
    if q.act.getLsbD j then SMap.set 0 m (32 * (first + q.g) + j) (q.valIn j) else m) m) []

/-- The word as it goes in flight with its values (R43). -/
def elemWord (ins : Instr) (e : Elementwise) (c : Crew) (p : Path) (sel : Mask) (s : State) (qs : List PassOut) : Word :=
  { newWord s p c (e.info ins) sel with
    vals := passVals c.first qs
    bcast := (qs.filter fun q => q.act == BitVec.allOnes 32 && q.outs.all (fun o => o.2.tag == 1)).map (·.g)
    done := true }

/-- The effect of a word that computes lane by lane, over its selected lanes (R43, R84, R111). -/
def elemBody (ins : Instr) (e : Elementwise) (c : Crew) (p : Path) (sel : Mask) (s : State) : Out :=
  let qs := elemPasses c p e.o e.w e.cls (decide ((OpA.writes e.o e.w).length = 2)) sel e.val
  if e.long then launchWord s c ins.size (e.info ins) (elemWord ins e c p sel s qs) else writeFixed s c ins qs

/-- A word that computes lane by lane is its effect under the wrapper of the lane words. -/
theorem exec_elementwise {ins : Instr} {e : Elementwise} (h : elementwise ins = some e) (s : State) :
    exec ins s = laneWord s (e.info ins) (fun _ => false) (elemBody ins e) := by
  cases ins <;> cases h <;> rfl

/-- What the wrapper sees of such a word. -/
@[simp] theorem elementwise_info_reads (ins : Instr) (e : Elementwise) : (e.info ins).reads = OpA.reads e.o e.w := rfl
@[simp] theorem elementwise_info_writes (ins : Instr) (e : Elementwise) : (e.info ins).writes = OpA.writes e.o e.w := rfl
@[simp] theorem elementwise_info_late (ins : Instr) (e : Elementwise) : (e.info ins).late = [] := rfl
@[simp] theorem elementwise_info_h (ins : Instr) (e : Elementwise) : (e.info ins).h = e.w.h := rfl
@[simp] theorem elementwise_info_instr (ins : Instr) (e : Elementwise) : (e.info ins).instr = ins := rfl

/-! ### The start of a lane word: its marker and its segment (R45, R46) -/

/-- The path once its segment has begun anew, where the word begins one (R46). -/
def Path.entered (p : Path) (h : Hdr) : Path :=
  if h.sw || p.newSeg then { p with segW := [], segB := [], newSeg := false } else p

/-- A path in the segment of path p, which it need not begin anew. -/
def Path.inSegment (p q : Path) : Path := { q with segW := p.segW, segB := p.segB, newSeg := false }

/-- The crew, and the state, once the path's segment has begun anew. -/
def Crew.entered (h : Hdr) (i : Nat) (p : Path) (c : Crew) : Crew := c.modPath i (p.entered h).inSegment
def State.entered (s : State) (h : Hdr) (c : Crew) (i : Nat) (p : Path) : State := s.modCrew c.id (Crew.entered h i p)

theorem inSegment_entered (p : Path) (h : Hdr) : (p.entered h).inSegment p = p.entered h := by
  unfold Path.entered
  split
  · rfl
  next hn =>
    have : p.newSeg = false := by simp_all
    rw [Path.inSegment, ← this]

theorem entered_of_old {p : Path} {h : Hdr} (hs : h.sw = false) (hn : p.newSeg = false) : p.entered h = p := by
  simp [Path.entered, hs, hn]

/-- A path with no late record of a joint has none to deliver (R292). -/
theorem deliverLate_none {s : State} {c : Crew} {p : Path} (h : p.late = []) (lane : Bool) : deliverLate s c p lane = none := by
  unfold deliverLate
  rw [h]
  exact if_pos rfl

/-- The path goes on issuing after its segment has begun anew. -/
theorem issuing_entered {s : State} {c : Crew} {i : Nat} {p : Path} (h : Issuing s c i p) (k : Hdr) :
    Issuing (s.entered k c i p) (c.entered k i p) i (p.entered k) := by
  refine h.modCrew (fun _ => rfl) ?_
  simp [Crew.entered, Crew.modPath, modAt_getElem?, h.entry, inSegment_entered]

section Wrapper
variable {s : State} {c : Crew} {i : Nat} {p : Path} {w : LaneInfo} {enc : Crew → Bool} {body : Crew → Path → Mask → State → Out}

/-- A vector register that the word names is absent (R115). -/
def LaneInfo.lacks (w : LaneInfo) (c : Crew) : Bool :=
  ((w.reads ++ w.writes ++ w.late).filter (· < 1024)).any fun v => !c.present (c.physical v)

/-- The registers of the word that a pending long-latency word may not write, as R46 compares them. -/
def LaneInfo.touched (w : LaneInfo) (c : Crew) : List Nat :=
  (w.reads ++ w.late ++ [maskReg 0, maskReg w.h.mask.toNat]).map c.phys ++ w.writes.map c.phys

theorem lacks_eq_true {w : LaneInfo} {c : Crew} :
    w.lacks c = true ↔ ∃ v ∈ w.reads ++ w.writes ++ w.late, v < 1024 ∧ c.present (c.physical v) = false := by
  simp only [LaneInfo.lacks, List.any_eq_true, List.mem_filter, decide_eq_true_eq, Bool.not_eq_true', and_assoc]

theorem lacks_eq_false {w : LaneInfo} {c : Crew} (h : ∀ v ∈ w.reads ++ w.writes ++ w.late, v < 1024 → c.present (c.physical v) = true) :
    w.lacks c = false := by
  rw [Bool.eq_false_iff, Ne, lacks_eq_true]
  rintro ⟨v, hv, hlt, hn⟩
  exact absurd (h v hv hlt) (by simp [hn])

/-- What stands between a lane word and its effect once its marker waits for nothing: voidness, absent registers, pending registers, the
dependence slot and the in-flight counter, in this order (R46 to R49, R235). -/
theorem laneWord_marked (h : Issuing s c i p) (henc : enc c = false) (hm : w.h.sw = true → c.outstanding i = false ∧ p.late = []) :
    laneWord s w enc body =
      if isVoid p (selMask c p w.h) then .next ((s.entered w.h c i p).advanceLane w.instr.size)
      else if w.lacks c then
        (if w.late.isEmpty then
          laneFault (s.entered w.h c i p) c (p.entered w.h) w.instr.size fcRange 0 (selMask c p w.h)
        else body c (p.entered w.h) (selMask c p w.h) (s.entered w.h c i p))
      else match (w.touched c).find? (p.entered w.h).segW.contains,
          (w.writes.map c.phys).find? (p.entered w.h).segB.contains with
      | some r, _ =>
        .next ((s.entered w.h c i p).fatal c (p.entered w.h) true fcHazard (if r < 1024 then r else r - 1024) 0)
      | none, some r => .next ((s.entered w.h c i p).fatal c (p.entered w.h) true fcHazard r 0)
      | none, none =>
        if w.long && 32 ≤ (c.words.filter (·.slot)).length then waitFor s stSlots
        else if (match w.counter with | some k => decide (255 ≤ c.inflight i k) | none => false) then
          waitFor s stInterlock
        else body c (p.entered w.h) (selMask c p w.h) (s.entered w.h c i p) := by
  have hwait : (w.h.sw && c.outstanding i) = false := by
    cases hs : w.h.sw with
    | false => rfl
    | true => exact (hm hs).1
  have hlate : (if w.h.sw then deliverLate s c p true else none) = none := by
    split
    next hs => exact deliverLate_none (hm hs).2 true
    · rfl
  rw [laneWord, withCur_of h]
  simp only [henc, curPath_of h, hwait, Bool.false_eq_true, if_false, hlate, modCurPath_of h]
  rfl

/-- A void lane word advances, and its segment may begin anew (R49, R91). -/
theorem laneWord_void (h : Issuing s c i p) (henc : enc c = false) (hm : w.h.sw = true → c.outstanding i = false ∧ p.late = [])
    (hv : isVoid p (selMask c p w.h) = true) :
    laneWord s w enc body = .next ((s.entered w.h c i p).advanceLane w.instr.size) := by
  rw [laneWord_marked h henc hm, if_pos hv]

/-- A lane word that names an absent register raises REGISTER_RANGE (R52, R115). -/
theorem laneWord_absent (h : Issuing s c i p) (henc : enc c = false) (hm : w.h.sw = true → c.outstanding i = false ∧ p.late = [])
    (hv : isVoid p (selMask c p w.h) = false) (hl : w.late = []) (ha : w.lacks c = true) :
    laneWord s w enc body = laneFault (s.entered w.h c i p) c (p.entered w.h) w.instr.size fcRange 0 (selMask c p w.h) := by
  rw [laneWord_marked h henc hm, if_neg (by simp [hv]), if_pos ha, hl]
  rfl

/-- A lane word that names a register which its segment writes raises SEGMENT_HAZARD (R46). -/
theorem laneWord_pending (h : Issuing s c i p) (henc : enc c = false) (hm : w.h.sw = true → c.outstanding i = false ∧ p.late = [])
    (hv : isVoid p (selMask c p w.h) = false) (hp : w.lacks c = false) (hz : ∃ r ∈ w.touched c, r ∈ (p.entered w.h).segW) :
    ∃ detail, laneWord s w enc body = .next ((s.entered w.h c i p).fatal c (p.entered w.h) true fcHazard detail 0) := by
  have hfind : ((w.touched c).find? (p.entered w.h).segW.contains).isSome = true := by
    simpa [List.find?_isSome] using hz
  obtain ⟨r, hr⟩ := Option.isSome_iff_exists.mp hfind
  rw [laneWord_marked h henc hm, if_neg (by simp [hv]), if_neg (by simp [hp]), hr]
  exact ⟨_, rfl⟩

/-- No register of a ready word is pending in the segment that it enters (R46). -/
theorem LaneReady.clear (h : LaneReady s c i p w) :
    (∀ r ∈ w.touched c, r ∉ (p.entered w.h).segW) ∧ ∀ r ∈ w.writes.map c.phys, r ∉ (p.entered w.h).segB := by
  by_cases hn : w.h.sw = true ∨ p.newSeg = true
  · have he : p.entered w.h = { p with segW := [], segB := [], newSeg := false } := if_pos (by simpa using hn)
    simp [he]
  · have he : p.entered w.h = p := if_neg (by simpa using hn)
    obtain ⟨hW, hB⟩ := h.hazard.resolve_left (fun e => hn (.inl e)) |>.resolve_left (fun e => hn (.inr e))
    rw [he]
    exact ⟨fun r hr => hW r (by simpa [LaneInfo.touched] using hr), hB⟩

/-- A lane word that nothing keeps from its effect has it (R43 to R49). -/
theorem laneWord_ready (h : LaneReady s c i p w) (henc : enc c = false) :
    laneWord s w enc body = body c (p.entered w.h) (selMask c p w.h) (s.entered w.h c i p) := by
  obtain ⟨clearW, clearB⟩ := h.clear
  have hW : (w.touched c).find? (p.entered w.h).segW.contains = none := by
    simpa [List.find?_eq_none] using clearW
  have hB : (w.writes.map c.phys).find? (p.entered w.h).segB.contains = none := by
    simpa [List.find?_eq_none] using clearB
  have hslot : ¬ (w.long && decide (32 ≤ (c.words.filter (·.slot)).length)) = true := by
    simpa using h.slot
  have hcount : ¬ (match w.counter with | some k => decide (255 ≤ c.inflight i k) | none => false) = true := by
    cases hk : w.counter with
    | none => simp
    | some k => simpa using h.counter k hk
  rw [laneWord_marked h.path henc h.marker, if_neg (by simp [h.active]), if_neg (by simp [lacks_eq_false h.present]), hW, hB]
  exact (if_neg hslot).trans (if_neg hcount)

end Wrapper
end Sys2Proof.Machine

end

section

/-! SUPPORT. The void lane words, and those that fault before their effect (R46, R49, R52, R115). -/

namespace Sys2Proof.Machine

/-! ### A path past a lane word -/

/-- The segment of a path stays when one of its words leaves the pending ISSUE (R91). -/
theorem pastLane_segment (p : Path) (n : Nat) (sw sb : List Nat) (b : Bool) :
    ({ p with segW := sw, segB := sb, newSeg := b } : Path).pastLane n = { p.pastLane n with segW := sw, segB := sb, newSeg := b } := by
  simp only [Path.pastLane, Path.nextIssue]
  split
  · rfl
  · split
    · rfl
    · split <;> rfl

theorem advanceLane_of {s : State} {c : Crew} {i : Nat} {p : Path} (h : Issuing s c i p) (n : Nat) :
    s.advanceLane n = s.modCrew c.id fun d => d.modPath i fun p => p.pastLane n := by
  rw [State.advanceLane, modCurPath_of h]

theorem modPath_modPath (c : Crew) (i : Nat) (f g : Path → Path) :
    (c.modPath i f).modPath i g = c.modPath i fun p => g (f p) := by
  have : modAt (modAt c.paths i f) i g = modAt c.paths i fun p => g (f p) := by
    apply List.ext_getElem?
    intro j
    simp only [modAt_getElem?]
    split <;> simp [Function.comp_def]
  simp [Crew.modPath, this]

/-- The word only advances, its segment begun anew where it begins one. -/
theorem entered_advanceLane {s : State} {c : Crew} {i : Nat} {p : Path} (h : Issuing s c i p) (k : Hdr) (n : Nat) :
    (s.entered k c i p).advanceLane n
      = s.modCrew c.id fun d => d.modPath i fun q => ((p.entered k).inSegment q).pastLane n := by
  rw [advanceLane_of (issuing_entered h k)]
  refine (modCrew_modCrew (f := Crew.entered k i p) (fun _ => rfl) s c.id).trans ?_
  simp only [Crew.entered, modPath_modPath]

/-- A word that only advances leaves its path past it. -/
theorem pastLane_inSegment (p q : Path) (n : Nat) : PastLane p ((q.inSegment p).pastLane n) n := by
  rw [Path.inSegment, pastLane_segment]
  rfl

theorem voidWordsOnlyAdvance : Claims.VoidWordsOnlyAdvance := by
  intro ins e s c i p he h hm hv
  let f : Crew → Crew := fun d => d.modPath i fun q => ((p.entered e.w.h).inSegment q).pastLane ins.size
  have key : exec ins s = .next (s.modCrew c.id f) := by
    rw [exec_elementwise he, laneWord_void h rfl hm hv]
    exact congrArg Host.Outcome.next (entered_advanceLane h e.w.h ins.size)
  refine ⟨f c, completes_of_modCrew h (fun _ => rfl) key, rfl, ?_⟩
  rw [show (f c).path i = _ from path_modPath_self h.entry _]
  exact pastLane_inSegment p (p.entered e.w.h) ins.size

/-! ### A lane-recoverable fault that covers m0 (R375) -/

/-- Entry i parks at its word with the record of a fault at the word of p, over the lanes f. -/
def Crew.parkFault (i : Nat) (p : Path) (code detail bound : Nat) (f : Mask) (c : Crew) : Crew :=
  ((c.deferProp f).modPath i fun q => { q with
    m0 := 0, st := .fault, wait := none, want := none, trap := some (trapRec c i p true code detail bound f true) }).trapPoint i

theorem parkFault_path {c : Crew} {i : Nat} {q : Path} (h : c.paths[i]? = some q) (p : Path) (code detail bound : Nat) (f : Mask) :
    (c.parkFault i p code detail bound f).path i = { q with
      m0 := 0, st := .fault, wait := none, want := none, trap := some (trapRec c i p true code detail bound f true) } := by
  have hq : ((c.deferProp f).modPath i fun q => { q with
      m0 := 0, st := .fault, wait := none, want := none, trap := some (trapRec c i p true code detail bound f true) }).path i
        = { q with
            m0 := 0, st := .fault, wait := none, want := none, trap := some (trapRec c i p true code detail bound f true) } :=
    path_modPath_self h _
  rw [Crew.parkFault, trapPoint_path_inPlace (by rw [hq]) rfl, hq]

/-- A lane word of no handler whose fault covers m0 parks its path. -/
theorem laneFault_inPlace {s : State} {c : Crew} {p : Path} {f : Mask} (hp : p.isHandler = false) (hf : p.m0 &&& ~~~f = 0)
    (size code detail : Nat) :
    laneFault s c p size code detail f
      = .next (s.modCrew c.id (Crew.parkFault s.curPath p code detail s.nextId f)) := by
  have hn : ¬ p.isHandler = true := by simp [hp]
  have hparks : (decide (p.m0 &&& ~~~f = 0) || (c.deferFatal p f).isSome) = true := by simp [hf]
  rw [laneFault, if_pos hparks, State.defer, if_neg (by exact hn), if_pos hf]
  rfl

/-- An absent register: REGISTER_RANGE over m0. -/
theorem absent_faults {ins : Instr} {e : Elementwise} {s : State} {c : Crew} {i : Nat} {p : Path} (he : elementwise ins = some e)
    (h : Issuing s c i p) (hs : e.w.h.sw = false) (hn : p.newSeg = false) (hv : isVoid p (selMask c p e.w.h) = false)
    (ha : (e.info ins).lacks c = true) (hsel : selMask c p e.w.h = p.m0) (hp : p.isHandler = false) :
    ∃ c' r, Completes ins s c c' ∧ (c'.path i).st = .fault ∧ (c'.path i).trap = some r ∧ Recorded r p 5 0 p.m0 true true
      ∧ c'.v = c.v ∧ c'.s = c.s := by
  have hm : (e.info ins).h.sw = true → c.outstanding i = false ∧ p.late = [] := fun ht => absurd ht (by simp [hs])
  let f : Crew → Crew := fun d => (d.entered e.w.h i p).parkFault i p 5 0 s.nextId p.m0
  have key : exec ins s = .next (s.modCrew c.id f) := by
    rw [exec_elementwise he, laneWord_absent h rfl hm hv rfl ha]
    simp only [elementwise_info_h]
    rw [hsel, entered_of_old hs hn, laneFault_inPlace hp (BitVec.and_not_self _),
      curPath_of (issuing_entered h e.w.h)]
    exact congrArg Host.Outcome.next (modCrew_modCrew (f := Crew.entered e.w.h i p) (fun _ => rfl) s c.id)
  have hpath := parkFault_path (issuing_entered h e.w.h).entry p 5 0 s.nextId p.m0
  refine ⟨f c, trapRec c i p true 5 0 s.nextId p.m0 true, completes_of_modCrew h (fun _ => rfl) key, ?_, ?_, ?_, rfl, rfl⟩
  · exact (congrArg Path.st hpath)
  · exact (congrArg Path.trap hpath)
  · exact ⟨rfl, rfl, rfl, rfl, rfl, rfl, rfl, rfl, rfl, rfl, rfl⟩

/-- The halt line that a fault raises holds its cause (R383). -/
theorem mem_raised_raise (s : State) (part : Nat) (z : Cause) : (z, none) ∈ SMap.get [] (s.raise part z).raised part := by
  rw [State.raise, smap_get_set_self]
  exact List.mem_append_right _ (List.mem_singleton.mpr rfl)

/-- A pending register: SEGMENT_HAZARD. -/
theorem pending_halts {ins : Instr} {e : Elementwise} {s : State} {c : Crew} {i : Nat} {p : Path} (he : elementwise ins = some e)
    (h : Issuing s c i p) (hs : e.w.h.sw = false) (hn : p.newSeg = false) (hv : isVoid p (selMask c p e.w.h) = false)
    (ha : (e.info ins).lacks c = false) (hz : ∃ r ∈ (e.info ins).touched c, r ∈ p.segW) :
    ∃ t z, exec ins s = .next t ∧ t = { s with crews := t.crews, raised := t.raised } ∧ (z, none) ∈ SMap.get [] t.raised (s.partOf c)
      ∧ z.code = 37 ∧ ∃ c', t.crewOf c.id = some c' ∧ c'.v = c.v ∧ (c'.path i).lpc = p.lpc := by
  have hm : (e.info ins).h.sw = true → c.outstanding i = false ∧ p.late = [] := fun ht => absurd ht (by simp [hs])
  have hent := entered_of_old hs hn
  obtain ⟨detail, key⟩ := laneWord_pending (body := elemBody ins e) (enc := fun _ => false) h rfl hm hv ha
    (by simpa only [elementwise_info_h, hent] using hz)
  rw [← exec_elementwise he] at key
  refine ⟨_, (s.entered e.w.h c i p).causeHere c (p.entered e.w.h) true fcHazard detail 0, key, rfl, ?_, rfl, ?_⟩
  · rw [State.fatal]
    exact mem_raised_raise (s.entered e.w.h c i p) (s.partOf c) _
  · have hi := issuing_entered h e.w.h
    refine ⟨_, hi.crew, rfl, ?_⟩
    rw [path_of_entry hi.entry, hent]

theorem absentAndPendingRegistersFault : Claims.AbsentAndPendingRegistersFault := by
  intro ins e s c i p he h hs hn hv names sel
  constructor
  · rintro ⟨v, hmem, hab⟩ hsel hp
    obtain ⟨hmem, hlt⟩ := List.mem_filter.mp hmem
    have ha : (e.info ins).lacks c = true :=
      lacks_eq_true.mpr ⟨v, by simpa using hmem, of_decide_eq_true hlt, hab⟩
    have := absent_faults he h hs hn hv ha hsel hp
    rwa [show p.m0 = sel from hsel.symm] at this
  · rintro hp ⟨v, hmem, hz⟩
    have ha : (e.info ins).lacks c = false :=
      lacks_eq_false fun v hv hlt => hp v (List.mem_filter.mpr ⟨by simpa using hv, decide_eq_true hlt⟩)
    obtain ⟨hmem, hlt⟩ := List.mem_filter.mp hmem
    refine pending_halts he h hs hn hv ha ⟨c.physical v, ?_, hz⟩
    have hphys : c.phys v = c.physical v := if_pos (of_decide_eq_true hlt)
    rw [← hphys, LaneInfo.touched, ← List.map_append]
    refine List.mem_map_of_mem ?_
    rcases List.mem_append.mp hmem with hr | hw
    · simp [hr]
    · simp [hw]

/-- Settles O26: a void word takes the wrapper's void branch, which advances its path alone; an absent register is found before a
pending one. -/
theorem voidAndFaultingLaneWords : Obligations.VoidAndFaultingLaneWords :=
  ⟨voidWordsOnlyAdvance, absentAndPendingRegistersFault⟩

end Sys2Proof.Machine

end

section

/-! SUPPORT. What a pass of a word that computes lane by lane reads and writes in a lane (R40, R84, R111, R133). -/

namespace Sys2Proof.Machine

/-! ### Sources in a lane -/

@[simp] theorem uni_val (u : W32) (j : Nat) : (GReg.uni u).val j = u := rfl
@[simp] theorem gen_val (vs : List W32) (j : Nat) : (GReg.gen vs).val j = vs.getD j 0 := rfl

/-- A pass reads an active lane of a register from the bank that the lane reads (R133). -/
theorem readBank_val {act : W32} {j : Nat} (h : act.getLsbD j = true) (c : Crew) (r g : Nat) :
    (c.readBank (c.propWord g) act r g).val j = c.readLane r g j := by
  have hj : j < 32 := BitVec.lt_of_getLsbD h
  unfold Crew.readBank Crew.readLane
  split
  next w i hp hi =>
    have hlive : act &&& c.propWord g = 0 → (c.propWord g).getLsbD j = false := by
      intro he
      have := congrArg (·.getLsbD j) he
      simpa [h] using this
    have hshadow : act &&& ~~~c.propWord g = 0 → (c.propWord g).getLsbD j = true := by
      intro he
      have := congrArg (·.getLsbD j) he
      simpa [h, hj] using this
    split
    next he => simp [hlive he]
    next =>
      split
      next he => simp [hshadow he]
      next => simp [mixRegs, hj]
  next => rfl

theorem srcReg_val {act : W32} {j : Nat} (h : act.getLsbD j = true) (c : Crew) (wide : Bool) (v g : Nat) :
    (c.srcReg wide act v g).val j = c.laneSrc wide v g j := by
  unfold Crew.srcReg GSrc.val Crew.laneSrc
  cases wide with
  | false => simp [readBank_val h]
  | true => simp [readBank_val h]

theorem ofW32_val (x : W32) (j : Nat) : (GSrc.ofW32 x).val j = x.toNat := by simp [GSrc.ofW32, GSrc.val]

theorem ofW64_val (x : W64) (j : Nat) : (GSrc.ofW64 x).val j = x.toNat := by
  simp only [GSrc.ofW64, GSrc.val, uni_val, BitVec.extractLsb'_toNat]
  omega

theorem srcBG_val {act : W32} {j : Nat} (h : act.getLsbD j = true) (c : Crew) (p : Path) (o : OpA) (w : LaneA) (g : Nat)
    (hb : o.bUse = .src ∨ o.bUse = .uni) : (srcBG c p w w.ty.is64 act g).val j = laneB c p o w g j := by
  unfold srcBG laneB
  rw [if_pos hb]
  cases w.b with
  | reg r => exact srcReg_val h c _ _ g
  | sreg r => cases w.ty.is64 <;> simp [ofW64_val, ofW32_val]
  | imm k =>
    by_cases h64 : w.ty = .i64
    · simp [h64, Ty.is64, ofW64_val]
    · cases w.ty.is64 <;> simp [h64, ofW64_val, ofW32_val]
      omega
  | lit l0 l1 _ => cases w.ty.is64 <;> simp [GSrc.val, GSrc.ofW32]

theorem srcCG_val {act : W32} {j : Nat} (h : act.getLsbD j = true) (c : Crew) (o : OpA) (w : LaneA) (g : Nat)
    (hc : o.cUse = .vec) : (srcCG c w w.ty.is64 act g).val j = laneC c o w g j := by
  unfold srcCG laneC
  rw [if_pos hc]
  cases w.b with
  | lit l0 l1 _ => cases w.ty.is64 <;> simp [ofW32_val, srcReg_val h]
  | _ => exact srcReg_val h c _ _ g

/-! ### Uniform sources (R111) -/

/-- The source is the same in every lane. -/
def GSrc.Flat (x : GSrc) : Prop := ∀ j k, x.val j = x.val k

theorem ofW32_flat (x : W32) : (GSrc.ofW32 x).Flat := fun _ _ => by rw [ofW32_val, ofW32_val]

theorem tag_eq_one {r : GReg} : r.tag = 1 ↔ ∃ u, r = .uni u := by
  cases r <;> simp [GReg.tag]

theorem one_le_tag (r : GReg) : 1 ≤ r.tag := by
  cases r <;> simp [GReg.tag]

/-- A source of the uniform tag is the same in every lane. -/
theorem flat_of_tag {x : GSrc} {wide : Bool} (hn : wide = false → x.hi = .uni 0)
    (ht : (if wide then max x.lo.tag x.hi.tag else x.lo.tag) = 1) : x.Flat := by
  have hi := one_le_tag x.hi
  have lo := one_le_tag x.lo
  obtain ⟨hlo, hhi⟩ : x.lo.tag = 1 ∧ x.hi.tag = 1 := by
    cases wide with
    | false => exact ⟨ht, by rw [hn rfl]; rfl⟩
    | true => simp at ht; omega
  obtain ⟨u, hu⟩ := tag_eq_one.mp hlo
  obtain ⟨v, hv⟩ := tag_eq_one.mp hhi
  intro j k
  simp [GSrc.val, hu, hv]

theorem srcReg_narrow (c : Crew) (act : W32) (v g : Nat) : (c.srcReg false act v g).hi = .uni 0 := rfl

theorem srcBG_narrow (c : Crew) (p : Path) (w : LaneA) (act : W32) (g : Nat) : (srcBG c p w false act g).hi = .uni 0 := by
  unfold srcBG
  cases w.b <;> rfl

theorem srcCG_narrow (c : Crew) (w : LaneA) (act : W32) (g : Nat) : (srcCG c w false act g).hi = .uni 0 := by
  unfold srcCG
  cases w.b <;> rfl

/-! ### The three sources of a pass -/

/-- Source a, b or c (n = 0, 1, 2) of a pass, zero where the word has none. -/
def sourceA (c : Crew) (p : Path) (o : OpA) (w : LaneA) (act : W32) (g n : Nat) : GSrc :=
  (sourcesA c p o w act g).1.getD n (.ofW32 0)

section Sources
variable {act : W32} {j : Nat} (c : Crew) (p : Path) (o : OpA) (w : LaneA) (g : Nat)

theorem sourceA_val_a (h : act.getLsbD j = true) : (sourceA c p o w act g 0).val j = laneA c o w g j := by
  simp only [sourceA, sourcesA, List.getD_cons_zero]
  unfold laneA
  split
  · exact srcReg_val h c _ _ g
  · simp [ofW32_val]

theorem sourceA_val_b (h : act.getLsbD j = true) : (sourceA c p o w act g 1).val j = laneB c p o w g j := by
  simp only [sourceA, sourcesA, List.getD_cons_zero, List.getD_cons_succ]
  split
  next hb => exact srcBG_val h c p o w g hb
  next hb => rw [laneB, if_neg hb, ofW32_val]; rfl

theorem sourceA_val_c (h : act.getLsbD j = true) : (sourceA c p o w act g 2).val j = laneC c o w g j := by
  simp only [sourceA, sourcesA, List.getD_cons_zero, List.getD_cons_succ]
  split
  next hc => exact srcCG_val h c o w g hc
  next hc => rw [laneC, if_neg hc, ofW32_val]; rfl

/-- Where every source that the word has is uniform, all three are the same in every lane. -/
theorem sourceA_flat (act : W32) (ht : (sourcesA c p o w act g).2.all (· == 1) = true) (n : Nat) : (sourceA c p o w act g n).Flat := by
  simp only [sourcesA, List.all_append, Bool.and_eq_true] at ht
  obtain ⟨⟨ha, hb⟩, hc⟩ := ht
  match n with
  | 0 =>
    simp only [sourceA, sourcesA, List.getD_cons_zero]
    split
    next h =>
      simp only [h, if_true, List.all_cons, List.all_nil, Bool.and_true, beq_iff_eq] at ha
      exact flat_of_tag (fun hn => by rw [hn]; exact srcReg_narrow c act _ g) ha
    next => exact ofW32_flat 0
  | 1 =>
    simp only [sourceA, sourcesA, List.getD_cons_zero, List.getD_cons_succ]
    split
    next h =>
      simp only [h, if_true, List.all_cons, List.all_nil, Bool.and_true, beq_iff_eq] at hb
      exact flat_of_tag (fun hn => by rw [hn]; exact srcBG_narrow c p w act g) hb
    next => exact ofW32_flat 0
  | 2 =>
    simp only [sourceA, sourcesA, List.getD_cons_zero, List.getD_cons_succ]
    split
    next h =>
      simp only [h, if_true, List.all_cons, List.all_nil, Bool.and_true, beq_iff_eq] at hc
      exact flat_of_tag (fun hn => by rw [hn]; exact srcCG_narrow c w act g) hc
    next => exact ofW32_flat 0
  | n + 3 => exact ofW32_flat 0

end Sources

/-! ### The result of a pass -/

/-- The pass of group g. -/
def elemPass (c : Crew) (p : Path) (o : OpA) (w : LaneA) (cls : TagClass) (wide : Bool) (sel : Mask) (val : Nat → Nat → Nat → Nat)
    (g : Nat) : PassOut :=
  let act := c.groupWord sel g
  passOut c g act (OpA.writes o w) (shapesOf act wide ((cls.inForce w).tag (sourcesA c p o w act g).2)
    (lanePats act fun j =>
      val ((sourceA c p o w act g 0).val j) ((sourceA c p o w act g 1).val j) ((sourceA c p o w act g 2).val j)))

theorem elemPasses_eq (c : Crew) (p : Path) (o : OpA) (w : LaneA) (cls : TagClass) (wide : Bool) (sel : Mask)
    (val : Nat → Nat → Nat → Nat) :
    elemPasses c p o w cls wide sel val = (c.passes sel).map (elemPass c p o w cls wide sel val) := rfl

/-- A shape of the uniform tag, whose lanes have one value, or of the general tag, holds the value of every active lane (R111, R112). -/
theorem passShape_val {act : W32} {j tag : Nat} {f : Nat → Nat} (h : act.getLsbD j = true)
    (ht : (tag = 1 ∧ ∀ a b, f a = f b) ∨ tag = 3) (k : Nat → W32) :
    (GReg.mk (if act = BitVec.allOnes 32 then tag else 3) ((lanePats act f).map k)).val j = k (f j) := by
  have hj : j < 32 := BitVec.lt_of_getLsbD h
  have hgen : (GReg.mk 3 ((lanePats act f).map k)).val j = k (f j) := by
    simp [GReg.mk, lanePats, hj, h]
  split
  next hall =>
    rcases ht with ⟨rfl, hf⟩ | rfl
    · have h0 : act.getLsbD 0 = true := by rw [hall]; rfl
      simp [GReg.mk, lanePats, h0, hf 0 j]
    · exact hgen
  next => exact hgen

theorem w32_toNat_add_high (x : Nat) : (w32 x).toNat + (w32 (x / 2 ^ 32)).toNat * 2 ^ 32 = x % 2 ^ 64 := by
  simp only [BitVec.toNat_ofNat]
  omega

/-- The parts of one and of two destinations, under any weights. -/
theorem foldl_parts_one (W : Nat → Nat) (a : Nat) (r : GReg) (j : Nat) :
    ([(a, r)].zipIdx).foldl (fun x o => x + (o.1.2.val j).toNat * W o.2) 0 = (r.val j).toNat * W 0 := by simp

theorem foldl_parts_two (W : Nat → Nat) (a b : Nat) (r u : GReg) (j : Nat) :
    ([(a, r), (b, u)].zipIdx).foldl (fun x o => x + (o.1.2.val j).toNat * W o.2) 0
      = (r.val j).toNat * W 0 + (u.val j).toNat * W 1 := by simp

theorem valIn_one (g : Nat) (act : W32) (a : Nat) (r : GReg) (j : Nat) :
    (PassOut.mk g act [(a, r)]).valIn j = (r.val j).toNat :=
  (foldl_parts_one (fun k => 2 ^ (32 * k)) a r j).trans (Nat.mul_one _)

theorem valIn_two (g : Nat) (act : W32) (a b : Nat) (r u : GReg) (j : Nat) :
    (PassOut.mk g act [(a, r), (b, u)]).valIn j = (r.val j).toNat + (u.val j).toNat * 2 ^ 32 := by
  refine (foldl_parts_two (fun k => 2 ^ (32 * k)) a b r u j).trans ?_
  rw [Nat.mul_zero, Nat.pow_zero, Nat.mul_one, Nat.mul_one]

/-- The parts that a pass writes in an active lane are those of the lane's value. -/
theorem passOut_valIn {act : W32} {j tag : Nat} {f : Nat → Nat} {dests : List Nat} (h : act.getLsbD j = true)
    (ht : (tag = 1 ∧ ∀ a b, f a = f b) ∨ tag = 3) (hd : dests.length = 1 ∨ dests.length = 2) (c : Crew) (g : Nat) :
    (passOut c g act dests (shapesOf act (decide (dests.length = 2)) tag (lanePats act f))).valIn j
      = f j % 2 ^ (32 * dests.length) := by
  have hlo := passShape_val h ht fun x => w32 x
  have hhi := passShape_val h ht fun x => w32 (x / 2 ^ 32)
  match dests, hd with
  | [a], _ =>
    have hv : (passOut c g act [a] (shapesOf act false tag (lanePats act f))).valIn j = (w32 (f j)).toNat := by
      rw [← hlo]
      exact valIn_one _ _ _ _ _
    simpa using hv
  | [a, b], _ =>
    have hv : (passOut c g act [a, b] (shapesOf act true tag (lanePats act f))).valIn j
        = (w32 (f j)).toNat + (w32 (f j / 2 ^ 32)).toNat * 2 ^ 32 := by
      rw [← hlo, ← hhi]
      exact valIn_two _ _ _ _ _ _ _
    rw [w32_toNat_add_high] at hv
    simpa using hv

theorem elementwise_dUse {ins : Instr} {e : Elementwise} (h : elementwise ins = some e) : e.o.dUse ≠ .none := by
  cases ins <;> cases h <;> exact nofun

/-- A word that computes lane by lane writes one register or a pair. -/
theorem elementwise_writes_length {ins : Instr} {e : Elementwise} (h : elementwise ins = some e) :
    (OpA.writes e.o e.w).length = 1 ∨ (OpA.writes e.o e.w).length = 2 := by
  have hpair : ∀ wide v, (regPair wide v).length = 1 ∨ (regPair wide v).length = 2 := by
    intro wide v
    cases wide <;> simp [regPair]
  unfold OpA.writes
  split
  next hd => exact absurd hd (elementwise_dUse h)
  · exact hpair _ _
  · exact .inl rfl
  · exact .inl rfl

/-- A long-latency word has the tag class of the words that compute each lane by itself (R43, R111). -/
theorem elementwise_long_cls {ins : Instr} {e : Elementwise} (h : elementwise ins = some e) (hl : e.long = true) :
    e.cls = .elementwise := by
  cases ins <;> cases h <;> simp_all [Elementwise.long]

/-- Such a class makes a result uniform or general, and uniform only where every source is (R111). -/
theorem elementwise_tag (w : LaneA) (ts : List Nat) :
    ((TagClass.elementwise.inForce w).tag ts = 1 ∧ ts.all (· == 1) = true) ∨ (TagClass.elementwise.inForce w).tag ts = 3 := by
  simp only [TagClass.inForce, TagClass.tag]
  split
  next h => exact .inl ⟨rfl, h⟩
  next => exact .inr rfl

/-- A pass of a long-latency word holds its values (R43, R84). -/
theorem elemPass_valIn {ins : Instr} {e : Elementwise} (he : elementwise ins = some e) (hl : e.long = true) (c : Crew) (p : Path)
    (sel : Mask) {g j : Nat} (h : (c.groupWord sel g).getLsbD j = true) :
    (elemPass c p e.o e.w e.cls (decide ((OpA.writes e.o e.w).length = 2)) sel e.val g).valIn j
      = e.at_ c p g j % 2 ^ (32 * (OpA.writes e.o e.w).length) := by
  have htag := elementwise_tag e.w (sourcesA c p e.o e.w (c.groupWord sel g) g).2
  rw [elemPass, elementwise_long_cls he hl, passOut_valIn h ?_ (elementwise_writes_length he), sourceA_val_a c p e.o e.w g h,
    sourceA_val_b c p e.o e.w g h, sourceA_val_c c p e.o e.w g h]
  · rfl
  · refine htag.imp_left fun ⟨h1, hall⟩ => ⟨h1, fun a b => ?_⟩
    have flat := sourceA_flat c p e.o e.w g (c.groupWord sel g) hall
    rw [flat 0 a b, flat 1 a b, flat 2 a b]

/-! ### The values of all passes -/

/-- A team lane names its group and its lane in the group. -/
theorem teamLane_inj {a b j k : Nat} (hj : j < 32) (hk : k < 32) (h : 32 * a + j = 32 * b + k) : a = b ∧ j = k := by omega

section Values
variable (first : Nat) (q : PassOut) {js : List Nat} {g j : Nat}

/-- The values with those of one pass, over some of its lanes. -/
def PassOut.putVals (first : Nat) (q : PassOut) (js : List Nat) (m : SMap Nat) : SMap Nat :=
  js.foldl (fun m j => if q.act.getLsbD j then SMap.set 0 m (32 * (first + q.g) + j) (q.valIn j) else m) m

theorem get_putVals (hjs : ∀ k ∈ js, k < 32) (hj : j < 32) (m : SMap Nat) :
    SMap.get 0 (q.putVals first js m) (32 * (first + g) + j)
      = if q.g = g ∧ j ∈ js ∧ q.act.getLsbD j = true then q.valIn j else SMap.get 0 m (32 * (first + g) + j) := by
  induction js generalizing m with
  | nil => simp [PassOut.putVals]
  | cons k ks ih =>
    have hk : k < 32 := hjs k List.mem_cons_self
    have step := ih (fun k hk => hjs k (List.mem_cons_of_mem _ hk))
      (if q.act.getLsbD k then SMap.set 0 m (32 * (first + q.g) + k) (q.valIn k) else m)
    refine step.trans ?_
    by_cases hset : q.g = g ∧ k = j ∧ q.act.getLsbD j = true
    · obtain ⟨rfl, rfl, hact⟩ := hset
      simp [hact]
    · have hold : SMap.get 0 (if q.act.getLsbD k then SMap.set 0 m (32 * (first + q.g) + k) (q.valIn k) else m) (32 * (first + g) + j)
          = SMap.get 0 m (32 * (first + g) + j) := by
        split
        next hact =>
          refine smap_get_set_ne _ _ _ fun e => hset ?_
          obtain ⟨e1, rfl⟩ := teamLane_inj hj hk e
          exact ⟨by omega, rfl, hact⟩
        next => rfl
      have hmem : (q.g = g ∧ j ∈ k :: ks ∧ q.act.getLsbD j = true) ↔ (q.g = g ∧ j ∈ ks ∧ q.act.getLsbD j = true) := by
        constructor
        · rintro ⟨hg, hjk, hact⟩
          rcases List.mem_cons.mp hjk with rfl | hjk
          · exact absurd ⟨hg, rfl, hact⟩ hset
          · exact ⟨hg, hjk, hact⟩
        · exact fun ⟨hg, hjk, hact⟩ => ⟨hg, List.mem_cons_of_mem _ hjk, hact⟩
      rw [hold]
      simp only [hmem]

/-- Passes of other groups leave a lane's value. -/
theorem get_foldl_putVals_ne (qs : List PassOut) (hg : ∀ q ∈ qs, q.g ≠ g) (hj : j < 32) (m : SMap Nat) :
    SMap.get 0 (qs.foldl (fun m q => q.putVals first (List.range 32) m) m) (32 * (first + g) + j)
      = SMap.get 0 m (32 * (first + g) + j) := by
  induction qs generalizing m with
  | nil => rfl
  | cons q qs ih =>
    refine (ih (fun r hr => hg r (List.mem_cons_of_mem _ hr)) _).trans ?_
    rw [get_putVals first q (fun k hk => List.mem_range.mp hk) hj, if_neg]
    exact fun h => hg q List.mem_cons_self h.1

end Values

theorem get_foldl_putVals (first : Nat) {qs : List PassOut} (hq : (qs.map (·.g)).Nodup) {q : PassOut} (hm : q ∈ qs) {j : Nat}
    (h : q.act.getLsbD j = true) (m : SMap Nat) :
    SMap.get 0 (qs.foldl (fun m q => q.putVals first (List.range 32) m) m) (32 * (first + q.g) + j) = q.valIn j := by
  have hj : j < 32 := BitVec.lt_of_getLsbD h
  induction qs generalizing m with
  | nil => exact absurd hm List.not_mem_nil
  | cons r qs ih =>
    obtain ⟨hr, hq⟩ := List.nodup_cons.mp hq
    rcases List.mem_cons.mp hm with rfl | hm
    · have hne : ∀ r ∈ qs, r.g ≠ q.g := fun r hr' e => hr (List.mem_map.mpr ⟨r, hr', e⟩)
      refine (get_foldl_putVals_ne first qs hne hj _).trans ?_
      rw [get_putVals first q (fun k hk => List.mem_range.mp hk) hj, if_pos ⟨rfl, List.mem_range.mpr hj, h⟩]
    · exact ih hq hm _

/-- Every active lane of a pass holds what the pass writes there. -/
theorem get_passVals (first : Nat) {qs : List PassOut} (hq : (qs.map (·.g)).Nodup) {q : PassOut} (hm : q ∈ qs) {j : Nat}
    (h : q.act.getLsbD j = true) : SMap.get 0 (passVals first qs) (32 * (first + q.g) + j) = q.valIn j :=
  get_foldl_putVals first hq hm h []

/-- A group with a selected lane takes a pass (R84). -/
theorem mem_passes {c : Crew} {sel : Mask} {g j : Nat} (hg : g < c.groups) (h : c.selects sel g j) : g ∈ c.passes sel := by
  refine List.mem_filter.mpr ⟨List.mem_range.mpr hg, ?_⟩
  rw [bne_iff_ne]
  intro h0
  rw [Crew.selects, h0] at h
  simp at h

theorem nodup_passes (c : Crew) (sel : Mask) : (c.passes sel).Nodup := List.nodup_range.filter _

/-- The values with which a long-latency word goes in flight (R43, R84). -/
theorem elemPasses_vals {ins : Instr} {e : Elementwise} (he : elementwise ins = some e) (hl : e.long = true) (c : Crew) (p : Path)
    {sel : Mask} {g j : Nat} (hg : g < c.groups) (h : c.selects sel g j) :
    SMap.get 0 (passVals c.first (elemPasses c p e.o e.w e.cls (decide ((OpA.writes e.o e.w).length = 2)) sel e.val))
        (32 * (c.first + g) + j)
      = e.at_ c p g j % 2 ^ (32 * (OpA.writes e.o e.w).length) := by
  rw [elemPasses_eq]
  have hnd : (((c.passes sel).map (elemPass c p e.o e.w e.cls (decide ((OpA.writes e.o e.w).length = 2)) sel e.val)).map (·.g)).Nodup := by
    simpa [Function.comp_def, elemPass, passOut] using nodup_passes c sel
  exact (get_passVals c.first hnd (List.mem_map_of_mem (mem_passes hg h)) h).trans (elemPass_valIn he hl c p sel h)

end Sys2Proof.Machine

end

section

/-! SUPPORT. The bank units that the passes of a long-latency word reserve (R114, R118), and such a word in flight. -/

namespace Sys2Proof.Machine

/-! ### Reserving units one pass after another -/

/-- Reservations that all fit are all made. -/
theorem reserveSome_fits {rs : List (Nat × Nat)} {free : Nat} (h : (rs.map (·.2)).sum ≤ free) : reserveSome free rs = (rs, []) := by
  induction rs generalizing free with
  | nil => rfl
  | cons r rs ih =>
    simp only [List.map_cons, List.sum_cons] at h
    rw [reserveSome, if_neg (by omega), ih (by omega)]

/-- Of reservations that do not all fit, some must wait. -/
theorem reserveSome_waits {rs : List (Nat × Nat)} {free : Nat} (h : free < (rs.map (·.2)).sum) : (reserveSome free rs).2 ≠ [] := by
  induction rs generalizing free with
  | nil => simp at h
  | cons r rs ih =>
    simp only [List.map_cons, List.sum_cons] at h
    rw [reserveSome]
    split
    · exact List.cons_ne_nil _ _
    · exact ih (by omega)

/-! ### The free units of a core after a change of a crew that keeps them -/

theorem insertBy_map {α : Type} {key : α → Nat} {f : α → α} (hf : ∀ x, key (f x) = key x) (x : α) (xs : List α) :
    insertBy key (f x) (xs.map f) = (insertBy key x xs).map f := by
  induction xs with
  | nil => rfl
  | cons y ys ih =>
    simp only [List.map_cons, insertBy, hf]
    split
    · rfl
    · simp [ih]

theorem sortBy_map {α : Type} {key : α → Nat} {f : α → α} (hf : ∀ x, key (f x) = key x) (xs : List α) :
    sortBy key (xs.map f) = (sortBy key xs).map f := by
  have gen : ∀ acc : List α, (xs.map f).foldl (fun acc x => insertBy key x acc) (acc.map f)
      = (xs.foldl (fun acc x => insertBy key x acc) acc).map f := by
    induction xs with
    | nil => exact fun _ => rfl
    | cons x xs ih =>
      intro acc
      rw [List.map_cons, List.foldl_cons, List.foldl_cons, insertBy_map hf, ih]
  exact gen []

/-- A change that keeps a crew's place and its units. -/
structure KeepsUnits (f : Crew → Crew) : Prop where
  slot     : ∀ c, (f c).slot = c.slot
  retired  : ∀ c, (f c).retired = c.retired
  team     : ∀ c, (f c).team = c.team
  held     : ∀ c, (f c).held = c.held
  reserved : ∀ c, (f c).reserved = c.reserved

theorem KeepsUnits.on {f : Crew → Crew} (h : KeepsUnits f) (id : Nat) : KeepsUnits fun c => if c.id == id then f c else c where
  slot c := by split <;> simp [h.slot]
  retired c := by split <;> simp [h.retired]
  team c := by split <;> simp [h.team]
  held c := by split <;> simp [h.held]
  reserved c := by split <;> simp [h.reserved]

theorem coreCrews_modCrew {f : Crew → Crew} (h : KeepsUnits f) (s : State) (id core : Nat) :
    (s.modCrew id f).coreCrews core = (s.coreCrews core).map fun c => if c.id == id then f c else c := by
  have hg := h.on id
  simp only [State.coreCrews, modCrew_crews]
  rw [List.filter_map, ← sortBy_map hg.slot]
  congr 2
  apply List.filter_congr
  intro c _
  simp only [Function.comp_apply, hg.retired, hg.team]
  rfl

theorem freeUnits_modCrew {f : Crew → Crew} (h : KeepsUnits f) (s : State) (id core : Nat) :
    (s.modCrew id f).freeUnits core = s.freeUnits core := by
  have hg := h.on id
  simp only [State.freeUnits, coreCrews_modCrew h, List.foldl_map, hg.held, hg.reserved]

theorem crewFree_modCrew {f : Crew → Crew} (h : KeepsUnits f) (s : State) (id : Nat) (c : Crew) :
    (s.modCrew id f).crewFree c = s.crewFree c := by
  unfold State.crewFree
  rw [show (s.modCrew id f).coreOf c.team = s.coreOf c.team from rfl]
  split
  · exact freeUnits_modCrew h s id _
  · rfl

theorem foldl_modAt {α β : Type} {g : β → α → β} {f : α → α} (hf : ∀ b x, g b (f x) = g b x) (xs : List α) (i : Nat) (b : β) :
    (modAt xs i f).foldl g b = xs.foldl g b := by
  induction xs generalizing i b with
  | nil => rfl
  | cons x xs ih =>
    cases i with
    | zero => simp [modAt, hf]
    | succ i => exact ih i _

theorem keepsUnits_entered (h : Hdr) (i : Nat) (p : Path) : KeepsUnits (Crew.entered h i p) where
  slot _ := rfl
  retired _ := rfl
  team _ := rfl
  held _ := rfl
  reserved c := foldl_modAt (f := (p.entered h).inSegment) (fun _ _ => rfl) c.paths i _

theorem crewFree_entered (s : State) (h : Hdr) (c : Crew) (i : Nat) (p : Path) : (s.entered h c i p).crewFree c = s.crewFree c :=
  crewFree_modCrew (keepsUnits_entered h i p) s c.id c

/-! ### A long-latency word in flight, or waiting for units -/

/-- The passes that have made no reservation yet (R118). -/
def Path.unreserved (p : Path) (rs : List (Nat × Nat)) : List (Nat × Nat) := rs.filter fun r => !p.keptUnits.any fun k => k.1 == r.1

section Launch
variable {s : State} {c : Crew} {i : Nat} {p : Path} {h : Hdr} {rs : List (Nat × Nat)}

theorem reserveAll_entered (hi : Issuing s c i p) :
    (s.entered h c i p).reserveAll c rs =
      let q := reserveSome (s.crewFree c) (p.unreserved rs)
      if q.2.isEmpty then .ok (p.keptUnits ++ q.1) else .error (p.keptUnits ++ q.1) := by
  rw [State.reserveAll, curPath_of (issuing_entered hi h), path_of_entry hi.entry, crewFree_entered]
  rfl

/-- Where the units suffice, every pass has its reservation. -/
theorem reserveAll_ok (hi : Issuing s c i p) (hr : ((p.unreserved rs).map (·.2)).sum ≤ s.crewFree c) :
    (s.entered h c i p).reserveAll c rs = .ok (p.keptUnits ++ p.unreserved rs) := by
  rw [reserveAll_entered hi, reserveSome_fits hr]
  rfl

/-- Where they do not, some pass must wait. -/
theorem reserveAll_error (hi : Issuing s c i p) (hr : s.crewFree c < ((p.unreserved rs).map (·.2)).sum) :
    ∃ kept, (s.entered h c i p).reserveAll c rs = .error kept := by
  rw [reserveAll_entered hi]
  exact ⟨_, if_neg (by simpa [List.isEmpty_iff] using reserveSome_waits hr)⟩

end Launch

/-- The path that waits for units keeps its place. -/
theorem launchWord_waits {s : State} {c : Crew} {i : Nat} {p : Path} {h : Hdr} (hi : Issuing s c i p) (size : Nat) (info : LaneInfo)
    (w : Word) (hr : s.crewFree c < ((p.unreserved (reservations c w.lanes w.dests)).map (·.2)).sum) :
    ∃ kept, launchWord (s.entered h c i p) c size info w = .next (s.modCrew c.id fun d => d.modPath i fun q =>
      { (p.entered h).inSegment q with wait := some stRegs, want := some (.kept kept) }) := by
  obtain ⟨kept, hk⟩ := reserveAll_error (h := h) hi hr
  refine ⟨kept, ?_⟩
  rw [launchWord, hk]
  refine congrArg Host.Outcome.next ((modCurPath_of (issuing_entered hi h) _).trans ?_)
  refine (modCrew_modCrew (f := Crew.entered h i p) (fun _ => rfl) s c.id).trans ?_
  simp only [Crew.entered, modPath_modPath]

/-- The next number of a word is taken. -/
def State.counted (s : State) : State := { s with nextId := s.nextId + 1 }

/-- The crew with one more word in flight. -/
def Crew.withWord (w : Word) (d : Crew) : Crew := { d with words := d.words ++ [w] }

theorem issuing_counted {s : State} {c : Crew} {i : Nat} {p : Path} (h : Issuing s c i p) : Issuing s.counted c i p :=
  ⟨h.cur, h.crew, h.entry⟩

/-- The word with its reservations (R118). -/
def Word.reserving (w : Word) (c : Crew) (p : Path) : Word :=
  { w with resv := p.keptUnits ++ p.unreserved (reservations c w.lanes w.dests) }

/-- The path past a long-latency word that it has launched (R46, R91). -/
def Path.launched (p : Path) (h : Hdr) (c : Crew) (info : LaneInfo) (size : Nat) (q : Path) : Path :=
  (((p.entered h).inSegment q).intoSegment c info).pastLane size

/-- The word goes in flight with its reservations, and its path goes on. -/
theorem launchWord_goes {s : State} {c : Crew} {i : Nat} {p : Path} {h : Hdr} (hi : Issuing s c i p) (size : Nat) (info : LaneInfo)
    (w : Word) (hr : ((p.unreserved (reservations c w.lanes w.dests)).map (·.2)).sum ≤ s.crewFree c) :
    launchWord (s.entered h c i p) c size info w
      = .next (s.counted.modCrew c.id fun d => (d.withWord (w.reserving c p)).modPath i (p.launched h c info size)) := by
  have hent := issuing_entered (issuing_counted hi) h
  have hword : Issuing ((s.counted.entered h c i p).modCrew c.id (Crew.withWord (w.reserving c p)))
      ((c.entered h i p).withWord (w.reserving c p)) i (p.entered h) :=
    hent.modCrew (fun _ => rfl) hent.entry
  rw [launchWord, reserveAll_ok hi hr]
  refine congrArg Host.Outcome.next ((modCurPath_of hword _).trans ?_)
  refine (modCrew_modCrew (f := Crew.withWord (w.reserving c p)) (fun _ => rfl) (s.counted.entered h c i p) c.id).trans ?_
  refine (modCrew_modCrew (f := Crew.entered h i p) (fun _ => rfl) s.counted c.id).trans ?_
  refine congrArg _ (funext fun d => ?_)
  have := modPath_modPath (d.withWord (w.reserving c p)) i (p.entered h).inSegment fun q => (q.intoSegment c info).pastLane size
  exact this

/-- A launched word leaves its path past it. -/
theorem pastLane_launched (p : Path) (h : Hdr) (c : Crew) (info : LaneInfo) (size : Nat) :
    PastLane p (p.launched h c info size p) size := by
  have hseg : ∃ sw sb, ((p.entered h).inSegment p).intoSegment c info = { p with segW := sw, segB := sb, newSeg := false } := by
    unfold Path.intoSegment Path.inSegment
    split
    · exact ⟨_, _, rfl⟩
    · exact ⟨_, _, rfl⟩
  obtain ⟨sw, sb, he⟩ := hseg
  rw [Path.launched, he, pastLane_segment]
  rfl

/-- A word that computes lane by lane reads nothing that beginning a segment changes. -/
theorem at_entered (e : Elementwise) (c : Crew) (p : Path) (h : Hdr) : e.at_ c (p.entered h) = e.at_ c p := by
  unfold Path.entered
  split <;> rfl

theorem longWordsGoInFlight : Claims.LongWordsGoInFlight := by
  intro ins e s c i p he hl hready sel all rest
  have hi := hready.path
  let qs := elemPasses c (p.entered e.w.h) e.o e.w e.cls (decide ((OpA.writes e.o e.w).length = 2)) sel e.val
  let w := elemWord ins e c (p.entered e.w.h) sel (s.entered e.w.h c i p) qs
  have hexec : exec ins s = launchWord (s.entered e.w.h c i p) c ins.size (e.info ins) w := by
    rw [exec_elementwise he, laneWord_ready hready rfl]
    simp only [elementwise_info_h, elemBody, hl, if_true]
    rfl
  constructor
  · intro hr
    obtain ⟨kept, hk⟩ := launchWord_waits (h := e.w.h) hi ins.size (e.info ins) w hr
    let f : Path → Path := fun q => { (p.entered e.w.h).inSegment q with wait := some stRegs, want := some (.kept kept) }
    refine ⟨_, completes_of_modCrew hi (f := fun d => d.modPath i f) (fun _ => rfl) (hexec.trans hk), rfl, ?_⟩
    rw [path_modPath_self hi.entry]
    exact ⟨rfl, rfl, rfl⟩
  · intro hr
    let f : Crew → Crew := fun d => (d.withWord (w.reserving c p)).modPath i (p.launched e.w.h c (e.info ins) ins.size)
    have hk : exec ins s = .next (s.counted.modCrew c.id f) := hexec.trans (launchWord_goes hi ins.size (e.info ins) w hr)
    have hpath : (f c).path i = p.launched e.w.h c (e.info ins) ins.size p := path_modPath_self hi.entry _
    have hwpath : w.path = i := curPath_of (issuing_entered hi e.w.h)
    refine ⟨_, f c, w.reserving c p, hk, rfl, crewOf_modCrew_self (f := f) (fun _ => rfl) (issuing_counted hi).crew, rfl, ?_,
      rfl, hwpath, rfl, hl, rfl, rfl, rfl, rfl, ?_⟩
    · rw [hpath]
      exact pastLane_launched p e.w.h c (e.info ins) ins.size
    · intro g j hg _ hsel
      have := elemPasses_vals he hl c (p.entered e.w.h) hg hsel
      rwa [at_entered] at this

end Sys2Proof.Machine

end

section

/-! SUPPORT. What a pass writes in a lane, and the write-back of a long-latency word (R43, R111, R112, R133). -/

namespace Sys2Proof.Machine

/-! ### A pass writes its lanes -/

/-- A group-register after a write holds the written value in the lanes written, and its own in the others (R112). -/
theorem merge_val (old shape : GReg) (act : W32) {j : Nat} (hj : j < 32) :
    (old.merge shape act).val j = if act.getLsbD j then shape.val j else old.val j := by
  unfold GReg.merge
  split
  next h => rw [h, BitVec.getLsbD_allOnes, decide_eq_true hj]; rfl
  next => simp [mixRegs, hj]

/-- The same window of the same lanes is open in both crews, and they have the same groups (R130, R133). -/
structure SameBank (c d : Crew) : Prop where
  rest   : d = { c with v := d.v, prop := d.prop }
  window : d.prop.map (fun w => (w.base, w.len, w.lanes)) = c.prop.map (fun w => (w.base, w.len, w.lanes))

theorem SameBank.refl (c : Crew) : SameBank c c := ⟨rfl, rfl⟩

theorem SameBank.trans {c d e : Crew} (h : SameBank c d) (k : SameBank d e) : SameBank c e where
  rest := by rw [k.rest, h.rest]
  window := k.window.trans h.window

theorem sameBank_setLive (c : Crew) (p g : Nat) (r : GReg) : SameBank c (c.setLive p g r) := ⟨rfl, rfl⟩

theorem sameBank_setShadow (c : Crew) (i g : Nat) (r : GReg) : SameBank c (c.setShadow i g r) := by
  unfold Crew.setShadow
  split
  next w h => exact ⟨rfl, by simp [h]⟩
  next => exact SameBank.refl c

theorem sameBank_writePass (c : Crew) (sh act : W32) (p g : Nat) (shape : GReg) : SameBank c (c.writePass sh act p g shape) := by
  unfold Crew.writePass
  split
  · exact SameBank.refl c
  · split
    next w i _ _ =>
      have h1 : SameBank c (if act &&& sh = 0 then c else c.setShadow i g ((w.shadowReg i g).merge shape (act &&& sh))) := by
        split
        · exact SameBank.refl c
        · exact sameBank_setShadow _ _ _ _
      dsimp only
      split
      · exact h1
      · exact h1.trans (sameBank_setLive _ _ _ _)
    · exact sameBank_setLive _ _ _ _

theorem SameBank.propWord {c d : Crew} (h : SameBank c d) (g : Nat) : d.propWord g = c.propWord g := by
  have hw := h.window
  have hgw : ∀ m, d.groupWord m g = c.groupWord m g := by rw [h.rest]; exact fun _ => rfl
  unfold Crew.propWord
  cases hd : d.prop <;> cases hc : c.prop <;> simp_all

theorem SameBank.place {c d : Crew} (h : SameBank c d) (r : Nat) : d.place r = c.place r := by
  have hw := h.window
  unfold Crew.place
  cases hd : d.prop <;> cases hc : c.prop <;> simp_all

/-- Lane j of register r is read in the shadow bank (R133). -/
def Crew.shadowed (c : Crew) (r g j : Nat) : Bool := (c.place r).isSome && (c.propWord g).getLsbD j

theorem SameBank.shadowed {c d : Crew} (h : SameBank c d) (r g j : Nat) : d.shadowed r g j = c.shadowed r g j := by
  unfold Crew.shadowed
  rw [h.place, h.propWord]

theorem place_some {c : Crew} {r i : Nat} (h : c.place r = some i) : ∃ w, c.prop = some w ∧ w.base ≤ r ∧ i = r - w.base := by
  unfold Crew.place at h
  split at h
  next w hw =>
    split at h
    next hr => exact ⟨w, hw, hr.1, (Option.some.inj h).symm⟩
    next => cases h
  next => cases h

theorem readLane_live {c : Crew} {r g j : Nat} (h : c.shadowed r g j = false) : c.readLane r g j = (c.liveReg r g).val j := by
  unfold Crew.readLane
  split
  next w i _ hi =>
    have hj : (c.propWord g).getLsbD j = false := by simpa [Crew.shadowed, hi] using h
    simp [hj]
  next => rfl

theorem readLane_shadow {c : Crew} {r g j i : Nat} {w : Proposal} (hw : c.prop = some w) (hi : c.place r = some i)
    (hj : (c.propWord g).getLsbD j = true) : c.readLane r g j = (w.shadowReg i g).val j := by
  unfold Crew.readLane
  simp [hw, hi, hj]

section Pass
variable {c : Crew} {g k : Nat} (hg : g < 32) (hk : k < 32)
include hg hk

theorem liveReg_setLive (p r : Nat) (x : GReg) :
    (c.setLive p g x).liveReg r k = if r = p ∧ k = g then x else c.liveReg r k := by
  simp only [Crew.setLive, Crew.liveReg, smap_get_set]
  have : 32 * r + k = 32 * p + g ↔ r = p ∧ k = g := by omega
  simp only [this]

theorem shadowReg_setShadow {w : Proposal} (hw : c.prop = some w) (i : Nat) (x : GReg) :
    ∃ u, (c.setShadow i g x).prop = some u ∧ ∀ n, u.shadowReg n k = if n = i ∧ k = g then x else w.shadowReg n k := by
  simp only [Crew.setShadow, hw]
  refine ⟨_, rfl, fun n => ?_⟩
  simp only [Proposal.shadowReg, smap_get_set]
  have : 32 * n + k = 32 * i + g ↔ n = i ∧ k = g := by omega
  simp only [this]

end Pass

/-- A register outside the window is written in the live bank. -/
theorem writePass_outside {c : Crew} {p : Nat} (hp : c.present p = true) (ho : c.place p = none) (sh act : W32) (g : Nat)
    (shape : GReg) : c.writePass sh act p g shape = c.setLive p g ((c.liveReg p g).merge shape act) := by
  simp [Crew.writePass, hp, ho]

/-- The shadow half of a pass over a window register. -/
def Crew.shadowPass (c : Crew) (w : Proposal) (a : W32) (i g : Nat) (shape : GReg) : Crew :=
  if a = 0 then c else c.setShadow i g ((w.shadowReg i g).merge shape a)

/-- The live half of a pass over a window register. -/
def Crew.livePass (c : Crew) (b : W32) (p g : Nat) (shape : GReg) : Crew :=
  if b = 0 then c else c.setLive p g ((c.liveReg p g).merge shape b)

/-- A window register is written in both banks, each in the lanes of the pass that read it. -/
theorem writePass_inside {c : Crew} {p i : Nat} {w : Proposal} (hp : c.present p = true) (hw : c.prop = some w)
    (hi : c.place p = some i) (sh act : W32) (g : Nat) (shape : GReg) :
    c.writePass sh act p g shape = (c.shadowPass w (act &&& sh) i g shape).livePass (act &&& ~~~sh) p g shape := by
  simp only [Crew.writePass, hp, Bool.not_true, Bool.false_eq_true, if_false, hw, hi]
  rfl

section Halves
variable {c : Crew} {g k j : Nat} (hg : g < 32) (hk : k < 32) (hj : j < 32)
include hg hk hj

theorem livePass_liveReg (b : W32) (p r : Nat) (shape : GReg) :
    ((c.livePass b p g shape).liveReg r k).val j
      = if r = p ∧ k = g ∧ b.getLsbD j = true then shape.val j else (c.liveReg r k).val j := by
  unfold Crew.livePass
  split
  next h => simp [h]
  next =>
    rw [liveReg_setLive hg hk]
    by_cases he : r = p ∧ k = g
    · obtain ⟨rfl, rfl⟩ := he
      simp [merge_val _ _ _ hj]
    · rw [if_neg he, if_neg fun h => he ⟨h.1, h.2.1⟩]

theorem shadowPass_shadowReg {w : Proposal} (hw : c.prop = some w) (a : W32) (i : Nat) (shape : GReg) :
    ∃ u, (c.shadowPass w a i g shape).prop = some u ∧ ∀ n, (u.shadowReg n k).val j
      = if n = i ∧ k = g ∧ a.getLsbD j = true then shape.val j else (w.shadowReg n k).val j := by
  unfold Crew.shadowPass
  split
  next h => exact ⟨w, hw, fun n => by simp [h]⟩
  next =>
    obtain ⟨u, hu, hget⟩ := shadowReg_setShadow hg hk hw i ((w.shadowReg i g).merge shape a)
    refine ⟨u, hu, fun n => ?_⟩
    rw [hget]
    by_cases he : n = i ∧ k = g
    · obtain ⟨rfl, rfl⟩ := he
      simp [merge_val _ _ _ hj]
    · rw [if_neg he, if_neg fun h => he ⟨h.1, h.2.1⟩]

end Halves

theorem shadowPass_liveReg (c : Crew) (w : Proposal) (a : W32) (i g : Nat) (shape : GReg) (r k : Nat) :
    (c.shadowPass w a i g shape).liveReg r k = c.liveReg r k := by
  unfold Crew.shadowPass Crew.setShadow Crew.liveReg
  split
  · rfl
  · split <;> rfl

theorem livePass_prop (c : Crew) (b : W32) (p g : Nat) (shape : GReg) : (c.livePass b p g shape).prop = c.prop := by
  unfold Crew.livePass
  split <;> rfl

/-- What a pass leaves in a lane: its shape in the lanes it writes, in the bank that the lane reads (R111, R112, R133). -/
theorem readLane_writePass {c : Crew} {sh act : W32} {p r g k j : Nat} {shape : GReg} (hp : c.present p = true)
    (hsh : c.prop = none ∨ sh = c.propWord g) (hg : g < 32) (hk : k < 32) (hj : j < 32) :
    (c.writePass sh act p g shape).readLane r k j
      = if r = p ∧ k = g ∧ act.getLsbD j = true then shape.val j else c.readLane r k j := by
  have same := sameBank_writePass c sh act p g shape
  cases hs : c.shadowed r k j with
  | false =>
    rw [readLane_live (same.shadowed r k j ▸ hs), readLane_live hs]
    cases hi : c.place p with
    | none =>
      rw [writePass_outside hp hi, liveReg_setLive hg hk]
      by_cases he : r = p ∧ k = g
      · obtain ⟨rfl, rfl⟩ := he
        simp [merge_val _ _ _ hj]
      · rw [if_neg he, if_neg fun h => he ⟨h.1, h.2.1⟩]
    | some i =>
      obtain ⟨w, hw, _, _⟩ := place_some hi
      have hsh : sh = c.propWord g := hsh.resolve_left (by simp [hw])
      rw [writePass_inside hp hw hi, livePass_liveReg hg hk hj, shadowPass_liveReg]
      by_cases he : r = p ∧ k = g
      · obtain ⟨rfl, rfl⟩ := he
        have hout : sh.getLsbD j = false := by simpa [Crew.shadowed, hi, hsh] using hs
        simp only [BitVec.getLsbD_and, BitVec.getLsbD_not, decide_eq_true hj, hout, Bool.not_false, Bool.and_true, true_and]
      · rw [if_neg fun h => he ⟨h.1, h.2.1⟩, if_neg fun h => he ⟨h.1, h.2.1⟩]
  | true =>
    obtain ⟨hplace, hlane⟩ : (c.place r).isSome = true ∧ (c.propWord k).getLsbD j = true := by simpa [Crew.shadowed] using hs
    obtain ⟨n, hn⟩ := Option.isSome_iff_exists.mp hplace
    obtain ⟨w, hw, hbase, hnr⟩ := place_some hn
    rw [readLane_shadow hw hn hlane]
    cases hi : c.place p with
    | none =>
      rw [writePass_outside hp hi]
      have hrp : r ≠ p := fun e => by simp [e, hi] at hn
      rw [if_neg fun h => hrp h.1]
      exact readLane_shadow hw hn hlane
    | some i =>
      obtain ⟨w', hw', hbase', hip⟩ := place_some hi
      obtain rfl : w' = w := Option.some.inj (hw'.symm.trans hw)
      have hsh : sh = c.propWord g := hsh.resolve_left (by simp [hw])
      obtain ⟨u, hu, hget⟩ := shadowPass_shadowReg hg hk hj hw (act &&& sh) i shape
      rw [readLane_shadow (w := u) (i := n) ?_ (same.place r ▸ hn) (same.propWord k ▸ hlane), hget]
      · have hri : n = i ↔ r = p := by omega
        by_cases he : r = p ∧ k = g
        · obtain ⟨rfl, rfl⟩ := he
          simp [hri, hsh, hlane]
        · rw [if_neg fun h => he ⟨hri.mp h.1, h.2.1⟩, if_neg fun h => he ⟨h.1, h.2.1⟩]
      · rw [writePass_inside hp hw hi, livePass_prop, hu]

/-! ### A word's results in one group -/

/-- A word writes its destinations, each with its shape, in one group. -/
def Crew.writeDests (c : Crew) (sh act : W32) (g : Nat) (shape : Nat → GReg) (ds : List (Nat × Nat)) : Crew :=
  ds.foldl (fun c d => c.writePass sh act d.1 g (shape d.2)) c

section Dests
variable {sh act : W32} {g k j r : Nat} {shape : Nat → GReg}

theorem sameBank_writeDests (c : Crew) (ds : List (Nat × Nat)) : SameBank c (c.writeDests sh act g shape ds) := by
  induction ds generalizing c with
  | nil => exact SameBank.refl c
  | cons d ds ih => exact (sameBank_writePass _ _ _ _ _ _).trans (ih _)

theorem SameBank.present {c d : Crew} (h : SameBank c d) (p : Nat) : d.present p = c.present p := by
  rw [h.rest]; rfl

theorem SameBank.bank {c d : Crew} (h : SameBank c d) (hsh : c.prop = none ∨ sh = c.propWord g) :
    d.prop = none ∨ sh = d.propWord g := by
  rw [h.propWord]
  refine hsh.imp_left fun hc => ?_
  have := h.window
  rw [hc] at this
  simpa using this

/-- A lane that no destination covers keeps its value. -/
theorem readLane_writeDests_ne {c : Crew} {ds : List (Nat × Nat)} (hp : ∀ d ∈ ds, c.present d.1 = true)
    (hsh : c.prop = none ∨ sh = c.propWord g) (hg : g < 32) (hk : k < 32) (hj : j < 32)
    (hne : r ∉ ds.map (·.1) ∨ k ≠ g ∨ act.getLsbD j = false) :
    (c.writeDests sh act g shape ds).readLane r k j = c.readLane r k j := by
  induction ds generalizing c with
  | nil => rfl
  | cons d ds ih =>
    have same := sameBank_writePass c sh act d.1 g (shape d.2)
    refine (ih (fun e he => (same.present e.1).trans (hp e (List.mem_cons_of_mem _ he))) (same.bank hsh) ?_).trans ?_
    · exact hne.imp_left fun h hm => h (List.mem_cons_of_mem _ hm)
    · rw [readLane_writePass (hp d List.mem_cons_self) hsh hg hk hj, if_neg]
      rintro ⟨rfl, rfl, hact⟩
      rcases hne with h | h | h
      · exact h List.mem_cons_self
      · exact h rfl
      · simp [hact] at h

/-- A lane of a destination holds its shape's value. -/
theorem readLane_writeDests {c : Crew} {ds : List (Nat × Nat)} (hp : ∀ d ∈ ds, c.present d.1 = true) (hnd : (ds.map (·.1)).Nodup)
    (hsh : c.prop = none ∨ sh = c.propWord g) (hg : g < 32) (hj : j < 32) (hact : act.getLsbD j = true) {d : Nat × Nat}
    (hd : d ∈ ds) : (c.writeDests sh act g shape ds).readLane d.1 g j = (shape d.2).val j := by
  induction ds generalizing c with
  | nil => exact absurd hd List.not_mem_nil
  | cons e ds ih =>
    obtain ⟨he, hnd⟩ := List.nodup_cons.mp hnd
    have same := sameBank_writePass c sh act e.1 g (shape e.2)
    have hp' : ∀ x ∈ ds, (c.writePass sh act e.1 g (shape e.2)).present x.1 = true :=
      fun x hx => (same.present x.1).trans (hp x (List.mem_cons_of_mem _ hx))
    rcases List.mem_cons.mp hd with rfl | hd
    · refine (readLane_writeDests_ne hp' (same.bank hsh) hg hg hj (.inl he)).trans ?_
      rw [readLane_writePass (hp d List.mem_cons_self) hsh hg hg hj, if_pos ⟨rfl, rfl, hact⟩]
    · exact ih hp' hnd (same.bank hsh) hd

end Dests

/-! ### A word's results in every group -/

/-- The shape that destination h of a word takes in a group (R111). -/
def Word.shapeIn (w : Word) (c : Crew) (g h : Nat) : GReg :=
  GReg.mk (if w.bcast.contains g && w.writeLanes c g == BitVec.allOnes 32 then 1 else 3) ((List.range 32).map fun j => w.valIn c g h j)

/-- The word's results in one group (R111, R133). -/
def Crew.writeBackGroup (w : Word) (c : Crew) (g : Nat) : Crew :=
  if w.writeLanes c g = 0 then c
  else c.writeDests (if c.propNo = w.prop then c.groupWord w.shadow g else 0) (w.writeLanes c g) g (w.shapeIn c g) w.dests.zipIdx

theorem SameBank.valIn {c d : Crew} (h : SameBank c d) (w : Word) : w.valIn d = w.valIn c := by
  rw [h.rest]; rfl

theorem SameBank.writeLanes {c d : Crew} (h : SameBank c d) (w : Word) : w.writeLanes d = w.writeLanes c := by
  rw [h.rest]; rfl

/-- Shapes that a crew's bank does not change may be formed before the first of them is written. -/
theorem foldl_writePass {shape : Crew → Nat → GReg} (hs : ∀ c d, SameBank c d → shape d = shape c) (sh act : W32) (g : Nat)
    (ds : List (Nat × Nat)) (c : Crew) :
    ds.foldl (fun c d => c.writePass sh act d.1 g (shape c d.2)) c = c.writeDests sh act g (shape c) ds := by
  induction ds generalizing c with
  | nil => rfl
  | cons d ds ih =>
    refine (ih _).trans ?_
    rw [hs c _ (sameBank_writePass c sh act d.1 g (shape c d.2))]
    rfl

theorem writeBack_eq (c : Crew) (w : Word) : c.writeBack w = (List.range c.groups).foldl (Crew.writeBackGroup w) c := by
  unfold Crew.writeBack
  congr 1
  funext c g
  refine if_congr Iff.rfl rfl ?_
  have key := fun (act sh : W32) => foldl_writePass (sh := sh) (act := act) (g := g) (ds := w.dests.zipIdx) (c := c)
    (shape := fun c h => GReg.mk (if w.bcast.contains g && act == BitVec.allOnes 32 then 1 else 3)
      ((List.range 32).map fun j => w.valIn c g h j)) fun c d same => by simp only [same.valIn]
  exact key _ _

theorem sameBank_writeBackGroup (w : Word) (c : Crew) (g : Nat) : SameBank c (c.writeBackGroup w g) := by
  unfold Crew.writeBackGroup
  split
  · exact SameBank.refl c
  · exact sameBank_writeDests c _

theorem sameBank_foldl_writeBackGroup (w : Word) (c : Crew) (gs : List Nat) : SameBank c (gs.foldl (Crew.writeBackGroup w) c) := by
  induction gs generalizing c with
  | nil => exact SameBank.refl c
  | cons g gs ih => exact (sameBank_writeBackGroup w c g).trans (ih _)

/-- The word's banks are those it was issued with (R133). -/
def Word.Banks (w : Word) (c : Crew) : Prop := c.prop = none ∨ ∃ q, c.prop = some q ∧ c.propNo = w.prop ∧ q.lanes = w.shadow

theorem Word.Banks.shadow {w : Word} {c : Crew} (h : w.Banks c) (g : Nat) :
    c.prop = none ∨ (if c.propNo = w.prop then c.groupWord w.shadow g else 0) = c.propWord g := by
  refine h.imp_right fun ⟨q, hq, hno, hl⟩ => ?_
  simp [Crew.propWord, hq, hno, hl]

theorem SameBank.banks {c d : Crew} (h : SameBank c d) {w : Word} (hw : w.Banks c) : w.Banks d := by
  have hwin := h.window
  have hno : d.propNo = c.propNo := by rw [h.rest]
  rcases hw with hc | ⟨q, hc, hq, hl⟩
  · exact .inl (by simpa [hc] using hwin)
  · rw [hc] at hwin
    obtain ⟨u, hu, he⟩ := Option.map_eq_some_iff.mp hwin
    have hlanes : u.lanes = q.lanes := congrArg (fun x => x.2.2) he
    exact .inr ⟨u, hu, hno.trans hq, hlanes.trans hl⟩

section Groups
variable {w : Word} {c : Crew} {g k j r : Nat}

theorem mem_zipIdx_present (hp : ∀ d ∈ w.dests, c.present d = true) : ∀ d ∈ w.dests.zipIdx, c.present d.1 = true :=
  fun _ hd => hp _ (List.fst_mem_of_mem_zipIdx hd)

/-- A lane that the word does not write in this group keeps its value. -/
theorem readLane_writeBackGroup_ne (hp : ∀ d ∈ w.dests, c.present d = true) (hb : w.Banks c) (hg : g < 32) (hk : k < 32) (hj : j < 32)
    (hne : r ∉ w.dests ∨ k ≠ g ∨ (w.writeLanes c g).getLsbD j = false) :
    (c.writeBackGroup w g).readLane r k j = c.readLane r k j := by
  unfold Crew.writeBackGroup
  split
  · rfl
  · refine readLane_writeDests_ne (mem_zipIdx_present hp) (hb.shadow g) hg hk hj ?_
    simpa [List.zipIdx_map_fst] using hne

/-- A lane that the word writes in this group holds its value. -/
theorem readLane_writeBackGroup (hp : ∀ d ∈ w.dests, c.present d = true) (hnd : w.dests.Nodup) (hb : w.Banks c) (hg : g < 32)
    (hj : j < 32) (hact : (w.writeLanes c g).getLsbD j = true) {h : Nat} (hr : w.dests[h]? = some r)
    (hu : g ∈ w.bcast → ∀ j, j < 32 → w.valIn c g h j = w.valIn c g h 0) :
    (c.writeBackGroup w g).readLane r g j = w.valIn c g h j := by
  have hne : ¬ w.writeLanes c g = 0 := fun e => by simp [e] at hact
  have hshape : (w.shapeIn c g h).val j = w.valIn c g h j := by
    unfold Word.shapeIn
    split
    next hb =>
      have hmem : g ∈ w.bcast := by simpa using (Bool.and_eq_true_iff.mp hb).1
      simp [GReg.mk, hu hmem j hj]
    next => simp [GReg.mk, hj]
  rw [Crew.writeBackGroup, if_neg hne]
  have hmem : (r, h) ∈ w.dests.zipIdx := List.mem_zipIdx_iff_getElem?.mpr hr
  refine (readLane_writeDests (mem_zipIdx_present hp) ?_ (hb.shadow g) hg hj hact hmem).trans hshape
  simpa [List.zipIdx_map_fst] using hnd

/-- The lanes of groups that are not in the list, and those that the word does not write, keep their values. -/
theorem readLane_foldl_ne {gs : List Nat} (hgs : ∀ x ∈ gs, x < 32) (hp : ∀ d ∈ w.dests, c.present d = true) (hb : w.Banks c)
    (hk : k < 32) (hj : j < 32) (hne : r ∉ w.dests ∨ k ∉ gs ∨ (w.writeLanes c k).getLsbD j = false) :
    (gs.foldl (Crew.writeBackGroup w) c).readLane r k j = c.readLane r k j := by
  induction gs generalizing c with
  | nil => rfl
  | cons g gs ih =>
    have same := sameBank_writeBackGroup w c g
    refine (ih (fun x hx => hgs x (List.mem_cons_of_mem _ hx)) (fun d hd => (same.present d).trans (hp d hd)) (same.banks hb) ?_).trans ?_
    · rw [same.writeLanes]
      exact hne.imp_right (Or.imp_left fun h hm => h (List.mem_cons_of_mem _ hm))
    · refine readLane_writeBackGroup_ne hp hb (hgs g List.mem_cons_self) hk hj ?_
      rcases hne with h | h | h
      · exact .inl h
      · exact .inr (.inl fun e => h (e ▸ List.mem_cons_self))
      · by_cases e : k = g
        · exact .inr (.inr (e ▸ h))
        · exact .inr (.inl e)

/-- The lanes that the word writes hold its values. -/
theorem readLane_foldl {gs : List Nat} (hgs : ∀ x ∈ gs, x < 32) (hgd : gs.Nodup) (hp : ∀ d ∈ w.dests, c.present d = true)
    (hnd : w.dests.Nodup) (hb : w.Banks c) (hg : g ∈ gs) (hj : j < 32) (hact : (w.writeLanes c g).getLsbD j = true) {h : Nat}
    (hr : w.dests[h]? = some r) (hu : g ∈ w.bcast → ∀ j, j < 32 → w.valIn c g h j = w.valIn c g h 0) :
    (gs.foldl (Crew.writeBackGroup w) c).readLane r g j = w.valIn c g h j := by
  induction gs generalizing c with
  | nil => exact absurd hg List.not_mem_nil
  | cons x gs ih =>
    obtain ⟨hx, hgd⟩ := List.nodup_cons.mp hgd
    have same := sameBank_writeBackGroup w c x
    have hp' : ∀ d ∈ w.dests, (c.writeBackGroup w x).present d = true := fun d hd => (same.present d).trans (hp d hd)
    have hgs' : ∀ y ∈ gs, y < 32 := fun y hy => hgs y (List.mem_cons_of_mem _ hy)
    rcases List.mem_cons.mp hg with rfl | hg
    · refine (readLane_foldl_ne hgs' hp' (same.banks hb) (hgs g List.mem_cons_self) hj (.inr (.inl hx))).trans ?_
      exact readLane_writeBackGroup hp hnd hb (hgs g List.mem_cons_self) hj hact hr hu
    · rw [List.foldl_cons, ih hgs' hgd hp' (same.banks hb) hg (by rwa [same.writeLanes]) (by rwa [same.valIn]), same.valIn]

end Groups

end Sys2Proof.Machine

end

section

/-! SUPPORT. LONG_LATENCY_WRITEBACK (R43, R47, R118, R162). -/

namespace Sys2Proof.Machine

/-! ### The words that have returned -/

theorem mem_of_mem_purgeGo {pend : List Nat} {ws kept : List Word} {v : Word} (h : v ∈ purgeGo pend kept ws) : v ∈ ws := by
  induction ws generalizing kept with
  | nil => exact h
  | cons w ws ih =>
    have hstep : purgeGo pend kept (w :: ws) = purgeGo pend kept ws
        ∨ purgeGo pend kept (w :: ws) = w :: purgeGo pend (kept ++ [w]) ws := ite_eq_or_eq _ _ _
    rcases hstep with he | he
    · rw [he] at h
      exact List.mem_cons_of_mem _ (ih h)
    · rw [he] at h
      rcases List.mem_cons.mp h with rfl | h
      · exact List.mem_cons_self
      · exact List.mem_cons_of_mem _ (ih h)

/-- Every word that stays after a word has finished is that word, finished, or another. -/
theorem mem_words_complete {c : Crew} {w v : Word} (h : v ∈ (c.complete w).words) (hv : v.wid = w.wid) : ∃ u, v = Word.finished u := by
  obtain ⟨u, -, he⟩ := List.mem_map.mp (mem_of_mem_purgeGo h)
  split at he
  next => exact ⟨u, he.symm⟩
  next hne => exact absurd (by rw [he, hv]; exact beq_self_eq_true _) hne

/-- The word writes no scalar register (R48). -/
structure Word.NoScalar (w : Word) : Prop where
  sld   : ∀ d a k off, w.instr ≠ .sld d a k off
  sldk  : ∀ d a k, w.instr ≠ .sldk d a k
  cwait : ∀ d a b e k, w.instr ≠ .cwait d a b e k

/-- A word that writes no scalar register changes the vector registers, its slot and its pending writes (R47, R118). -/
theorem complete_eq {c : Crew} {w : Word} (h : w.NoScalar) :
    c.complete w = { c.writeBack w with words := (c.complete w).words, sPend := (c.complete w).sPend } := by
  obtain ⟨hsld, hsldk, hcwait⟩ := h
  unfold Crew.complete
  split
  next he => exact absurd he (hsld _ _ _ _)
  next he => exact absurd he (hsldk _ _ _)
  next he => exact absurd he (hcwait _ _ _ _ _)
  next => rfl

/-- A crew with a path does not retire (R82). -/
theorem settleCrew_of_live {s : State} {id : Nat} {c : Crew} (h : s.crewOf id = some c) (hl : (c.paths.any fun p => p.st != .free) = true) :
    s.settleCrew id = s := by
  have hm : c.mayRetire = false := by
    obtain ⟨p, hp, hst⟩ := List.any_eq_true.mp hl
    have : (c.paths.all fun p => p.st == .free && p.queue.isEmpty && p.sbuf.isEmpty) = false := by
      rw [List.all_eq_false]
      exact ⟨p, hp, by simp_all⟩
    simp [Crew.mayRetire, this]
  simp [State.settleCrew, h, hm]

/-- The crew of a word that has been written back. -/
def Crew.writtenBack (w : Word) (c : Crew) : Crew := (c.writeMask w).complete w

theorem writeMask_id (c : Crew) (w : Word) : (c.writeMask w).id = c.id := by
  unfold Crew.writeMask
  split
  · rfl
  · dsimp only
    split
    · split <;> rfl
    · rfl

theorem sameBank_writeBack (c : Crew) (w : Word) : SameBank c (c.writeBack w) := by
  rw [writeBack_eq]
  exact sameBank_foldl_writeBackGroup w c _

theorem complete_id (c : Crew) (w : Word) : (c.complete w).id = c.id := by
  have hb : (c.writeBack w).id = c.id := by rw [(sameBank_writeBack c w).rest]
  unfold Crew.complete
  split
  · exact (sset_id _ _ _).trans hb
  · exact (sset_id _ _ _).trans hb
  · exact (sset_id _ _ _).trans hb
  · exact hb

theorem writtenBack_id (w : Word) (c : Crew) : (c.writtenBack w).id = c.id :=
  (complete_id _ w).trans (writeMask_id c w)

/-- The write-back of a word of a crew that has a path. -/
theorem writeback_completes {core slot wid : Nat} {s : State} {c : Crew} {w : Word}
    (hc : (s.coreCrews core).find? (fun d => d.slot == slot) = some c) (hcrew : s.crewOf c.id = some c) (hw : c.word? wid = some w)
    (hd : w.done = true) (hs : w.slot = true) (hl : ((c.writtenBack w).paths.any fun p => p.st != .free) = true) :
    Completes (.longLatencyWriteback core slot wid) s c (c.writtenBack w) := by
  have hid := writtenBack_id w
  have hcrew' := crewOf_modCrew_self hid hcrew
  refine ⟨s.modCrew c.id (Crew.writtenBack w), ?_, onlyCrew_modCrew hid s c.id, hcrew'⟩
  have he : exec (.longLatencyWriteback core slot wid) s = .next (s.writebackWord c w) := by
    change execLongLatencyWriteback core slot wid s = _
    simp [execLongLatencyWriteback, hc, hw, hd, hs]
  rw [he]
  exact congrArg Host.Outcome.next (settleCrew_of_live hcrew' hl)

theorem word?_wid {c : Crew} {wid : Nat} {w : Word} (h : c.word? wid = some w) : w.wid = wid := by
  simpa using List.find?_some h

theorem words_written {c : Crew} {w v : Word} (h : v ∈ (c.writtenBack w).words) (hv : v.wid = w.wid) :
    v.slot = false ∧ v.resv = [] ∧ v.srcs = [] := by
  obtain ⟨u, rfl⟩ := mem_words_complete h hv
  exact ⟨rfl, rfl, rfl⟩

/-! ### Vector results -/

theorem writeMask_none {c : Crew} {w : Word} (h : w.maskDest = none) : c.writeMask w = c := by
  simp [Crew.writeMask, h]

theorem readLane_complete {c : Crew} {w : Word} (h : w.NoScalar) (r g j : Nat) :
    (c.complete w).readLane r g j = (c.writeBack w).readLane r g j := by
  rw [complete_eq h]
  rfl

/-- R43, R111, R118, R133: the vector results of a word. -/
theorem writeback_vectors {core slot wid : Nat} {s : State} {c : Crew} {w : Word}
    (hc : (s.coreCrews core).find? (fun d => d.slot == slot) = some c) (hcrew : s.crewOf c.id = some c) (hgr : c.groups ≤ 32)
    (hw : c.word? wid = some w) (hd : w.done = true) (hs : w.slot = true) (hmask : w.maskDest = none) (hsc : w.NoScalar)
    (hb : w.Banks c) (hl : (c.paths.any fun p => p.st != .free) = true) (hp : ∀ d ∈ w.dests, c.present d = true)
    (hnd : w.dests.Nodup)
    (hu : ∀ g ∈ w.bcast, ∀ j, j < 32 → SMap.get 0 w.vals (32 * (c.first + g) + j) = SMap.get 0 w.vals (32 * (c.first + g))) :
    ∃ c', Completes (.longLatencyWriteback core slot wid) s c c' ∧ c'.s = c.s ∧ c'.m = c.m ∧ c'.paths = c.paths
      ∧ (∀ h d g j, w.dests[h]? = some d → g < c.groups → j < 32 → c.selects (w.lanes &&& ~~~w.owed) g j →
        c'.readLane d g j = w32 (SMap.get 0 w.vals (32 * (c.first + g) + j) / 2 ^ (32 * h)))
      ∧ (∀ d g j, g < c.groups → j < 32 → (d ∉ w.dests ∨ ¬ c.selects (w.lanes &&& ~~~w.owed) g j) →
        c'.readLane d g j = c.readLane d g j)
      ∧ ∀ v ∈ c'.words, v.wid = wid → v.slot = false ∧ v.resv = [] ∧ v.srcs = [] := by
  have hc' : c.writtenBack w = c.complete w := by rw [Crew.writtenBack, writeMask_none hmask]
  have hrest : c.writtenBack w = { c with
      v := (c.writtenBack w).v, prop := (c.writtenBack w).prop, words := (c.writtenBack w).words, sPend := (c.writtenBack w).sPend } := by
    rw [hc', complete_eq hsc, (sameBank_writeBack c w).rest]
  have hread : ∀ r g j, (c.writtenBack w).readLane r g j
      = ((List.range c.groups).foldl (Crew.writeBackGroup w) c).readLane r g j := by
    intro r g j
    rw [hc', readLane_complete hsc, writeBack_eq]
  have hpaths : (c.writtenBack w).paths = c.paths := by rw [hrest]
  have hrange : ∀ x ∈ List.range c.groups, x < 32 := fun x hx => lt_of_lt_of_le (List.mem_range.mp hx) hgr
  refine ⟨c.writtenBack w, writeback_completes hc hcrew hw hd hs (by rwa [hpaths]), by rw [hrest], by rw [hrest], hpaths, ?_, ?_, ?_⟩
  · intro h d g j hdest hg hj hsel
    rw [hread, readLane_foldl hrange List.nodup_range hp hnd hb (List.mem_range.mpr hg) hj hsel hdest]
    · rfl
    · intro hmem k hk
      simp only [Word.valIn, hu g hmem k hk, Nat.add_zero]
  · intro d g j hg hj hne
    rw [hread, readLane_foldl_ne hrange hp hb (lt_of_lt_of_le hg hgr) hj]
    exact hne.imp_right fun h => .inr (by simpa [Crew.selects, Word.writeLanes] using h)
  · exact fun v hv he => words_written hv (he.trans (word?_wid hw).symm)

/-! ### Mask results (R162, R175) -/

theorem foldl_or_getLsbD (ls : List Nat) (m : Mask) {l : Nat} (hl : l < 1024) :
    (ls.foldl (fun m x => m ||| ((1 : Mask) <<< x)) m).getLsbD l = (m.getLsbD l || ls.any (· == l)) := by
  induction ls generalizing m with
  | nil => simp
  | cons x xs ih =>
    have hx : ((1 : Mask) <<< x).getLsbD l = (x == l) := by
      have hone : ∀ k, (1 : Mask).getLsbD k = decide (k = 0) := fun k => by
        rw [show (1 : Mask) = 1#1024 from rfl, BitVec.getLsbD_one]
        simp
      rw [BitVec.getLsbD_shiftLeft, hone, Bool.eq_iff_iff]
      simp only [Bool.and_eq_true, decide_eq_true_eq, Bool.not_eq_true', decide_eq_false_iff_not, beq_iff_eq]
      omega
    rw [List.foldl_cons, ih, BitVec.getLsbD_or, hx, List.any_cons, Bool.or_assoc]

/-- A lane is in the mask of a list of lanes where the list has it. -/
theorem maskOf_getLsbD (ls : List Nat) {l : Nat} (hl : l < 1024) : (maskOf ls).getLsbD l = ls.any (· == l) := by
  rw [maskOf, foldl_or_getLsbD ls 0 hl]
  simp

/-- Bits of `vals` in the lanes of a mask, and the old ones in the others (R162). -/
theorem mixed_getLsbD (old lanes vals : Mask) {l : Nat} (hl : l < 1024) :
    ((old &&& ~~~lanes) ||| (vals &&& lanes)).getLsbD l = if lanes.getLsbD l then vals.getLsbD l else old.getLsbD l := by
  rw [BitVec.getLsbD_or, BitVec.getLsbD_and, BitVec.getLsbD_and, BitVec.getLsbD_not, decide_eq_true hl]
  cases lanes.getLsbD l <;> simp

/-- A trap point changes the record of an entry alone. -/
theorem trapPoint_m0 (c : Crew) (i j : Nat) : ((c.trapPoint i).path j).m0 = (c.path j).m0 := by
  unfold Crew.trapPoint Crew.path
  rw [List.getD_eq_getElem?_getD, List.getD_eq_getElem?_getD, List.getElem?_map]
  cases c.paths[j]? with
  | none => rfl
  | some q =>
    simp only [Option.map_some, Option.getD_some]
    split
    · split <;> rfl
    · rfl

theorem trapPoint_st (c : Crew) (i : Nat) : (c.trapPoint i).paths.map (·.st) = c.paths.map (·.st) := by
  rw [Crew.trapPoint, List.map_map]
  refine List.map_congr_left fun p _ => ?_
  simp only [Function.comp_apply]
  split
  · split <;> rfl
  · rfl

theorem modPath_st (c : Crew) (i : Nat) {f : Path → Path} (hf : ∀ p, (f p).st = p.st) :
    (c.modPath i f).paths.map (·.st) = c.paths.map (·.st) := by
  apply List.ext_getElem?
  intro j
  simp only [Crew.modPath, List.getElem?_map, modAt_getElem?]
  split
  · simp [Function.comp_def, hf]
  · rfl

/-- The mask register that a word of R175 writes, before its lanes are (R83, R162). -/
def Word.maskBits (w : Word) : Mask := maskOf (w.vals.map (·.1))

section MaskResults
variable {c : Crew} {w : Word} {a : LaneA}

theorem maskDest_fcmp (hi : w.instr = .fcmp a) : w.maskDest = some (a.d.setWidth 4) := by
  rw [Word.maskDest, hi, BitVec.setWidth_eq_extractLsb' (by decide)]

/-- A mask with the word's bits in its lanes (R162). -/
def Word.mixBits (w : Word) (old : Mask) : Mask := (old &&& ~~~w.lanes) ||| (w.maskBits &&& w.lanes)

/-- The path whose own mask the word has written. -/
def Word.writeOwn (w : Word) (p : Path) : Path := { p with m0 := w.mixBits p.m0 &&& p.mask }

/-- The path's own mask takes the bits within the path mask, and an empty one is a trap point (R83, R376). -/
theorem writeMask_own (hi : w.instr = .fcmp a) (hr : (a.d.setWidth 4 : BitVec 4) = 0) :
    c.writeMask w = c.modPath w.path w.writeOwn ∨ c.writeMask w = (c.modPath w.path w.writeOwn).trapPoint w.path := by
  simp only [Crew.writeMask, maskDest_fcmp hi, if_pos hr]
  exact (ite_eq_or_eq _ _ _).symm

/-- Another mask register takes the bits in its lanes. -/
theorem writeMask_other (hi : w.instr = .fcmp a) (hr : (a.d.setWidth 4 : BitVec 4) ≠ 0) :
    c.writeMask w = { c with
      m := SMap.set 0 c.m (a.d.setWidth 4 : BitVec 4).toNat (w.mixBits (SMap.get 0 c.m (a.d.setWidth 4 : BitVec 4).toNat)) } := by
  simp only [Crew.writeMask, maskDest_fcmp hi, if_neg hr]
  rfl

theorem writeMask_m0 (hi : w.instr = .fcmp a) (hr : (a.d.setWidth 4 : BitVec 4) = 0) (hp : w.path < c.paths.length) :
    ((c.writeMask w).path w.path).m0 = (w.writeOwn (c.path w.path)).m0 := by
  have hentry : c.paths[w.path]? = some (c.path w.path) := by
    simp [Crew.path, List.getD_eq_getElem?_getD, hp]
  have hown := congrArg Path.m0 (path_modPath_self hentry w.writeOwn)
  rcases writeMask_own hi hr with he | he
  · rw [he, hown]
  · rw [he, trapPoint_m0, hown]

theorem writeMask_st (hi : w.instr = .fcmp a) : (c.writeMask w).paths.map (·.st) = c.paths.map (·.st) := by
  by_cases hr : (a.d.setWidth 4 : BitVec 4) = 0
  · have hown : (c.modPath w.path w.writeOwn).paths.map (·.st) = c.paths.map (·.st) := modPath_st c w.path fun _ => rfl
    rcases writeMask_own hi hr with he | he
    · rw [he, hown]
    · rw [he, trapPoint_st, hown]
  · rw [writeMask_other hi hr]

theorem any_live (ps : List Path) : (ps.any fun p => p.st != .free) = (ps.map (·.st)).any (· != .free) := by
  rw [List.any_map]
  rfl

theorem writeMask_rest : c.writeMask w = { c with paths := (c.writeMask w).paths, m := (c.writeMask w).m } := by
  unfold Crew.writeMask
  split
  · rfl
  · dsimp only
    split
    · split <;> rfl
    · rfl

/-- A word of no vector register writes none. -/
theorem writeBack_of_no_dests (hd : w.dests = []) (c : Crew) : c.writeBack w = c := by
  rw [writeBack_eq]
  have hg : ∀ (c : Crew) g, c.writeBackGroup w g = c := by
    intro c g
    unfold Crew.writeBackGroup
    split
    · rfl
    · rw [hd]; rfl
  generalize List.range c.groups = gs
  induction gs with
  | nil => rfl
  | cons g gs ih => rw [List.foldl_cons, hg, ih]

theorem noScalar_fcmp (hi : w.instr = .fcmp a) : w.NoScalar where
  sld _ _ _ _ h := by rw [hi] at h; cases h
  sldk _ _ _ h := by rw [hi] at h; cases h
  cwait _ _ _ _ _ h := by rw [hi] at h; cases h

/-- The word's mask bits as its path reads them. -/
theorem mget_writeMask (hi : w.instr = .fcmp a) (hp : w.path < c.paths.length) {l : Nat} (hl : l < 1024)
    (hin : (a.d.setWidth 4 : BitVec 4) ≠ 0 ∨ (c.path w.path).mask.getLsbD l = true) :
    ((c.writeMask w).mget ((c.writeMask w).path w.path) (a.d.setWidth 4)).getLsbD l
      = if w.lanes.getLsbD l then w.vals.any fun e => e.1 == l else (c.mget (c.path w.path) (a.d.setWidth 4)).getLsbD l := by
  have hbits : w.maskBits.getLsbD l = w.vals.any fun e => e.1 == l := by
    rw [Word.maskBits, maskOf_getLsbD _ hl, List.any_map]
    rfl
  by_cases hr : (a.d.setWidth 4 : BitVec 4) = 0
  · have hm : (c.path w.path).mask.getLsbD l = true := hin.resolve_left fun h => h hr
    simp only [Crew.mget, if_pos hr, writeMask_m0 hi hr hp, Word.writeOwn]
    rw [BitVec.getLsbD_and, hm, Bool.and_true, Word.mixBits, mixed_getLsbD _ _ _ hl, hbits]
  · rw [writeMask_other hi hr]
    simp only [Crew.mget, if_neg hr, smap_get_set_self]
    rw [Word.mixBits, mixed_getLsbD _ _ _ hl, hbits]

end MaskResults

theorem writebackSetsTheLanes : Claims.WritebackSetsTheLanes := by
  refine ⟨?_, ?_⟩
  · intro core slot wid s c w hc hcrew hgr hw hd hs hmask h1 h2 h3 hb hl hp hnd hu
    exact writeback_vectors hc hcrew hgr hw hd hs hmask ⟨h1, h2, h3⟩ hb hl hp hnd hu
  · intro core slot wid s c w a hc hcrew hgr hw hd hs hi hdests hl hpath
    have hcomplete : c.writtenBack w = { c.writeMask w with words := (c.writtenBack w).words, sPend := (c.writtenBack w).sPend } := by
      rw [Crew.writtenBack, complete_eq (noScalar_fcmp hi), writeBack_of_no_dests hdests]
    have hpaths : (c.writtenBack w).paths = (c.writeMask w).paths := by rw [hcomplete]
    refine ⟨c.writtenBack w, writeback_completes hc hcrew hw hd hs ?_, ?_, ?_, ?_⟩
    · rw [hpaths, any_live, writeMask_st hi, ← any_live, hl]
    · rw [hcomplete, writeMask_rest]
    · rw [hcomplete, writeMask_rest]
    · rintro l hlt r rfl hin
      rw [hcomplete]
      exact mget_writeMask hi hpath hlt hin

/-- Settles O22: the wrapper of a ready word launches it with the values of its passes, and the write-back's fold over the groups and
the destinations leaves in each lane what the one pass that covers it writes there. -/
theorem longWordsWriteBack : Obligations.LongWordsWriteBack := ⟨longWordsGoInFlight, writebackSetsTheLanes⟩

end Sys2Proof.Machine

end

section

/-! SUPPORT. Fetching a word, the picks of a clock, and what a step does (R25 to R27, R87 to R89, R383). -/

namespace Sys2Proof.Machine

/-! ### Fetching (R25 to R27, R32, R42, R52) -/

theorem ofDecode_ok {r : Except Reject Instr} {i : Instr} (h : r = .ok i) (size : Nat) (mask : BitVec 4) :
    Fetched.ofDecode size mask r = .word i := by
  rw [h]; rfl

theorem fetchScalar_short {s : State} {c : Crew} {p : Path} {bs : List Byte} {i : Instr} (hb : s.codeAt c p p.spc 4 = .ok bs)
    (hl : scalarHasLit (ofBytes 32 bs) = false) (hd : decodeScalar (ofBytes 32 bs) 0 = .ok i) : s.fetchScalar c p = .word i := by
  simp only [State.fetchScalar, hb, hl]
  exact ofDecode_ok hd 4 0

theorem fetchScalar_long {s : State} {c : Crew} {p : Path} {bs ls : List Byte} {i : Instr} (hb : s.codeAt c p p.spc 4 = .ok bs)
    (hl : scalarHasLit (ofBytes 32 bs) = true) (hls : s.codeAt c p (p.spc + 4) 4 = .ok ls)
    (hd : decodeScalar (ofBytes 32 bs) (ofBytes 32 ls) = .ok i) : s.fetchScalar c p = .word i := by
  simp only [State.fetchScalar, hb, hl, hls, if_true]
  exact ofDecode_ok hd 8 0

theorem fetchLane_short {s : State} {c : Crew} {p : Path} {bs : List Byte} {i : Instr} (hb : s.codeAt c p p.lpc 12 = .ok bs)
    (hl : laneHasLit (ofBytes 96 bs) = false) (hd : decodeLane (ofBytes 96 bs) 0 = .ok i) : s.fetchLane c p = .word i := by
  simp only [State.fetchLane, hb, hl]
  exact ofDecode_ok hd 12 _

theorem fetchLane_long {s : State} {c : Crew} {p : Path} {bs ls : List Byte} {i : Instr} (hb : s.codeAt c p p.lpc 12 = .ok bs)
    (hl : laneHasLit (ofBytes 96 bs) = true) (hls : s.codeAt c p (p.lpc + 12) 12 = .ok ls)
    (hd : decodeLane (ofBytes 96 bs) (ofBytes 96 ls) = .ok i) : s.fetchLane c p = .word i := by
  simp only [State.fetchLane, hb, hl, hls, if_true]
  exact ofDecode_ok hd 24 _

theorem fetchDecodesTheBytes : Claims.FetchDecodesTheBytes :=
  ⟨fun _ _ _ _ hb => ⟨fun hl _ hd => fetchScalar_short hb hl hd, fun hl _ _ hls hd => fetchScalar_long hb hl hls hd⟩,
    fun _ _ _ _ hb => ⟨fun hl _ hd => fetchLane_short hb hl hd, fun hl _ _ hls hd => fetchLane_long hb hl hls hd⟩⟩

/-! ### A pick acts (R88, R89) -/

section Picked
variable {s u : State} {core : Nat} {k : Pick} {c : Crew} {o : Out}

theorem step_of_pick (h : s.nextPick = some (core, k, u)) : step s = u.runPick exec core k := by
  simp only [step, oneStep, h]

/-- A pick whose word issues. -/
theorem step_of_issued (h : s.nextPick = some (core, k, u)) (hc : u.crewOf k.crew = some c) (hm : u.mayIssue k = true)
    (ht : u.tryWord exec core (u.candOf c k) = (true, o)) (hs : k.sure = true) : step s = o := by
  rw [step_of_pick h, State.runPick, hc]
  simp only [hm, Bool.not_true, Bool.false_eq_true, if_false, ht, hs, if_true]

/-- A pick whose word waits. -/
theorem step_of_waited (h : s.nextPick = some (core, k, u)) (hc : u.crewOf k.crew = some c) (hm : u.mayIssue k = true)
    (ht : u.tryWord exec core (u.candOf c k) = (false, o)) (ha : k.ahead = false) : step s = o := by
  rw [step_of_pick h, State.runPick, hc]
  simp only [hm, Bool.not_true, Bool.false_eq_true, if_false, ht, ha]

end Picked

/-- What a candidate's word makes of the core, its word having answered t. -/
def State.acted (u : State) (core : Nat) (c : Crew) (k : Cand) (t : State) : Bool × Out :=
  let p := c.path k.pick.path
  if t.waits c.id k.pick.path then
    (false, .next (if t.begins c.id k.pick.path && !u.begins c.id k.pick.path then
      ({ t with cur := none } : State).noteSlots core c.id k.pick.path k.pick.lane k.got.engine (k.slots c) else { t with cur := none }))
  else
    (true, .next ((({ t with cur := none } : State).noteIssue core k (k.slots c)).fetched c
      (if k.pick.lane then p.lpc else p.spc) k.got.size))

/-- A candidate whose fetch found a word, and which no breakpoint holds, runs it. -/
theorem tryWord_word {u t : State} {core : Nat} {k : Cand} {c : Crew} {i : Instr} {run : Instr → State → Out}
    (hc : u.crewOf k.pick.crew = some c) (hg : k.got = .word i)
    (hb : (if k.pick.lane then none else u.bpHit c (c.path k.pick.path)) = none)
    (ht : run i { u with cur := some ⟨c.id, k.pick.path⟩ } = .next t) : u.tryWord run core k = u.acted core c k t := by
  simp only [State.tryWord, hc, hb, hg, ht, State.acted]

theorem slots_candOf {u : State} {c : Crew} {k : Pick} {i : Instr} (hg : (u.candOf c k).got = .word i) :
    (u.candOf c k).slots c = if k.lane then laneSlots c (c.path k.path) i else 0 := by
  simp only [Cand.slots, hg]
  cases hl : k.lane <;> simp [State.candOf, hl]

/-- The first word of a core that acts: it issues, or it waits. -/
theorem pickedWordRuns {s u t : State} {core : Nat} {k : Pick} {c : Crew} {i : Instr} (h : s.nextPick = some (core, k, u))
    (hc : u.crewOf k.crew = some c) (hm : u.mayIssue k = true)
    (hf : (if k.lane then u.fetchLane c (c.path k.path) else u.fetchScalar c (c.path k.path)) = .word i)
    (hb : k.lane = false → u.bpHit c (c.path k.path) = none) (ht : exec i { u with cur := some ⟨k.crew, k.path⟩ } = .next t) :
    let slots := if k.lane then laneSlots c (c.path k.path) i else 0
    (t.waits k.crew k.path = false → k.sure = true →
      step s = .next ((({ t with cur := none } : State).noteIssue core (u.candOf c k) slots).fetched
        c (if k.lane then (c.path k.path).lpc else (c.path k.path).spc) i.size))
    ∧ (t.waits k.crew k.path = true → k.ahead = false →
      step s = .next (if t.begins k.crew k.path = true ∧ u.begins k.crew k.path = false then
        ({ t with cur := none } : State).noteSlots core k.crew k.path k.lane (Instr.engine i) slots else { t with cur := none })) := by
  have hid : c.id = k.crew := crewOf_id hc
  have hgot : (u.candOf c k).got = .word i := hf
  have hbp : (if k.lane then none else u.bpHit c (c.path k.path)) = none := by
    cases hl : k.lane with
    | false => exact hb hl
    | true => rfl
  have htry : u.tryWord exec core (u.candOf c k) = u.acted core c (u.candOf c k) t :=
    tryWord_word hc hgot hbp (by rw [hid]; exact ht)
  have hpick : (u.candOf c k).pick = k := rfl
  simp only [State.acted, slots_candOf hgot, hgot, hpick, hid] at htry
  refine ⟨fun hw hs => ?_, fun hw ha => ?_⟩
  · rw [hw] at htry
    exact step_of_issued h hc hm htry hs
  · rw [hw] at htry
    rw [step_of_waited h hc hm htry ha]
    simp [Fetched.engine]

/-! ### Which pick acts next (R88, R351) -/

/-- Taking the first pick of a core's plan. -/
theorem headPick_some {s u : State} {resets : Bool} {j core : Nat} {k : Pick} (h : s.headPick resets j = some (core, k, u)) :
    core = j ∧ (resets = true → k.place < 128) ∧ ∃ d ks, s.cores[j]? = some d ∧ d.plan = some (k :: ks)
      ∧ u = s.modCore j fun d => { d with plan := some ks } := by
  unfold State.headPick at h
  split at h
  next d hd =>
    split at h
    next x xs hx =>
      split at h
      · cases h
      next hn =>
        cases h
        exact ⟨rfl, fun hr => by simpa [hr] using hn, d, xs, hd, hx, rfl⟩
    next => cases h
  next => cases h

/-- A core of which no pick acts has none, or only one that must wait for the resets. -/
theorem headPick_none {s : State} {resets : Bool} {j : Nat} (h : s.headPick resets j = none) {d : Core} (hd : s.cores[j]? = some d)
    {x : Pick} {xs : List Pick} (hx : d.plan = some (x :: xs)) : resets = true ∧ 128 ≤ x.place := by
  simp only [State.headPick, hd, hx] at h
  split at h
  next hr => simpa using hr
  next => cases h

/-- The first core of a range that answers, and those before it, which do not. -/
theorem findSome?_range {α : Type} {f : Nat → Option α} {n : Nat} {a : α} (h : (List.range n).findSome? f = some a) :
    ∃ m, m < n ∧ f m = some a ∧ ∀ j, j < m → f j = none := by
  induction n with
  | zero => simp at h
  | succ n ih =>
    rw [List.range_succ, List.findSome?_append] at h
    cases hn : (List.range n).findSome? f with
    | some b =>
      rw [hn] at h
      obtain ⟨m, hm, hf, hlt⟩ := ih (hn.trans h)
      exact ⟨m, Nat.lt_succ_of_lt hm, hf, hlt⟩
    | none =>
      have hfn : f n = some a := by simpa [hn] using h
      exact ⟨n, Nat.lt_succ_self n, hfn, fun j hj => List.findSome?_eq_none_iff.mp hn j (List.mem_range.mpr hj)⟩

/-- The next pick is the first of its core's plan; every core's resets come first, then the cores in ascending order (R88, R351). -/
theorem nextPick_some {s u : State} {core : Nat} {k : Pick} (h : s.nextPick = some (core, k, u)) :
    ∃ d ks, s.cores[core]? = some d ∧ d.plan = some (k :: ks)
      ∧ u = s.modCore core (fun d => { d with plan := some ks }) ∧ ∀ j d', s.cores[j]? = some d' →
        (∀ x xs, d'.plan = some (x :: xs) → 128 ≤ k.place ∨ j < core → 128 ≤ x.place)
        ∧ (128 ≤ k.place → j < core → d'.plan = none ∨ d'.plan = some []) := by
  have hlt : ∀ {j : Nat} {d' : Core}, s.cores[j]? = some d' → j < s.cores.length := fun hd => (List.getElem?_eq_some_iff.mp hd).1
  unfold State.nextPick at h
  dsimp only at h
  cases hr : (List.range s.cores.length).findSome? (s.headPick true) with
  | some r =>
    obtain rfl : r = (core, k, u) := by simpa [hr] using h
    obtain ⟨m, -, hm, hbefore⟩ := findSome?_range hr
    obtain ⟨rfl, hplace, d, ks, hd, hp, hu⟩ := headPick_some hm
    have hreset : k.place < 128 := hplace rfl
    refine ⟨d, ks, hd, hp, hu, fun j d' hj => ⟨fun x xs hx hor => ?_, fun hk => by omega⟩⟩
    exact (headPick_none (hbefore j (hor.resolve_left (by omega))) hj hx).2
  | none =>
    have hnone : ∀ j, j < s.cores.length → s.headPick true j = none :=
      fun j hj => List.findSome?_eq_none_iff.mp hr j (List.mem_range.mpr hj)
    have hs : (List.range s.cores.length).findSome? (s.headPick false) = some (core, k, u) := by simpa [hr] using h
    obtain ⟨m, -, hm, hbefore⟩ := findSome?_range hs
    obtain ⟨rfl, -, d, ks, hd, hp, hu⟩ := headPick_some hm
    refine ⟨d, ks, hd, hp, hu, fun j d' hj => ⟨fun x xs hx _ => ?_, fun _ hjm => ?_⟩⟩
    · exact (headPick_none (hnone j (hlt hj)) hj hx).2
    · cases hplan : d'.plan with
      | none => exact .inl rfl
      | some ps =>
        cases ps with
        | nil => exact .inr rfl
        | cons x xs => exact absurd (headPick_none (hbefore j hjm) hj hplan).1 (by simp)

/-! ### The words that a core picks (R87, R89) -/

theorem mem_insertBy {α : Type} {key : α → Nat} {x y : α} {xs : List α} : y ∈ insertBy key x xs ↔ y = x ∨ y ∈ xs := by
  induction xs with
  | nil => simp [insertBy]
  | cons z zs ih =>
    unfold insertBy
    split
    · simp
    · simp only [List.mem_cons, ih]
      tauto

theorem pairwise_insertBy {α : Type} {key : α → Nat} {x : α} {xs : List α} (h : xs.Pairwise fun a b => key a ≤ key b) :
    (insertBy key x xs).Pairwise fun a b => key a ≤ key b := by
  induction xs with
  | nil => simp [insertBy]
  | cons z zs ih =>
    obtain ⟨hz, hzs⟩ := List.pairwise_cons.mp h
    unfold insertBy
    split
    next hlt =>
      refine List.pairwise_cons.mpr ⟨fun y hy => ?_, h⟩
      rcases List.mem_cons.mp hy with rfl | hy
      · exact hlt.le
      · exact hlt.le.trans (hz y hy)
    next hge =>
      refine List.pairwise_cons.mpr ⟨fun y hy => ?_, ih hzs⟩
      rcases mem_insertBy.mp hy with rfl | hy
      · exact not_lt.mp hge
      · exact hz y hy

/-- Sorting by a key sorts, and keeps the elements. -/
theorem sortBy_spec {α : Type} (key : α → Nat) (xs : List α) :
    (sortBy key xs).Pairwise (fun a b => key a ≤ key b) ∧ ∀ x, x ∈ sortBy key xs ↔ x ∈ xs := by
  have gen : ∀ acc : List α, acc.Pairwise (fun a b => key a ≤ key b) →
      (xs.foldl (fun acc x => insertBy key x acc) acc).Pairwise (fun a b => key a ≤ key b)
        ∧ ∀ x, x ∈ xs.foldl (fun acc x => insertBy key x acc) acc ↔ x ∈ acc ∨ x ∈ xs := by
    induction xs with
    | nil => exact fun acc h => ⟨h, by simp⟩
    | cons y ys ih =>
      intro acc h
      obtain ⟨hs, hm⟩ := ih (insertBy key y acc) (pairwise_insertBy h)
      refine ⟨hs, fun x => (hm x).trans ?_⟩
      rw [mem_insertBy, List.mem_cons]
      tauto
  obtain ⟨hs, hm⟩ := gen [] List.Pairwise.nil
  exact ⟨hs, fun x => (hm x).trans (by simp)⟩

/-- The candidate picked and those left are among the candidates. -/
theorem firstCand_mem {s : State} {core : Nat} {ks rest : List Cand} {k : Cand} (h : s.firstCand core ks = some (k, rest)) :
    k ∈ ks ∧ ∀ x ∈ rest, x ∈ ks := by
  induction ks generalizing k rest with
  | nil => cases h
  | cons y ys ih =>
    unfold State.firstCand at h
    cases hb : s.firstCand core ys with
    | none =>
      rw [hb] at h
      cases h
      exact ⟨List.mem_cons_self, by simp⟩
    | some r =>
      obtain ⟨b, rs⟩ := r
      obtain ⟨hbm, hrs⟩ := ih hb
      rw [hb] at h
      dsimp only at h
      split at h
      · cases h
        exact ⟨List.mem_cons_self, fun x hx => List.mem_cons_of_mem _ hx⟩
      · cases h
        refine ⟨List.mem_cons_of_mem _ hbm, fun x hx => ?_⟩
        rcases List.mem_cons.mp hx with rfl | hx
        · exact List.mem_cons_self
        · exact List.mem_cons_of_mem _ (hrs x hx)

/-- The pick names the stream of a path that a candidate names. -/
def Pick.Of (k a : Pick) : Prop := a.crew = k.crew ∧ a.path = k.path ∧ a.lane = k.lane

/-- Every word picked is one of the candidates. -/
theorem pickWords_mem {run : Instr → State → Out} {core : Nat} {start : State} {n : Nat} {ks : List Cand} {s : State} {x : Cand}
    (h : x ∈ (State.pickWords run core start n ks s).1) : ∃ a ∈ ks, x.pick.Of a.pick := by
  induction n generalizing ks s with
  | zero => cases h
  | succ n ih =>
    unfold State.pickWords at h
    cases hf : s.firstCand core ks with
    | none => simp [hf] at h
    | some r =>
      obtain ⟨k, rest⟩ := r
      obtain ⟨hk, hrest⟩ := firstCand_mem hf
      have later : ∀ {s' : State}, x ∈ (State.pickWords run core start n rest s').1 → ∃ a ∈ ks, x.pick.Of a.pick := by
        intro s' hx
        obtain ⟨a, ha, hof⟩ := ih hx
        exact ⟨a, hrest a ha, hof⟩
      simp only [hf] at h
      split at h
      · exact later h
      · split at h
        · rcases List.mem_cons.mp h with rfl | h
          · exact ⟨k, hk, rfl, rfl, rfl⟩
          · exact later h
        · rcases List.mem_append.mp h with h | h
          · split at h
            · cases h
            · obtain rfl := List.mem_singleton.mp h
              exact ⟨x, hk, rfl, rfl, rfl⟩
          · exact later h
        · exact later h

/-- A core's plan is in the order of the places, and of its candidates (R88, R89). -/
theorem planCore_plan {run : Instr → State → Out} {s : State} {core : Nat} {ahead : Bool} {d : Core} {ks : List Pick}
    (hd : (s.planCore run core ahead).cores[core]? = some d) (hp : d.plan = some ks) :
    ks.Pairwise (fun a b => a.place ≤ b.place) ∧ ∀ k ∈ ks, ∃ a ∈ s.cands core ahead, a.pick.crew = k.crew ∧ a.pick.path = k.path
      ∧ a.pick.lane = k.lane := by
  let r := State.pickWords run core s (s.cands core ahead).length (s.cands core ahead) s
  have hplan : ks = sortBy (·.place) (r.1.map fun k => { k.pick with place := k.place r.1 }) := by
    have hmod : (modAt s.cores core fun k => { k with
        plan := some (sortBy (·.place) (r.1.map fun k => { k.pick with place := k.place r.1 })) })[core]? = some d := hd
    rw [modAt_getElem?, if_pos rfl] at hmod
    obtain ⟨k, -, rfl⟩ := Option.map_eq_some_iff.mp hmod
    exact (Option.some.inj hp).symm
  obtain ⟨hs, hm⟩ := sortBy_spec (fun k : Pick => k.place) (r.1.map fun k => { k.pick with place := k.place r.1 })
  refine ⟨hplan ▸ hs, fun k hk => ?_⟩
  obtain ⟨x, hx, rfl⟩ := List.mem_map.mp ((hm k).mp (hplan ▸ hk))
  exact pickWords_mem hx

/-- The crews that run have a team on the core that works and stays (R223, R385). -/
theorem runCrews_mem {s : State} {core : Nat} {c : Crew} (h : c ∈ s.runCrews core) :
    ∃ t, s.teamOf c.team = some t ∧ s.live t.part = true ∧ t.leaving = false := by
  obtain ⟨-, hc⟩ := List.mem_filter.mp h
  cases ht : s.teamOf c.team with
  | none => simp [ht] at hc
  | some t =>
    simp only [ht, Bool.and_eq_true, Bool.not_eq_true'] at hc
    obtain ⟨⟨hlive, hleave⟩, -⟩ := hc
    exact ⟨t, rfl, hlive, hleave⟩

/-- The picks of a path name it, and a lane word only where an ISSUE is pending (R91). -/
theorem picks_mem {p : Path} {crew i : Nat} {ahead : Bool} {k : Pick} (h : k ∈ p.picks crew i ahead) :
    k.crew = crew ∧ k.path = i ∧ (k.lane = true → p.iss.isSome = true) := by
  unfold Path.picks at h
  split at h
  next hi =>
    rcases List.mem_cons.mp h with rfl | h
    · exact ⟨rfl, rfl, fun _ => hi⟩
    · split at h
      · obtain rfl := List.mem_singleton.mp h
        exact ⟨rfl, rfl, fun e => by cases e⟩
      · cases h
  next =>
    obtain rfl := List.mem_singleton.mp h
    exact ⟨rfl, rfl, fun e => by cases e⟩

theorem mayIssue_runs {s : State} {k : Pick} (h : s.mayIssue k = true) :
    ∃ d, s.crewOf k.crew = some d ∧ (d.path k.path).runs = true := by
  unfold State.mayIssue at h
  split at h
  next d hd =>
    simp only [Bool.and_eq_true] at h
    exact ⟨d, hd, h.1.1.1.1.1⟩
  next => cases h

/-- What a core picks among (R87, R89). -/
theorem cands_mem {s : State} {core : Nat} {ahead : Bool} {a : Cand} (h : a ∈ s.cands core ahead) :
    ∃ c ∈ s.runCrews core, a.pick.crew = c.id ∧ a.pick.path < 8
      ∧ (∃ d, s.crewOf c.id = some d ∧ (d.path a.pick.path).runs = true) ∧ (a.pick.lane = true → (c.path a.pick.path).iss.isSome = true)
      ∧ a.got = if a.pick.lane then s.fetchLane c (c.path a.pick.path) else s.fetchScalar c (c.path a.pick.path) := by
  obtain ⟨c, hc, h⟩ := List.mem_flatMap.mp h
  obtain ⟨i, hi, h⟩ := List.mem_flatMap.mp h
  obtain ⟨k, hk, rfl⟩ := List.mem_map.mp h
  obtain ⟨hk, hmay⟩ := List.mem_filter.mp hk
  obtain ⟨hcrew, hpath, hlane⟩ := picks_mem hk
  obtain ⟨d, hd, hruns⟩ := mayIssue_runs (Bool.and_eq_true_iff.mp hmay).1
  refine ⟨c, hc, hcrew, hpath ▸ List.mem_range.mp hi, ⟨d, hcrew ▸ hd, hruns⟩, fun hl => ?_, rfl⟩
  rw [show (s.candOf c k).pick = k from rfl, hpath]
  exact hlane hl

/-! ### Steps of other agents (R242, R383, R418) -/

section Agents
variable {s : State} (hn : s.nextPick = none)
include hn

theorem step_halts {part : Nat} (h : s.toHalt = some part) : step s = exec (.haltLine part) s := by
  simp only [step, oneStep, hn, h]

variable (hh : s.toHalt = none)
include hh

theorem step_event {i : Instr} {rest : List Action} (hi : s.inputs = .event i :: rest) (he : encode i = none) :
    step s = retry (inOrder exec i { s with inputs := rest }) := by
  simp only [step, oneStep, hn, hh, hi, he, Option.isSome_none, Bool.false_eq_true, if_false]

theorem step_core {core : Nat} {ahead : Bool} {rest : List Action} (hi : s.inputs = .core core ahead :: rest) :
    step s = .next (({ s with inputs := rest } : State).planInput exec core ahead) := by
  simp only [step, oneStep, hn, hh, hi]

theorem step_host {pa : Nat} {bs : List Byte} {rest : List Action} (hi : s.inputs = .host pa bs :: rest) :
    step s = .next (({ s with inputs := rest } : State).hostWrite pa bs) := by
  simp only [step, oneStep, hn, hh, hi]

theorem step_boots (hi : s.inputs = []) (hb : s.svc.booting = true) : step s = .next s.bootStep := by
  simp only [step, oneStep, hn, hh, hi, autoStep, hb, if_true]

end Agents

/-- A step whose place has passed waits for the next clock (R242). -/
theorem inOrder_late {run : Instr → State → Out} {i : Instr} {u : State} (h0 : 0 < u.homePlace i) (hl : u.homePlace i < u.homeLast) :
    inOrder run i u = .next u := by
  rw [inOrder]
  exact if_pos ⟨h0, hl⟩

/-- A step that reaches no home, or changes nothing, leaves the last place. -/
theorem inOrder_same {run : Instr → State → Out} {i : Instr} {u t : State} (ht : run i u = .next t) (h : u.homePlace i = 0 ∨ t = u) :
    inOrder run i u = .next t := by
  unfold inOrder
  dsimp only
  split
  next hlate => rw [h.resolve_left (by omega)]
  next => simp only [ht, if_pos h]

/-- A step that reaches a home in its turn is the last to have reached one. -/
theorem inOrder_home {run : Instr → State → Out} {i : Instr} {u t : State} (ht : run i u = .next t) (h0 : 0 < u.homePlace i)
    (hl : u.homeLast ≤ u.homePlace i) (hne : t ≠ u) : inOrder run i u = .next { t with homeLast := u.homePlace i } := by
  unfold inOrder
  dsimp only
  rw [if_neg (by omega), ht]
  simp only [if_neg (show ¬ (u.homePlace i = 0 ∨ t = u) from fun h => h.elim (by omega) hne)]

theorem stepTakesTheNextThing : Claims.StepTakesTheNextThing := by
  refine ⟨?_, ?_, ?_, ?_, ?_, ?_⟩
  · exact fun s core k u c i h hc hm hf hb t ht => pickedWordRuns h hc hm hf hb ht
  · exact fun s core k u h => nextPick_some h
  · exact fun s core ahead d ks hd hp => planCore_plan hd hp
  · exact fun s core ahead a h => cands_mem h
  · intro s hn
    refine ⟨fun part h => step_halts hn h, fun hh => ⟨?_, fun core ahead rest hi => step_core hn hh hi,
      fun pa bs rest hi => step_host hn hh hi, fun hi hb => step_boots hn hh hi hb⟩⟩
    intro i rest hi he u n
    have hs : step s = retry (inOrder exec i u) := step_event hn hh hi he
    refine ⟨fun h0 hl => ?_, fun t ht => ⟨fun h => ?_, fun h0 hl hne => ?_⟩⟩
    · rw [hs, inOrder_late h0 hl]; rfl
    · rw [hs, inOrder_same ht h]; rfl
    · rw [hs, inOrder_home ht h0 hl hne]; rfl
  · exact fun s core c h => runCrews_mem h

/-- Settles O54: a step takes the head of a plan, then a raised halt line, then the named input; each clause is the lemma of that
branch, and a plan holds candidates alone. -/
theorem stepRunsTheDecodedInstruction : Obligations.StepRunsTheDecodedInstruction := ⟨fetchDecodesTheBytes, stepTakesTheNextThing⟩

end Sys2Proof.Machine

end

section

/-! SUPPORT. Float formats: the fields of a pattern, the values of the magnitudes and their order, and what a source's value says of its
pattern (R59 to R62). -/

namespace Sys2Proof.Machine

/-! ### The formats (R59) -/

/-- What the formats of R59 have in common. -/
structure FFmt.Sound (f : FFmt) : Prop where
  mbits_pos : 0 < f.mbits
  mbits_le : f.mbits ≤ 52
  bias_pos : 0 < f.bias
  bias_le : f.bias ≤ 1023
  emax_le : f.emax ≤ f.bias + 1024
  integers_fit : f.mbits + f.bias + 1 < f.emax
  width_eq : f.width = f.width - 1 - f.mbits + f.mbits + 1
  exponents : 2 ^ (f.width - 1 - f.mbits) = f.emax + 1
  e4_eq : f.e4 = true → f = .f8e4

theorem ofTy_sound (ty : Ty) : (FFmt.ofTy ty).Sound := by cases ty <;> constructor <;> decide

/-- The largest finite magnitude, as a pattern (R59). -/
def FFmt.topMag (f : FFmt) : Nat := if f.e4 then 0x7E else f.emax * 2 ^ f.mbits - 1

/-- The value of a magnitude (R59), with an exponent range that is unbounded above (R63). -/
def FFmt.magReal (f : FFmt) (n : Nat) : ℚ :=
  if n / 2 ^ f.mbits = 0 then ((n % 2 ^ f.mbits : ℕ) : ℚ) * 2 ^ (1 - (f.bias : ℤ) - f.mbits)
  else (2 ^ f.mbits + (n % 2 ^ f.mbits : ℕ) : ℚ) * 2 ^ (((n / 2 ^ f.mbits : ℕ) : ℤ) - f.bias - f.mbits)

section Fields
variable {f : FFmt}

/-! ### Signs and grids -/

theorem FFmt.magOf_sign_add {n : Nat} (hn : n < 2 ^ (f.width - 1)) (s : Bool) : f.magOf (f.sign s + n) = n := by
  cases s <;> simp [FFmt.magOf, FFmt.sign, bitAt, Nat.mod_eq_of_lt hn]

theorem FFmt.negOf_sign_add {n : Nat} (hn : n < 2 ^ (f.width - 1)) (s : Bool) : f.negOf (f.sign s + n) = s := by
  cases s <;> simp [FFmt.negOf, FFmt.sign, bitAt, Nat.testBit_two_pow_add_eq, Nat.testBit_lt_two_pow hn]

theorem FFmt.not_infPattern_of_nanPat {p : Nat} (h : f.nanPat p = true) : f.infPattern p = false := by
  cases h4 : f.e4 <;> simp_all [FFmt.nanPat, FFmt.infPattern]

/-- A number k of steps of the grid b of R63: k × 2^(b + lo), where lo is the exponent of the subnormal grid. -/
theorem FFmt.magReal_grid {b k : Nat} (hb : b = 0 ∨ 2 ^ f.mbits ≤ k) (hk : k ≤ 2 ^ (f.mbits + 1)) :
    f.magReal (b * 2 ^ f.mbits + k) = k * 2 ^ ((b : ℤ) + (1 - f.bias - f.mbits)) := by
  have hp := Nat.two_pow_pos f.mbits
  rcases Nat.lt_or_ge k (2 ^ f.mbits) with hlt | hge
  · obtain rfl : b = 0 := hb.resolve_right (by omega)
    simp [FFmt.magReal, Nat.div_eq_of_lt hlt, Nat.mod_eq_of_lt hlt]
  · rcases Nat.lt_or_ge k (2 ^ (f.mbits + 1)) with hlt | hge'
    · obtain ⟨r, rfl⟩ := Nat.exists_eq_add_of_le hge
      have hr : r < 2 ^ f.mbits := by rw [pow_succ] at hlt; omega
      have hn : b * 2 ^ f.mbits + (2 ^ f.mbits + r) = r + 2 ^ f.mbits * (b + 1) := by ring
      rw [hn, FFmt.magReal, Nat.add_mul_div_left _ _ hp, Nat.add_mul_mod_self_left, Nat.div_eq_of_lt hr, Nat.mod_eq_of_lt hr,
        if_neg (by omega)]
      push_cast
      congr 2
      ring
    · obtain rfl : k = 2 ^ (f.mbits + 1) := by omega
      have hn : b * 2 ^ f.mbits + 2 ^ (f.mbits + 1) = 2 ^ f.mbits * (b + 2) := by ring
      rw [hn, FFmt.magReal, Nat.mul_div_cancel_left _ hp, Nat.mul_mod_right, if_neg (by omega)]
      push_cast
      rw [add_zero, pow_succ, mul_assoc, ← zpow_one_add₀ (by norm_num)]
      congr 2
      ring

/-- Every magnitude lies on a grid, below its last place. -/
theorem FFmt.exists_grid (f : FFmt) (n : Nat) :
    ∃ b k, n = b * 2 ^ f.mbits + k ∧ (b = 0 ∨ 2 ^ f.mbits ≤ k) ∧ k < 2 ^ (f.mbits + 1) := by
  have hp := Nat.two_pow_pos f.mbits
  have hd := Nat.div_add_mod n (2 ^ f.mbits)
  have hm := Nat.mod_lt n hp
  rcases Nat.eq_zero_or_pos (n / 2 ^ f.mbits) with h | h
  · exact ⟨0, n, by omega, .inl rfl, by rw [pow_succ]; rw [h] at hd; omega⟩
  · obtain ⟨b, hb⟩ : ∃ b, n / 2 ^ f.mbits = b + 1 := ⟨n / 2 ^ f.mbits - 1, by omega⟩
    refine ⟨b, 2 ^ f.mbits + n % 2 ^ f.mbits, ?_, .inr (by omega), by rw [pow_succ]; omega⟩
    rw [hb] at hd
    linarith

@[simp] theorem FFmt.magReal_zero : f.magReal 0 = 0 := by simp [FFmt.magReal]

theorem FFmt.magReal_strictMono : StrictMono f.magReal := by
  refine strictMono_nat_of_lt_succ fun n => ?_
  obtain ⟨b, k, rfl, hb, hk⟩ := f.exists_grid n
  rw [FFmt.magReal_grid hb hk.le, Nat.add_assoc, FFmt.magReal_grid (hb.imp_right (by omega)) hk]
  gcongr
  norm_num

theorem FFmt.magReal_nonneg (n : Nat) : 0 ≤ f.magReal n := by
  rw [← FFmt.magReal_zero]
  exact f.magReal_strictMono.monotone (Nat.zero_le n)

theorem FFmt.magReal_eq_zero {n : Nat} : f.magReal n = 0 ↔ n = 0 := by
  rw [← FFmt.magReal_zero, f.magReal_strictMono.injective.eq_iff]

theorem FFmt.mantissa_eq_zero {n m : Nat} {e : ℤ} (h : f.magReal n = m * 2 ^ e) : m = 0 ↔ n = 0 := by
  rw [← f.magReal_eq_zero (n := n), h, mul_eq_zero, or_iff_left (by positivity), Nat.cast_eq_zero]

/-! ### A source pattern (R40, R62) -/

theorem FFmt.flushedMag_lt (ftz : Bool) (p : Nat) : (if ftz && f.exOf p == 0 then 0 else f.magOf p) < 2 ^ (f.width - 1) := by
  split
  next => positivity
  next => exact Nat.mod_lt _ (by positivity)

theorem FFmt.given_eq (neg abs ftz : Bool) (p : Nat) : f.given neg abs ftz p
    = f.sign ((f.negOf p && !abs) != neg) + if ftz && f.exOf p == 0 then 0 else f.magOf p := Nat.add_comm _ _

theorem FFmt.negOf_given (neg abs ftz : Bool) (p : Nat) : f.negOf (f.given neg abs ftz p) = ((f.negOf p && !abs) != neg) := by
  rw [f.given_eq, f.negOf_sign_add (f.flushedMag_lt ftz p)]

theorem FFmt.magOf_given (neg abs ftz : Bool) (p : Nat) :
    f.magOf (f.given neg abs ftz p) = if ftz && f.exOf p == 0 then 0 else f.magOf p := by
  rw [f.given_eq, f.magOf_sign_add (f.flushedMag_lt ftz p)]

/-! ### The fields of a pattern (R59) -/

variable (hf : f.Sound)
include hf

theorem FFmt.Sound.width_succ : f.width = f.width - 1 + 1 := by
  have := hf.width_eq
  omega

theorem FFmt.Sound.magnitudes_eq : 2 ^ (f.width - 1) = 2 ^ f.mbits * (f.emax + 1) := by
  rw [← hf.exponents, ← pow_add]
  congr 1
  have := hf.width_eq
  omega

theorem FFmt.Sound.magOf_lt (p : Nat) : f.magOf p < 2 ^ f.mbits * (f.emax + 1) := by
  rw [← hf.magnitudes_eq]
  exact Nat.mod_lt _ (by positivity)

theorem FFmt.Sound.exOf_eq (p : Nat) : f.exOf p = f.magOf p / 2 ^ f.mbits := by
  rw [FFmt.exOf, hf.exponents, FFmt.magOf, hf.magnitudes_eq, Nat.mod_mul_right_div_self]

theorem FFmt.Sound.frOf_eq (p : Nat) : f.frOf p = f.magOf p % 2 ^ f.mbits := by
  rw [FFmt.frOf, FFmt.magOf, hf.magnitudes_eq, Nat.mod_mul_right_mod]

theorem FFmt.Sound.mag_eq_fields (p : Nat) : f.magOf p = 2 ^ f.mbits * f.exOf p + f.frOf p := by
  rw [hf.exOf_eq, hf.frOf_eq, Nat.div_add_mod]

theorem FFmt.Sound.field_eq_exOf (p : Nat) : field p (f.width - 2) f.mbits = f.exOf p := by
  have hw : f.width - 2 + 1 - f.mbits = f.width - 1 - f.mbits := by
    have := hf.width_eq
    have := hf.mbits_pos
    omega
  rw [field, hw, FFmt.exOf]

theorem FFmt.Sound.real_eq (p : Nat) : f.real p = (if f.negOf p then -1 else 1) * f.magReal (f.magOf p) := by
  simp only [FFmt.real, FFmt.magReal, hf.exOf_eq, hf.frOf_eq]

/-! ### The sign and the magnitude -/

theorem FFmt.Sound.mod_width_eq (p : Nat) : p % 2 ^ f.width = f.sign (f.negOf p) + f.magOf p := by
  rw [hf.width_succ, Nat.mod_pow_succ, FFmt.negOf, FFmt.sign, FFmt.magOf, bitAt_eq_mul, Nat.testBit_eq_decide_div_mod_eq, Nat.add_comm]
  rcases Nat.mod_two_eq_zero_or_one (p / 2 ^ (f.width - 1)) with h | h <;> simp [h]

theorem FFmt.Sound.sign_add_lt {n : Nat} (hn : n < 2 ^ (f.width - 1)) (s : Bool) : f.sign s + n < 2 ^ f.width := by
  rw [hf.width_succ, pow_succ]
  cases s <;> simp [FFmt.sign, bitAt] <;> omega

/-! ### Finite patterns, infinities and NaNs (R60) -/

/-- The magnitude of the infinities, where the format has them. -/
theorem FFmt.Sound.infMag_pos : 0 < f.emax * 2 ^ f.mbits :=
  Nat.mul_pos (Nat.zero_lt_of_lt hf.integers_fit) (Nat.two_pow_pos _)

theorem FFmt.Sound.topMag_succ (h4 : f.e4 = false) : f.topMag + 1 = f.emax * 2 ^ f.mbits := by
  rw [FFmt.topMag, h4, if_neg Bool.false_ne_true, Nat.sub_add_cancel hf.infMag_pos]

theorem FFmt.Sound.topMag_lt : f.topMag + 1 < 2 ^ (f.width - 1) := by
  rw [hf.magnitudes_eq]
  cases h4 : f.e4 with
  | true => rw [hf.e4_eq h4]; decide
  | false =>
    have := Nat.two_pow_pos f.mbits
    rw [hf.topMag_succ h4, Nat.mul_add, Nat.mul_comm f.emax]
    omega

/-- Every magnitude below the greatest exponent is finite. -/
theorem FFmt.Sound.le_topMag_of_lt {n : Nat} (h : n < f.emax * 2 ^ f.mbits) : n ≤ f.topMag := by
  rw [FFmt.topMag]
  split
  next h4 =>
    rw [hf.e4_eq h4] at h
    exact Nat.le_of_lt (Nat.lt_trans h (by decide))
  next => omega

theorem FFmt.Sound.finPat_iff (p : Nat) : f.finPat p = true ↔ f.magOf p ≤ f.topMag := by
  have hlt := hf.magOf_lt p
  cases h4 : f.e4 with
  | true =>
    have : f.mbits = 3 ∧ f.emax = 15 := by rw [hf.e4_eq h4]; decide
    simp only [FFmt.finPat, FFmt.nanPat, FFmt.infPattern, FFmt.topMag, h4, this] at hlt ⊢
    simp
    omega
  | false =>
    have hle : f.exOf p ≤ f.emax := hf.exOf_eq p ▸ Nat.lt_succ_iff.mp (Nat.div_lt_of_lt_mul hlt)
    have htop : f.magOf p ≤ f.topMag ↔ f.exOf p < f.emax := by
      rw [← Nat.lt_succ_iff, Nat.succ_eq_add_one, hf.topMag_succ h4, hf.exOf_eq, Nat.div_lt_iff_lt_mul (Nat.two_pow_pos _)]
    have hfin : f.finPat p = true ↔ f.exOf p ≠ f.emax := by
      by_cases he : f.exOf p = f.emax <;> simp [FFmt.finPat, FFmt.nanPat, FFmt.infPattern, h4, he]
    rw [htop, hfin]
    omega

theorem FFmt.Sound.magOf_of_infPattern {p : Nat} (h : f.infPattern p = true) : f.magOf p = f.topMag + 1 := by
  simp only [FFmt.infPattern, Bool.and_eq_true, Bool.not_eq_true', beq_iff_eq] at h
  obtain ⟨⟨h4, he⟩, hr⟩ := h
  rw [hf.mag_eq_fields, he, hr, hf.topMag_succ h4, Nat.mul_comm, Nat.add_zero]

theorem FFmt.Sound.finPat_of_magOf_eq_zero {p : Nat} (h : f.magOf p = 0) : f.finPat p = true := by
  rw [hf.finPat_iff, h]
  exact Nat.zero_le _

/-! ### Sources (R40, R61, R62) -/

/-- The modifiers change the sign of a source, and keep its magnitude. -/
theorem FFmt.Sound.modify_eq (neg abs : Bool) (p : Nat) : f.modify neg abs p = f.given neg abs false p := by
  have hm : f.magOf p < 2 ^ (f.width - 1) := Nat.mod_lt _ (by positivity)
  have hw : 2 ^ f.width = 2 ^ (f.width - 1) + 2 ^ (f.width - 1) := by
    rw [← Nat.two_mul, ← pow_succ', ← hf.width_succ]
  have habs (s : Bool) : (f.sign s + f.magOf p) % 2 ^ (f.width - 1) = f.magOf p := f.magOf_sign_add hm s
  have hneg (s : Bool) : (f.sign s + f.magOf p + 2 ^ (f.width - 1)) % 2 ^ f.width = f.sign (!s) + f.magOf p := by
    rw [hw]
    cases s
    · simp only [FFmt.sign, bitAt, Bool.not_false, Bool.false_eq_true, if_true, if_false]
      rw [Nat.mod_eq_of_lt] <;> omega
    · simp only [FFmt.sign, bitAt, Bool.not_true, Bool.false_eq_true, if_true, if_false]
      rw [show 2 ^ (f.width - 1) + f.magOf p + 2 ^ (f.width - 1) = f.magOf p + (2 ^ (f.width - 1) + 2 ^ (f.width - 1)) by omega,
        Nat.add_mod_right, Nat.mod_eq_of_lt (by omega), Nat.zero_add]
  have hpos : f.magOf p = f.sign false + f.magOf p := (Nat.zero_add _).symm
  simp only [FFmt.modify, hf.mod_width_eq p, FFmt.given_eq, Bool.false_and, Bool.false_eq_true, if_false, habs]
  cases neg <;> cases abs <;> simp only [Bool.false_eq_true, if_true, if_false, hneg, Bool.not_true, Bool.not_false, Bool.and_true,
    Bool.and_false, Bool.bne_false, Bool.bne_true]
  · exact hpos
  · rw [hpos, hneg, ← hpos, Bool.not_false]

theorem FFmt.Sound.exOf_given_false (neg abs : Bool) (p : Nat) : f.exOf (f.given neg abs false p) = f.exOf p := by
  rw [hf.exOf_eq, hf.exOf_eq, f.magOf_given]
  rfl

theorem FFmt.Sound.frOf_given_false (neg abs : Bool) (p : Nat) : f.frOf (f.given neg abs false p) = f.frOf p := by
  rw [hf.frOf_eq, hf.frOf_eq, f.magOf_given]
  rfl

theorem FFmt.Sound.isSub_given_false (neg abs : Bool) (p : Nat) :
    f.isSub (f.given neg abs false p) = (f.exOf p == 0 && f.frOf p != 0) := by
  rw [FFmt.isSub, hf.field_eq_exOf, hf.exOf_given_false, ← hf.frOf_given_false neg abs p]
  rfl

/-- Flushing changes a subnormal alone. -/
theorem FFmt.Sound.given_eq_of_not_sub {neg abs ftz : Bool} {p : Nat} (h : (ftz && f.isSub (f.given neg abs false p)) = false) :
    f.given neg abs ftz p = f.given neg abs false p := by
  rw [hf.isSub_given_false] at h
  rw [f.given_eq, f.given_eq, Bool.false_and]
  by_cases he : (ftz && f.exOf p == 0) = true
  · obtain ⟨hftz, hex⟩ := Bool.and_eq_true_iff.mp he
    have hfr : f.frOf p = 0 := by simpa [hftz, hex] using h
    simp [hf.mag_eq_fields p, beq_iff_eq.mp hex, hfr]
  · simp [he]

theorem FFmt.Sound.given_of_sub {neg abs ftz : Bool} {p : Nat} (h : (ftz && f.isSub (f.given neg abs false p)) = true) :
    f.given neg abs ftz p = f.sign (f.negOf (f.given neg abs false p)) := by
  rw [hf.isSub_given_false] at h
  obtain ⟨hftz, hsub⟩ := Bool.and_eq_true_iff.mp h
  rw [f.given_eq, f.negOf_given, hftz, (Bool.and_eq_true_iff.mp hsub).1]
  rfl

/-- What a value says of the pattern it is the value of (R59, R60). -/
def FFmt.Means (f : FFmt) (p : Nat) : FVal → Prop
  | .nan => f.nanPat p = true
  | .inf s => f.infPattern p = true ∧ f.negOf p = s
  | .pole _ => False
  | .fin s m e => f.finPat p = true ∧ f.negOf p = s ∧ m < 2 ^ (f.mbits + 1) ∧ f.magReal (f.magOf p) = m * 2 ^ e

theorem FFmt.Sound.nanPat_eq (p : Nat) :
    f.nanPat p = if f.e4 then f.exOf p == 15 && f.frOf p == 7 else f.exOf p == f.emax && f.frOf p != 0 := by
  rw [FFmt.nanPat]
  split
  next h4 =>
    have hlt := hf.magOf_lt p
    rw [hf.exOf_eq, hf.frOf_eq, Bool.eq_iff_iff]
    obtain rfl := hf.e4_eq h4
    simp only [FFmt.f8e4] at hlt ⊢
    simp
    omega
  next => rfl

/-- The value of a pattern by its fields (R59, R60). -/
theorem FFmt.Sound.value_eq (p : Nat) : f.value p = if f.e4 && f.exOf p == 15 && f.frOf p == 7 then .nan
    else if !f.e4 && f.exOf p == f.emax then (if f.frOf p == 0 then .inf (f.negOf p) else .nan)
    else if f.exOf p == 0 then .fin (f.negOf p) (f.frOf p) (1 - (f.bias : ℤ) - f.mbits)
    else .fin (f.negOf p) (2 ^ f.mbits + f.frOf p) ((f.exOf p : ℤ) - f.bias - f.mbits) := by
  rw [FFmt.value, hf.field_eq_exOf]
  rfl

theorem FFmt.Sound.magReal_magOf (p : Nat) :
    f.magReal (f.magOf p) = if f.exOf p = 0 then (f.frOf p : ℚ) * 2 ^ (1 - (f.bias : ℤ) - f.mbits)
      else (2 ^ f.mbits + f.frOf p : ℚ) * 2 ^ ((f.exOf p : ℤ) - f.bias - f.mbits) := by
  rw [hf.exOf_eq, hf.frOf_eq, FFmt.magReal]

theorem FFmt.Sound.value_means (p : Nat) : f.Means p (f.value p) := by
  have hfr : f.frOf p < 2 ^ f.mbits := Nat.mod_lt _ (Nat.two_pow_pos _)
  have hpow : 2 ^ (f.mbits + 1) = 2 ^ f.mbits * 2 := pow_succ _ _
  have hnan := hf.nanPat_eq p
  rw [hf.value_eq]
  split
  next h => simp_all [FFmt.Means]
  next h1 =>
  split
  next h2 => split <;> simp_all [FFmt.Means, FFmt.infPattern]
  next h2 =>
    have hfin : f.finPat p = true := by
      cases h4 : f.e4 with
      | true => simpa [FFmt.finPat, FFmt.infPattern, hnan, h4, imp_iff_not_or] using h1
      | false => simp_all [FFmt.finPat, FFmt.infPattern]
    split
    next h => exact ⟨hfin, rfl, by omega, by rw [hf.magReal_magOf, if_pos (beq_iff_eq.mp h)]⟩
    next h =>
      refine ⟨hfin, rfl, by omega, ?_⟩
      rw [hf.magReal_magOf, if_neg (by simpa using h)]
      push_cast
      rfl

/-- The value of a source says what its pattern after the modifiers is (R40, R62). -/
theorem FFmt.Sound.src_means (neg abs ftz : Bool) (p : Nat) : f.Means (f.given neg abs ftz p) (f.src ftz (f.modify neg abs p)) := by
  rw [FFmt.src, hf.modify_eq]
  split
  next h =>
    have hlt : 0 < 2 ^ (f.width - 1) := Nat.two_pow_pos _
    rw [hf.given_of_sub h]
    have hm : ∀ s, f.magOf (f.sign s) = 0 := f.magOf_sign_add hlt
    refine ⟨hf.finPat_of_magOf_eq_zero (hm _), f.negOf_sign_add hlt _, Nat.two_pow_pos _, ?_⟩
    simp [hm]
  next h =>
    rw [hf.given_eq_of_not_sub (Bool.eq_false_iff.mpr h)]
    exact hf.value_means _

end Fields

section Means
variable {f : FFmt} {p : Nat} {v : FVal}

theorem FFmt.Means.of_nan (h : f.Means p v) (hp : f.nanPat p = true) : v = .nan := by
  cases v <;> simp_all [FFmt.Means, FFmt.finPat, FFmt.not_infPattern_of_nanPat]

theorem FFmt.Means.of_inf (h : f.Means p v) (hp : f.infPattern p = true) : v = .inf (f.negOf p) := by
  cases v with
  | nan => exact absurd hp (by simp [FFmt.not_infPattern_of_nanPat h])
  | inf s => rw [h.2]
  | pole s => exact h.elim
  | fin s m e => simp_all [FFmt.Means, FFmt.finPat]

theorem FFmt.Means.of_fin (h : f.Means p v) (hp : f.finPat p = true) :
    ∃ m e, v = .fin (f.negOf p) m e ∧ m < 2 ^ (f.mbits + 1) ∧ f.magReal (f.magOf p) = m * 2 ^ e := by
  cases v with
  | nan => simp_all [FFmt.Means, FFmt.finPat]
  | inf s => simp_all [FFmt.Means, FFmt.finPat]
  | pole s => exact h.elim
  | fin s m e =>
    obtain ⟨-, rfl, hm, hv⟩ := h
    exact ⟨m, e, rfl, hm, hv⟩

end Means
end Sys2Proof.Machine

end

section

/-! SUPPORT. Rounding among the values of a rising sequence, whether of the integers or of a format's magnitudes, and what the model's
shifts pick (R63). -/

namespace Sys2Proof.Machine

section Picks
variable {K : Type} [Field K] [LinearOrder K]

/-- A magnitude y of a value of sign s, from place l of a rising sequence to below the next, goes to the upper of the two (R63). -/
def TakesUpper (v : ℕ → K) (mode : Nat) (s : Bool) (y : K) (l : ℕ) : Prop :=
  match mode with
  | 1 => False
  | 2 => s = false ∧ v l < y
  | 3 => s = true ∧ v l < y
  | _ => v l + v (l + 1) < 2 * y ∨ v l + v (l + 1) = 2 * y ∧ l % 2 = 1

/-- A magnitude y of a value of sign s rounds to place n of a rising sequence (R63). -/
def Picks (v : ℕ → K) (mode : Nat) (s : Bool) (y : K) (n : ℕ) : Prop :=
  ∃ l, v l ≤ y ∧ y < v (l + 1) ∧ (TakesUpper v mode s y l ∧ n = l + 1 ∨ ¬ TakesUpper v mode s y l ∧ n = l)

variable {v : ℕ → K} {mode : Nat} {s : Bool} {y : K} {n : ℕ}

theorem picks_of_up {l : ℕ} (hl : v l ≤ y) (hu : y < v (l + 1)) {up : Bool} (h : up = true ↔ TakesUpper v mode s y l) :
    Picks v mode s y (if up then l + 1 else l) := by
  refine ⟨l, hl, hu, ?_⟩
  rw [← h]
  cases up <;> simp

/-- A magnitude from a place on rounds to that place or beyond. -/
theorem Picks.le_of_value_le (hv : StrictMono v) {j : ℕ} (h : Picks v mode s y n) (hj : v j ≤ y) : j ≤ n := by
  obtain ⟨l, -, hu, h⟩ := h
  have : j ≤ l := Nat.lt_succ_iff.mp (hv.lt_iff_lt.mp (hj.trans_lt hu))
  omega

theorem Picks.toward_zero (hv : StrictMono v) (h : Picks v mode s y n)
    (hm : mode = 1 ∨ mode = 2 ∧ s = true ∨ mode = 3 ∧ s = false) :
    v n ≤ y ∧ (∀ j, v j ≤ y → v j ≤ v n) ∧ ∀ j, v (j + 1) ≤ y ↔ j < n := by
  obtain ⟨l, hl, hu, h⟩ := h
  have : ¬ TakesUpper v mode s y l := by rcases hm with rfl | ⟨rfl, rfl⟩ | ⟨rfl, rfl⟩ <;> simp [TakesUpper]
  obtain rfl : n = l := (h.resolve_left fun h => this h.1).2
  have hle (j : ℕ) (hj : v j ≤ y) : j ≤ n := Nat.lt_succ_iff.mp (hv.lt_iff_lt.mp (hj.trans_lt hu))
  exact ⟨hl, fun j hj => hv.monotone (hle j hj), fun j => ⟨fun hj => hle _ hj, fun hj => (hv.monotone hj).trans hl⟩⟩

theorem Picks.away_from_zero (hv : StrictMono v) (h : Picks v mode s y n) (hm : mode = 2 ∧ s = false ∨ mode = 3 ∧ s = true) :
    y ≤ v n ∧ (∀ j, y ≤ v j → v n ≤ v j) ∧ ∀ j, v j < y ↔ j < n := by
  obtain ⟨l, hl, hu, h⟩ := h
  have : TakesUpper v mode s y l ↔ v l < y := by rcases hm with ⟨rfl, rfl⟩ | ⟨rfl, rfl⟩ <;> simp [TakesUpper]
  rw [this, not_lt] at h
  have hlt : y ≤ v n ∧ ∀ j < n, v j < y := by
    rcases h with ⟨h, rfl⟩ | ⟨h, rfl⟩
    · exact ⟨hu.le, fun j hj => (hv.monotone (Nat.lt_succ_iff.mp hj)).trans_lt h⟩
    · exact ⟨h, fun j hj => (hv hj).trans_le hl⟩
  refine ⟨hlt.1, fun j hj => hv.monotone (not_lt.mp fun h => (hlt.2 j h).not_ge hj), fun j => ⟨fun hj => ?_, hlt.2 j⟩⟩
  exact hv.lt_iff_lt.mp (hj.trans_le hlt.1)

variable [IsStrictOrderedRing K]

theorem not_takesUpper_self (hv : StrictMono v) (l : ℕ) : ¬ TakesUpper v mode s (v l) l := by
  have := hv (Nat.lt_succ_self l)
  unfold TakesUpper
  split
  · exact id
  · exact fun h => h.2.false
  · exact fun h => h.2.false
  · rintro (h | ⟨h, -⟩) <;> linarith

theorem picks_value (hv : StrictMono v) (j : ℕ) : Picks v mode s (v j) j :=
  ⟨j, le_rfl, hv (Nat.lt_succ_self j), .inr ⟨not_takesUpper_self hv j, rfl⟩⟩

/-- A value of the sequence rounds to itself. -/
theorem Picks.eq_of_value (hv : StrictMono v) {j : ℕ} (h : Picks v mode s (v j) n) : n = j := by
  obtain ⟨l, hl, hu, h⟩ := h
  obtain rfl : l = j := Nat.le_antisymm (hv.le_iff_le.mp hl) (Nat.lt_succ_iff.mp (hv.lt_iff_lt.mp hu))
  exact (h.resolve_left fun h => not_takesUpper_self hv l h.1).2

/-- Magnitudes between zero and half the least one round alike. -/
theorem Picks.eq_of_tiny (hv : StrictMono v) (h0 : v 0 = 0) {z : K} {k : ℕ} (hy : 0 < y) (hz : 0 < z) (hy1 : 2 * y < v 1)
    (hz1 : 2 * z < v 1) (h : Picks v mode s y n) (h' : Picks v mode s z k) : n = k := by
  obtain ⟨l, hl, -, h⟩ := h
  obtain ⟨l', hl', -, h'⟩ := h'
  obtain rfl : l = 0 := Nat.lt_one_iff.mp (hv.lt_iff_lt.mp (by linarith))
  obtain rfl : l' = 0 := Nat.lt_one_iff.mp (hv.lt_iff_lt.mp (by linarith))
  have : TakesUpper v mode s y 0 ↔ TakesUpper v mode s z 0 := by
    unfold TakesUpper
    rw [h0, Nat.zero_add]
    split
    · exact Iff.rfl
    · simp only [hy, hz]
    · simp only [hy, hz]
    · exact iff_of_false (by rintro (h | ⟨h, -⟩) <;> linarith) (by rintro (h | ⟨h, -⟩) <;> linarith)
  rw [this] at h
  by_cases ht : TakesUpper v mode s z 0
  · simp_all
  · simp_all

theorem Picks.nearest (hv : StrictMono v) (h : Picks v 0 s y n) (j : ℕ) :
    |y - v n| ≤ |y - v j| ∧ (|y - v n| = |y - v j| → j = n ∨ n % 2 = 0) := by
  obtain ⟨l, hl, hu, h⟩ := h
  have hup : |y - v (l + 1)| = v (l + 1) - y := by rw [abs_sub_comm, abs_of_pos (sub_pos.mpr hu)]
  have hlo : |y - v l| = y - v l := abs_of_nonneg (sub_nonneg.mpr hl)
  simp only [TakesUpper, not_or, not_lt, not_and] at h
  rcases Nat.lt_or_ge l j with hj | hj
  · have hvj : v (l + 1) ≤ v j := hv.monotone hj
    have hdist : |y - v j| = v j - y := by rw [abs_sub_comm, abs_of_nonneg (by linarith)]
    rw [hdist]
    rcases h with ⟨h, rfl⟩ | ⟨⟨h, htie⟩, rfl⟩
    · rw [hup]
      exact ⟨by linarith, fun he => .inl (hv.injective (by linarith))⟩
    · rw [hlo]
      refine ⟨by linarith, fun he => .inr ?_⟩
      have := htie (by linarith)
      omega
  · have hvj : v j ≤ v l := hv.monotone hj
    have hdist : |y - v j| = y - v j := abs_of_nonneg (by linarith)
    rw [hdist]
    rcases h with ⟨h, rfl⟩ | ⟨⟨h, htie⟩, rfl⟩
    · rw [hup]
      refine ⟨by rcases h with h | ⟨h, -⟩ <;> linarith, fun he => .inr ?_⟩
      rcases h with h | ⟨-, h⟩
      · linarith
      · omega
    · rw [hlo]
      exact ⟨by linarith, fun he => .inl (hv.injective (by linarith))⟩

/-- The nearest is beyond a place exactly from the middle on, and the middle goes to the even place. -/
theorem Picks.lt_iff_of_nearest (hv : StrictMono v) (h : Picks v 0 s y n) (j : ℕ) :
    j < n ↔ if j % 2 = 0 then (v j + v (j + 1)) / 2 < y else (v j + v (j + 1)) / 2 ≤ y := by
  obtain ⟨l, hl, hu, h⟩ := h
  have hj := hv (Nat.lt_succ_self j)
  rcases Nat.lt_trichotomy j l with hlt | rfl | hgt
  · have := hv.monotone (show j + 1 ≤ l from hlt)
    refine iff_of_true (by omega) ?_
    split <;> linarith
  · simp only [TakesUpper] at h
    split
    next he =>
      rw [div_lt_iff₀ two_pos, mul_comm y]
      rcases h with ⟨h | h, rfl⟩ | ⟨h, rfl⟩
      · exact iff_of_true (by omega) h
      · omega
      · exact iff_of_false (by omega) fun hn => h (.inl hn)
    next he =>
      rw [div_le_iff₀ two_pos, mul_comm y]
      rcases h with ⟨h, rfl⟩ | ⟨h, rfl⟩
      · exact iff_of_true (by omega) (h.elim le_of_lt fun h => h.1.le)
      · exact iff_of_false (by omega) fun hn => h (hn.lt_or_eq.imp_right fun hn => ⟨hn, by omega⟩)
  · have := hv.monotone (show l + 1 ≤ j from hgt)
    refine iff_of_false (by omega) ?_
    split <;> linarith

/-! ### Shifts (R63) -/

/-- The magnitude y is m × 2^e, or m is odd, as a sticky bit leaves it, and y lies nearer to m × 2^e than to the next odd numbers. -/
def Sticky (m : ℕ) (e : ℤ) (y : K) : Prop := m % 2 = 1 ∧ ((m : K) - 1) * 2 ^ e < y ∧ y < ((m : K) + 1) * 2 ^ e

/-- Where a number whose k low bits are dropped lies: from its upper bits l on, and against the half by the bits dropped. -/
theorem shift_position {y : K} {m k : ℕ} (h : y * 2 ^ k = m ∨ 2 ≤ k ∧ m % 2 = 1 ∧ (m : K) - 1 < y * 2 ^ k ∧ y * 2 ^ k < m + 1) :
    let l : K := ((m / 2 ^ k : ℕ) : K)
    let r := m % 2 ^ k
    l ≤ y ∧ y < l + 1 ∧ (l < y ↔ r ≠ 0) ∧ (l + (l + 1) < 2 * y ↔ 2 ^ k < 2 * r) ∧ (l + (l + 1) = 2 * y ↔ 2 * r = 2 ^ k) := by
  intro l r
  have hp : (0 : K) < 2 ^ k := by positivity
  have hm : (m : K) = 2 ^ k * l + r := by
    simp only [l, r]
    exact_mod_cast (Nat.div_add_mod m (2 ^ k)).symm
  have hr : (r : K) + 1 ≤ 2 ^ k := by exact_mod_cast Nat.mod_lt m (Nat.two_pow_pos k)
  have hr0 : (0 : K) ≤ r := Nat.cast_nonneg r
  have scale (a b : K) : (a < b ↔ a * 2 ^ k < b * 2 ^ k) ∧ (a ≤ b ↔ a * 2 ^ k ≤ b * 2 ^ k) ∧ (a = b ↔ a * 2 ^ k = b * 2 ^ k) :=
    ⟨(mul_lt_mul_iff_left₀ hp).symm, (mul_le_mul_iff_left₀ hp).symm, (mul_left_inj' hp.ne').symm⟩
  rw [(scale l y).2.1, (scale y (l + 1)).1, (scale l y).1, (scale (l + (l + 1)) (2 * y)).1, (scale (l + (l + 1)) (2 * y)).2.2]
  have half : ((2 ^ k < 2 * r : Prop) ↔ (2 : K) ^ k < 2 * r) ∧ ((2 * r = 2 ^ k : Prop) ↔ 2 * (r : K) = 2 ^ k) :=
    ⟨by exact_mod_cast Iff.rfl, by exact_mod_cast Iff.rfl⟩
  rcases h with h | ⟨hk, hodd, hlo, hhi⟩
  · rw [half.1, half.2, ← Nat.pos_iff_ne_zero, ← Nat.cast_pos (α := K)]
    refine ⟨by linarith, by linarith, ⟨fun h => by linarith, fun h => by linarith⟩, ⟨fun h => by linarith, fun h => by linarith⟩,
      ⟨fun h => by linarith, fun h => by linarith⟩⟩
  · have hfour : 2 ^ k % 4 = 0 := Nat.mod_eq_zero_of_dvd (pow_dvd_pow 2 hk)
    have hrodd : r % 2 = 1 := by rw [← hodd]; exact Nat.mod_mod_of_dvd m (dvd_pow_self 2 (by omega))
    have hr1 : (1 : K) ≤ r := by exact_mod_cast (by omega : 1 ≤ r)
    refine ⟨by linarith, by linarith, iff_of_true (by linarith) (by omega), ?_⟩
    rcases Nat.lt_or_ge (2 ^ k) (2 * r) with hlt | hge
    · have : (2 : K) ^ k + 2 ≤ 2 * r := by exact_mod_cast (by omega : 2 ^ k + 2 ≤ 2 * r)
      exact ⟨iff_of_true (by linarith) hlt, iff_of_false (by intro h; linarith) (by omega)⟩
    · have : 2 * (r : K) + 2 ≤ 2 ^ k := by exact_mod_cast (by omega : 2 * r + 2 ≤ 2 ^ k)
      exact ⟨iff_of_false (by linarith) (by omega), iff_of_false (by intro h; linarith) (by omega)⟩

/-- Dropping k bits under a mode rounds to an integer. -/
theorem roundShift_picks {y : K} {m k : ℕ} (h : y * 2 ^ k = m ∨ 2 ≤ k ∧ m % 2 = 1 ∧ (m : K) - 1 < y * 2 ^ k ∧ y * 2 ^ k < m + 1)
    (mode : Nat) (s : Bool) : Picks (Nat.cast : ℕ → K) mode s y (roundShift mode s m k) := by
  obtain ⟨hl, hu, hex, hlt, heq⟩ := shift_position h
  refine picks_of_up hl (by exact_mod_cast hu) ?_
  simp only [TakesUpper, Nat.cast_add, Nat.cast_one, hlt, heq, hex]
  split <;> simp

/-- Scaling by a power of two under a mode rounds to an integer. -/
theorem roundNat_picks {y : K} {m : ℕ} {e : ℤ} (h : y = m * 2 ^ e ∨ e ≤ -2 ∧ Sticky m e y) (mode : Nat) (s : Bool) :
    Picks (Nat.cast : ℕ → K) mode s y (roundNat mode s m e) := by
  rw [roundNat]
  split
  next he =>
    obtain ⟨k, rfl⟩ := Int.eq_ofNat_of_zero_le he
    obtain rfl : y = ((m * 2 ^ k : ℕ) : K) := by
      rw [h.resolve_right fun h => by omega]
      simp
    exact picks_value (v := fun j : ℕ => (j : K)) Nat.strictMono_cast _
  next he =>
    obtain ⟨k, rfl⟩ : ∃ k : ℕ, e = -k := ⟨(-e).toNat, by omega⟩
    have hp : (0 : K) < 2 ^ k := by positivity
    have hz : (2 : K) ^ (-(k : ℤ)) = (2 ^ k)⁻¹ := by simp
    rw [neg_neg, Int.toNat_natCast]
    refine roundShift_picks (h.imp (fun h => ?_) fun h => ?_) mode s
    · rw [h, hz, inv_mul_cancel_right₀ hp.ne']
    · obtain ⟨hk, hodd, hlo, hhi⟩ := h
      rw [hz, ← div_eq_mul_inv] at hlo hhi
      exact ⟨by omega, hodd, (div_lt_iff₀ hp).mp hlo, (lt_div_iff₀ hp).mp hhi⟩

end Picks
end Sys2Proof.Machine

end

section

/-! SUPPORT. Rounding to a format: the model's rounding takes the magnitude that the mode picks, limited and flushed, and that is the
real number rounded once (R62 to R64). -/

namespace Sys2Proof.Machine

/-! ### Results as they are written (R62, R64) -/

/-- The pattern of a magnitude of an unbounded exponent range: beyond the largest finite one it is the table's of R64. -/
def FFmt.limit (f : FFmt) (mode : Nat) (alt s : Bool) (n : Nat) : Nat := if f.topMag < n then f.overflow mode alt s else f.sign s + n

section Limits
variable {f : FFmt} (hf : f.Sound)
include hf

theorem FFmt.Sound.exOf_sign_add {n : Nat} (hn : n < 2 ^ (f.width - 1)) (s : Bool) : f.exOf (f.sign s + n) = n / 2 ^ f.mbits := by
  rw [hf.exOf_eq, f.magOf_sign_add hn]

theorem FFmt.Sound.written_sign_add {n : Nat} (hn : n < 2 ^ (f.width - 1)) (ftz s : Bool) :
    f.written ftz (f.sign s + n) = if ftz = true ∧ n < 2 ^ f.mbits then f.sign s else f.sign s + n := by
  have : n / 2 ^ f.mbits = 0 ↔ n < 2 ^ f.mbits := by simp [Nat.div_eq_zero_iff]
  simp only [FFmt.written, hf.exOf_sign_add hn, f.negOf_sign_add hn, Bool.and_eq_true, beq_iff_eq, this]

/-- A magnitude that is no subnormal and no zero stays as it is. -/
theorem FFmt.Sound.written_normal {n : Nat} (hn : n < 2 ^ (f.width - 1)) (hle : 2 ^ f.mbits ≤ n) (ftz s : Bool) :
    f.written ftz (f.sign s + n) = f.sign s + n := by
  rw [hf.written_sign_add hn, if_neg (by omega)]

theorem FFmt.Sound.written_sign (ftz s : Bool) : f.written ftz (f.sign s) = f.sign s := by
  have := hf.written_sign_add (Nat.two_pow_pos _) ftz s
  simpa using this

theorem FFmt.Sound.mbits_le_topMag : 2 ^ f.mbits ≤ f.topMag := by
  refine hf.le_topMag_of_lt ?_
  have := hf.integers_fit
  have := Nat.two_pow_pos f.mbits
  nlinarith

omit hf in
theorem FFmt.largest_eq (s : Bool) (h0 : 0 < f.emax * 2 ^ f.mbits) : f.largest s = f.sign s + f.topMag := by
  rw [FFmt.largest, FFmt.topMag]
  cases h4 : f.e4
  · simp
    omega
  · simp

/-- The results beyond the largest finite value: the largest, an infinity, or the NaN of f8e4 (R64). -/
theorem FFmt.Sound.overflow_eq {mode : Nat} (hm : mode < 4) (alt s : Bool) : f.overflow mode alt s
    = if f.e4 then (if alt then 0x7F else f.sign s + f.topMag)
      else f.sign s + (if alt ∨ mode = 1 ∨ (mode = 2 ∧ s) ∨ (mode = 3 ∧ ¬ s) then f.topMag else f.topMag + 1) := by
  unfold FFmt.overflow
  rw [f.largest_eq s hf.infMag_pos]
  cases h4 : f.e4 with
  | true => simp
  | false =>
    simp only [FFmt.infPat, ← hf.topMag_succ h4]
    cases alt with
    | true => simp
    | false => interval_cases mode <;> cases s <;> simp

theorem FFmt.Sound.written_overflow {mode : Nat} (hm : mode < 4) (alt ftz s : Bool) :
    f.written ftz (f.overflow mode alt s) = f.overflow mode alt s := by
  have htop := hf.topMag_lt
  have hle := hf.mbits_le_topMag
  rw [hf.overflow_eq hm]
  split
  next h4 =>
    split
    · rw [hf.e4_eq h4]
      revert ftz
      decide
    · exact hf.written_normal (by omega) hle ftz s
  next => split <;> exact hf.written_normal (by omega) (by omega) ftz s

theorem FFmt.Sound.written_limit {mode : Nat} (hm : mode < 4) (alt ftz s : Bool) (n : Nat) : f.written ftz (f.limit mode alt s n)
    = if f.topMag < n then f.overflow mode alt s else if ftz = true ∧ n < 2 ^ f.mbits then f.sign s else f.sign s + n := by
  rw [FFmt.limit]
  split
  next => exact hf.written_overflow hm alt ftz s
  next h => exact hf.written_sign_add (by have := hf.topMag_lt; omega) ftz s

/-! ### The model's rounding (R63) -/

/-- The pattern of k × 2^q, limited and flushed, as the model makes it. -/
def FFmt.pack (f : FFmt) (mode : Nat) (alt ftz s : Bool) (q : Int) (k : Nat) : Nat :=
  if k == 0 then f.sign s
  else if k < 2 ^ f.mbits then (if ftz then f.sign s else f.sign s + k)
  else
    let k' := if k ≥ 2 ^ (f.mbits + 1) then k / 2 else k
    let q' := if k ≥ 2 ^ (f.mbits + 1) then q + 1 else q
    let ex := (q' + f.mbits + f.bias).toNat
    let big := if f.e4 then ex > 15 || (ex == 15 && k' == 15) else ex ≥ f.emax
    if big then f.overflow mode alt s else f.sign s + ex * 2 ^ f.mbits + (k' - 2 ^ f.mbits)

/-- An exponent and a fraction beyond the largest finite value. -/
theorem FFmt.Sound.topMag_lt_iff {ex r : Nat} (hr : r < 2 ^ f.mbits) : f.topMag < ex * 2 ^ f.mbits + r
    ↔ (if f.e4 then ex > 15 || (ex == 15 && 2 ^ f.mbits + r == 15) else ex ≥ f.emax) = true := by
  cases h4 : f.e4 with
  | true =>
    rw [hf.e4_eq h4] at hr ⊢
    simp only [FFmt.topMag, FFmt.f8e4] at hr ⊢
    simp
    omega
  | false =>
    have hpos : 0 < f.emax * 2 ^ f.mbits := hf.infMag_pos
    have hex : (ex * 2 ^ f.mbits + r) / 2 ^ f.mbits = ex := by
      rw [Nat.mul_comm, Nat.mul_add_div (Nat.two_pow_pos _), Nat.div_eq_of_lt hr, Nat.add_zero]
    have : f.emax ≤ ex ↔ f.emax * 2 ^ f.mbits ≤ ex * 2 ^ f.mbits + r := by
      rw [← Nat.le_div_iff_mul_le (Nat.two_pow_pos _), hex]
    simp only [FFmt.topMag, h4, Bool.false_eq_true, if_false, ge_iff_le, decide_eq_true_eq, this]
    omega

/-- The pattern of a normal magnitude. -/
theorem FFmt.Sound.pack_normal {mode : Nat} (hm : mode < 4) (alt ftz s : Bool) {ex r : Nat} (hex : 0 < ex) (hr : r < 2 ^ f.mbits) :
    (if (if f.e4 then ex > 15 || (ex == 15 && 2 ^ f.mbits + r == 15) else ex ≥ f.emax) = true then f.overflow mode alt s
      else f.sign s + ex * 2 ^ f.mbits + (2 ^ f.mbits + r - 2 ^ f.mbits))
    = f.written ftz (f.limit mode alt s (ex * 2 ^ f.mbits + r)) := by
  have : 2 ^ f.mbits ≤ ex * 2 ^ f.mbits := Nat.le_mul_of_pos_left _ hex
  rw [hf.written_limit hm, Nat.add_sub_cancel_left, Nat.add_assoc]
  simp only [← hf.topMag_lt_iff hr, show ¬ (ftz = true ∧ ex * 2 ^ f.mbits + r < 2 ^ f.mbits) by omega, if_false]

/-- A number k of steps of grid b is packed as the magnitude b × 2^mbits + k. -/
theorem FFmt.Sound.pack_eq {mode : Nat} (hm : mode < 4) (alt ftz s : Bool) {b k : Nat} (hb : b = 0 ∨ 2 ^ f.mbits ≤ k)
    (hk : k ≤ 2 ^ (f.mbits + 1)) :
    f.pack mode alt ftz s (b + (1 - f.bias - f.mbits)) k = f.written ftz (f.limit mode alt s (b * 2 ^ f.mbits + k)) := by
  have hp : 2 ^ (f.mbits + 1) = 2 ^ f.mbits * 2 := pow_succ _ _
  have hpos := Nat.two_pow_pos f.mbits
  rcases Nat.lt_or_ge k (2 ^ f.mbits) with hlt | hge
  · obtain rfl : b = 0 := hb.resolve_right (by omega)
    have := hf.mbits_le_topMag
    rw [hf.written_limit hm, if_neg (by omega), FFmt.pack, if_pos hlt]
    cases ftz <;> by_cases h0 : k = 0 <;> simp [h0, hlt]
  · have hk0 : (k == 0) = false := beq_eq_false_iff_ne.mpr (by omega)
    rcases Nat.lt_or_ge k (2 ^ (f.mbits + 1)) with hlt | hge'
    · obtain ⟨r, rfl⟩ := Nat.exists_eq_add_of_le hge
      have hex : ((b : ℤ) + (1 - f.bias - f.mbits) + f.mbits + f.bias).toNat = b + 1 := by omega
      rw [show b * 2 ^ f.mbits + (2 ^ f.mbits + r) = (b + 1) * 2 ^ f.mbits + r by ring, ← hf.pack_normal hm alt ftz s (by omega) (by omega)]
      simp only [FFmt.pack, hk0, Bool.false_eq_true, if_false, if_neg (Nat.not_lt.mpr hge), if_neg (Nat.not_le.mpr hlt), hex]
    · obtain rfl : k = 2 ^ f.mbits * 2 := by omega
      have hex : ((b : ℤ) + (1 - f.bias - f.mbits) + 1 + f.mbits + f.bias).toNat = b + 2 := by omega
      rw [show b * 2 ^ f.mbits + 2 ^ f.mbits * 2 = (b + 2) * 2 ^ f.mbits + 0 by ring,
        ← hf.pack_normal hm alt ftz s (by omega) (Nat.two_pow_pos _)]
      simp only [FFmt.pack, hk0, Bool.false_eq_true, if_false, if_neg (Nat.not_lt.mpr hge), if_pos hge', hex, Nat.mul_div_cancel _ two_pos,
        Nat.add_zero]

end Limits

/-! ### Exact values and sticky ones -/

/-- The number m × 2^e stands for the magnitude y: exactly, or with a sticky bit below every bit that a format keeps. -/
def StandsFor (m : ℕ) (e : ℤ) (y : ℝ) : Prop := y = m * 2 ^ e ∨ 2 ^ 55 ≤ m ∧ Sticky m e y

theorem StandsFor.bounds {m : ℕ} {e : ℤ} {y : ℝ} (hm : m ≠ 0) (h : StandsFor m e y) :
    (2 : ℝ) ^ (m.log2 + e : ℤ) ≤ y ∧ y < (2 : ℝ) ^ (m.log2 + e + 1 : ℤ) := by
  have hp : (0 : ℝ) < 2 ^ e := by positivity
  have hlo : 2 ^ m.log2 ≤ m := Nat.log2_self_le hm
  have hhi : m < 2 ^ (m.log2 + 1) := Nat.lt_log2_self
  have hz (n : ℕ) : (2 : ℝ) ^ ((n : ℤ) + e) = ((2 ^ n : ℕ) : ℝ) * 2 ^ e := by rw [zpow_add₀ two_ne_zero]; simp
  rw [hz, show (m.log2 + e + 1 : ℤ) = ((m.log2 + 1 : ℕ) : ℤ) + e by push_cast; ring, hz]
  rcases h with rfl | ⟨hbig, hodd, hl, hu⟩
  · exact ⟨mul_le_mul_of_nonneg_right (by exact_mod_cast hlo) hp.le, mul_lt_mul_of_pos_right (by exact_mod_cast hhi) hp⟩
  · have heven : 2 ^ m.log2 % 2 = 0 := by
      have : m.log2 ≠ 0 := by
        intro h0
        rw [h0] at hhi
        omega
      exact Nat.mod_eq_zero_of_dvd (dvd_pow_self 2 this)
    have hlo' : ((2 ^ m.log2 : ℕ) : ℝ) ≤ (m : ℝ) - 1 := by
      rw [le_sub_iff_add_le]
      exact_mod_cast (by omega : 2 ^ m.log2 + 1 ≤ m)
    have hhi' : (m : ℝ) + 1 ≤ ((2 ^ (m.log2 + 1) : ℕ) : ℝ) := by exact_mod_cast hhi
    exact ⟨(mul_le_mul_of_nonneg_right hlo' hp.le).trans hl.le, hu.trans_le (mul_le_mul_of_nonneg_right hhi' hp.le)⟩

theorem StandsFor.eq_zero_iff {m : ℕ} {e : ℤ} {y : ℝ} (h : StandsFor m e y) : y = 0 ↔ m = 0 := by
  refine ⟨fun hy => ?_, fun hm => ?_⟩
  · by_contra hm
    have := (h.bounds hm).1
    rw [hy] at this
    exact absurd this (not_le.mpr (by positivity))
  · subst hm
    refine (h.resolve_right fun h => by omega).trans (by simp)

/-- Scaling by a power of two. -/
theorem StandsFor.scale {m : ℕ} {e : ℤ} {y : ℝ} (h : StandsFor m e y) (q : ℤ) : StandsFor m (e - q) (y * 2 ^ (-q)) := by
  have hp : (0 : ℝ) < 2 ^ (-q) := by positivity
  rw [StandsFor, Sticky, sub_eq_add_neg, zpow_add₀ two_ne_zero, ← mul_assoc, ← mul_assoc, ← mul_assoc, mul_lt_mul_iff_left₀ hp,
    mul_lt_mul_iff_left₀ hp, mul_left_inj' hp.ne']
  exact h

section Rounding
variable {f : FFmt}

/-- The value of a magnitude, as a real number. -/
noncomputable def FFmt.reals (f : FFmt) (n : ℕ) : ℝ := f.magReal n

theorem FFmt.reals_strictMono : StrictMono f.reals := fun _ _ h => Rat.cast_lt.mpr (f.magReal_strictMono h)

@[simp] theorem FFmt.reals_zero : f.reals 0 = 0 := by simp [FFmt.reals]

theorem FFmt.reals_nonneg (n : ℕ) : 0 ≤ f.reals n := Rat.cast_nonneg.mpr (f.magReal_nonneg n)

theorem FFmt.reals_grid {b k : ℕ} (hb : b = 0 ∨ 2 ^ f.mbits ≤ k) (hk : k ≤ 2 ^ (f.mbits + 1)) :
    f.reals (b * 2 ^ f.mbits + k) = k * 2 ^ ((b : ℤ) + (1 - f.bias - f.mbits)) := by
  rw [FFmt.reals, FFmt.magReal_grid hb hk]
  push_cast
  rfl

variable (hf : f.Sound)
include hf

/-- What an integer rounding on grid b of the format picks, the format picks (R63). -/
theorem FFmt.Sound.picks_of_grid {mode : Nat} {s : Bool} {b k : ℕ} {t : ℝ} (hlo : b = 0 ∨ (2 : ℝ) ^ f.mbits ≤ t)
    (hhi : t < 2 ^ (f.mbits + 1)) (h : Picks (Nat.cast : ℕ → ℝ) mode s t k) :
    (b = 0 ∨ 2 ^ f.mbits ≤ k) ∧ k ≤ 2 ^ (f.mbits + 1)
    ∧ Picks f.reals mode s (t * 2 ^ ((b : ℤ) + (1 - f.bias - f.mbits))) (b * 2 ^ f.mbits + k) := by
  obtain ⟨l, hl, hu, hk⟩ := h
  have hlo' : b = 0 ∨ 2 ^ f.mbits ≤ l := hlo.imp_right fun h => by
    have : ((2 ^ f.mbits : ℕ) : ℝ) < ((l + 1 : ℕ) : ℝ) := by push_cast; exact h.trans_lt (by exact_mod_cast hu)
    exact Nat.lt_succ_iff.mp (by exact_mod_cast this)
  have hhi' : l < 2 ^ (f.mbits + 1) := by exact_mod_cast hl.trans_lt hhi
  have hp : (0 : ℝ) < 2 ^ ((b : ℤ) + (1 - f.bias - f.mbits)) := by positivity
  have hv : f.reals (b * 2 ^ f.mbits + l) = l * 2 ^ ((b : ℤ) + (1 - f.bias - f.mbits)) := by
    rw [FFmt.reals_grid hlo' hhi'.le]
  have hv' : f.reals (b * 2 ^ f.mbits + l + 1) = ((l + 1 : ℕ) : ℝ) * 2 ^ ((b : ℤ) + (1 - f.bias - f.mbits)) := by
    rw [Nat.add_assoc, FFmt.reals_grid (hlo'.imp_right (by omega)) hhi']
  have hodd : (b * 2 ^ f.mbits + l) % 2 = l % 2 := by
    obtain ⟨j, hj⟩ : 2 ∣ b * 2 ^ f.mbits := (dvd_pow_self 2 hf.mbits_pos.ne').mul_left b
    omega
  have htakes : TakesUpper f.reals mode s (t * 2 ^ ((b : ℤ) + (1 - f.bias - f.mbits))) (b * 2 ^ f.mbits + l)
      ↔ TakesUpper (Nat.cast : ℕ → ℝ) mode s t l := by
    simp only [TakesUpper, hv, hv', hodd, mul_lt_mul_iff_left₀ hp, ← add_mul, ← mul_assoc, mul_left_inj' hp.ne']
  refine ⟨by omega, by omega, b * 2 ^ f.mbits + l, ?_, ?_, ?_⟩
  · rw [hv]
    exact mul_le_mul_of_nonneg_right hl hp.le
  · rw [hv']
    exact mul_lt_mul_of_pos_right hu hp
  · rw [htakes]
    exact hk.imp (fun h => ⟨h.1, by omega⟩) fun h => ⟨h.1, by omega⟩

/-- The model's rounding of a nonzero magnitude takes the one the mode picks, limited and as it is written (R62 to R64). -/
theorem FFmt.Sound.rndFin_picks {mode : Nat} (hmode : mode < 4) (alt ftz s : Bool) {m : ℕ} {e : ℤ} {y : ℝ} (hm : m ≠ 0)
    (h : StandsFor m e y) : ∃ n, Picks f.reals mode s y n
      ∧ f.rndFin mode alt ftz s m e = f.written ftz (f.limit mode alt s n) := by
  let lo : ℤ := 1 - f.bias - f.mbits
  let top : ℤ := m.log2 + e - f.mbits
  let q : ℤ := if top < lo then lo else top
  have hq : lo ≤ q ∧ top ≤ q ∧ (q = lo ∨ q = top) := by
    simp only [q]
    split <;> omega
  obtain ⟨b, hb⟩ : ∃ b : ℕ, q = b + lo := ⟨(q - lo).toNat, by omega⟩
  have hround : Picks (Nat.cast : ℕ → ℝ) mode s (y * 2 ^ (-q)) (roundNat mode s m (e - q)) := by
    refine roundNat_picks ((h.scale q).imp_right fun ⟨hbig, hsticky⟩ => ⟨?_, hsticky⟩) mode s
    have : 55 ≤ m.log2 := (Nat.le_log2 hm).mpr hbig
    have := hf.mbits_le
    omega
  obtain ⟨hlo, hhi⟩ := (h.scale q).bounds hm
  have hgrid := hf.picks_of_grid (b := b) ?_ ?_ hround
  · obtain ⟨hk, hk', hpick⟩ := hgrid
    rw [mul_assoc, ← zpow_add₀ two_ne_zero, show -q + (b + (1 - f.bias - f.mbits)) = 0 by omega, zpow_zero, mul_one] at hpick
    refine ⟨_, hpick, ?_⟩
    rw [← hf.pack_eq hmode alt ftz s hk hk']
    exact congrArg (f.pack mode alt ftz s · (roundNat mode s m (e - q))) hb
  · rcases hq.2.2 with h | h
    · exact .inl (by omega)
    · refine .inr (le_trans ?_ hlo)
      rw [← zpow_natCast]
      exact zpow_le_zpow_right₀ one_le_two (by omega)
  · refine hhi.trans_le ?_
    rw [← zpow_natCast]
    exact zpow_le_zpow_right₀ one_le_two (by push_cast; omega)

end Rounding
end Sys2Proof.Machine

end

section

/-! SUPPORT. What the modes pick is the real number rounded once and limited, and how exact results, huge ones and tiny ones round
(R62 to R64). -/

namespace Sys2Proof.Machine

section Rounds
variable {f : FFmt} (hf : f.Sound)
include hf

omit hf in
theorem FFmt.topMag_def : (if f.e4 then 0x7E else f.emax * 2 ^ f.mbits - 1) = f.topMag := rfl

theorem FFmt.Sound.real_cast (p : Nat) : (f.real p : ℝ) = (if f.negOf p then -1 else 1) * f.reals (f.magOf p) := by
  rw [hf.real_eq, FFmt.reals]
  split <;> simp

theorem FFmt.Sound.abs_real (p : Nat) : |(f.real p : ℝ)| = f.reals (f.magOf p) := by
  rw [hf.real_cast, abs_mul, abs_of_nonneg (FFmt.reals_nonneg _)]
  split <;> simp

theorem FFmt.Sound.lt_magnitudes {n : ℕ} (hn : n ≤ f.topMag) : n < 2 ^ (f.width - 1) := by
  have := hf.topMag_lt
  omega

theorem FFmt.Sound.topMag_cast : (f.real f.topMag : ℝ) = f.reals f.topMag := by
  have hlt := hf.lt_magnitudes le_rfl
  have htop : f.sign false + f.topMag = f.topMag := Nat.zero_add _
  rw [hf.real_cast, ← htop, f.negOf_sign_add hlt, f.magOf_sign_add hlt, htop]
  simp

/-- The first value beyond the largest finite one. -/
theorem FFmt.Sound.next_cast :
    (f.real f.topMag : ℝ) + 2 ^ ((f.exOf f.topMag : ℤ) - f.bias - f.mbits) = f.reals (f.topMag + 1) := by
  obtain ⟨b, k, hn, hb, hk⟩ := f.exists_grid f.topMag
  have hp := Nat.two_pow_pos f.mbits
  have hp2 : 2 ^ (f.mbits + 1) = 2 ^ f.mbits * 2 := pow_succ _ _
  have hk' : 2 ^ f.mbits ≤ k := by
    rcases hb with rfl | hb
    · have := hf.mbits_le_topMag
      omega
    · exact hb
  have hex : f.exOf f.topMag = b + 1 := by
    have h := hf.exOf_sign_add (hf.lt_magnitudes le_rfl) false
    rw [show f.sign false + f.topMag = f.topMag from Nat.zero_add _] at h
    rw [h, hn, show b * 2 ^ f.mbits + k = 2 ^ f.mbits * (b + 1) + (k - 2 ^ f.mbits) by rw [Nat.mul_comm b, Nat.mul_add]; omega,
      Nat.mul_add_div hp, Nat.div_eq_of_lt (by omega), Nat.add_zero]
  rw [hf.topMag_cast, hex, hn, Nat.add_assoc, FFmt.reals_grid (.inr hk') hk.le, FFmt.reals_grid (.inr (by omega)) hk]
  rw [show ((b + 1 : ℕ) : ℤ) - f.bias - f.mbits = b + (1 - f.bias - f.mbits) by push_cast; ring]
  push_cast
  ring

/-- Beyond the largest finite value the result is the table's; else it is a finite pattern of the sign given (R63, R64). -/
theorem FFmt.Sound.limit_spec {mode : Nat} (hm : mode < 4) {alt s : Bool} {n : ℕ} {beyond : Prop} {best : Nat → Prop}
    (hb : beyond ↔ f.topMag < n)
    (hbest : f.limit mode alt s n % 2 = n % 2 → (f.real (f.limit mode alt s n) : ℝ) = (if s then -1 else 1) * f.reals n →
      ∀ q, best q) :
    (beyond → f.limit mode alt s n = if f.e4 then (if alt then 0x7F else f.sign s + f.topMag)
      else f.sign s + (if alt ∨ mode = 1 ∨ (mode = 2 ∧ s) ∨ (mode = 3 ∧ ¬ s) then f.topMag else f.topMag + 1))
    ∧ (¬ beyond → f.limit mode alt s n < 2 ^ f.width ∧ f.finPat (f.limit mode alt s n) = true ∧ f.negOf (f.limit mode alt s n) = s
      ∧ ∀ q, f.finPat q = true → best q) := by
  rw [hb]
  refine ⟨fun h => ?_, fun h => ?_⟩
  · rw [FFmt.limit, if_pos h, hf.overflow_eq hm]
  · have hle := Nat.not_lt.mp h
    have hlt := hf.lt_magnitudes hle
    have heven : f.sign s % 2 = 0 := by
      have hw : f.width - 1 ≠ 0 := by
        have := hf.width_eq
        have := hf.mbits_pos
        omega
      cases s
      · rfl
      · exact Nat.mod_eq_zero_of_dvd (dvd_pow_self 2 hw)
    have hl : f.limit mode alt s n = f.sign s + n := if_neg h
    rw [hl] at hbest ⊢
    refine ⟨hf.sign_add_lt hlt s, ?_, f.negOf_sign_add hlt s, fun q _ => hbest (by omega) ?_ q⟩
    · rw [hf.finPat_iff, f.magOf_sign_add hlt]
      exact hle
    · rw [hf.real_cast, f.negOf_sign_add hlt, f.magOf_sign_add hlt]

omit hf in
theorem signed_abs (x : ℝ) : (if decide (x < 0) then -1 else 1) * |x| = x := by
  rcases lt_or_ge x 0 with h | h
  · simp [h, abs_of_neg h]
  · simp [not_lt.mpr h, abs_of_nonneg h]

omit hf in
theorem abs_sub_signed (x y : ℝ) : |x - (if decide (x < 0) then -1 else 1) * y| = |(|x| - y)| := by
  rcases lt_or_ge x 0 with h | h
  · rw [abs_of_neg h, ← abs_neg]
    simp [h, add_comm, sub_eq_add_neg]
  · rw [abs_of_nonneg h]
    simp [not_lt.mpr h]

theorem FFmt.Sound.topMag_even_iff : f.topMag % 2 = 0 ↔ f.e4 = true := by
  cases h4 : f.e4 with
  | true => simp [FFmt.topMag, h4]
  | false =>
    have := hf.topMag_succ h4
    obtain ⟨j, hj⟩ : 2 ∣ f.emax * 2 ^ f.mbits := (dvd_pow_self 2 hf.mbits_pos.ne').mul_left _
    exact iff_of_false (by omega) Bool.false_ne_true

/-- A value of the same magnitude that lies as near to X as that magnitude to X's has the sign of X, or is zero. -/
theorem FFmt.Sound.real_eq_of_as_near {X : ℝ} (hX : X ≠ 0) {q : Nat}
    (h : |(|X| - f.reals (f.magOf q))| = |X - f.real q|) :
    (f.real q : ℝ) = (if decide (X < 0) then -1 else 1) * f.reals (f.magOf q) := by
  rw [hf.real_cast] at h ⊢
  have hy := f.reals_nonneg (f.magOf q)
  generalize f.reals (f.magOf q) = y at h hy ⊢
  rcases Bool.eq_or_eq_not (f.negOf q) (decide (X < 0)) with hs | hs
  · rw [hs]
  · have hopp : X - (if f.negOf q then -1 else 1) * y = (if decide (X < 0) then -1 else 1) * (|X| + y) := by
      rw [mul_add, signed_abs, hs]
      cases decide (X < 0) <;> simp [sub_eq_add_neg]
    have hsum : |X - (if f.negOf q then -1 else 1) * y| = |X| + y := by
      rw [hopp, abs_mul, abs_of_nonneg (add_nonneg (abs_nonneg X) hy)]
      split <;> simp
    have hzero : y = 0 := by
      have hx := abs_pos.mpr hX
      rw [hsum] at h
      rcases abs_cases (|X| - y) with hc | hc <;> linarith
    simp [hzero]

theorem FFmt.Sound.roundsTo_nearest {X : ℝ} (hX : X ≠ 0) (alt : Bool) {n : ℕ} (h : Picks f.reals 0 (decide (X < 0)) |X| n) :
    f.RoundsTo 0 alt X (f.limit 0 alt (decide (X < 0)) n) := by
  unfold FFmt.RoundsTo
  refine hf.limit_spec (by omega) ?_ fun hmod hr q => ?_
  · simp only
    rw [h.lt_iff_of_nearest f.reals_strictMono, ← hf.next_cast, ← hf.topMag_cast]
    simp only [hf.topMag_even_iff]
    rfl
  · obtain ⟨hle, htie⟩ := h.nearest f.reals_strictMono (f.magOf q)
    have hfar : |(|X| - f.reals (f.magOf q))| ≤ |X - f.real q| := hf.abs_real q ▸ abs_abs_sub_abs_le_abs_sub _ _
    simp only
    rw [hr, abs_sub_signed, hmod]
    refine ⟨hle.trans hfar, fun he => ?_⟩
    have hsame := le_antisymm hle (he ▸ hfar)
    refine (htie hsame).imp_left fun hn => ?_
    rw [← hn]
    exact hf.real_eq_of_as_near hX (hsame.symm.trans he)

theorem FFmt.Sound.real_cases (q : Nat) :
    (f.real q : ℝ) = f.reals (f.magOf q) ∨ (f.real q : ℝ) = -f.reals (f.magOf q) := by
  rw [hf.real_cast]
  split
  next => exact .inr (by ring)
  next => exact .inl (one_mul _)

theorem FFmt.Sound.roundsTo_zero {X : ℝ} (alt : Bool) {n : ℕ} (h : Picks f.reals 1 (decide (X < 0)) |X| n) :
    f.RoundsTo 1 alt X (f.limit 1 alt (decide (X < 0)) n) := by
  obtain ⟨hle, hbest, hlt⟩ := h.toward_zero f.reals_strictMono (.inl rfl)
  unfold FFmt.RoundsTo
  refine hf.limit_spec (by omega) ?_ fun _ hr q => ?_
  · simp only
    rw [FFmt.topMag_def, hf.next_cast, hlt]
  · simp only
    rw [hr, abs_mul, abs_of_nonneg (f.reals_nonneg n), hf.abs_real, 
      show |(if decide (X < 0) then -1 else 1 : ℝ)| = 1 by split <;> simp, one_mul]
    exact ⟨hle, hbest _⟩

omit hf in
/-- Up, a value goes away from zero where it is positive, and toward zero where it is negative. -/
theorem Picks.rounds_up {X : ℝ} (hX : X ≠ 0) {n : ℕ} (h : Picks f.reals 2 (decide (X < 0)) |X| n) :
    let V := (if decide (X < 0) then -1 else 1) * f.reals n
    X ≤ V ∧ (∀ j, ∀ Q : ℝ, Q = f.reals j ∨ Q = -f.reals j → X ≤ Q → V ≤ Q)
    ∧ ∀ j, f.reals j < X ∨ X ≤ -f.reals (j + 1) ↔ j < n := by
  rcases hX.lt_or_gt with hneg | hpos
  · obtain ⟨hle, hbest, hlt⟩ := h.toward_zero f.reals_strictMono (.inr (.inl ⟨rfl, by simpa using hneg⟩))
    simp only [abs_of_neg hneg, hneg, decide_true, if_true] at hle hbest hlt ⊢
    refine ⟨by linarith, fun j Q hQ hq => ?_, fun j => ?_⟩
    · rcases hQ with rfl | rfl
      · linarith [f.reals_nonneg n, f.reals_nonneg j]
      · linarith [hbest j (by linarith)]
    · rw [← hlt, le_neg]
      exact or_iff_right (by linarith [f.reals_nonneg j])
  · obtain ⟨hle, hbest, hlt⟩ := h.away_from_zero f.reals_strictMono (.inl ⟨rfl, by simpa using hpos.le⟩)
    simp only [abs_of_pos hpos, hpos.not_gt, decide_false, Bool.false_eq_true, if_false] at hle hbest hlt ⊢
    refine ⟨by linarith, fun j Q hQ hq => ?_, fun j => ?_⟩
    · rcases hQ with rfl | rfl
      · linarith [hbest j hq]
      · linarith [f.reals_nonneg j]
    · rw [← hlt]
      exact or_iff_left (by linarith [f.reals_nonneg (j + 1)])

omit hf in
/-- Down is up of the negated value. -/
theorem Picks.rounds_down {X : ℝ} (hX : X ≠ 0) {n : ℕ} (h : Picks f.reals 3 (decide (X < 0)) |X| n) :
    let V := (if decide (X < 0) then -1 else 1) * f.reals n
    V ≤ X ∧ (∀ j, ∀ Q : ℝ, Q = f.reals j ∨ Q = -f.reals j → Q ≤ X → Q ≤ V)
    ∧ ∀ j, X < -f.reals j ∨ f.reals (j + 1) ≤ X ↔ j < n := by
  have hs : decide (-X < 0) = !decide (X < 0) := by
    rcases hX.lt_or_gt with h | h <;> simp [h, h.not_gt]
  have hup : Picks f.reals 2 (decide (-X < 0)) |-X| n := by
    obtain ⟨l, hl, hu, h⟩ := h
    refine ⟨l, abs_neg X ▸ hl, abs_neg X ▸ hu, ?_⟩
    rw [hs]
    generalize decide (X < 0) = b at h ⊢
    cases b <;> simpa [TakesUpper] using h
  obtain ⟨hle, hbest, hlt⟩ := hup.rounds_up (neg_ne_zero.mpr hX)
  have hV : (if decide (-X < 0) then -1 else 1) * f.reals n = -((if decide (X < 0) then -1 else 1) * f.reals n) := by
    rw [hs]
    cases decide (X < 0) <;> simp
  rw [hV] at hle hbest
  refine ⟨neg_le_neg_iff.mp hle, fun j Q hQ hq => ?_, fun j => ?_⟩
  · exact neg_le_neg_iff.mp (hbest j (-Q) (hQ.symm.imp (fun h => by rw [h, neg_neg]) fun h => by rw [h]) (neg_le_neg hq))
  · rw [← hlt, neg_le_neg_iff, lt_neg]

theorem FFmt.Sound.roundsTo_up {X : ℝ} (hX : X ≠ 0) (alt : Bool) {n : ℕ} (h : Picks f.reals 2 (decide (X < 0)) |X| n) :
    f.RoundsTo 2 alt X (f.limit 2 alt (decide (X < 0)) n) := by
  obtain ⟨hle, hbest, hlt⟩ := h.rounds_up hX
  unfold FFmt.RoundsTo
  refine hf.limit_spec (by omega) ?_ fun _ hr q => ?_
  · simp only [FFmt.topMag_def, hf.next_cast]
    rw [hf.topMag_cast, hlt]
  · simp only
    rw [hr]
    exact ⟨hle, hbest _ _ (hf.real_cases q)⟩

theorem FFmt.Sound.roundsTo_down {X : ℝ} (hX : X ≠ 0) (alt : Bool) {n : ℕ} (h : Picks f.reals 3 (decide (X < 0)) |X| n) :
    f.RoundsTo 3 alt X (f.limit 3 alt (decide (X < 0)) n) := by
  obtain ⟨hle, hbest, hlt⟩ := h.rounds_down hX
  unfold FFmt.RoundsTo
  refine hf.limit_spec (by omega) ?_ fun _ hr q => ?_
  · simp only [FFmt.topMag_def, hf.next_cast]
    rw [hf.topMag_cast, hlt]
  · simp only
    rw [hr]
    exact ⟨hle, hbest _ _ (hf.real_cases q)⟩

/-- What a mode picks is the real number rounded once and limited (R63, R64). -/
theorem FFmt.Sound.roundsTo_of_picks {mode : Nat} (hm : mode < 4) {X : ℝ} (hX : X ≠ 0) (alt : Bool) {n : ℕ}
    (h : Picks f.reals mode (decide (X < 0)) |X| n) : f.RoundsTo mode alt X (f.limit mode alt (decide (X < 0)) n) := by
  interval_cases mode
  · exact hf.roundsTo_nearest hX alt h
  · exact hf.roundsTo_zero alt h
  · exact hf.roundsTo_up hX alt h
  · exact hf.roundsTo_down hX alt h

/-! ### What the model's rounding gives -/

omit hf in
/-- The value is finite and stands for the real number X; a zero has the sign given. -/
def FVal.Stands (zero : Bool) (X : ℝ) : FVal → Prop
  | .fin s m e => s = (if X = 0 then zero else decide (X < 0)) ∧ StandsFor m e |X|
  | _ => False

theorem FFmt.Sound.gives_of_stands (md : Mods) {zero : Bool} {X : ℝ} {v : FVal} (h : v.Stands zero X) :
    f.Gives md zero X (f.rnd md.rnd.toNat md.alt md.ftz v) := by
  cases v with
  | fin s m e =>
    obtain ⟨hs, hv⟩ := h
    have hm : X = 0 ↔ m = 0 := abs_eq_zero.symm.trans hv.eq_zero_iff
    refine ⟨fun h0 => ?_, fun h0 => ?_⟩
    · rw [FFmt.rnd, if_pos (hm.mp h0), hs, if_pos h0]
    · have hm0 : m ≠ 0 := fun h => h0 (hm.mpr h)
      rw [if_neg h0] at hs
      obtain ⟨n, hn, hr⟩ := hf.rndFin_picks md.rnd.isLt md.alt md.ftz s hm0 hv
      rw [FFmt.rnd, if_neg hm0, hr]
      rw [hs] at hn ⊢
      exact ⟨_, hf.roundsTo_of_picks md.rnd.isLt h0 md.alt hn, rfl⟩
  | nan => exact h.elim
  | inf s => exact h.elim
  | pole s => exact h.elim

/-- A finite value of the format rounds to itself. -/
theorem FFmt.Sound.rnd_of_value {mode : Nat} (hmode : mode < 4) (alt ftz s : Bool) {m : ℕ} {e : ℤ} {n : ℕ}
    (h : f.magReal n = m * 2 ^ e) (hn : n ≤ f.topMag) : f.rnd mode alt ftz (.fin s m e) = f.written ftz (f.sign s + n) := by
  rw [FFmt.rnd]
  split
  next h0 => rw [(f.mantissa_eq_zero h).mp h0, Nat.add_zero, hf.written_sign]
  next h0 =>
    have hv : StandsFor m e (f.reals n) := .inl (by rw [FFmt.reals, h]; push_cast; rfl)
    obtain ⟨k, hk, hr⟩ := hf.rndFin_picks hmode alt ftz s h0 hv
    rw [hr, hk.eq_of_value f.reals_strictMono, FFmt.limit, if_neg (by omega)]

/-- Every value from the first one beyond the largest finite one on gives what overflow gives. -/
theorem FFmt.Sound.rnd_of_huge {mode : Nat} (hmode : mode < 4) (alt ftz s : Bool) {m : ℕ} {e : ℤ} (hm : m ≠ 0)
    (h : f.reals (f.topMag + 1) ≤ m * 2 ^ e) : f.rnd mode alt ftz (.fin s m e) = f.overflow mode alt s := by
  obtain ⟨n, hn, hr⟩ := hf.rndFin_picks hmode alt ftz s hm (.inl rfl)
  have hlt : f.topMag < n := hn.le_of_value_le f.reals_strictMono h
  rw [FFmt.rnd, if_neg hm, hr, hf.written_limit hmode, if_pos hlt]

/-- Values below half the least subnormal round alike. -/
theorem FFmt.Sound.rnd_of_tiny {mode : Nat} (hmode : mode < 4) (alt ftz s : Bool) {m m' : ℕ} {e e' : ℤ} (hm : m ≠ 0) (hm' : m' ≠ 0)
    (h : 2 * ((m : ℝ) * 2 ^ e) < f.reals 1) (h' : 2 * ((m' : ℝ) * 2 ^ e') < f.reals 1) :
    f.rnd mode alt ftz (.fin s m e) = f.rnd mode alt ftz (.fin s m' e') := by
  obtain ⟨n, hn, hr⟩ := hf.rndFin_picks hmode alt ftz s hm (.inl rfl)
  obtain ⟨n', hn', hr'⟩ := hf.rndFin_picks hmode alt ftz s hm' (.inl rfl)
  have hpos (j : ℕ) (hj : j ≠ 0) (i : ℤ) : (0 : ℝ) < j * 2 ^ i := mul_pos (Nat.cast_pos.mpr (Nat.pos_of_ne_zero hj)) (by positivity)
  have := hn.eq_of_tiny f.reals_strictMono FFmt.reals_zero (hpos m hm e) (hpos m' hm' e') h h' hn'
  rw [FFmt.rnd, FFmt.rnd, if_neg hm, if_neg hm', hr, hr', this]

end Rounds
end Sys2Proof.Machine

end

section

/-! SUPPORT. The operations on exact values: what each result stands for (R63, R177). -/

namespace Sys2Proof.Machine

/-! ### Sums and products (R63) -/

section Exact
variable {X : ℝ} {zero s s' : Bool} {m m' : ℕ} {e e' : ℤ}

theorem signed_cast (s : Bool) (m : ℕ) : ((signed s m : ℤ) : ℝ) = (if s then -1 else 1) * m := by
  cases s <;> simp [signed]

theorem signed_eq_zero : signed s m = 0 ↔ m = 0 := by cases s <;> simp [signed]

theorem signed_neg_iff (hm : m ≠ 0) : signed s m < 0 ↔ s = true := by
  cases s <;> simp [signed]
  omega

theorem signed_natAbs (k : ℤ) : signed (decide (k < 0)) k.natAbs = k := by
  simp only [signed, decide_eq_true_eq]
  split <;> omega

/-- A finite value stands for what it is. -/
theorem stands_fin (h : X = signed s m * 2 ^ e) (h0 : m = 0 → s = zero) : (FVal.fin s m e).Stands zero X := by
  have hp : (0 : ℝ) < 2 ^ e := by positivity
  subst h
  refine ⟨?_, .inl ?_⟩
  · by_cases h : ((signed s m : ℤ) : ℝ) * 2 ^ e = 0
    · rw [if_pos h]
      exact h0 (signed_eq_zero.mp (by simpa [hp.ne'] using h))
    · have hm : m ≠ 0 := fun h' => h (by simp [signed_eq_zero.mpr h'])
      have hneg : ((signed s m : ℤ) : ℝ) * 2 ^ e < 0 ↔ signed s m < 0 := by
        rw [← Int.cast_lt_zero (R := ℝ)]
        simpa using mul_lt_mul_iff_left₀ (b := ((signed s m : ℤ) : ℝ)) (c := 0) hp
      rw [if_neg h, Bool.eq_iff_iff, decide_eq_true_eq, hneg, signed_neg_iff hm]
  · rw [abs_mul, abs_of_pos hp]
    cases s <;> simp [signed]

theorem stands_ofSigned {x : ℤ} (h : X = x * 2 ^ e) : (ofSigned zero x e).Stands zero X := by
  rw [ofSigned]
  split
  next hx => exact stands_fin (by rw [h, hx]; simp [signed]) fun _ => rfl
  next hx =>
    refine stands_fin ?_ fun h0 => absurd (Int.natAbs_eq_zero.mp h0) hx
    rw [signed_natAbs, h]

theorem alignTo_cast (x : ℤ) {e lo : ℤ} (h : lo ≤ e) : ((alignTo x e lo : ℤ) : ℝ) * 2 ^ lo = x * 2 ^ e := by
  obtain ⟨k, hk⟩ := Int.eq_ofNat_of_zero_le (sub_nonneg.mpr h)
  obtain rfl : e = k + lo := by omega
  rw [alignTo, hk, zpow_add₀ two_ne_zero]
  push_cast
  simp [mul_assoc]

/-- A sum, with the sign of a zero (R63). -/
theorem add_stands (mode : Nat) : (FVal.add mode (.fin s m e) (.fin s' m' e')).Stands
    (if m = 0 ∧ m' = 0 ∧ s = s' then s else mode == 3) (signed s m * 2 ^ e + signed s' m' * 2 ^ e') := by
  refine stands_ofSigned ?_
  rw [← alignTo_cast _ (min_le_left e e'), ← alignTo_cast (signed s' m') (min_le_right e e')]
  push_cast
  ring

theorem signed_mul : signed (s != s') (m * m') = signed s m * signed s' m' := by
  cases s <;> cases s' <;> simp [signed]

/-- A product, exactly. -/
theorem mul_value : ((signed (s != s') (m * m') : ℤ) : ℚ) * 2 ^ (if m * m' = 0 then 0 else e + e')
    = signed s m * 2 ^ e * (signed s' m' * 2 ^ e') := by
  split
  next h =>
    rcases Nat.mul_eq_zero.mp h with rfl | rfl <;> simp [signed]
  next h =>
    rw [signed_mul, zpow_add₀ two_ne_zero]
    push_cast
    ring

end Exact

/-! ### Quotients and roots (R177) -/

/-- A magnitude from r to below r + 1, in units of 2^(e + 1), with a sticky bit that says whether it is not r. -/
theorem stands_sticky {zero s b : Bool} {r : ℕ} {e : ℤ} {X y : ℝ} (hX : X = (if s then -1 else 1) * (y * 2 ^ (e + 1)))
    (hr : 2 ^ 54 ≤ r) (hlo : (r : ℝ) ≤ y) (hhi : y < r + 1) (hb : b = true ↔ (r : ℝ) ≠ y) :
    (FVal.fin s (2 * r + b2n b) e).Stands zero X := by
  have hp : (0 : ℝ) < 2 ^ e := by positivity
  have hy : 0 < y * 2 ^ (e + 1) := by
    have : (0 : ℝ) < r := by exact_mod_cast (by omega : 0 < r)
    exact mul_pos (by linarith) (by positivity)
  have habs : |X| = y * 2 ^ (e + 1) := by
    rw [hX, abs_mul, abs_of_pos hy]
    split <;> simp
  refine ⟨?_, ?_⟩
  · rw [if_neg (by rw [← abs_eq_zero, habs]; exact hy.ne'), hX]
    cases s <;> simp [hy, hy.le]
  · rw [habs, zpow_add_one₀ two_ne_zero]
    cases b with
    | false =>
      have : (r : ℝ) = y := by simpa using hb
      left
      simp only [b2n, ← this]
      push_cast
      ring
    | true =>
      have : (r : ℝ) < y := lt_of_le_of_ne hlo (hb.mp rfl)
      right
      simp only [b2n, if_true]
      refine ⟨by omega, by omega, ?_, ?_⟩ <;> push_cast <;> nlinarith

/-- The quotient of two natural numbers, to 80 bits with a sticky bit. -/
theorem ofRatio_stands {zero s : Bool} {m n : ℕ} (hm : m ≠ 0) (hn : n ≠ 0) (e : ℤ) :
    (ofRatio s m n e).Stands zero ((if s then -1 else 1) * (m / n * 2 ^ e)) := by
  let k := 80 + Nat.log2 n - min (Nat.log2 m) (79 + Nat.log2 n)
  have hn0 : (0 : ℝ) < n := by exact_mod_cast Nat.pos_of_ne_zero hn
  have hdiv : (m : ℝ) * 2 ^ k = n * ((m * 2 ^ k / n : ℕ) : ℝ) + ((m * 2 ^ k % n : ℕ) : ℝ) := by
    exact_mod_cast (Nat.div_add_mod (m * 2 ^ k) n).symm
  have hrem : ((m * 2 ^ k % n : ℕ) : ℝ) < n := by exact_mod_cast Nat.mod_lt _ (Nat.pos_of_ne_zero hn)
  have hrem0 : (0 : ℝ) ≤ ((m * 2 ^ k % n : ℕ) : ℝ) := Nat.cast_nonneg _
  have hz : (2 : ℝ) ^ e = 2 ^ k * 2 ^ (e - k - 1 + 1) := by
    rw [← zpow_natCast, ← zpow_add₀ two_ne_zero]
    congr 1
    ring
  refine stands_sticky (y := m * 2 ^ k / n) (by rw [hz]; ring) ?_ ?_ ?_ ?_
  · rw [Nat.le_div_iff_mul_le (Nat.pos_of_ne_zero hn)]
    calc 2 ^ 54 * n ≤ 2 ^ 54 * 2 ^ (n.log2 + 1) := Nat.mul_le_mul_left _ Nat.lt_log2_self.le
      _ = 2 ^ (54 + (n.log2 + 1)) := (pow_add _ _ _).symm
      _ ≤ 2 ^ (m.log2 + k) := Nat.pow_le_pow_right two_pos (by omega)
      _ = 2 ^ m.log2 * 2 ^ k := pow_add _ _ _
      _ ≤ m * 2 ^ k := Nat.mul_le_mul_right _ (Nat.log2_self_le hm)
  · rw [le_div_iff₀ hn0]
    linarith
  · rw [div_lt_iff₀ hn0]
    linarith
  · rw [bne_iff_ne, ne_eq, ne_eq, eq_div_iff hn0.ne', not_iff_not, ← Nat.cast_eq_zero (R := ℝ)]
    exact ⟨fun h => by linarith, fun h => by linarith⟩

/-! ### The integer square root -/

theorem isqrtGo_spec (n k : ℕ) : ∀ r, r * r ≤ n → n < (r + 2 ^ k) * (r + 2 ^ k) →
    isqrtGo n k r * isqrtGo n k r ≤ n ∧ n < (isqrtGo n k r + 1) * (isqrtGo n k r + 1) := by
  induction k with
  | zero => exact fun r hlo hhi => ⟨hlo, hhi⟩
  | succ k ih =>
    intro r hlo hhi
    simp only [isqrtGo]
    split
    next h => exact ih _ h (by rwa [Nat.add_assoc, ← Nat.two_mul, ← pow_succ'])
    next h => exact ih _ hlo (Nat.lt_of_not_le h)

theorem isqrt_spec (n : ℕ) : isqrt n * isqrt n ≤ n ∧ n < (isqrt n + 1) * (isqrt n + 1) := by
  refine isqrtGo_spec n _ 0 (Nat.zero_le _) ?_
  rw [Nat.zero_add, ← pow_add]
  exact Nat.lt_log2_self.trans_le (Nat.pow_le_pow_right two_pos (by omega))

theorem le_isqrt {n k : ℕ} (h : 2 ^ (2 * k) ≤ n) : 2 ^ k ≤ isqrt n := by
  by_contra hlt
  have := (isqrt_spec n).2
  have : (isqrt n + 1) * (isqrt n + 1) ≤ 2 ^ k * 2 ^ k := Nat.mul_le_mul (by omega) (by omega)
  rw [← pow_add, ← two_mul] at this
  omega

/-- The square root, to 80 bits with a sticky bit. -/
theorem rootFin_stands {zero : Bool} {m : ℕ} (hm : m ≠ 0) (e : ℤ) : (rootFin m e).Stands zero (Real.sqrt (m * 2 ^ e)) := by
  let k := 160 + (e % 2).toNat
  let n := m * 2 ^ k
  obtain ⟨hlo, hhi⟩ := isqrt_spec n
  have hz : Real.sqrt (m * 2 ^ e) = Real.sqrt n * 2 ^ ((e - k) / 2 - 1 + 1) := by
    have hexp : e = k + ((e - k) / 2 - 1 + 1) * 2 := by omega
    have hpow : (m : ℝ) * 2 ^ e = n * (2 ^ ((e - k) / 2 - 1 + 1)) ^ 2 := by
      conv_lhs => rw [hexp, zpow_add₀ two_ne_zero, zpow_mul, zpow_natCast]
      simp only [n, zpow_ofNat]
      push_cast
      ring
    rw [hpow, Real.sqrt_mul (Nat.cast_nonneg _), Real.sqrt_sq (by positivity)]
  refine stands_sticky (y := Real.sqrt n) (by rw [if_neg Bool.false_ne_true, one_mul]; exact hz) ?_ ?_ ?_ ?_
  · refine le_isqrt ((Nat.pow_le_pow_right two_pos (by omega)).trans (Nat.le_mul_of_pos_left (2 ^ k) (Nat.pos_of_ne_zero hm)))
  · exact Real.le_sqrt_of_sq_le (by rw [sq]; exact_mod_cast hlo)
  · rw [Real.sqrt_lt' (by positivity), sq]
    exact_mod_cast hhi
  · rw [bne_iff_ne, ne_eq, ne_eq, eq_comm (a := ((isqrt n : ℕ) : ℝ)), Real.sqrt_eq_iff_mul_self_eq (Nat.cast_nonneg _) (Nat.cast_nonneg _),
      eq_comm]
    norm_cast

/-- One over the square root, to 80 bits with a sticky bit. -/
theorem rsqrtFin_stands {zero : Bool} {m : ℕ} (hm : m ≠ 0) (e : ℤ) : (rsqrtFin m e).Stands zero (1 / Real.sqrt (m * 2 ^ e)) := by
  let k := 2 * (Nat.log2 m + 90) + (e % 2).toNat
  let n := 2 ^ k / m
  have hm0 : (0 : ℝ) < m := by exact_mod_cast Nat.pos_of_ne_zero hm
  obtain ⟨hlo, hhi⟩ := isqrt_spec n
  have hlo' : isqrt n * isqrt n * m ≤ 2 ^ k := (Nat.le_div_iff_mul_le (Nat.pos_of_ne_zero hm)).mp hlo
  have hhi' : 2 ^ k < (isqrt n + 1) * (isqrt n + 1) * m := (Nat.div_lt_iff_lt_mul (Nat.pos_of_ne_zero hm)).mp hhi
  have hz : 1 / Real.sqrt (m * 2 ^ e) = Real.sqrt (2 ^ k / m) * 2 ^ (-(e + k) / 2 - 1 + 1) := by
    have hexp : -e = k + (-(e + k) / 2 - 1 + 1) * 2 := by omega
    have hpow : ((m : ℝ) * 2 ^ e)⁻¹ = 2 ^ k / m * (2 ^ (-(e + k) / 2 - 1 + 1)) ^ 2 := by
      rw [mul_inv, ← zpow_neg]
      conv_lhs => rw [hexp, zpow_add₀ two_ne_zero, zpow_mul, zpow_natCast]
      simp only [zpow_ofNat]
      ring
    rw [one_div, ← Real.sqrt_inv, hpow, Real.sqrt_mul (by positivity), Real.sqrt_sq (by positivity)]
  refine stands_sticky (y := Real.sqrt (2 ^ k / m)) (by rw [if_neg Bool.false_ne_true, one_mul]; exact hz) ?_ ?_ ?_ ?_
  · refine le_isqrt ((Nat.le_div_iff_mul_le (Nat.pos_of_ne_zero hm)).mpr ?_)
    calc 2 ^ (2 * 54) * m ≤ 2 ^ (2 * 54) * 2 ^ (m.log2 + 1) := Nat.mul_le_mul_left _ Nat.lt_log2_self.le
      _ = 2 ^ (2 * 54 + (m.log2 + 1)) := (pow_add _ _ _).symm
      _ ≤ 2 ^ k := Nat.pow_le_pow_right two_pos (by omega)
  · refine Real.le_sqrt_of_sq_le ?_
    rw [sq, le_div_iff₀ hm0]
    exact_mod_cast hlo'
  · rw [Real.sqrt_lt' (by positivity), sq, div_lt_iff₀ hm0]
    exact_mod_cast hhi'
  · rw [bne_iff_ne, ne_eq, ne_eq, eq_comm (a := ((isqrt n : ℕ) : ℝ)), Real.sqrt_eq_iff_mul_self_eq (by positivity) (Nat.cast_nonneg _),
      div_eq_iff hm0.ne', eq_comm]
    norm_cast

end Sys2Proof.Machine

end

section

/-! SUPPORT. FEXP2 and FLOG2 of exact powers (R177), rounding to an integer and to an integral value (R65, R179), and the exact values of
integer elements (R57, R58). -/

namespace Sys2Proof.Machine

/-! ### Exact powers of two (R177) -/

section Powers
variable {f : FFmt} (hf : f.Sound)
include hf

theorem FFmt.Sound.next_le : f.reals (f.topMag + 1) ≤ 2 ^ 1025 := by
  have hle : f.topMag + 1 ≤ f.emax * 2 ^ f.mbits + 2 ^ f.mbits := by
    have := hf.topMag_lt
    rw [hf.magnitudes_eq, Nat.mul_add, Nat.mul_comm _ f.emax] at this
    omega
  refine (f.reals_strictMono.monotone hle).trans ?_
  rw [FFmt.reals_grid (.inr le_rfl) (Nat.pow_le_pow_right two_pos (by omega))]
  push_cast
  rw [← zpow_natCast, ← zpow_add₀ two_ne_zero, ← zpow_natCast]
  have := hf.emax_le
  exact zpow_le_zpow_right₀ one_le_two (by push_cast; omega)

theorem FFmt.Sound.le_reals_one : (2 : ℝ) ^ (-1074 : ℤ) ≤ f.reals 1 := by
  have h := FFmt.reals_grid (f := f) (b := 0) (k := 1) (.inl rfl) (Nat.one_le_two_pow)
  rw [Nat.zero_mul, Nat.zero_add, Nat.cast_one, one_mul] at h
  rw [h]
  have := hf.mbits_le
  have := hf.bias_le
  exact zpow_le_zpow_right₀ one_le_two (by push_cast; omega)

theorem FFmt.Sound.gives_pow (md : Mods) (k : ℤ) :
    f.Gives md false ((2 : ℝ) ^ k) (f.rnd md.rnd.toNat md.alt md.ftz (.fin false 1 k)) :=
  hf.gives_of_stands md (stands_fin (by simp [signed]) fun h => absurd h one_ne_zero)

/-- Beyond 2^±8192 every power of two rounds as 2^±9000 does. -/
theorem FFmt.Sound.rnd_pow_far {mode : Nat} (hmode : mode < 4) (alt ftz : Bool) {s : Bool} {k : ℤ}
    (h : if s then k ≤ -8192 else 8192 ≤ k) :
    f.rnd mode alt ftz (.fin false 1 (if s then -9000 else 9000)) = f.rnd mode alt ftz (.fin false 1 k) := by
  cases s with
  | false =>
    have hhuge (j : ℤ) (hj : 8192 ≤ j) : f.reals (f.topMag + 1) ≤ ((1 : ℕ) : ℝ) * 2 ^ j := by
      rw [Nat.cast_one, one_mul]
      refine hf.next_le.trans ?_
      rw [← zpow_natCast]
      exact zpow_le_zpow_right₀ one_le_two (by push_cast; omega)
    rw [hf.rnd_of_huge hmode alt ftz false one_ne_zero (hhuge _ h),
      hf.rnd_of_huge hmode alt ftz false one_ne_zero (hhuge _ (by decide))]
  | true =>
    have htiny (j : ℤ) (hj : j ≤ -8192) : 2 * (((1 : ℕ) : ℝ) * 2 ^ j) < f.reals 1 := by
      rw [Nat.cast_one, one_mul, ← zpow_one_add₀ two_ne_zero]
      exact (zpow_lt_zpow_right₀ one_lt_two (by omega)).trans_le hf.le_reals_one
    exact hf.rnd_of_tiny hmode alt ftz false one_ne_zero one_ne_zero (htiny _ (by decide)) (htiny _ h)

omit hf in
/-- The size of a finite value that is an integer. -/
theorem integer_bounds {s : Bool} {m : ℕ} {e k : ℤ} (hm : m ≠ 0) (h : (signed s m : ℚ) * 2 ^ e = k) :
    (2 : ℝ) ^ (m.log2 + e : ℤ) ≤ |(k : ℝ)| ∧ |(k : ℝ)| < (2 : ℝ) ^ (m.log2 + e + 1 : ℤ) := by
  refine StandsFor.bounds hm (.inl ?_)
  have h' := congrArg (Rat.cast : ℚ → ℝ) h
  push_cast at h'
  rw [← h', abs_mul, abs_of_pos (by positivity : (0 : ℝ) < 2 ^ e)]
  cases s <;> simp [signed]

omit hf in
theorem integer_large {s : Bool} {m : ℕ} {e k : ℤ} (hm : m ≠ 0) (h : (signed s m : ℚ) * 2 ^ e = k) (hfar : (13 : ℤ) ≤ m.log2 + e) :
    if s then k ≤ -8192 else 8192 ≤ k := by
  have hk : 8192 ≤ |k| := by
    have : (8192 : ℝ) ≤ |(k : ℝ)| := calc
      (8192 : ℝ) = 2 ^ (13 : ℤ) := by norm_num
      _ ≤ 2 ^ (m.log2 + e : ℤ) := zpow_le_zpow_right₀ one_le_two hfar
      _ ≤ _ := (integer_bounds hm h).1
    exact_mod_cast this
  have hp : (0 : ℚ) < m * 2 ^ e := mul_pos (by exact_mod_cast Nat.pos_of_ne_zero hm) (by positivity)
  cases s with
  | false =>
    have : (0 : ℚ) < k := by simpa [← h, signed] using hp
    rwa [abs_of_pos (by exact_mod_cast this)] at hk
  | true =>
    have : (k : ℚ) < 0 := by simpa [← h, signed] using hp
    rw [abs_of_neg (by exact_mod_cast this)] at hk
    exact le_neg.mpr hk

omit hf in
theorem integer_not_small {s : Bool} {m : ℕ} {e k : ℤ} (hm : m ≠ 0) (h : (signed s m : ℚ) * 2 ^ e = k) : (0 : ℤ) ≤ m.log2 + e := by
  by_contra hlt
  obtain ⟨hlo, hhi⟩ := integer_bounds hm h
  have h1 : |(k : ℝ)| < 1 := hhi.trans_le (zpow_le_one_of_nonpos₀ one_le_two (by omega))
  have h0 : |(k : ℝ)| ≠ 0 := (lt_of_lt_of_le (by positivity) hlo).ne'
  have : k = 0 := Int.abs_lt_one_iff.mp (by exact_mod_cast h1)
  exact h0 (by simp [this])

/-- FEXP2 of an integer. -/
theorem FFmt.Sound.exp2_gives (md : Mods) {s : Bool} {m : ℕ} {e k : ℤ} (h : (signed s m : ℚ) * 2 ^ e = k) :
    f.Gives md false ((2 : ℝ) ^ k) (f.exp2 md.rnd.toNat md.alt md.ftz (.fin s m e)) := by
  unfold FFmt.exp2
  dsimp only
  split
  next h0 =>
    obtain rfl : k = 0 := by
      rw [h0] at h
      exact_mod_cast (by simpa [signed] using h.symm)
    exact hf.gives_pow md 0
  next hm =>
  split
  next hfar =>
    rw [hf.rnd_pow_far md.rnd.isLt md.alt md.ftz (integer_large hm h hfar)]
    exact hf.gives_pow md k
  next =>
  split
  next hnear =>
    have := integer_not_small hm h
    omega
  next =>
  split
  next he =>
    obtain ⟨j, rfl⟩ := Int.eq_ofNat_of_zero_le he
    have hx : signed s (m * 2 ^ j) = k := by
      have : ((signed s (m * 2 ^ j) : ℤ) : ℚ) = k := by
        rw [← h]
        cases s <;> simp [signed]
      exact_mod_cast this
    rw [Int.toNat_natCast, hx]
    exact hf.gives_pow md k
  next he =>
    obtain ⟨j, rfl⟩ : ∃ j : ℕ, e = -j := ⟨(-e).toNat, by omega⟩
    have hx : signed s m = k * ((2 ^ j : ℕ) : ℤ) := by
      have : ((signed s m : ℤ) : ℚ) = k * 2 ^ j := by
        rw [← h, mul_assoc, zpow_neg, zpow_natCast, inv_mul_cancel₀ (by positivity), mul_one]
      exact_mod_cast this
    have hp : ((2 ^ j : ℕ) : ℤ) ≠ 0 := by positivity
    simp only [neg_neg, Int.toNat_natCast, hx, Int.mul_emod_left, Int.mul_ediv_cancel _ hp, Int.toNat_zero, if_true]
    exact hf.gives_pow md k

/-- FLOG2 of a power of two. -/
theorem FFmt.Sound.log2_gives (md : Mods) {s : Bool} {m : ℕ} {e k : ℤ} (h : (signed s m : ℚ) * 2 ^ e = 2 ^ k) :
    f.Gives md false (k : ℝ) (f.log2 md.rnd.toNat md.alt md.ftz (.fin s m e)) := by
  have hpos : (0 : ℚ) < signed s m := by
    have : (0 : ℚ) < signed s m * 2 ^ e := by rw [h]; positivity
    exact pos_of_mul_pos_left this (by positivity)
  obtain rfl : s = false := by
    cases s with
    | false => rfl
    | true =>
      simp only [signed, if_true] at hpos
      push_cast at hpos
      exact absurd hpos (by simp)
  have hm : (m : ℚ) = 2 ^ (k - e) := by
    rw [zpow_sub₀ two_ne_zero, eq_div_iff (by positivity), ← h]
    simp [signed]
  have hm0 : m ≠ 0 := by
    rintro rfl
    simp [signed] at hpos
  obtain ⟨j, hj⟩ : ∃ j : ℕ, k - e = j := by
    refine Int.eq_ofNat_of_zero_le (not_lt.mp fun hneg => ?_)
    have h1 : (m : ℚ) < 1 := hm ▸ zpow_lt_one_of_neg₀ one_lt_two hneg
    exact hm0 (Nat.lt_one_iff.mp (by exact_mod_cast h1))
  obtain rfl : m = 2 ^ j := by
    rw [hj, zpow_natCast] at hm
    exact_mod_cast hm
  obtain rfl : k = e + j := by omega
  unfold FFmt.log2
  simp only [hm0, if_false, Bool.false_eq_true, Nat.log2_two_pow, if_true]
  refine hf.gives_of_stands md (stands_fin ?_ fun h => ?_)
  · rw [signed_natAbs]
    simp
  · simp [Int.natAbs_eq_zero.mp h]

end Powers

/-! ### Rounding to an integer (R65, R179) -/

theorem roundShift_le {mode : Nat} {s : Bool} {m k : ℕ} : roundShift mode s m k ≤ m + 1 := by
  have := Nat.div_le_self m (2 ^ k)
  have hup (up : Bool) : (if up then m / 2 ^ k + 1 else m / 2 ^ k) ≤ m + 1 := by split <;> omega
  exact hup _

section Integers
variable {mode : Nat} {s : Bool} {y : ℚ} {k : ℕ}

theorem floor_of_picks (h : Picks (Nat.cast : ℕ → ℚ) mode s y k) (hdir : mode = 1 ∨ mode = 2 ∧ s = true ∨ mode = 3 ∧ s = false) :
    ⌊y⌋ = (k : ℤ) := by
  obtain ⟨hle, -, hlt⟩ := h.toward_zero Nat.strictMono_cast hdir
  refine Int.floor_eq_iff.mpr ⟨by exact_mod_cast hle, ?_⟩
  have := not_le.mp (mt (hlt k).mp (lt_irrefl k))
  exact_mod_cast this

theorem ceil_of_picks (hy : 0 ≤ y) (h : Picks (Nat.cast : ℕ → ℚ) mode s y k) (hdir : mode = 2 ∧ s = false ∨ mode = 3 ∧ s = true) :
    ⌈y⌉ = (k : ℤ) := by
  obtain ⟨hle, -, hlt⟩ := h.away_from_zero Nat.strictMono_cast hdir
  refine Int.ceil_eq_iff.mpr ⟨?_, by exact_mod_cast hle⟩
  cases k with
  | zero => push_cast; linarith
  | succ j =>
    have := (hlt j).mpr (Nat.lt_succ_self j)
    push_cast
    linarith

theorem half_of_picks (h : Picks (Nat.cast : ℕ → ℚ) 0 s y k) : |y - k| ≤ 1 / 2 ∧ (|y - k| = 1 / 2 → k % 2 = 0) := by
  obtain ⟨l, hl, hu, h⟩ := h
  simp only [TakesUpper] at h
  push_cast at hu h
  rcases h with ⟨h, rfl⟩ | ⟨h, rfl⟩
  · push_cast
    rw [abs_of_neg (by linarith)]
    refine ⟨by rcases h with h | h <;> linarith, fun he => ?_⟩
    rcases h with h | h
    · linarith
    · omega
  · rw [not_or, not_lt, not_and] at h
    rw [abs_of_nonneg (by linarith)]
    exact ⟨by linarith, fun he => by have := h.2 (by linarith); omega⟩

/-- What a mode picks among the integers, with the sign back, is the value rounded to an integer. -/
theorem intRounds_of_picks (hm : mode < 4) (hy : 0 ≤ y) (h : Picks (Nat.cast : ℕ → ℚ) mode s y k) :
    IntRounds mode ((if s then -1 else 1) * y) (signed s k) := by
  interval_cases mode
  · have hsym : |(if s then -1 else 1) * y - (signed s k : ℤ)| = |y - k| := by
      cases s
      · simp [signed]
      · rw [← abs_neg]
        simp [signed, add_comm, sub_eq_add_neg]
    have heven : signed s k % 2 = 0 ↔ k % 2 = 0 := by cases s <;> simp only [signed] <;> simp <;> omega
    change |_| ≤ (1 / 2 : ℚ) ∧ (|_| = (1 / 2 : ℚ) → _)
    rw [hsym, heven]
    exact half_of_picks h
  · change _ = if _ then _ else _
    have hfloor := floor_of_picks h (.inl rfl)
    cases s with
    | false => simpa [signed, hy] using hfloor.symm
    | true =>
      simp only [signed, if_true, neg_one_mul, Int.ceil_neg, hfloor]
      split
      next h0 =>
        obtain rfl : y = 0 := by linarith
        simpa using hfloor.symm
      next => rfl
  · change _ = _
    cases s with
    | false => simpa [signed] using (ceil_of_picks hy h (.inl ⟨rfl, rfl⟩)).symm
    | true => simp [signed, floor_of_picks h (.inr (.inl ⟨rfl, rfl⟩)), Int.ceil_neg]
  · change _ = _
    cases s with
    | false => simpa [signed] using (floor_of_picks h (.inr (.inr ⟨rfl, rfl⟩))).symm
    | true => simp [signed, ceil_of_picks hy h (.inr ⟨rfl, rfl⟩), Int.floor_neg]

end Integers

/-- A finite value rounded to an integer (R65). -/
theorem roundNat_intRounds {mode : Nat} (hm : mode < 4) (s : Bool) (m : ℕ) (e : ℤ) :
    IntRounds mode (signed s m * 2 ^ e) (signed s (roundNat mode s m e)) := by
  have h := intRounds_of_picks hm (s := s) (y := m * 2 ^ e) (by positivity) (roundNat_picks (.inl rfl) mode s)
  have : ((signed s m : ℤ) : ℚ) * 2 ^ e = (if s then -1 else 1) * (m * 2 ^ e) := by cases s <;> simp [signed]
  rwa [this]

/-! ### Integral values of a format (R179) -/

section Integral
variable {f : FFmt} (hf : f.Sound)
include hf

/-- Every integer of no more bits than a format's fractions and one is a normal value of it, or zero. -/
theorem FFmt.Sound.exists_integer {k : ℕ} (hk : k ≤ 2 ^ (f.mbits + 1)) :
    ∃ n, f.magReal n = k ∧ n ≤ f.topMag ∧ (n = 0 ∨ 2 ^ f.mbits ≤ n) := by
  rcases Nat.eq_zero_or_pos k with rfl | hk0
  · exact ⟨0, by simp, Nat.zero_le _, .inl rfl⟩
  · let i := min k.log2 f.mbits
    let j := k * 2 ^ (f.mbits - i)
    have hpow : 2 ^ i * 2 ^ (f.mbits - i) = 2 ^ f.mbits := by
      rw [← pow_add]
      congr 1
      omega
    have hlo : 2 ^ f.mbits ≤ j := by
      rw [← hpow]
      refine Nat.mul_le_mul_right _ ((Nat.pow_le_pow_right two_pos (min_le_left _ _)).trans (Nat.log2_self_le hk0.ne'))
    have hhi : j ≤ 2 ^ (f.mbits + 1) := by
      rcases Nat.le_total k.log2 f.mbits with h | h
      · have hi : i = k.log2 := min_eq_left h
        calc j ≤ 2 ^ (i + 1) * 2 ^ (f.mbits - i) := Nat.mul_le_mul_right _ (hi ▸ Nat.lt_log2_self.le)
          _ = 2 ^ (f.mbits + 1) := by rw [pow_succ, Nat.mul_right_comm, hpow, ← pow_succ]
      · have hi : i = f.mbits := min_eq_right h
        simpa [j, hi] using hk
    refine ⟨(i + f.bias - 1) * 2 ^ f.mbits + j, ?_, hf.le_topMag_of_lt ?_, .inr (hlo.trans (Nat.le_add_left _ _))⟩
    · have hbias := hf.bias_pos
      have hexp : ((i + f.bias - 1 : ℕ) : ℤ) + (1 - f.bias - f.mbits) = -((f.mbits - i : ℕ) : ℤ) := by omega
      rw [FFmt.magReal_grid (.inr hlo) hhi, hexp, zpow_neg, zpow_natCast]
      simp only [j]
      push_cast
      rw [mul_inv_cancel_right₀ (by positivity)]
    · have hfit := hf.integers_fit
      have hbias := hf.bias_pos
      calc (i + f.bias - 1) * 2 ^ f.mbits + j ≤ (i + f.bias - 1) * 2 ^ f.mbits + 2 * 2 ^ f.mbits := by rw [← pow_succ']; omega
        _ = (i + f.bias - 1 + 2) * 2 ^ f.mbits := by ring
        _ < f.emax * 2 ^ f.mbits := Nat.mul_lt_mul_of_pos_right (by omega) (Nat.two_pow_pos _)

/-- A value of one or more is no subnormal. -/
theorem FFmt.Sound.normal_of_one_le {n : ℕ} (h : 1 ≤ f.magReal n) : 2 ^ f.mbits ≤ n := by
  have hone : f.magReal (2 ^ f.mbits) ≤ 1 := by
    have h := FFmt.magReal_grid (f := f) (b := 0) (k := 2 ^ f.mbits) (.inl rfl) (Nat.pow_le_pow_right two_pos (by omega))
    rw [Nat.zero_mul, Nat.zero_add] at h
    rw [h, Nat.cast_pow, Nat.cast_two, ← zpow_natCast, ← zpow_add₀ two_ne_zero]
    have := hf.bias_pos
    exact zpow_le_one_of_nonpos₀ one_le_two (by push_cast; omega)
  exact f.magReal_strictMono.le_iff_le.mp (hone.trans h)

/-- An integer that the format has as zero or a normal value rounds to itself. -/
theorem FFmt.Sound.rnd_of_integer {mode : Nat} (hmode : mode < 4) (alt ftz s : Bool) {m j : ℕ} {e : ℤ} (hj : (m : ℚ) * 2 ^ e = j)
    (h : ∃ n, f.magReal n = j ∧ n ≤ f.topMag ∧ (n = 0 ∨ 2 ^ f.mbits ≤ n)) :
    let r := f.rnd mode alt ftz (.fin s m e)
    f.finPat r = true ∧ f.real r = (signed s j : ℤ) ∧ f.negOf r = s := by
  obtain ⟨n, hn, hle, hnormal⟩ := h
  have hlt := hf.lt_magnitudes hle
  have hr : f.rnd mode alt ftz (.fin s m e) = f.sign s + n := by
    rw [hf.rnd_of_value hmode alt ftz s (hn.trans hj.symm) hle, hf.written_sign_add hlt]
    split
    next h => rw [hnormal.resolve_right (by omega), Nat.add_zero]
    next => rfl
  dsimp only
  rw [hr, hf.finPat_iff, hf.real_eq, f.negOf_sign_add hlt, f.magOf_sign_add hlt, hn]
  exact ⟨hle, by cases s <;> simp [signed], rfl⟩

/-- A finite value of the format rounded to an integral value, which the format has (R179). -/
theorem FFmt.Sound.integral_spec {mode : Nat} (hmode : mode < 4) (alt ftz s : Bool) {m : ℕ} {e : ℤ} {n : ℕ} (hm : m < 2 ^ (f.mbits + 1))
    (hn : f.magReal n = m * 2 ^ e) (htop : n ≤ f.topMag) :
    let r := f.rnd mode alt ftz ((FVal.fin s m e).integral mode)
    ∃ k, IntRounds mode (signed s m * 2 ^ e) k ∧ f.finPat r = true ∧ f.real r = k ∧ f.negOf r = s := by
  refine ⟨signed s (roundNat mode s m e), roundNat_intRounds hmode s m e, ?_⟩
  rw [FVal.integral]
  split
  next he =>
    obtain ⟨k, rfl⟩ := Int.eq_ofNat_of_zero_le he
    have hj : (m : ℚ) * 2 ^ (k : ℤ) = (roundNat mode s m k : ℕ) := by simp [roundNat]
    refine hf.rnd_of_integer hmode alt ftz s hj ⟨n, hn.trans hj, htop, ?_⟩
    rcases Nat.eq_zero_or_pos (roundNat mode s m k) with h0 | hpos
    · exact .inl (f.magReal_eq_zero.mp (by rw [hn, hj, h0, Nat.cast_zero]))
    · exact .inr (hf.normal_of_one_le (by rw [hn, hj]; exact_mod_cast hpos))
  next he =>
    refine hf.rnd_of_integer hmode alt ftz s (by simp) (hf.exists_integer ?_)
    obtain ⟨k, rfl⟩ : ∃ k : ℕ, e = -k := ⟨(-e).toNat, by omega⟩
    rw [roundNat, if_neg he, neg_neg, Int.toNat_natCast]
    exact roundShift_le.trans hm

end Integral

/-! ### Integer types (R57, R58) -/

theorem ewidth_pos (ty : Ty) : 0 < ewidth ty := by cases ty <;> decide

theorem element_zero (ty : Ty) (x : Nat) : element ty x 0 = BitVec.ofNat (ewidth ty) x := by
  rw [element, Nat.mul_zero, pow_zero, Nat.div_one]

theorem ofNat_patNat (w : Nat) (x : ℤ) : BitVec.ofNat w (patNat w x) = BitVec.ofInt w x := by
  rw [patNat, ← BitVec.ofInt_natCast, Int.toNat_of_nonneg (Int.emod_nonneg _ (by positivity))]
  exact BitVec.eq_of_toInt_eq (by rw [BitVec.toInt_ofInt, BitVec.toInt_ofInt, Int.emod_bmod])

theorem intLeast_eq (ty : Ty) : intLeast ty = intMin ty.isSigned (ewidth ty) := by
  rw [intLeast, intMin]
  push_cast
  rfl

theorem intGreatest_eq (ty : Ty) : intGreatest ty = intMax ty.isSigned (ewidth ty) := by
  rw [intGreatest, intMax]
  push_cast
  rfl

/-- An exact integer limited to a type (R58). -/
theorem element_limitInt (ty : Ty) (wrap : Bool) (x : ℤ) :
    element ty (limitInt wrap ty.isSigned (ewidth ty) x) 0 = limited ty wrap x := by
  have hrange : intMin ty.isSigned (ewidth ty) ≤ intMax ty.isSigned (ewidth ty) := by
    have : (0 : ℤ) < (2 ^ (ewidth ty - 1) : ℕ) := by positivity
    have : (0 : ℤ) < (2 ^ ewidth ty : ℕ) := by positivity
    rw [intMin, intMax]
    split <;> omega
  have hsat : satInt ty.isSigned (ewidth ty) x = max (intLeast ty) (min (intGreatest ty) x) := by
    rw [satInt, intLeast_eq, intGreatest_eq]
    split
    · omega
    · split <;> omega
  rw [element_zero, limitInt, limited]
  cases wrap
  · simp only [Bool.false_eq_true, if_false, ofNat_patNat, hsat]
  · simp only [if_true, ofNat_patNat]

/-- The value of a two's-complement pattern. -/
theorem sextNat_eq_toInt {w : Nat} (hw : 0 < w) (x : Nat) : sextNat w x = (BitVec.ofNat w x).toInt := by
  have hp : 2 ^ w = 2 * 2 ^ (w - 1) := by rw [← pow_succ']; congr 1; omega
  rw [sextNat, BitVec.toInt_eq_toNat_cond, BitVec.toNat_ofNat]
  generalize x % 2 ^ w = y
  simp only [hp]
  split <;> split <;> omega

/-- A source of an integer type, after its modifiers (R40, R57). -/
theorem srcInt_eq_exactOf (ty : Ty) (neg abs : Bool) (x : Nat) : srcInt ty neg abs (elemAt ty x 0) = exactOf ty neg abs x 0 := by
  have hval : valNat ty.isSigned (ewidth ty) (elemAt ty x 0)
      = if ty.isSigned then (element ty x 0).toInt else ((element ty x 0).toNat : ℤ) := by
    rw [element_zero, elemAt, Nat.mul_zero, pow_zero, Nat.div_one, valNat]
    split
    · rw [sextNat_eq_toInt (ewidth_pos ty)]
      exact congrArg BitVec.toInt (BitVec.eq_of_toNat_eq (by simp))
    · rw [Nat.mod_mod, BitVec.toNat_ofNat]
  rw [srcInt, hval, modInt, exactOf]
  simp only [Int.natCast_natAbs]

end Sys2Proof.Machine

end

section

/-! SUPPORT. The order of float values is the order of their patterns' ranks: FMIN, FMAX, FCMP and FCLASS (R174 to R176). -/

namespace Sys2Proof.Machine

section Order
variable {f : FFmt} (hf : f.Sound)
include hf

omit hf in
theorem ltFin_iff (s s' : Bool) (m m' : ℕ) (e e' : ℤ) :
    ltFin s m e s' m' e' = true ↔ ((signed s m : ℤ) : ℝ) * 2 ^ e < signed s' m' * 2 ^ e' := by
  have hp : (0 : ℝ) < 2 ^ min e e' := by positivity
  rw [ltFin, decide_eq_true_eq, ← alignTo_cast _ (min_le_left e e'), ← alignTo_cast (signed s' m') (min_le_right e e'),
    mul_lt_mul_iff_left₀ hp, Int.cast_lt]

/-- The value of a finite source, as a signed number (R59). -/
theorem FFmt.Sound.real_eq_signed {p m : ℕ} {e : ℤ} (h : f.magReal (f.magOf p) = m * 2 ^ e) :
    f.real p = signed (f.negOf p) m * 2 ^ e := by
  rw [hf.real_eq, h]
  cases f.negOf p <;> simp [signed]

theorem FFmt.Sound.real_lt_iff (p q : Nat) : f.real p < f.real q ↔ f.rank p < f.rank q := by
  have hlt (i j : ℕ) : f.magReal i < f.magReal j ↔ i < j := f.magReal_strictMono.lt_iff_lt
  have hpos (i : ℕ) : 0 < f.magReal i ↔ 0 < i := by rw [← FFmt.magReal_zero (f := f), hlt]
  have hp := f.magReal_nonneg (f.magOf p)
  have hq := f.magReal_nonneg (f.magOf q)
  rw [hf.real_eq, hf.real_eq, FFmt.rank, FFmt.rank]
  cases f.negOf p <;> cases f.negOf q <;>
    simp only [Bool.false_eq_true, if_false, if_true, one_mul, neg_one_mul, neg_lt_neg_iff, Nat.cast_lt, hlt]
  · exact iff_of_false (by linarith) (by omega)
  · rw [show -f.magReal (f.magOf p) < f.magReal (f.magOf q) ↔ 0 < f.magReal (f.magOf p) ∨ 0 < f.magReal (f.magOf q) from
      ⟨fun h => by by_contra hn; rw [not_or] at hn; linarith [hn.1, hn.2], fun h => by rcases h with h | h <;> linarith⟩, hpos, hpos]
    omega

theorem FFmt.Sound.rank_of_inf {p : Nat} (h : f.infPattern p = true) :
    f.rank p = if f.negOf p then -(f.topMag + 1 : ℤ) else f.topMag + 1 := by
  rw [FFmt.rank, hf.magOf_of_infPattern h]
  push_cast
  rfl

theorem FFmt.Sound.rank_of_fin {p : Nat} (h : f.finPat p = true) : -(f.topMag : ℤ) ≤ f.rank p ∧ f.rank p ≤ f.topMag := by
  have := (hf.finPat_iff p).mp h
  rw [FFmt.rank]
  split <;> omega

omit hf in
theorem FFmt.Means.isNan_eq {p : Nat} {v : FVal} (h : f.Means p v) : v.isNan = f.nanPat p := by
  cases v with
  | nan => exact h.symm
  | inf s => exact (Bool.eq_false_iff.mpr fun hn => Bool.eq_false_iff.mp (FFmt.not_infPattern_of_nanPat hn) h.1).symm
  | pole s => exact h.elim
  | fin s m e => simp_all [FFmt.Means, FFmt.finPat, FVal.isNan]

/-- Values that are no NaN lie in the order of their ranks (R175). -/
theorem FFmt.Sound.lt_eq {p q : Nat} {x y : FVal} (hx : f.Means p x) (hy : f.Means q y) (hp : ¬ f.nanPat p = true) (hq : ¬ f.nanPat q = true) :
    x.lt y = decide (f.rank p < f.rank q) := by
  rw [Bool.eq_iff_iff, decide_eq_true_eq]
  cases x with
  | nan => exact absurd hx hp
  | pole s => exact hx.elim
  | inf s =>
    obtain ⟨hxi, rfl⟩ := hx
    rw [hf.rank_of_inf hxi]
    cases y with
    | nan => exact absurd hy hq
    | pole s' => exact hy.elim
    | inf s' =>
      obtain ⟨hyi, rfl⟩ := hy
      rw [hf.rank_of_inf hyi]
      cases f.negOf p <;> cases f.negOf q <;> simp [FVal.lt] <;> omega
    | fin s' m' e' =>
      have := hf.rank_of_fin hy.1
      cases f.negOf p <;> simp [FVal.lt] <;> omega
  | fin s m e =>
    cases y with
    | nan => exact absurd hy hq
    | pole s' => exact hy.elim
    | inf s' =>
      obtain ⟨hyi, rfl⟩ := hy
      have := hf.rank_of_fin hx.1
      rw [hf.rank_of_inf hyi]
      cases f.negOf q <;> simp [FVal.lt] <;> omega
    | fin s' m' e' =>
      obtain ⟨-, rfl, -, hxv⟩ := hx
      obtain ⟨-, rfl, -, hyv⟩ := hy
      have hxr := hf.real_eq_signed hxv
      have hyr := hf.real_eq_signed hyv
      rw [FVal.lt, ltFin_iff, ← hf.real_lt_iff, hxr, hyr, ← Rat.cast_lt (K := ℝ)]
      push_cast
      rfl

theorem FFmt.Sound.eqv_eq {p q : Nat} {x y : FVal} (hx : f.Means p x) (hy : f.Means q y) (hp : ¬ f.nanPat p = true) (hq : ¬ f.nanPat q = true) :
    x.eqv y = decide (f.rank p = f.rank q) := by
  rw [FVal.eqv, hx.isNan_eq, hy.isNan_eq, hf.lt_eq hx hy hp hq, hf.lt_eq hy hx hq hp, Bool.eq_iff_iff]
  simp [hp, hq]
  omega

/-- The class of a pattern, one bit (R176). -/
theorem FFmt.Sound.classOf_eq (p : Nat) : f.classOf p = 2 ^ (if f.nanPat p then (if f.e4 ∨ p.testBit (f.mbits - 1) then 8 else 9)
    else if f.infPattern p then (if f.negOf p then 0 else 7)
    else if f.magOf p = 0 then (if f.negOf p then 3 else 4)
    else if f.exOf p = 0 then (if f.negOf p then 2 else 5)
    else if f.negOf p then 1 else 6) := by
  have h := hf.value_means p
  have hsign : p.testBit (f.width - 1) = f.negOf p := rfl
  unfold FFmt.classOf
  cases hv : f.value p with rw [hv] at h
  | nan => simp only [show f.nanPat p = true from h, if_true, Bool.or_eq_true]; split <;> rfl
  | pole s => exact h.elim
  | inf s =>
    obtain ⟨hi, hs⟩ := h
    have hn : f.nanPat p = false := Bool.eq_false_iff.mpr fun hn => Bool.eq_false_iff.mp (FFmt.not_infPattern_of_nanPat hn) hi
    simp only [hn, hi, Bool.false_eq_true, if_false, if_true, hs]
    split <;> rfl
  | fin s m e =>
    obtain ⟨hfin, -, -, hm⟩ := h
    obtain ⟨hn, hi⟩ : f.nanPat p = false ∧ f.infPattern p = false := by simpa [FFmt.finPat] using hfin
    have hm0 : m = 0 ↔ f.magOf p = 0 := f.mantissa_eq_zero hm
    have hsub : f.magOf p ≠ 0 → (f.isSub p = true ↔ f.exOf p = 0) := by
      intro h0
      rw [hf.mag_eq_fields p] at h0
      rw [FFmt.isSub, hf.field_eq_exOf, Bool.and_eq_true, beq_iff_eq, bne_iff_ne]
      exact and_iff_left_of_imp fun he hr => h0 (by rw [he, FFmt.frOf, hr, Nat.mul_zero])
    simp only [hn, hi, Bool.false_eq_true, if_false, hm0, hsign]
    by_cases h0 : f.magOf p = 0
    · simp only [h0, if_true]
      split <;> rfl
    · simp only [h0, if_false, hsub h0]
      split <;> split <;> rfl

end Order

/-- Of a NaN no order and no equality holds. -/
theorem lt_of_nan {x y : FVal} (h : (x.isNan || y.isNan) = true) : x.lt y = false ∧ y.lt x = false := by
  rcases Bool.or_eq_true_iff.mp h with h | h
  · obtain rfl : x = .nan := by cases x <;> simp_all [FVal.isNan]
    exact ⟨by simp [FVal.lt], by cases y <;> rfl⟩
  · obtain rfl : y = .nan := by cases y <;> simp_all [FVal.isNan]
    exact ⟨by cases x <;> rfl, by simp [FVal.lt]⟩

theorem eqv_of_nan {x y : FVal} (h : (x.isNan || y.isNan) = true) : x.eqv y = false := by
  rw [FVal.eqv]
  rcases Bool.or_eq_true_iff.mp h with h | h <;> simp [h]

/-! ### The sources of a lane word (R40, R61, R62) -/

section Sources
variable (w : LaneA)

theorem srcA_means (p : Nat) : (FFmt.ofTy w.ty).Means ((FFmt.ofTy w.ty).given w.m.na w.m.aa w.m.ftz p) (srcA w p) :=
  (ofTy_sound w.ty).src_means _ _ _ p

theorem srcB_means (p : Nat) : (FFmt.ofTy w.ty).Means ((FFmt.ofTy w.ty).given w.m.nb w.m.ab w.m.ftz p) (srcB w p) :=
  (ofTy_sound w.ty).src_means _ _ _ p

theorem srcC_means (p : Nat) : (FFmt.ofTy w.ty).Means ((FFmt.ofTy w.ty).given w.m.nc w.m.ac w.m.ftz p) (srcC w p) :=
  (ofTy_sound w.ty).src_means _ _ _ p

theorem patSrc_eq_given (neg abs : Bool) (p : Nat) : patSrc w neg abs p = (FFmt.ofTy w.ty).given neg abs w.m.ftz p := by
  have hf := ofTy_sound w.ty
  simp only [patSrc, hf.modify_eq]
  split
  next h => exact (hf.given_of_sub h).symm
  next h => exact (hf.given_eq_of_not_sub (Bool.eq_false_iff.mpr h)).symm

end Sources

/-! ### FMIN, FMAX and FCMP (R174, R175) -/

/-- A pattern after its modifiers is its sign and its magnitude. -/
theorem given_ext (f : FFmt) {neg abs neg' abs' ftz : Bool} {p q : Nat}
    (hs : f.negOf (f.given neg abs ftz p) = f.negOf (f.given neg' abs' ftz q))
    (hm : f.magOf (f.given neg abs ftz p) = f.magOf (f.given neg' abs' ftz q)) : f.given neg abs ftz p = f.given neg' abs' ftz q := by
  rw [f.negOf_given, f.negOf_given] at hs
  rw [f.magOf_given, f.magOf_given] at hm
  rw [f.given_eq, f.given_eq, hs, hm]

section Places
variable {f : FFmt} {p q : Nat}

theorem place_injective (h : f.place p = f.place q) : f.negOf p = f.negOf q ∧ f.magOf p = f.magOf q := by
  rw [FFmt.place, FFmt.place] at h
  cases hp : f.negOf p <;> cases hq : f.negOf q <;> simp only [hp, hq, Bool.false_eq_true, if_false, if_true] at h
  · exact ⟨rfl, by omega⟩
  · omega
  · omega
  · exact ⟨rfl, by omega⟩

/-- The order of the places is that of the ranks, with −0 below +0. -/
theorem rank_lt_iff_of_place_ne (h : f.place p ≠ f.place q) :
    f.rank p < f.rank q ∨ f.rank p = f.rank q ∧ f.negOf p = true ↔ f.place p < f.place q := by
  rw [FFmt.place, FFmt.place] at h ⊢
  rw [FFmt.rank, FFmt.rank]
  cases hp : f.negOf p <;> cases hq : f.negOf q <;>
    simp only [hp, hq, Bool.false_eq_true, if_false, if_true, and_true, and_false, or_false] at h ⊢ <;> omega

end Places

/-- The greater or the lesser of two patterns that are no NaN, −0 below +0. -/
theorem minMaxFloat_eq (w : LaneA) (mx : Bool) (a b : Nat) :
    let f := FFmt.ofTy w.ty
    let A := f.given w.m.na w.m.aa w.m.ftz a
    let B := f.given w.m.nb w.m.ab w.m.ftz b
    minMaxFloat w mx a b = if f.nanPat A && f.nanPat B then f.canon else if f.nanPat A then B else if f.nanPat B then A
      else if (if mx then f.place A < f.place B else f.place B < f.place A) then B else A := by
  have hf := ofTy_sound w.ty
  have hext := given_ext (FFmt.ofTy w.ty) (neg := w.m.na) (abs := w.m.aa) (neg' := w.m.nb) (abs' := w.m.ab) (ftz := w.m.ftz) (p := a) (q := b)
  simp only [minMaxFloat, patSrc_eq_given]
  generalize (FFmt.ofTy w.ty).given w.m.na w.m.aa w.m.ftz a = A at hext ⊢
  generalize (FFmt.ofTy w.ty).given w.m.nb w.m.ab w.m.ftz b = B at hext ⊢
  generalize FFmt.ofTy w.ty = f at hf hext ⊢
  have hx := hf.value_means A
  have hy := hf.value_means B
  rw [hx.isNan_eq, hy.isNan_eq]
  split
  · rfl
  split
  · rfl
  split
  · rfl
  next hA hB =>
    have hless : ((f.value A).lt (f.value B) || (f.value A).eqv (f.value B) && A.testBit (f.width - 1)) = true
        ↔ f.rank A < f.rank B ∨ f.rank A = f.rank B ∧ f.negOf A = true := by
      rw [hf.lt_eq hx hy hA hB, hf.eqv_eq hx hy hA hB]
      simp [FFmt.negOf]
    by_cases h : f.place A = f.place B
    · obtain ⟨hs, hm⟩ := place_injective h
      simp [hext hs hm]
    · rw [rank_lt_iff_of_place_ne h] at hless
      rcases lt_or_gt_of_ne h with h | h
      · rw [hless.mpr h]
        cases mx <;> simp [h, h.not_gt]
      · rw [Bool.eq_false_iff.mpr (mt hless.mp h.not_gt)]
        cases mx <;> simp [h, h.not_gt]

end Sys2Proof.Machine

end

section

/-! SUPPORT. The float words' results of finite sources, rounded once (R62 to R65, R174, R177 to R179). -/

namespace Sys2Proof.Machine

/-! ### Results of finite values -/

/-- The sign of a sum that is zero (R63). -/
def sumSign (md : Mods) (s t : Bool) (x y : ℚ) : Bool := if x = 0 ∧ y = 0 ∧ s = t then s else decide (md.rnd = 3)

section Results
variable {f : FFmt} (hf : f.Sound)
include hf

/-- A finite source: its sign, and its value as a signed number. -/
theorem FFmt.Sound.source_of_fin {p : Nat} {v : FVal} (h : f.Means p v) (hp : f.finPat p = true) :
    ∃ m e, v = .fin (f.negOf p) m e ∧ f.real p = signed (f.negOf p) m * 2 ^ e := by
  obtain ⟨m, e, hv, -, hval⟩ := h.of_fin hp
  exact ⟨m, e, hv, hf.real_eq_signed hval⟩

omit hf in
theorem signed_value_eq_zero {s : Bool} {m : ℕ} {e : ℤ} : ((signed s m : ℤ) : ℚ) * 2 ^ e = 0 ↔ m = 0 := by
  rw [mul_eq_zero, or_iff_left (by positivity), Int.cast_eq_zero, signed_eq_zero]

variable (md : Mods) {s s' : Bool} {m m' : ℕ} {e e' : ℤ} {x y : ℚ}

theorem FFmt.Sound.fin_gives {zero : Bool} (hx : x = signed s m * 2 ^ e) (h0 : m = 0 → s = zero) :
    f.Gives md zero (x : ℝ) (f.rnd md.rnd.toNat md.alt md.ftz (.fin s m e)) :=
  hf.gives_of_stands md (stands_fin (by rw [hx]; push_cast; rfl) h0)

theorem FFmt.Sound.add_gives (hx : x = signed s m * 2 ^ e) (hy : y = signed s' m' * 2 ^ e') :
    f.Gives md (sumSign md s s' x y) ((x + y : ℚ) : ℝ)
      (f.rnd md.rnd.toNat md.alt md.ftz ((FVal.fin s m e).add md.rnd.toNat (.fin s' m' e'))) := by
  have hsign : sumSign md s s' x y = if m = 0 ∧ m' = 0 ∧ s = s' then s else md.rnd.toNat == 3 := by
    have hdown : decide (md.rnd = 3) = (md.rnd.toNat == 3) := by
      rw [Bool.eq_iff_iff, decide_eq_true_eq, beq_iff_eq, ← BitVec.toNat_inj]
      rfl
    simp only [sumSign, hx, hy, signed_value_eq_zero, hdown]
  have hsum : ((x + y : ℚ) : ℝ) = signed s m * 2 ^ e + signed s' m' * 2 ^ e' := by
    rw [hx, hy]
    push_cast
    rfl
  rw [hsign, hsum]
  exact hf.gives_of_stands md (add_stands _)

theorem FFmt.Sound.div_gives {zero : Bool} (hx : x = signed s m * 2 ^ e) (hy : y = signed s' m' * 2 ^ e') (hy0 : y ≠ 0)
    (h0 : x = 0 → (s != s') = zero) :
    f.Gives md zero ((x / y : ℚ) : ℝ) (f.rnd md.rnd.toNat md.alt md.ftz ((FVal.fin s m e).div (.fin s' m' e'))) := by
  have hm' : m' ≠ 0 := fun h => hy0 (hy.trans (signed_value_eq_zero.mpr h))
  rw [FVal.div, if_neg hm']
  split
  next hm =>
    have hx0 : x = 0 := hx.trans (signed_value_eq_zero.mpr hm)
    exact hf.fin_gives md (by rw [hx0]; simp [signed]) fun _ => h0 hx0
  next hm =>
    have hdiv : ((x / y : ℚ) : ℝ) = (if s != s' then -1 else 1) * (m / m' * 2 ^ (e - e')) := by
      rw [hx, hy, zpow_sub₀ two_ne_zero]
      push_cast [signed_cast]
      cases s <;> cases s' <;> simp <;> ring
    rw [hdiv]
    exact hf.gives_of_stands md (ofRatio_stands hm hm' _)

omit hf in
/-- A positive value has a positive sign. -/
theorem fin_of_pos (hx : x = signed s m * 2 ^ e) (hpos : 0 < x) : s = false ∧ m ≠ 0 ∧ (x : ℝ) = m * 2 ^ e := by
  have hm : m ≠ 0 := fun h => hpos.ne' (hx.trans (signed_value_eq_zero.mpr h))
  cases s with
  | false => exact ⟨rfl, hm, by rw [hx]; simp [signed]⟩
  | true =>
    have : (0 : ℚ) ≤ m * 2 ^ e := by positivity
    simp only [signed, if_true] at hx
    push_cast at hx
    linarith

end Results

/-! ### The words -/

section Words
variable (w : LaneA) (a b c : Nat)

/-- The format of a float word, and the patterns of its sources after their modifiers (R40, R62). -/
abbrev fmtOf : FFmt := FFmt.ofTy w.ty
abbrev patA : Nat := (fmtOf w).given w.m.na w.m.aa w.m.ftz a
abbrev patB : Nat := (fmtOf w).given w.m.nb w.m.ab w.m.ftz b
abbrev patC : Nat := (fmtOf w).given w.m.nc w.m.ac w.m.ftz c

/-- Their signs and their values (R59). -/
abbrev signA : Bool := (fmtOf w).negOf (patA w a)
abbrev signB : Bool := (fmtOf w).negOf (patB w b)
abbrev signC : Bool := (fmtOf w).negOf (patC w c)
abbrev realA : ℚ := (fmtOf w).real (patA w a)
abbrev realB : ℚ := (fmtOf w).real (patB w b)
abbrev realC : ℚ := (fmtOf w).real (patC w c)

variable {w a b}

theorem srcA_of_fin (hA : (fmtOf w).finPat (patA w a) = true) :
    ∃ m e, srcA w a = .fin (signA w a) m e ∧ realA w a = signed (signA w a) m * 2 ^ e :=
  (ofTy_sound w.ty).source_of_fin (srcA_means w a) hA

theorem srcB_of_fin (hB : (fmtOf w).finPat (patB w b) = true) :
    ∃ m e, srcB w b = .fin (signB w b) m e ∧ realB w b = signed (signB w b) m * 2 ^ e :=
  (ofTy_sound w.ty).source_of_fin (srcB_means w b) hB

theorem srcC_of_fin {c : Nat} (hC : (fmtOf w).finPat (patC w c) = true) :
    ∃ m e, srcC w c = .fin (signC w c) m e ∧ realC w c = signed (signC w c) m * 2 ^ e :=
  (ofTy_sound w.ty).source_of_fin (srcC_means w c) hC

theorem valFadd_gives (hA : (fmtOf w).finPat (patA w a) = true) (hB : (fmtOf w).finPat (patB w b) = true) :
    (fmtOf w).Gives w.m (sumSign w.m (signA w a) (signB w b) (realA w a) (realB w b))
      ((realA w a + realB w b : ℚ) : ℝ) (valFadd w a b c) := by
  have hf := ofTy_sound w.ty
  obtain ⟨m, e, hv, hx⟩ := srcA_of_fin hA
  obtain ⟨m', e', hv', hy⟩ := srcB_of_fin hB
  rw [valFadd, rndW, hv, hv']
  exact hf.add_gives w.m hx hy

theorem valFsub_gives (hA : (fmtOf w).finPat (patA w a) = true) (hB : (fmtOf w).finPat (patB w b) = true) :
    (fmtOf w).Gives w.m (sumSign w.m (signA w a) (!signB w b) (realA w a) (realB w b))
      ((realA w a - realB w b : ℚ) : ℝ) (valFsub w a b c) := by
  have hf := ofTy_sound w.ty
  obtain ⟨m, e, hv, hx⟩ := srcA_of_fin hA
  obtain ⟨m', e', hv', hy⟩ := srcB_of_fin hB
  have hneg : -realB w b = signed (!signB w b) m' * 2 ^ e' := by
    rw [hy]
    cases signB w b <;> simp [signed]
  have hsign (s t : Bool) (x y : ℚ) : sumSign w.m s t x (-y) = sumSign w.m s t x y := by simp [sumSign]
  rw [valFsub, rndW, hv, hv', sub_eq_add_neg, ← hsign]
  exact hf.add_gives w.m hx hneg

/-- A product of finite sources. -/
theorem mul_of_fin (hA : (fmtOf w).finPat (patA w a) = true) (hB : (fmtOf w).finPat (patB w b) = true) :
    ∃ m e, (srcA w a).mul (srcB w b) = .fin (signA w a != signB w b) m e
      ∧ realA w a * realB w b = signed (signA w a != signB w b) m * 2 ^ e := by
  obtain ⟨m, e, hv, hx⟩ := srcA_of_fin hA
  obtain ⟨m', e', hv', hy⟩ := srcB_of_fin hB
  exact ⟨_, _, by rw [hv, hv']; rfl, by rw [hx, hy, ← mul_value]⟩

theorem valFmul_gives (hA : (fmtOf w).finPat (patA w a) = true) (hB : (fmtOf w).finPat (patB w b) = true) :
    (fmtOf w).Gives w.m (signA w a != signB w b) ((realA w a * realB w b : ℚ) : ℝ) (valFmul w a b c) := by
  obtain ⟨m, e, hv, hx⟩ := mul_of_fin hA hB
  rw [valFmul, rndW, hv]
  exact (ofTy_sound w.ty).fin_gives w.m hx fun _ => rfl

theorem valFfma_gives (hA : (fmtOf w).finPat (patA w a) = true) (hB : (fmtOf w).finPat (patB w b) = true)
    (hC : (fmtOf w).finPat (patC w c) = true) :
    (fmtOf w).Gives w.m (sumSign w.m (signA w a != signB w b) (signC w c) (realA w a * realB w b) (realC w c))
      ((realA w a * realB w b + realC w c : ℚ) : ℝ) (valFfma w a b c) := by
  have hf := ofTy_sound w.ty
  obtain ⟨m, e, hv, hx⟩ := mul_of_fin hA hB
  obtain ⟨m', e', hv', hz⟩ := srcC_of_fin hC
  rw [valFfma, rndW, hv, hv']
  exact hf.add_gives w.m hx hz

theorem valFdiv_gives (hA : (fmtOf w).finPat (patA w a) = true) (hB : (fmtOf w).finPat (patB w b) = true) (h0 : realB w b ≠ 0) :
    (fmtOf w).Gives w.m (signA w a != signB w b) ((realA w a / realB w b : ℚ) : ℝ) (valFdiv w a b c) := by
  have hf := ofTy_sound w.ty
  obtain ⟨m, e, hv, hx⟩ := srcA_of_fin hA
  obtain ⟨m', e', hv', hy⟩ := srcB_of_fin hB
  rw [valFdiv, rndW, hv, hv']
  exact hf.div_gives w.m hx hy h0 fun _ => rfl

theorem valFrcp_gives (hA : (fmtOf w).finPat (patA w a) = true) (h0 : realA w a ≠ 0) :
    (fmtOf w).Gives w.m false ((1 / realA w a : ℚ) : ℝ) (valFrcp w a b c) := by
  have hf := ofTy_sound w.ty
  obtain ⟨m, e, hv, hx⟩ := srcA_of_fin hA
  rw [valFrcp, rndW, hv]
  exact hf.div_gives w.m (s := false) (m := 1) (e := 0) (by simp [signed]) hx h0 fun h => absurd h one_ne_zero

theorem valFrsq_gives (hA : (fmtOf w).finPat (patA w a) = true) (hpos : 0 < realA w a) :
    (fmtOf w).Gives w.m false (1 / Real.sqrt (realA w a)) (valFrsq w a b c) := by
  have hf := ofTy_sound w.ty
  obtain ⟨m, e, hv, hx⟩ := srcA_of_fin hA
  obtain ⟨hs, hm, hr⟩ := fin_of_pos hx hpos
  rw [valFrsq, rndW, hv, hs, hr, FVal.rsqrt, if_neg hm, if_neg Bool.false_ne_true]
  exact hf.gives_of_stands w.m (rsqrtFin_stands hm e)

theorem valFsqrt_gives (hA : (fmtOf w).finPat (patA w a) = true) (hpos : 0 < realA w a) :
    (fmtOf w).Gives w.m false (Real.sqrt (realA w a)) (valFsqrt w a b c) := by
  have hf := ofTy_sound w.ty
  obtain ⟨m, e, hv, hx⟩ := srcA_of_fin hA
  obtain ⟨hs, hm, hr⟩ := fin_of_pos hx hpos
  rw [valFsqrt, rndW, hv, hs, hr, FVal.sqrt, if_neg hm, if_neg Bool.false_ne_true]
  exact hf.gives_of_stands w.m (rootFin_stands hm e)

theorem valFexp2_gives (hA : (fmtOf w).finPat (patA w a) = true) {k : ℤ} (hk : realA w a = k) :
    (fmtOf w).Gives w.m false ((2 : ℝ) ^ k) (valFexp2 w a b c) := by
  have hf := ofTy_sound w.ty
  obtain ⟨m, e, hv, hx⟩ := srcA_of_fin hA
  rw [valFexp2, hv]
  exact hf.exp2_gives w.m (hx.symm.trans hk)

theorem valFlog2_gives (hA : (fmtOf w).finPat (patA w a) = true) {k : ℤ} (hk : realA w a = 2 ^ k) :
    (fmtOf w).Gives w.m false (k : ℝ) (valFlog2 w a b c) := by
  have hf := ofTy_sound w.ty
  obtain ⟨m, e, hv, hx⟩ := srcA_of_fin hA
  rw [valFlog2, hv]
  exact hf.log2_gives w.m (hx.symm.trans hk)

theorem valFrnd_integral (hA : (fmtOf w).finPat (patA w a) = true) :
    ∃ k, IntRounds w.m.rnd.toNat (realA w a) k ∧ (fmtOf w).finPat (valFrnd w a b c) = true
      ∧ (fmtOf w).real (valFrnd w a b c) = k ∧ (fmtOf w).negOf (valFrnd w a b c) = signA w a := by
  have hf := ofTy_sound w.ty
  obtain ⟨m, e, hv, hm, hval⟩ := (srcA_means w a).of_fin hA
  have hx : realA w a = signed (signA w a) m * 2 ^ e := hf.real_eq_signed hval
  rw [valFrnd, rndW, hv, hx]
  exact hf.integral_spec w.m.rnd.isLt _ _ _ hm hval ((hf.finPat_iff _).mp hA)

theorem valFcvt_float {st : Ty} (h : w.srcTy = some st) (hst : st.isFloat = true) (hw : w.ty.isFloat = true) : valFcvt w a b c
    = (fmtOf w).rnd w.m.rnd.toNat w.m.alt w.m.ftz ((FFmt.ofTy st).src w.m.ftz ((FFmt.ofTy st).modify w.m.na w.m.aa a)) := by
  simp only [valFcvt, h, Option.getD_some, hst, hw, if_true, rndW]

theorem valFcvt_gives {st : Ty} (h : w.srcTy = some st) (hst : st.isFloat = true) (hw : w.ty.isFloat = true)
    (hS : (FFmt.ofTy st).finPat ((FFmt.ofTy st).given w.m.na w.m.aa w.m.ftz a) = true) :
    (fmtOf w).Gives w.m ((FFmt.ofTy st).negOf ((FFmt.ofTy st).given w.m.na w.m.aa w.m.ftz a))
      ((FFmt.ofTy st).real ((FFmt.ofTy st).given w.m.na w.m.aa w.m.ftz a)) (valFcvt w a b c) := by
  have hg := ofTy_sound st
  obtain ⟨m, e, hv, hx⟩ := hg.source_of_fin (hg.src_means w.m.na w.m.aa w.m.ftz a) hS
  rw [valFcvt_float c h hst hw, hv]
  exact (ofTy_sound w.ty).fin_gives w.m hx fun _ => rfl

theorem valFcvt_of_int {st : Ty} (h : w.srcTy = some st) (hst : st.isFloat = false) (hw : w.ty.isFloat = true) :
    (fmtOf w).Gives w.m false (exactOf st w.m.na w.m.aa a 0 : ℤ) (valFcvt w a b c) := by
  have hv : valFcvt w a b c = (fmtOf w).rnd w.m.rnd.toNat w.m.alt w.m.ftz (FVal.ofInt (exactOf st w.m.na w.m.aa a 0)) := by
    simp only [valFcvt, h, Option.getD_some, hst, hw, if_true, rndW, srcInt_eq_exactOf, Bool.false_eq_true, if_false]
  rw [hv]
  exact (ofTy_sound w.ty).gives_of_stands w.m (stands_ofSigned (by simp))

end Words

theorem floatResultsRoundOnce : Claims.FloatResultsRoundOnce := by
  intro w a b c f A B C x y z down sum gives hty
  refine ⟨fun hA hB => ⟨valFadd_gives c hA hB, valFsub_gives c hA hB, valFmul_gives c hA hB, fun hC => valFfma_gives c hA hB hC,
    fun hy => valFdiv_gives c hA hB hy⟩, fun hA => ⟨fun hx => valFrcp_gives c hA hx, fun hx => valFrsq_gives c hA hx,
    fun hx => valFsqrt_gives c hA hx, fun k hk => valFexp2_gives c hA hk, fun k hk => valFlog2_gives c hA hk, valFrnd_integral c hA⟩,
    fun hA hB => ?_, fun st hst => ⟨fun h hS => valFcvt_gives c hst h hty hS, fun h => valFcvt_of_int c hst h hty⟩⟩
  rw [Bool.not_eq_true] at hA hB
  simp only [valFmin, valFmax, minMaxFloat_eq]
  constructor <;> simp [f, A, B, hA, hB]

end Sys2Proof.Machine

end

section

/-! SUPPORT. The float words' special values, tests and classes, and conversions to integer types (R58, R61, R64, R65, R174 to R179). -/

namespace Sys2Proof.Machine

/-! ### Conversions to integer types (R58, R65, R178) -/

theorem conversionsToIntegers : Claims.ConversionsToIntegers := by
  intro w a b c st hst hty f A v
  have hf := ofTy_sound st
  have hA : f.Means A (f.src w.m.ftz (f.modify w.m.na w.m.aa a)) := hf.src_means _ _ _ a
  have hlimit (hflt : st.isFloat = true) :
      valFcvt w a b c = (f.src w.m.ftz (f.modify w.m.na w.m.aa a)).toIntTy w.m.rnd.toNat w.m.alt w.ty.isSigned (ewidth w.ty) := by
    simp only [valFcvt, hst, Option.getD_some, hflt, hty, if_true, Bool.false_eq_true, if_false, f]
  refine ⟨fun hint => ?_, fun hflt => ⟨fun hfin => ?_, fun hnan => ?_, fun hinf => ?_⟩⟩
  · have : valFcvt w a b c = limitInt w.m.alt w.ty.isSigned (ewidth w.ty) (exactOf st w.m.na w.m.aa a 0) := by
      simp only [valFcvt, hst, Option.getD_some, hint, hty, Bool.false_eq_true, if_false, srcInt_eq_exactOf]
    rw [← element_limitInt, ← this]
  · obtain ⟨m, e, hv, hx⟩ := hf.source_of_fin hA hfin
    refine ⟨_, hx ▸ roundNat_intRounds w.m.rnd.isLt _ m e, ?_⟩
    rw [← element_limitInt]
    simp only [v, hlimit hflt, hv, FVal.toIntTy]
  · simp only [v, hlimit hflt, hA.of_nan hnan, FVal.toIntTy, element_zero]
    rfl
  · simp only [v, hlimit hflt, hA.of_inf hinf, FVal.toIntTy, element_zero]
    split
    next => rfl
    next =>
      rw [ofNat_patNat, intLeast_eq, intGreatest_eq]

/-! ### Tests and classes (R175, R176) -/

theorem floatTestsAndClasses : Claims.FloatTestsAndClasses := by
  intro w a b c hty f A B x y q
  have hf : f.Sound := ofTy_sound w.ty
  have hA : f.Means A (srcA w a) := srcA_means w a
  have hB : f.Means B (srcB w b) := srcB_means w b
  refine ⟨fun hnan => ?_, fun hna hnb => ?_, ?_⟩
  · have huo : ((srcA w a).isNan || (srcB w b).isNan) = true := by
      rw [hA.isNan_eq, hB.isNan_eq, Bool.or_eq_true]
      exact hnan
    have heqv : (srcA w a).eqv (srcB w b) = false := eqv_of_nan huo
    obtain ⟨hlt, hgt⟩ := lt_of_nan huo
    have hcode (k : Nat) (hk : k < 256) : (w.c == BitVec.ofNat 8 k) = (w.c.toNat == k) := by
      rw [Bool.eq_iff_iff, beq_iff_eq, beq_iff_eq, ← BitVec.toNat_inj, BitVec.toNat_ofNat, Nat.mod_eq_of_lt hk]
    rw [show (w.c == 1) = _ from hcode 1 (by decide), show (w.c == 6) = _ from hcode 6 (by decide), holdsFcmp]
    generalize w.c.toNat = cc
    simp only [floatHolds, huo, heqv, hlt, hgt]
    split <;> simp_all
  · have huo : ((srcA w a).isNan || (srcB w b).isNan) = false := by
      rw [hA.isNan_eq, hB.isNan_eq]
      simp [hna, hnb]
    rw [holdsFcmp]
    simp only [floatHolds, huo, hf.eqv_eq hA hB hna hnb, hf.lt_eq hA hB hna hnb, hf.lt_eq hB hA hnb hna, x, y]
    generalize w.c.toNat = cc
    split <;> simp <;> omega
  · exact ⟨_, hf.classOf_eq q, rfl⟩

end Sys2Proof.Machine

end

section

/-! SUPPORT. What the float words give of NaNs, infinities and zeros (R61, R63, R64, R174, R177 to R179). -/

namespace Sys2Proof.Machine

/-! ### Operations on values that are no numbers -/

section Values
variable (mode : Nat) (x : FVal) (s s' : Bool) (m : ℕ) (e : ℤ)

@[simp] theorem FVal.nan_add : FVal.add mode .nan x = .nan := by simp [FVal.add]
@[simp] theorem FVal.add_nan : x.add mode .nan = .nan := by cases x <;> rfl
@[simp] theorem FVal.nan_mul : FVal.mul .nan x = .nan := by simp [FVal.mul]
@[simp] theorem FVal.mul_nan : x.mul .nan = .nan := by cases x <;> rfl
@[simp] theorem FVal.nan_div : FVal.div .nan x = .nan := by simp [FVal.div]
@[simp] theorem FVal.div_nan : x.div .nan = .nan := by cases x <;> rfl
@[simp] theorem FVal.negate_nan : FVal.negate .nan = .nan := rfl
@[simp] theorem FVal.negate_inf : (FVal.inf s).negate = .inf !s := rfl
@[simp] theorem FVal.negate_fin : (FVal.fin s m e).negate = .fin (!s) m e := rfl
@[simp] theorem FVal.inf_add_fin : (FVal.inf s).add mode (.fin s' m e) = .inf s := rfl
@[simp] theorem FVal.fin_add_inf : (FVal.fin s' m e).add mode (.inf s) = .inf s := rfl
@[simp] theorem FVal.inf_add_inf : (FVal.inf s).add mode (.inf s') = if s = s' then .inf s else .nan := rfl
@[simp] theorem FVal.inf_mul_inf : (FVal.inf s).mul (.inf s') = .inf (s != s') := rfl
@[simp] theorem FVal.inf_mul_fin : (FVal.inf s).mul (.fin s' m e) = if m = 0 then .nan else .inf (s != s') := rfl
@[simp] theorem FVal.fin_mul_inf : (FVal.fin s' m e).mul (.inf s) = if m = 0 then .nan else .inf (s' != s) := rfl
@[simp] theorem FVal.inf_div_inf : (FVal.inf s).div (.inf s') = .nan := rfl
@[simp] theorem FVal.inf_div_fin : (FVal.inf s).div (.fin s' m e) = .inf (s != s') := rfl
@[simp] theorem FVal.fin_div_inf : (FVal.fin s' m e).div (.inf s) = .fin (s' != s) 0 0 := rfl

end Values

/-! ### Values and what they are written as (R61, R64) -/

section Written
variable (w : LaneA)

theorem FFmt.Sound.infinite_eq {f : FFmt} (hf : f.Sound) (alt pole s : Bool) : f.infinite alt pole s = f.infinity alt pole s := by
  simp only [FFmt.infinite, FFmt.infinity, f.largest_eq s hf.infMag_pos, FFmt.infPat, FFmt.topMag]
  split
  · rfl
  · split <;> rfl

@[simp] theorem rndW_nan : rndW w .nan = (fmtOf w).canon := rfl
@[simp] theorem rndW_zero (s : Bool) (e : ℤ) : rndW w (.fin s 0 e) = (fmtOf w).sign s := rfl

@[simp] theorem rndW_inf (s : Bool) : rndW w (.inf s) = (fmtOf w).infinity w.m.alt false s := (ofTy_sound w.ty).infinite_eq _ _ _
@[simp] theorem rndW_pole (s : Bool) : rndW w (.pole s) = (fmtOf w).infinity w.m.alt true s := (ofTy_sound w.ty).infinite_eq _ _ _

end Written

/-! ### Sources that are no numbers, or zeros -/

section Sources
variable {f : FFmt} {p : Nat} {v : FVal}

/-- A value that is no NaN: an infinity, or a finite value that is zero where its magnitude is. -/
theorem FFmt.Means.cases_of_not_nan (h : f.Means p v) (hp : ¬ f.nanPat p = true) :
    (f.infPattern p = true ∧ v = .inf (f.negOf p))
    ∨ (f.finPat p = true ∧ ∃ m e, v = .fin (f.negOf p) m e ∧ (m = 0 ↔ f.magOf p = 0)) := by
  cases hi : f.infPattern p with
  | true => exact .inl ⟨rfl, h.of_inf hi⟩
  | false =>
    have hfin : f.finPat p = true := by simp [FFmt.finPat, hp, hi]
    obtain ⟨m, e, hv, -, hm⟩ := h.of_fin hfin
    exact .inr ⟨hfin, m, e, hv, f.mantissa_eq_zero hm⟩

theorem FFmt.Sound.magOf_ne_zero_of_inf (hf : f.Sound) (h : f.infPattern p = true) : f.magOf p ≠ 0 := by
  rw [hf.magOf_of_infPattern h]
  omega

theorem FFmt.Means.of_finite (h : f.Means p v) (hp : f.finPat p = true) :
    ∃ m e, v = .fin (f.negOf p) m e ∧ (m = 0 ↔ f.magOf p = 0) := by
  obtain ⟨hn, hi⟩ : f.nanPat p = false ∧ f.infPattern p = false := by simpa [FFmt.finPat] using hp
  exact ((h.cases_of_not_nan (by simp [hn])).resolve_left (by simp [hi])).2

theorem FFmt.Means.of_zero (h : f.Means p v) (hf : f.Sound) (hp : f.magOf p = 0) : ∃ e, v = .fin (f.negOf p) 0 e := by
  obtain ⟨m, e, rfl, hm⟩ := h.of_finite (hf.finPat_of_magOf_eq_zero hp)
  exact ⟨e, by rw [hm.mpr hp]⟩

end Sources

/-! ### The words (R61, R64, R174, R177, R179) -/

section Words
variable (w : LaneA) (a b c : Nat)

theorem words_of_nan_a (h : srcA w a = .nan) : ∀ v ∈ [valFadd, valFsub, valFmul, valFfma, valFdiv, valFrcp, valFrsq, valFsqrt, valFexp2,
    valFlog2, valFrnd], v w a b c = (fmtOf w).canon := by
  simp [valFadd, valFsub, valFmul, valFfma, valFdiv, valFrcp, valFrsq, valFsqrt, valFexp2, valFlog2, valFrnd, h, FVal.rcp, FVal.rsqrt,
    FVal.sqrt, FFmt.exp2, FFmt.log2, FVal.integral]

theorem words_of_nan_b (h : srcB w b = .nan) : ∀ v ∈ [valFadd, valFsub, valFmul, valFfma, valFdiv], v w a b c = (fmtOf w).canon := by
  simp [valFadd, valFsub, valFmul, valFfma, valFdiv, h]

variable {a b c}

/-- The product of an infinity (R174). -/
theorem mul_of_endless (hA : ¬ (fmtOf w).nanPat (patA w a) = true) (hB : ¬ (fmtOf w).nanPat (patB w b) = true)
    (h : (fmtOf w).infPattern (patA w a) = true ∨ (fmtOf w).infPattern (patB w b) = true) :
    (srcA w a).mul (srcB w b) = if (fmtOf w).magOf (patA w a) = 0 ∨ (fmtOf w).magOf (patB w b) = 0 then .nan
      else .inf ((fmtOf w).negOf (patA w a) != (fmtOf w).negOf (patB w b)) := by
  have hf := ofTy_sound w.ty
  rcases (srcA_means w a).cases_of_not_nan hA with ⟨hAi, hAv⟩ | ⟨hAf, m, e, hAv, hm⟩ <;>
    rcases (srcB_means w b).cases_of_not_nan hB with ⟨hBi, hBv⟩ | ⟨hBf, m', e', hBv, hm'⟩
  · simp [hAv, hBv, hf.magOf_ne_zero_of_inf hAi, hf.magOf_ne_zero_of_inf hBi]
  · simp [hAv, hBv, hf.magOf_ne_zero_of_inf hAi, hm']
  · simp [hAv, hBv, hf.magOf_ne_zero_of_inf hBi, hm]
  · simp_all [FFmt.finPat]

/-- An infinity and what is added to it. -/
theorem inf_add_srcC (mode : Nat) (s : Bool) (hC : ¬ (fmtOf w).nanPat (patC w c) = true) : (FVal.inf s).add mode (srcC w c)
    = if (fmtOf w).infPattern (patC w c) = true ∧ (fmtOf w).negOf (patC w c) ≠ s then .nan else .inf s := by
  rcases (srcC_means w c).cases_of_not_nan hC with ⟨hCi, hCv⟩ | ⟨hCf, m, e, hCv, -⟩
  · by_cases hs : (fmtOf w).negOf (patC w c) = s
    · simp [hCv, hs]
    · simp [hCv, hCi, hs, Ne.symm hs]
  · simp_all [FFmt.finPat]

theorem fminmax_of_nan_a (h : (fmtOf w).nanPat (patA w a) = true) (mx : Bool) :
    minMaxFloat w mx a b = if (fmtOf w).nanPat (patB w b) then (fmtOf w).canon else patB w b := by
  simp [minMaxFloat_eq, h]

theorem fminmax_of_nan_b (h : (fmtOf w).nanPat (patB w b) = true) (ha : ¬ (fmtOf w).nanPat (patA w a) = true) (mx : Bool) :
    minMaxFloat w mx a b = patA w a := by
  simp [minMaxFloat_eq, h, ha]

/-- FFMA of an infinite product, and of an infinite addend. -/
theorem valFfma_of_endless (hA : ¬ (fmtOf w).nanPat (patA w a) = true) (hB : ¬ (fmtOf w).nanPat (patB w b) = true)
    (hC : ¬ (fmtOf w).nanPat (patC w c) = true)
    (h : (fmtOf w).infPattern (patA w a) = true ∨ (fmtOf w).infPattern (patB w b) = true) :
    let s := (fmtOf w).negOf (patA w a) != (fmtOf w).negOf (patB w b)
    valFfma w a b c = if (fmtOf w).magOf (patA w a) = 0 ∨ (fmtOf w).magOf (patB w b) = 0 then (fmtOf w).canon
      else if (fmtOf w).infPattern (patC w c) = true ∧ (fmtOf w).negOf (patC w c) ≠ s then (fmtOf w).canon
      else (fmtOf w).infinity w.m.alt false s := by
  rw [valFfma, mul_of_endless w hA hB h]
  split
  next => rw [FVal.nan_add, rndW_nan]
  next => rw [inf_add_srcC w _ _ hC, apply_ite (rndW w), rndW_nan, rndW_inf]

theorem valFfma_of_inf_c (hA : (fmtOf w).finPat (patA w a) = true) (hB : (fmtOf w).finPat (patB w b) = true)
    (hC : (fmtOf w).infPattern (patC w c) = true) :
    valFfma w a b c = (fmtOf w).infinity w.m.alt false ((fmtOf w).negOf (patC w c)) := by
  obtain ⟨m, e, hv, -⟩ := mul_of_fin hA hB
  rw [valFfma, hv, (srcC_means w c).of_inf hC, FVal.fin_add_inf, rndW_inf]

theorem words_of_inf_inf (hA : (fmtOf w).infPattern (patA w a) = true) (hB : (fmtOf w).infPattern (patB w b) = true) :
    let s := (fmtOf w).negOf (patA w a)
    let t := (fmtOf w).negOf (patB w b)
    let inf := (fmtOf w).infinity w.m.alt false
    valFdiv w a b c = (fmtOf w).canon ∧ valFadd w a b c = (if s = t then inf s else (fmtOf w).canon)
    ∧ valFsub w a b c = (if s = t then (fmtOf w).canon else inf s) ∧ valFmul w a b c = inf (s != t) := by
  rw [valFdiv, valFadd, valFsub, valFmul, (srcA_means w a).of_inf hA, (srcB_means w b).of_inf hB]
  by_cases hs : (fmtOf w).negOf (patA w a) = (fmtOf w).negOf (patB w b) <;> simp [apply_ite (rndW w), hs]

theorem words_of_inf_fin (hA : (fmtOf w).infPattern (patA w a) = true) (hB : (fmtOf w).finPat (patB w b) = true) :
    let s := (fmtOf w).negOf (patA w a)
    let t := (fmtOf w).negOf (patB w b)
    let inf := (fmtOf w).infinity w.m.alt false
    valFadd w a b c = inf s ∧ valFsub w a b c = inf s ∧ valFdiv w a b c = inf (s != t)
    ∧ valFmul w a b c = if (fmtOf w).magOf (patB w b) = 0 then (fmtOf w).canon else inf (s != t) := by
  obtain ⟨m, e, hv, hm⟩ := (srcB_means w b).of_finite hB
  rw [valFdiv, valFadd, valFsub, valFmul, (srcA_means w a).of_inf hA, hv]
  simp [apply_ite (rndW w), hm]

theorem words_of_fin_inf (hA : (fmtOf w).finPat (patA w a) = true) (hB : (fmtOf w).infPattern (patB w b) = true) :
    let s := (fmtOf w).negOf (patA w a)
    let t := (fmtOf w).negOf (patB w b)
    let inf := (fmtOf w).infinity w.m.alt false
    valFadd w a b c = inf t ∧ valFsub w a b c = inf (!t) ∧ valFdiv w a b c = (fmtOf w).sign (s != t)
    ∧ valFmul w a b c = if (fmtOf w).magOf (patA w a) = 0 then (fmtOf w).canon else inf (s != t) := by
  obtain ⟨m, e, hv, hm⟩ := (srcA_means w a).of_finite hA
  rw [valFdiv, valFadd, valFsub, valFmul, (srcB_means w b).of_inf hB, hv]
  simp [apply_ite (rndW w), hm]

/-- A quotient by zero (R177). -/
theorem valFdiv_by_zero (hA : (fmtOf w).finPat (patA w a) = true) (hB : (fmtOf w).magOf (patB w b) = 0) :
    valFdiv w a b c = if (fmtOf w).magOf (patA w a) = 0 then (fmtOf w).canon
      else (fmtOf w).infinity w.m.alt true ((fmtOf w).negOf (patA w a) != (fmtOf w).negOf (patB w b)) := by
  obtain ⟨m, e, hv, hm⟩ := (srcA_means w a).of_finite hA
  obtain ⟨e', hv'⟩ := (srcB_means w b).of_zero (ofTy_sound w.ty) hB
  rw [valFdiv, hv, hv', FVal.div, if_pos rfl, apply_ite (rndW w), rndW_nan, rndW_pole]
  simp only [hm]

/-- The words of one source, of a zero. -/
theorem words_of_zero (hA : (fmtOf w).magOf (patA w a) = 0) :
    let s := (fmtOf w).negOf (patA w a)
    let pole := (fmtOf w).infinity w.m.alt true
    valFrcp w a b c = pole s ∧ valFrsq w a b c = pole s ∧ valFsqrt w a b c = (fmtOf w).sign s ∧ valFlog2 w a b c = pole true
    ∧ valFrnd w a b c = (fmtOf w).sign s := by
  obtain ⟨e, hv⟩ := (srcA_means w a).of_zero (ofTy_sound w.ty) hA
  rw [valFrcp, valFrsq, valFsqrt, valFlog2, valFrnd, hv]
  refine ⟨?_, rndW_pole w _, rndW_zero w _ _, rndW_pole w _, ?_⟩
  · rw [FVal.rcp, FVal.div, if_pos rfl, if_neg one_ne_zero, rndW_pole, Bool.false_bne]
  · have hround : roundNat w.m.rnd.toNat ((fmtOf w).negOf (patA w a)) 0 e = 0 := by
      have h := (roundNat_picks (K := ℚ) (.inl rfl) w.m.rnd.toNat ((fmtOf w).negOf (patA w a)) (m := 0) (e := e))
      rw [Nat.cast_zero, zero_mul, ← Nat.cast_zero] at h
      exact h.eq_of_value Nat.strictMono_cast
    rw [FVal.integral, hround, apply_ite (rndW w), rndW_zero, rndW_zero, ite_self]

/-- The words of one source, of a negative number. -/
theorem words_of_negative (hA : (fmtOf w).finPat (patA w a) = true) (h0 : ¬ (fmtOf w).magOf (patA w a) = 0)
    (hs : (fmtOf w).negOf (patA w a) = true) :
    valFrsq w a b c = (fmtOf w).canon ∧ valFsqrt w a b c = (fmtOf w).canon ∧ valFlog2 w a b c = (fmtOf w).canon := by
  obtain ⟨m, e, hv, hm⟩ := (srcA_means w a).of_finite hA
  have hm0 : m ≠ 0 := mt hm.mp h0
  rw [valFrsq, valFsqrt, valFlog2, hv, hs]
  simp [FVal.rsqrt, FVal.sqrt, FFmt.log2, hm0]

/-- The words of one source, of an infinity. -/
theorem words_of_inf (hA : (fmtOf w).infPattern (patA w a) = true) :
    let s := (fmtOf w).negOf (patA w a)
    let inf := (fmtOf w).infinity w.m.alt false
    valFrcp w a b c = (fmtOf w).sign s ∧ valFrnd w a b c = inf s
    ∧ valFrsq w a b c = (if s then (fmtOf w).canon else (fmtOf w).sign false)
    ∧ valFsqrt w a b c = (if s then (fmtOf w).canon else inf false)
    ∧ valFexp2 w a b c = (if s then (fmtOf w).sign false else inf false)
    ∧ valFlog2 w a b c = if s then (fmtOf w).canon else inf false := by
  have hinf := rndW_inf w
  rw [valFrcp, valFrnd, valFrsq, valFsqrt, valFexp2, valFlog2, (srcA_means w a).of_inf hA]
  cases (fmtOf w).negOf (patA w a)
  · exact ⟨rfl, hinf _, rfl, hinf _, hinf _, hinf _⟩
  · exact ⟨rfl, hinf _, rfl, rfl, rfl, rfl⟩

/-- FCVT between float formats, of a NaN and of an infinity (R61, R64). -/
theorem valFcvt_special {st : Ty} (h : w.srcTy = some st) (hst : st.isFloat = true) (hw : w.ty.isFloat = true) :
    let g := FFmt.ofTy st
    let p := g.given w.m.na w.m.aa w.m.ftz a
    (g.nanPat p = true → valFcvt w a b c = (fmtOf w).canon)
    ∧ (g.infPattern p = true → valFcvt w a b c = (fmtOf w).infinity w.m.alt false (g.negOf p)) := by
  have hm := (ofTy_sound st).src_means w.m.na w.m.aa w.m.ftz a
  refine ⟨fun hn => ?_, fun hi => ?_⟩
  · rw [valFcvt_float c h hst hw, hm.of_nan hn]
    rfl
  · rw [valFcvt_float c h hst hw, hm.of_inf hi]
    exact rndW_inf w _

end Words

theorem floatSpecialValues : Claims.FloatSpecialValues := by
  intro w a b c hty f A B C nan zero inf pole neg
  have hf : f.Sound := ofTy_sound w.ty
  have hA : f.Means A (srcA w a) := srcA_means w a
  have hB : f.Means B (srcB w b) := srcB_means w b
  have hC : f.Means C (srcC w c) := srcC_means w c
  refine ⟨fun hn => ⟨words_of_nan_a w a b c (hA.of_nan hn), fminmax_of_nan_a w hn false, fminmax_of_nan_a w hn true⟩,
    fun hn => ⟨words_of_nan_b w a b c (hB.of_nan hn), fun ha => ⟨fminmax_of_nan_b w hn ha false, fminmax_of_nan_b w hn ha true⟩⟩,
    fun hn => ?_, fun ha hb hc => ?_, fun ha hb => words_of_inf_inf w ha hb, fun ha hb => words_of_inf_fin w ha hb,
    fun ha hb => words_of_fin_inf w ha hb, fun ha _ hz => valFdiv_by_zero w ha hz, fun hz => words_of_zero w hz,
    fun ha hz hs => words_of_negative w ha hz hs, fun ha => ?_, fun st hst hflt => valFcvt_special w hst hflt hty⟩
  · rw [valFfma, hC.of_nan hn, FVal.add_nan]
    rfl
  · refine ⟨fun he hz => ?_, fun he hza hzb => ?_, fun he hic => ?_⟩
    · exact (valFfma_of_endless w ha hb hc he).trans (if_pos hz)
    · exact (valFfma_of_endless w ha hb hc he).trans (if_neg (not_or.mpr ⟨hza, hzb⟩))
    · have hfin (p : Nat) (hn : ¬ f.nanPat p = true) (hi : ¬ f.infPattern p = true) : f.finPat p = true := by simp [FFmt.finPat, hn, hi]
      exact valFfma_of_inf_c w (hfin A ha fun h => he (.inl h)) (hfin B hb fun h => he (.inr h)) hic
  · obtain ⟨hrcp, hrnd, hrest⟩ := words_of_inf w ha (b := b) (c := c)
    exact ⟨hrcp, fun _ => hrnd, hrest⟩

/-- Settles O60: a source's pattern is read as a signed number, the operations are exact or keep a sticky bit far below every format's last
place, and the model's rounding takes the magnitude that the mode picks among the format's; infinities, NaNs and zeros go by cases. -/
theorem floatLaneValuesFollowTheirRules : Obligations.FloatLaneValuesFollowTheirRules :=
  ⟨floatResultsRoundOnce, conversionsToIntegers, floatSpecialValues, floatTestsAndClasses⟩

end Sys2Proof.Machine

end

section
/-! SUPPORT. Control words (R88, R91 to R106): the gates in front of a word that nothing keeps back, and the words that change their
path alone. -/

namespace Sys2Proof.Machine

/-! ### Changes of the issuing path -/

theorem modCurPath_modCurPath (s : State) (f g : Path → Path) :
    (s.modCurPath f).modCurPath g = s.modCurPath fun p => g (f p) := by
  cases h : s.cur with
  | none => simp [State.modCurPath, h]
  | some u =>
    simp only [State.modCurPath, State.modPath, h, modCrew_cur]
    rw [modCrew_modCrew (f := fun c => c.modPath u.path f) (fun _ => rfl)]
    simp only [modPath_modPath]

theorem advance_eq (s : State) (n : Nat) : s.advance n = s.modCurPath fun p => p.past n := rfl
theorem branch_eq (s : State) (so lo : W64) : s.branch so lo = s.modCurPath fun p => p.at_ so lo := rfl

theorem path_modPath_ne {c : Crew} {i j : Nat} (h : j ≠ i) (f : Path → Path) : (c.modPath i f).path j = c.path j := by
  simp [Crew.path, Crew.modPath, List.getD_eq_getElem?_getD, modAt_getElem?, h.symm]

theorem path_modPath_of_lt {c : Crew} {i : Nat} (h : i < c.paths.length) (f : Path → Path) : (c.modPath i f).path i = f (c.path i) := by
  rw [path_modPath_self (List.getElem?_eq_getElem h), path_of_entry (List.getElem?_eq_getElem h)]

@[simp] theorem modPath_length (c : Crew) (i : Nat) (f : Path → Path) : (c.modPath i f).paths.length = c.paths.length := by
  simp [Crew.modPath]

section Issued
variable {s : State} {c : Crew} {i : Nat} {p : Path} {ins : Instr}

/-- A word that changes its path alone. -/
theorem completes_of_modCurPath (h : Issuing s c i p) {f : Path → Path} (he : exec ins s = .next (s.modCurPath f)) :
    Completes ins s c (c.withPath i (f p)) := by
  rw [modCurPath_of h] at he
  have := completes_of_modCrew h (f := fun d => d.modPath i f) (fun _ => rfl) he
  rwa [modPath_eq_withPath h.entry] at this

/-- A word that changes its path alone, and whose trace record is written. -/
theorem completesTraced_of_modCurPath (h : Issuing s c i p) {f : Path → Path} {code other : Nat} {target : W64}
    (he : exec ins s = .next ((s.modCurPath f).trace c.id i code other target)) :
    CompletesTraced ins s c (c.withPath i (f p)) i code other target := by
  let g : Crew → Crew := fun d => d.modPath i f
  refine ⟨s.modCurPath f, he, ?_, ?_⟩
  · rw [modCurPath_of h]
    exact onlyCrew_modCrew (f := g) (fun _ => rfl) s c.id
  · rw [modCurPath_of h, ← modPath_eq_withPath h.entry]
    exact crewOf_modCrew_self (f := g) (fun _ => rfl) h.crew

/-! ### The gates of a word (R45, R91, R376, R380) -/

theorem noHandler_of (hp : p.isHandler = false) (code : Nat) (k : Out) : noHandler s c p code k = k := by simp [noHandler, hp]

theorem trapGate_of (h : Issuing s c i p) (hr : c.undispatched i = false) (k : Out) : trapGate s c k = k := by
  simp [trapGate, curPath_of h, hr]

theorem markerGate_of (h : Issuing s c i p) (ho : c.outstanding i = false) (hl : p.late = []) (k : Out) :
    markerGate s c p k = k := by
  simp [markerGate, curPath_of h, ho, deliverLate_none hl]

theorem iss_isSome_of (hn : p.iss = none) : ¬ p.iss.isSome = true := by simp [hn]

theorem waitIssue_eq (s : State) (p : Path) : waitIssue s p = .next (s.modCurPath fun q => q.stalled (p.wait.getD 0)) := rfl

/-! ### ISSUE (R91) -/

theorem pending_of_none (hs : c.sPend = []) (rs : List (BitVec 6)) : c.pending rs = false := by simp [Crew.pending, hs]

theorem issueWord_goes (h : Issuing s c i p) (hn : p.iss = none) {srcs : List (BitVec 6)} (hp : c.pending srcs = false) {k : Nat}
    (hk : (c.sPend.isEmpty || k == 0) = true) (n : Nat) :
    issueWord s n k srcs = .next (s.modCurPath fun q => (q.begin c n k).past 4) := by
  simp only [issueWord, withCur_of h, if_neg (iss_isSome_of hn), hp, hk, if_true, advance_eq, modCurPath_modCurPath, Bool.false_eq_true,
    if_false]

theorem issueWord_waits (h : Issuing s c i p) (hi : p.iss ≠ none) (n k : Nat) (srcs : List (BitVec 6)) :
    issueWord s n k srcs = .next (s.modCurPath fun q => q.stalled (p.wait.getD 0)) := by
  simp only [issueWord, withCur_of h, if_pos (Option.isSome_iff_ne_none.mpr hi), waitIssue_eq]

theorem exec_issue (n : BitVec 7) (rep : BitVec 12) (s : State) :
    exec (.issue n rep) s = issueWord s n.toNat (rep.toNat + 1) [] := rfl

theorem exec_issueReg (h : Issuing s c i p) (rs : BitVec 6) (n : BitVec 7) :
    exec (.issueReg rs n) s = issueWord s n.toNat ((c.sget rs).toNat % 2 ^ 16) [rs] := by
  change execIssueReg rs n s = _
  exact withCur_of h _

end Issued

theorem issueMakesWordsPending : Claims.IssueMakesWordsPending := by
  intro n rep rs s c i p h issued waits
  refine ⟨fun hn hs => ⟨?_, ?_⟩, fun hn hp hk => ?_, fun hi => ⟨?_, ?_⟩⟩
  · exact completes_of_modCurPath h ((exec_issue n rep s).trans (issueWord_goes h hn (pending_of_none hs _) (by simp [hs]) _))
  · exact completes_of_modCurPath h ((exec_issueReg h rs n).trans (issueWord_goes h hn (pending_of_none hs _) (by simp [hs]) _))
  · have hg := (exec_issueReg h rs n).trans (issueWord_goes h hn hp (by rw [hk]; exact Bool.or_true _) _)
    rw [hk] at hg
    exact completes_of_modCurPath h hg
  · exact completes_of_modCurPath h ((exec_issue n rep s).trans (issueWord_waits h hi _ _ _))
  · exact completes_of_modCurPath h ((exec_issueReg h rs n).trans (issueWord_waits h hi _ _ _))

/-! ### Branches (R92 to R95) -/

section Branches
variable {s : State} {c : Crew} {i : Nat} {p : Path}

theorem takeBranch_of (hn : p.iss = none) (so lo : W64) :
    takeBranch s p so lo = .next (s.modCurPath fun q => q.at_ so lo) := if_neg (iss_isSome_of hn)

/-- Every bit of m is in n. -/
theorem and_not_eq_zero_iff {w : Nat} (m n : BitVec w) : m &&& ~~~n = 0 ↔ n &&& m = m := by
  constructor
  · intro h
    refine BitVec.eq_of_getLsbD_eq fun l hl => ?_
    have hb : (m &&& ~~~n).getLsbD l = (m.getLsbD l && !n.getLsbD l) := by
      rw [BitVec.getLsbD_and, BitVec.getLsbD_not, decide_eq_true hl, Bool.true_and]
    rw [h] at hb
    rw [BitVec.getLsbD_and]
    grind
  · intro h
    rw [← h, BitVec.and_assoc, BitVec.and_comm m, ← BitVec.and_assoc, BitVec.and_not_self]
    exact BitVec.zero_and

/-- The test of BRM as R94 lists it. -/
theorem brmHolds_eq (m m0 : Mask) : ∀ test, brmHolds test m m0 = match test with
    | 0 => decide (m &&& m0 ≠ 0)
    | 1 => decide (m &&& m0 = m0)
    | _ => decide (m &&& m0 = 0)
  | 0 => by simp only [brmHolds, bne, beq_eq_decide, ne_eq, decide_not]
  | 1 => (beq_eq_decide _ _).trans (decide_eq_decide.mpr (and_not_eq_zero_iff m0 m))
  | _ + 2 => beq_eq_decide _ _

theorem exec_nop (h : Issuing s c i p) : exec .nop s = .next (s.modCurPath fun q => q.past 4) := by
  change execNop s = _
  exact withCur_of h _

theorem exec_lpc (h : Issuing s c i p) (hn : p.iss = none) (lo : BitVec 12) :
    exec (.lpc lo) s = .next (s.modCurPath fun q => { q with lpc := q.lpc + 12 * lo.signExtend 64 }.past 4) := by
  change execLpc lo s = _
  rw [execLpc, withCur_of h, if_neg (iss_isSome_of hn), advance_eq, modCurPath_modCurPath]

theorem exec_br (h : Issuing s c i p) (hn : p.iss = none) (so : BitVec 13) (lo : BitVec 12) :
    exec (.br so lo) s = .next (s.modCurPath fun q => q.at_ (so.signExtend 64) (lo.signExtend 64)) := by
  change execBr so lo s = _
  rw [execBr, withCur_of h, takeBranch_of hn]

theorem exec_brLong (h : Issuing s c i p) (hn : p.iss = none) (so lo : BitVec 16) :
    exec (.brLong so lo) s = .next (s.modCurPath fun q => q.at_ (so.signExtend 64) (lo.signExtend 64)) := by
  change execBrLong so lo s = _
  rw [execBrLong, withCur_of h, takeBranch_of hn]

theorem exec_brc (h : Issuing s c i p) (hn : p.iss = none) (k : BitVec 3) (so : BitVec 13) (lo : BitVec 12) :
    exec (.brc k so lo) s = .next (s.modCurPath fun q =>
      if (c.cget k).getLsbD 0 then q.at_ (so.signExtend 64) (lo.signExtend 64) else q.past 4) := by
  change execBrc k so lo s = _
  rw [execBrc, withCur_of h, takeBranch_of hn]
  cases (c.cget k).getLsbD 0 <;> rfl

theorem exec_brm (h : Issuing s c i p) (hn : p.iss = none) {a : BitVec 4} (hm : c.maskPending i a = false) (test : BitVec 2)
    (so lo : BitVec 16) :
    exec (.brm a test so lo) s = .next (s.modCurPath fun q =>
      if brmHolds test.toNat (c.mget p a) p.m0 then q.at_ (so.signExtend 64) (lo.signExtend 64) else q.past 8) := by
  change execBrm a test so lo s = _
  rw [execBrm, withCur_of h, if_neg (iss_isSome_of hn), curPath_of h, hm]
  cases brmHolds test.toNat (c.mget p a) p.m0 <;> rfl

theorem rotate_id (c : Crew) : c.rotate.id = c.id := by unfold Crew.rotate; split <;> rfl
theorem rotate_paths (c : Crew) : c.rotate.paths = c.paths := by unfold Crew.rotate; split <;> rfl

theorem exec_loop (h : Issuing s c i p) (hn : p.iss = none) (hp : p.isHandler = false) (so : BitVec 13) (lo : BitVec 12) :
    exec (.loop so lo) s = .next (s.modCrew c.id fun d => d.rotate.modPath i fun q =>
      if 1 < p.lcnt.toNat then { q with lcnt := q.lcnt - 1 }.at_ (so.signExtend 64) (lo.signExtend 64)
      else { q.past 4 with lcnt := 0 }) := by
  change execLoop so lo s = _
  rw [execLoop, withCur_of h, noHandler_of hp, if_neg (iss_isSome_of hn)]
  have hr : Issuing (s.modCur Crew.rotate) c.rotate i p := by
    rw [modCur_of h]
    exact h.modCrew rotate_id (by rw [rotate_paths]; exact h.entry)
  by_cases hl : 1 < p.lcnt.toNat
  · simp only [if_pos hl, branch_eq, modCurPath_modCurPath]
    rw [modCurPath_of hr, rotate_id, modCur_of h, modCrew_modCrew rotate_id]
  · simp only [if_neg hl, advance_eq, modCurPath_modCurPath]
    rw [modCurPath_of hr, rotate_id, modCur_of h, modCrew_modCrew rotate_id]
    rfl

end Branches

theorem branchesMoveBothCounters : Claims.BranchesMoveBothCounters := by
  intro so lo sl ll k a test s c i p h hn near far m holds turned
  refine ⟨?_, ?_, ?_, ?_, ?_, fun hm => ?_, fun hp => ?_⟩
  · exact completes_of_modCurPath h (exec_nop h)
  · exact completes_of_modCurPath h (exec_lpc h hn lo)
  · exact completes_of_modCurPath h (exec_br h hn so lo)
  · exact completes_of_modCurPath h (exec_brLong h hn sl ll)
  · have := completes_of_modCurPath h (exec_brc h hn k so lo)
    cases hk : (c.cget k).getLsbD 0 with
    | true => rwa [hk] at this
    | false => rwa [hk] at this
  · have hb : brmHolds test.toNat m p.m0 = holds := (brmHolds_eq m p.m0 test.toNat).trans rfl
    have := completes_of_modCurPath h (exec_brm h hn hm test sl ll)
    rw [← hb]
    cases hk : brmHolds test.toNat m p.m0 with
    | true => rwa [hk] at this
    | false => rwa [hk] at this
  · have hent : c.rotate.paths[i]? = some p := by rw [rotate_paths]; exact h.entry
    have := completes_of_modCrew h (by exact fun d => rotate_id d) (exec_loop h hn hp so lo)
    rwa [modPath_eq_withPath hent] at this

/-- Settles O4: each word changes its path alone, by a function that its equation names; LOOP turns the rotating base first. -/
theorem issueAndBranches : Obligations.IssueAndBranches := ⟨issueMakesWordsPending, branchesMoveBothCounters⟩

end Sys2Proof.Machine

end

section
/-! SUPPORT. Calls and returns (R53, R96, R97), and SPLIT (R98). -/

namespace Sys2Proof.Machine

/-! ### The link stack -/

section Links
variable {s : State} {c : Crew} {i : Nat} {p : Path} {ins : Instr}

/-- A call pushes its return point and branches, and its trace record is written. -/
theorem callTo_pushes (h : Issuing s c i p) (hn : p.iss = none) (hl : p.link.length < 16) (size : Nat) (blaze : Bool)
    (slot : BitVec 3) (so lo : W64) :
    callTo s size blaze slot so lo = .next ((s.modCurPath fun q =>
      { q with link := ⟨q.spc + w64 size, q.lpc, blaze, slot⟩ :: q.link }.at_ so lo).trace c.id i 6 0 (p.spc + 4 * so)) := by
  rw [callTo, withCur_of h, if_neg (iss_isSome_of hn), if_neg (Nat.not_le.mpr hl)]
  simp only [branch_eq, modCurPath_modCurPath, curPath_of h]

theorem callTo_full (h : Issuing s c i p) (hn : p.iss = none) (hl : 16 ≤ p.link.length) (size : Nat) (blaze : Bool)
    (slot : BitVec 3) (so lo : W64) : callTo s size blaze slot so lo = scalarFault s c p 6 p.link.length := by
  rw [callTo, withCur_of h, if_neg (iss_isSome_of hn), if_pos hl]
  rfl

/-- The word is a call: it pushes its return point, or raises CALL_DEPTH. -/
theorem calls_of (h : Issuing s c i p) (hn : p.iss = none) {size : Nat} {blaze : Bool} {slot : BitVec 3} {so lo : W64}
    (he : exec ins s = callTo s size blaze slot so lo) :
    (p.link.length < 16 → CompletesTraced ins s c
      (c.withPath i ({ p with link := ⟨p.spc + w64 size, p.lpc, blaze, slot⟩ :: p.link }.at_ so lo)) i 6 0 (p.spc + 4 * so))
    ∧ (16 ≤ p.link.length → p.isHandler = false → FaultsInPlace ins s c i p p 6 p.link.length p.faulting false) :=
  ⟨fun hl => completesTraced_of_modCurPath h (he.trans (callTo_pushes h hn hl ..)),
    fun hl hp => scalarFault_inPlace h hp rfl rfl rfl (he.trans (callTo_full h hn hl ..))⟩

theorem callsPushTheReturnPoint : Claims.CallsPushTheReturnPoint := by
  intro so lo sl ll k s c i p h hn calls
  exact ⟨calls_of h hn rfl, calls_of h hn rfl, calls_of h hn rfl⟩

theorem exec_ret_pops (h : Issuing s c i p) (hn : p.iss = none) (hp : p.isHandler = false) (ho : c.outstanding i = false)
    (hl : p.late = []) {l : Link} {rest : List Link} (hk : p.link = l :: rest) :
    exec .ret s = .next ((s.modCurPath fun q => { q with
      link := rest, spc := linkPc l.spc, lpc := linkPc l.lpc, newSeg := true, wait := none }).trace c.id i 7 0 (linkPc l.spc)) := by
  change execRet s = _
  rw [execRet, withCur_of h, if_neg (iss_isSome_of hn), markerGate_of h ho hl]
  simp only [hk, hp, Bool.false_and, Bool.false_eq_true, if_false, curPath_of h]

theorem exec_ret_empty (h : Issuing s c i p) (hn : p.iss = none) (ho : c.outstanding i = false) (hl : p.late = [])
    (hk : p.link = []) : exec .ret s = scalarFault s c p 6 0 := by
  change execRet s = _
  rw [execRet, withCur_of h, if_neg (iss_isSome_of hn), markerGate_of h ho hl]
  simp only [hk]
  rfl

theorem retPopsTheReturnPoint : Claims.RetPopsTheReturnPoint := by
  intro s c i p h hn hp ho hl aligned
  exact ⟨fun l rest hk => completesTraced_of_modCurPath h (exec_ret_pops h hn hp ho hl hk),
    fun hk => scalarFault_inPlace h hp rfl rfl rfl (exec_ret_empty h hn ho hl hk)⟩

end Links

/-- Settles O5: the calls share one equation for each side of the depth of 16, and RET has one for each shape of the stack. -/
theorem callsAndReturns : Obligations.CallsAndReturns := ⟨callsPushTheReturnPoint, retPopsTheReturnPoint⟩

/-! ### What a trap point and a trace record leave as it was -/

/-- A trap point leaves an entry whose record is not a split one of entry i (R376). -/
theorem trapPoint_path {c : Crew} {i j : Nat} (h : ∀ t, (c.path j).trap = some t → t.from_ = i → t.inPlace = true ∨ t.due = true) :
    (c.trapPoint i).path j = c.path j := by
  unfold Crew.trapPoint Crew.path at *
  rw [List.getD_eq_getElem?_getD, List.getD_eq_getElem?_getD] at *
  simp only [List.getElem?_map]
  cases hj : c.paths[j]? with
  | none => rfl
  | some q =>
    simp only [hj, Option.getD_some, Option.map_some] at h ⊢
    cases ht : q.trap with
    | none => rfl
    | some t =>
      have hf : (t.from_ == i && !t.inPlace && !t.due) = false := by
        by_cases hi : t.from_ = i
        · rcases h t ht hi with h | h <;> simp [h]
        · simp [hi]
      simp only [hf, Bool.false_eq_true, if_false]

/-- A path that no handler runs and whose crew has dispatched its records holds no split record of its own (R376). -/
theorem Free.ownRecord {c : Crew} {i : Nat} {p : Path} (hf : Free c i p) (he : c.paths[i]? = some p) {t : TrapRec}
    (ht : p.trap = some t) (hi : t.from_ = i) : t.inPlace = true := by
  have hrun : t.running = false := by simpa [Path.isHandler, ht] using hf.handler
  have hrec := List.any_eq_false.mp hf.records p (List.mem_of_getElem? he)
  simpa [hf.ready, ht, hi, hrun] using hrec

/-- The path of a word that parks it at a trap point. -/
theorem trapPoint_modPath_self {c : Crew} {i : Nat} {p : Path} (hf : Free c i p) (he : c.paths[i]? = some p) {f : Path → Path}
    (ht : (f p).trap = p.trap) : ((c.modPath i f).trapPoint i).path i = f p := by
  have hp := path_modPath_self he f
  rw [trapPoint_path, hp]
  intro t h hi
  rw [hp, ht] at h
  exact .inl (hf.ownRecord he h hi)

theorem trace_recs (s : State) (cid i code other : Nat) (target : W64) :
    s.trace cid i code other target = { s with recs := (s.trace cid i code other target).recs } := by
  unfold State.trace
  split
  · rfl
  · dsimp only
    split
    · rfl
    · split <;> rfl

theorem trace_crewOf (s : State) (cid i code other : Nat) (target : W64) (id : Nat) :
    (s.trace cid i code other target).crewOf id = s.crewOf id := by rw [trace_recs]; rfl

/-- A change of one crew, a place of the count, and a trace record. -/
theorem onlyCrewTraced_modCrew {f : Crew → Crew} (hf : ∀ c, (f c).id = c.id) (s : State) (id cid i code other : Nat) (target : W64) :
    OnlyCrewTraced id s ((s.modCrew id f).counted.trace cid i code other target) := by
  rw [trace_recs]
  exact ⟨rfl, (onlyCrew_modCrew hf s id).2⟩

/-- A change of the issuing crew, a place of the count, and a change of the issuing path. -/
theorem modCrew_counted_modCurPath {s : State} {c : Crew} {i : Nat} {p : Path} (h : Issuing s c i p) {g : Crew → Crew}
    (hg : ∀ c, (g c).id = c.id) (f : Path → Path) :
    (s.modCrew c.id g).counted.modCurPath f = (s.modCrew c.id fun d => (g d).modPath i f).counted := by
  have : (s.modCrew c.id g).counted.modCurPath f = ((s.modCrew c.id g).modCrew c.id fun d => d.modPath i f).counted := by
    simp only [State.modCurPath, State.counted, modCrew_cur, h.cur]
    rfl
  rw [this, modCrew_modCrew hg]

/-! ### SPLIT (R98) -/

/-- The path that a SPLIT makes of the lanes that leave. -/
def Path.splitOff (p : Path) (next : Nat) (leave : Mask) (so lo : W64) : Path := { Path.empty with
  st := .ready, spc := p.spc + 4 * so, lpc := p.lpc + 12 * lo, mask := leave, m0 := leave, link := p.link
  lcnt := p.lcnt, thr := next, base := p.clockNow next, relF := p.relF }

/-- The path that goes on past a SPLIT with the lanes that stay. -/
def Path.splitOn (p : Path) (n : Nat) (leave stay : Mask) : Path :=
  { p.past n with mask := p.mask &&& ~~~leave, m0 := stay }

/-- The crew whose entry i is divided, with the lanes that leave at entry e. -/
def Crew.divide (i e n : Nat) (q : Path) (leave stay : Mask) (c : Crew) : Crew :=
  ((c.modPath i fun p => { p with newSeg := true }).modPath e fun _ => q).modPath i fun p => p.splitOn n leave stay

/-- The entries of a crew whose entry i is divided. -/
theorem divide_path {c : Crew} {i e : Nat} {p : Path} (hp : c.paths[i]? = some p) (hei : e ≠ i) (hel : e < c.paths.length) (n : Nat)
    (q : Path) (leave stay : Mask) :
    (c.divide i e n q leave stay).path i = { p with newSeg := true }.splitOn n leave stay ∧ (c.divide i e n q leave stay).path e = q
      ∧ ∀ k, k ≠ i → k ≠ e → (c.divide i e n q leave stay).path k = c.path k := by
  have hil : i < c.paths.length := (List.getElem?_eq_some_iff.mp hp).1
  refine ⟨?_, ?_, fun k hki hke => ?_⟩
  · rw [Crew.divide, path_modPath_of_lt (by simpa using hil), path_modPath_ne hei.symm, path_modPath_self hp]
  · rw [Crew.divide, path_modPath_ne hei, path_modPath_of_lt (by simpa using hel)]
  · rw [Crew.divide, path_modPath_ne hki, path_modPath_ne hke, path_modPath_ne hki]

section Splits
variable {s : State} {c : Crew} {i : Nat} {p : Path} (h : Issuing s c i p) (hf : Free c i p) {regs : List (BitVec 6)}
  (hr : c.pending regs = false) {a : BitVec 4} {leave stay : Mask} (hleave : p.m0 &&& ~~~c.mget p a = leave)
  (hstay : p.m0 &&& c.mget p a = stay) {n : Nat} {so lo : W64}

include h hf hr in
/-- Nothing keeps the word from its effect. -/
theorem splitGates_of (k : Out) :
    noHandler s c p 0 (if p.iss.isSome then waitIssue s p else
      markerGate s c p (if c.pending regs then waitFor s stInterlock else trapGate s c k)) = k := by
  rw [noHandler_of hf.handler, if_neg (iss_isSome_of hf.iss), markerGate_of h hf.results hf.late, hr, if_neg Bool.false_ne_true,
    trapGate_of h hf.records]

include h hf hr hleave

theorem splitAt_falls (hl : leave = 0) :
    splitAt s a regs n so lo = .next (s.modCurPath fun q => { q.past n with newSeg := true }) := by
  rw [splitAt, withCur_of h, splitGates_of h hf hr]
  simp only [hleave, if_pos hl, advance_eq, modCurPath_modCurPath]
  rfl

include hstay

theorem splitAt_moves (hl : leave ≠ 0) (hs : stay = 0) :
    splitAt s a regs n so lo = .next (s.modCurPath fun q => { q.at_ so lo with newSeg := true }) := by
  rw [splitAt, withCur_of h, splitGates_of h hf hr]
  simp only [hleave, hstay, if_neg hl, if_pos hs, branch_eq, modCurPath_modCurPath]
  rfl

theorem splitAt_full (hl : leave ≠ 0) (hs : stay ≠ 0) (he : c.freeEntry = none) :
    splitAt s a regs n so lo = scalarFault s c p 7 0 := by
  rw [splitAt, withCur_of h, splitGates_of h hf hr]
  simp only [hleave, hstay, if_neg hl, if_neg hs, he]
  rfl

theorem splitAt_divides (hl : leave ≠ 0) (hs : stay ≠ 0) {e : Nat} (he : c.freeEntry = some e) :
    splitAt s a regs n so lo = .next ((s.modCrew c.id
      (Crew.divide i e n (p.splitOff s.nextId leave so lo) leave stay)).counted.trace c.id i 1 e (p.spc + 4 * so)) := by
  rw [splitAt, withCur_of h, splitGates_of h hf hr]
  simp only [hleave, hstay, if_neg hl, if_neg hs, he, curPath_of h, advance_eq, modCurPath_modCurPath]
  refine congrArg (fun u : State => Host.Outcome.next (u.trace c.id i 1 e (p.spc + 4 * so))) ?_
  rw [modCurPath_of h]
  change (State.counted ((s.modCrew c.id fun d => d.modPath i _).modCrew c.id fun d => d.modPath e _)).modCurPath _ = _
  rw [modCrew_modCrew (f := fun d => d.modPath i _) (fun _ => rfl),
    modCrew_counted_modCurPath h (g := fun d => (d.modPath i _).modPath e _) (fun _ => rfl)]
  rfl

/-- The word is a SPLIT of these offsets. -/
theorem splits_of {ins : Instr} (hx : exec ins s = splitAt s a regs n so lo) :
    (leave = 0 → Completes ins s c (c.withPath i { p.past n with newSeg := true }))
    ∧ (leave ≠ 0 → stay = 0 → Completes ins s c (c.withPath i { p.at_ so lo with newSeg := true }))
    ∧ (leave ≠ 0 → stay ≠ 0 → c.freeEntry = none → FaultsInPlace ins s c i p p 7 0 p.m0 false)
    ∧ (∀ e, leave ≠ 0 → stay ≠ 0 → c.freeEntry = some e → ∃ t, exec ins s = .next t ∧ OnlyCrewTraced c.id s t
        ∧ t.crewOf c.id = some (c.divide i e n (p.splitOff s.nextId leave so lo) leave stay)) := by
  refine ⟨fun hl => completes_of_modCurPath h (hx.trans (splitAt_falls h hf hr hleave hl)),
    fun hl hs => completes_of_modCurPath h (hx.trans (splitAt_moves h hf hr hleave hstay hl hs)), fun hl hs he => ?_,
    fun e hl hs he => ?_⟩
  · have hm : p.m0 ≠ 0 := fun hz => hl (by rw [← hleave, hz]; exact BitVec.zero_and)
    have hfull := scalarFault_inPlace h hf.handler rfl rfl rfl (hx.trans (splitAt_full h hf hr hleave hstay hl hs he))
    rwa [Path.faulting, if_neg hm] at hfull
  · let g := Crew.divide i e n (p.splitOff s.nextId leave so lo) leave stay
    refine ⟨_, hx.trans (splitAt_divides h hf hr hleave hstay hl hs he), onlyCrewTraced_modCrew (f := g) (fun _ => rfl) .., ?_⟩
    rw [trace_crewOf]
    exact crewOf_modCrew_self (f := g) (fun _ => rfl) h.crew

end Splits

/-- Settles O6: SPLIT has one equation for each share of m0 that leaves, and both its forms are `splitAt` of their offsets. -/
theorem splitDividesThePath : Obligations.SplitDividesThePath := by
  intro a b sl ll s c i p h hf hb splits
  have key (ins : Instr) (regs : List (BitVec 6)) (hr : c.pending regs = false) (n : Nat) (so lo : W64)
      (hx : exec ins s = splitAt s a regs n so lo) : splits ins n so lo := by
    obtain ⟨hfalls, hmoves, hfull, hdivides⟩ := splits_of h hf hr rfl rfl hx
    refine ⟨hfalls, hmoves, hfull, fun e hl hs he hei hel => ?_⟩
    obtain ⟨t, ht, honly, hc⟩ := hdivides e hl hs he
    obtain ⟨hi, hq, hrest⟩ := divide_path h.entry hei hel n (p.splitOff s.nextId _ so lo) _ _
    refine ⟨t, _, ht, honly, hc, rfl, hi, ?_, hrest⟩
    rw [hq]
    exact ⟨rfl, rfl, rfl, rfl, rfl, rfl, rfl, rfl, rfl⟩
  refine ⟨key _ [] rfl _ _ _ rfl, key _ [b] hb _ _ _ ?_⟩
  change execSplitReg a b s = _
  exact withCur_of h _

end Sys2Proof.Machine

end

section
/-! SUPPORT. JOIN and the merge of a site (R88, R99), and EXIT (R101, R138). -/

namespace Sys2Proof.Machine

/-! ### JOIN (R99) -/

/-- A change of the issuing path, and then of its crew. -/
theorem modCurPath_modCur {s : State} {c : Crew} {i : Nat} {p : Path} (h : Issuing s c i p) (f : Path → Path) (g : Crew → Crew) :
    (s.modCurPath f).modCur g = s.modCrew c.id fun d => g (d.modPath i f) := by
  rw [modCurPath_of h, State.modCur, modCrew_cur, h.cur]
  exact modCrew_modCrew (f := fun d => d.modPath i f) (fun _ => rfl) s c.id

/-- The path parked at its JOIN. -/
def Path.joining (p : Path) (a : BitVec 4) : Path := { p with newSeg := true, st := .join, joinM := a, wait := some stSync }

/-- The crew whose entry i parks at a JOIN of this site. -/
def Crew.parkJoin (i : Nat) (a : BitVec 4) (site : W64) (c : Crew) : Crew :=
  { (c.modPath i fun p => p.joining a).trapPoint i with due := c.due ++ [site] }

section Join
variable {s : State} {c : Crew} {i : Nat} {p : Path} (h : Issuing s c i p) (hf : Free c i p) (a : BitVec 4)
include h hf

theorem joinGates_of (k : Out) :
    noHandler s c p 0 (if p.iss.isSome then waitIssue s p else markerGate s c p (trapGate s c k)) = k := by
  rw [noHandler_of hf.handler, if_neg (iss_isSome_of hf.iss), markerGate_of h hf.results hf.late, trapGate_of h hf.records]

theorem exec_join_falls (hm : p.mask &&& c.mget p a = 0) :
    exec (.join a) s = .next (s.modCurPath fun q => { q.past 4 with newSeg := true }) := by
  change execJoin a s = _
  rw [execJoin, withCur_of h, joinGates_of h hf]
  simp only [if_pos hm, advance_eq, modCurPath_modCurPath]
  rfl

theorem exec_join_parks (hm : p.mask &&& c.mget p a ≠ 0) :
    exec (.join a) s = .next (s.modCrew c.id (Crew.parkJoin i a p.spc)) := by
  change execJoin a s = _
  rw [execJoin, withCur_of h, joinGates_of h hf]
  simp only [if_neg hm, curPath_of h]
  rw [modCurPath_modCur h]
  simp only [modPath_modPath]
  rfl

theorem parkJoin_path : (c.parkJoin i a p.spc).path i = p.joining a := trapPoint_modPath_self hf h.entry rfl

end Join

/-! ### The merge of a site (R99) -/

theorem acquire_eq (p : Path) (n : Nat) (k : Clock) :
    p.acquire n k = { p with base := (p.acquire n k).base, hist := (p.acquire n k).hist } := by
  unfold Path.acquire
  split <;> rfl

/-- What a path that absorbs others keeps of its own, and what it has of theirs. -/
theorem foldl_absorb (qs : List Path) (p : Path) :
    (qs.foldl Path.absorb p).mask = qs.foldl (fun m x => m ||| x.mask) p.mask
    ∧ (qs.foldl Path.absorb p).m0 = qs.foldl (fun m x => m ||| x.m0) p.m0
    ∧ (qs.foldl Path.absorb p).spc = p.spc ∧ (qs.foldl Path.absorb p).lpc = p.lpc
    ∧ (qs.foldl Path.absorb p).link = p.link ∧ (qs.foldl Path.absorb p).lcnt = p.lcnt := by
  induction qs generalizing p with
  | nil => exact ⟨rfl, rfl, rfl, rfl, rfl, rfl⟩
  | cons q qs ih => exact ih (p.absorb q)

theorem foldl_free_path (rest : List Nat) (c : Crew) (j : Nat) :
    (rest.foldl (fun c i => c.modPath i fun _ => Path.empty) c).path j = if j ∈ rest then Path.empty else c.path j := by
  induction rest generalizing c with
  | nil => simp
  | cons i rest ih =>
    rw [List.foldl_cons, ih]
    by_cases hj : j ∈ rest
    · simp [hj]
    · by_cases hi : j = i
      · subst hi
        by_cases hl : j < c.paths.length
        · simp [hj, path_modPath_of_lt hl]
        · simp [hj, Crew.path, Crew.modPath, List.getD_eq_getElem?_getD, hl]
      · simp [hj, hi, path_modPath_ne hi]

/-- The lowest entry of a site, before the others are freed. -/
def Crew.mergeInto (c : Crew) (k : Nat) (rest : List Nat) (next : Nat) : Crew :=
  (c.modPath k fun p => ((rest.map c.path).foldl Path.absorb { p with spc := p.spc + 4, newSeg := true }).wake).modPath k fun p =>
    p.acquire (next - 1) ((rest.map c.path).foldl (fun m (q : Path) => Clock.join m (q.clockNow next)) [])

theorem mergeAt_path {c : Crew} {site : W64} {k : Nat} {rest : List Nat} (hs : c.atSite site = k :: rest) (next j : Nat) :
    (c.mergeAt site next).path j = if j ∈ rest then Path.empty else (c.mergeInto k rest next).path j := by
  rw [← foldl_free_path, Crew.mergeAt, hs]
  rfl

/-- The lowest entry of a site is none of its others. -/
theorem lowest_not_mem {c : Crew} {site : W64} {k : Nat} {rest : List Nat} (hs : c.atSite site = k :: rest) : k ∉ rest := by
  have hn : (c.atSite site).Nodup := List.nodup_range.filter _
  rw [hs] at hn
  exact (List.nodup_cons.mp hn).1

theorem mergeInto_path {c : Crew} {k : Nat} (hk : k < c.paths.length) (rest : List Nat) (next : Nat) :
    let q := (c.mergeInto k rest next).path k
    let all := rest.map c.path
    q.mask = all.foldl (fun m x => m ||| x.mask) (c.path k).mask ∧ q.m0 = all.foldl (fun m x => m ||| x.m0) (c.path k).m0
    ∧ q.spc = (c.path k).spc + 4 ∧ q.lpc = (c.path k).lpc ∧ q.link = (c.path k).link ∧ q.lcnt = (c.path k).lcnt := by
  intro q all
  have hq : q = (c.mergeInto k rest next).path k := rfl
  rw [Crew.mergeInto, path_modPath_of_lt (by simpa using hk), path_modPath_of_lt hk, acquire_eq] at hq
  rw [hq]
  exact foldl_absorb all { c.path k with spc := (c.path k).spc + 4, newSeg := true }

theorem joinParksAndMerges : Claims.JoinParksAndMerges := by
  constructor
  · intro a s c i p h hf
    refine ⟨fun hm => completes_of_modCurPath h (exec_join_falls h hf a hm), fun hm => ?_⟩
    exact ⟨_, c.parkJoin i a p.spc, exec_join_parks h hf a hm, onlyCrew_modCrew (f := Crew.parkJoin i a p.spc) (fun _ => rfl) s c.id,
      crewOf_modCrew_self (f := Crew.parkJoin i a p.spc) (fun _ => rfl) h.crew, rfl, parkJoin_path h hf a⟩
  · intro c site k rest next hs hk d q all
    have hq : q = (c.mergeInto k rest next).path k := (mergeAt_path hs next k).trans (if_neg (lowest_not_mem hs))
    obtain ⟨hmask, hm0, hspc, hlpc, hlink, hlcnt⟩ := mergeInto_path hk rest next
    rw [← hq] at hmask hm0 hspc hlpc hlink hlcnt
    refine ⟨hmask, hm0, hspc, hlpc, hlink, hlcnt, fun e he => (mergeAt_path hs next e).trans (if_pos he), fun e hek her => ?_⟩
    rw [show d.path e = _ from (mergeAt_path hs next e).trans (if_neg her), Crew.mergeInto, path_modPath_ne hek, path_modPath_ne hek]

/-! ### EXIT (R101, R138) -/

/-- The state of a path, its lanes, and its program counters. -/
def Path.standing (p : Path) : PState × Mask × Mask × W64 × W64 := (p.st, p.mask, p.m0, p.spc, p.lpc)

/-- What a change of the machine keeps of a crew as EXIT states it: the registers, and where each path stands; a proposal is open as
it was, or closed. -/
structure Crew.Keeps (c d : Crew) : Prop where
  scalars : d.s = c.s
  masks   : d.m = c.m
  conds   : d.c = c.c
  path    : ∀ k, (d.path k).standing = (c.path k).standing
  prop    : d.prop = none ∨ d.prop = c.prop

/-- Each crew of s is kept in t. -/
def KeepsCrews (s t : State) : Prop := ∀ id (c : Crew), s.crewOf id = some c → ∃ d, t.crewOf id = some d ∧ c.Keeps d

theorem Crew.Keeps.of_paths {c d : Crew} (hs : d.s = c.s) (hm : d.m = c.m) (hc : d.c = c.c) (hp : d.paths = c.paths)
    (hprop : d.prop = none ∨ d.prop = c.prop) : c.Keeps d where
  scalars := hs
  masks := hm
  conds := hc
  path k := by simp [Crew.path, hp]
  prop := hprop

theorem Crew.Keeps.trans {c d e : Crew} (h : c.Keeps d) (k : d.Keeps e) : c.Keeps e where
  scalars := k.scalars.trans h.scalars
  masks := k.masks.trans h.masks
  conds := k.conds.trans h.conds
  path j := (k.path j).trans (h.path j)
  prop := by
    rcases k.prop with hk | hk
    · exact .inl hk
    · rw [hk]
      exact h.prop

theorem KeepsCrews.of_crews {s t : State} (h : t.crews = s.crews) : KeepsCrews s t := fun id c hc =>
  ⟨c, by rw [State.crewOf, h]; exact hc, .of_paths rfl rfl rfl rfl (.inr rfl)⟩

theorem KeepsCrews.trans {s t u : State} (h : KeepsCrews s t) (k : KeepsCrews t u) : KeepsCrews s u := by
  intro id c hc
  obtain ⟨d, hd, hcd⟩ := h id c hc
  obtain ⟨e, he, hde⟩ := k id d hd
  exact ⟨e, he, hcd.trans hde⟩

theorem KeepsCrews.modCrew {f : Crew → Crew} (hid : ∀ c, (f c).id = c.id) (hf : ∀ c : Crew, c.Keeps (f c)) (s : State) (id : Nat) :
    KeepsCrews s (s.modCrew id f) := by
  intro j c hc
  refine ⟨if c.id == id then f c else c, by rw [crewOf_modCrew hid, hc]; rfl, ?_⟩
  split
  · exact hf c
  · exact .of_paths rfl rfl rfl rfl (.inr rfl)

theorem KeepsCrews.foldl {α : Type} {f : State → α → State} (hf : ∀ s x, KeepsCrews s (f s x)) (xs : List α) (s : State) :
    KeepsCrews s (xs.foldl f s) := by
  induction xs generalizing s with
  | nil => exact .of_crews rfl
  | cons x xs ih => exact (hf s x).trans (ih _)

theorem owe_standing (p : Path) (lanes : Mask) (cause : Nat) : (p.owe lanes cause).standing = p.standing := by
  simp only [Path.standing, Path.owe]

theorem map_owe_standing (c : Crew) (lanes : Mask) (cause k : Nat) :
    ((c.paths.map fun p => p.owe lanes cause).getD k Path.empty).standing = (c.path k).standing := by
  simp only [Crew.path, List.getD_eq_getElem?_getD, List.getElem?_map]
  cases c.paths[k]? with
  | none => rfl
  | some p => exact owe_standing p lanes cause

/-- Cancelled arrivals change words, and what paths owe (R292). -/
theorem keepsCrews_cancelArrivals (s : State) (xs : List Arrival) (cause : Nat) : KeepsCrews s (s.cancelArrivals xs cause) := by
  unfold State.cancelArrivals
  refine KeepsCrews.foldl (fun s a => ?_) xs s
  apply KeepsCrews.modCrew
  · exact fun _ => rfl
  · exact fun c => ⟨rfl, rfl, rfl, fun k => map_owe_standing c a.lanes cause k, .inr rfl⟩

theorem keepsCrews_cancelLatches (s : State) (team : Nat) (before : Mask) : KeepsCrews s (s.cancelLatches team before) := by
  unfold State.cancelLatches
  split
  · exact .of_crews rfl
  · dsimp only
    split
    · exact .of_crews rfl
    · exact KeepsCrews.trans (.of_crews (modTeam_crews ..)) (keepsCrews_cancelArrivals _ _ _)

theorem pendFrame_crews (s : State) (part f : Nat) : (s.pendFrame part f).crews = s.crews := by
  unfold State.pendFrame
  dsimp only
  split <;> rfl

theorem keepsCrews_retireTeam (s : State) (team : Nat) : KeepsCrews s (s.retireTeam team) := by
  unfold State.retireTeam
  split
  · exact .of_crews rfl
  · split
    · exact .of_crews rfl
    · have hstart (u : State) (t : Team) (g : Team → Team) : KeepsCrews u ((u.teamRecord t (t.core.getD 0) false).modTeam team g) :=
        .of_crews rfl
      exact (hstart s _ _).trans ((KeepsCrews.foldl (fun u f => .of_crews (pendFrame_crews u _ f)) _ _).trans (.of_crews rfl))

theorem keepsCrews_settleCrew (s : State) (cid : Nat) : KeepsCrews s (s.settleCrew cid) := by
  unfold State.settleCrew
  split
  · exact .of_crews rfl
  · split
    · have hr : KeepsCrews s (s.modCrew cid Crew.released) :=
        .modCrew (f := Crew.released) (fun _ => rfl) (fun c => .of_paths rfl rfl rfl rfl (.inl rfl)) s cid
      dsimp only
      split
      · exact hr.trans (keepsCrews_retireTeam _ _)
      · exact hr
    · exact .of_crews rfl

theorem stepEnds_crews (s : State) (cid i : Nat) : (s.stepEnds cid i).crews = s.crews := by
  unfold State.stepEnds
  split
  next c _ =>
    split
    · change ((s.breakRecord cid i 2 0).modPart (s.partOf c) _).crews = s.crews
      rw [modPart_crews, State.breakRecord]
      split <;> rfl
    · rfl
  next => rfl

/-- Closing lanes of a proposal with none kept counts them and changes nothing else of a crew (R137, R138). -/
theorem foldl_counts (f g : Crew → Nat → SMap W32) (ls : List Nat) (c : Crew) :
    ∃ x y, ls.foldl (fun c l => { c with propd := f c l, acpt := g c l }) c = { c with propd := x, acpt := y } := by
  induction ls generalizing c with
  | nil => exact ⟨_, _, rfl⟩
  | cons l ls ih =>
    obtain ⟨x, y, h⟩ := ih { c with propd := f c l, acpt := g c l }
    exact ⟨x, y, by rw [List.foldl_cons, h]⟩

theorem and_not_and_self {w : Nat} (m n : BitVec w) : m &&& ~~~(n &&& m) &&& n = 0 := by
  have : m &&& ~~~(n &&& m) &&& n = (n &&& m) &&& ~~~(n &&& m) := by ac_rfl
  rw [this]
  exact BitVec.and_not_self _

theorem close_none (c : Crew) (lanes : Mask) : ∃ x y pr, c.close lanes none = { c with propd := x, acpt := y, prop := pr }
    ∧ ∀ w, pr = some w → w.lanes &&& lanes = 0 := by
  unfold Crew.close
  split
  next hp => exact ⟨c.propd, c.acpt, none, by rw [← hp], fun w hw => nomatch hw⟩
  next w hp =>
    obtain ⟨x, y, he⟩ := foldl_counts (fun c l => SMap.set 0 c.propd l (satInc (SMap.get 0 c.propd l)))
      (fun c l => if ((lanes &&& w.lanes) &&& (none : Option Mask).getD 0).getLsbD l then
        SMap.set 0 c.acpt l (satInc (SMap.get 0 c.acpt l)) else c.acpt)
      (maskLanes 1024 (lanes &&& w.lanes)) c
    simp only [he, if_true]
    refine ⟨x, y, _, rfl, fun v hv => ?_⟩
    split at hv
    · exact nomatch hv
    · obtain rfl := Option.some.inj hv
      exact and_not_and_self w.lanes lanes

/-! ### The crew after an EXIT -/

/-- An entry whose every lane exits is free, and the other entries below 8 are as they were. -/
theorem dropLanes_all {c : Crew} {i : Nat} {p : Path} (hp : c.paths[i]? = some p) :
    ∃ ps ws hd, c.dropLanes i p.mask = { c with paths := ps, words := ws, handler := hd }
      ∧ (({ c with paths := ps } : Crew).path i).st = .free
      ∧ ∀ k, k < 8 → k ≠ i → ({ c with paths := ps } : Crew).path k = c.path k := by
  have hm : (c.path i).mask &&& ~~~p.mask = 0 := by
    rw [path_of_entry hp]
    exact BitVec.and_not_self _
  have hlen : i < c.paths.length := (List.getElem?_eq_some_iff.mp hp).1
  let f : Path → Path := fun r => { r with
    queue := r.queue ++ (c.path i).queue.map (c.path i).freeze, sbuf := r.sbuf ++ (c.path i).sbuf.map (c.path i).freeze }
  let d := (c.modPath 8 f).modPath i fun _ => Path.empty
  refine ⟨d.paths, _, _, by rw [Crew.dropLanes]; exact if_pos hm, ?_, fun k hk hki => ?_⟩
  · change (d.path i).st = .free
    rw [path_modPath_of_lt (by simpa using hlen)]
    rfl
  · change d.path k = c.path k
    rw [path_modPath_ne hki, path_modPath_ne hk.ne]

/-- The crew from which the lanes of an entry have gone (R101, R138). -/
def Crew.left (i : Nat) (lanes : Mask) (c : Crew) : Crew := (c.close lanes none).dropLanes i lanes

theorem left_id (i : Nat) (lanes : Mask) (c : Crew) : (c.left i lanes).id = c.id := by
  obtain ⟨x, y, pr, hc, -⟩ := close_none c lanes
  rw [Crew.left, hc, Crew.dropLanes]
  dsimp only
  split <;> rfl

/-- What EXIT says of the crew afterwards. -/
structure Crew.Exited (c d : Crew) (i : Nat) (lanes : Mask) : Prop where
  scalars : d.s = c.s
  masks   : d.m = c.m
  conds   : d.c = c.c
  free    : (d.path i).st = .free
  others  : ∀ k, k < 8 → k ≠ i → (d.path k).standing = (c.path k).standing
  prop    : ∀ w, d.prop = some w → w.lanes &&& lanes = 0

theorem exited_left {c : Crew} {i : Nat} {p : Path} (hp : c.paths[i]? = some p) :
    c.Exited (c.left i p.mask) i p.mask := by
  obtain ⟨x, y, pr, hc, hpr⟩ := close_none c p.mask
  obtain ⟨ps, ws, hd, hdrop, hfree, hrest⟩ := dropLanes_all (c := c.close p.mask none) (by rw [hc]; exact hp)
  rw [Crew.left, hdrop]
  rw [hc] at *
  exact ⟨rfl, rfl, rfl, hfree, fun k hk hki => congrArg Path.standing (hrest k hk hki), hpr⟩

/-- What keeps a crew keeps what EXIT says of it. -/
theorem Crew.Exited.keeps {c d e : Crew} {i : Nat} {lanes : Mask} (h : c.Exited d i lanes) (k : d.Keeps e) : c.Exited e i lanes where
  scalars := k.scalars.trans h.scalars
  masks := k.masks.trans h.masks
  conds := k.conds.trans h.conds
  free := (congrArg Prod.fst (k.path i)).trans h.free
  others j hj hji := (k.path j).trans (h.others j hj hji)
  prop w hw := by
    rcases k.prop with hk | hk
    · exact nomatch hk.symm.trans hw
    · exact h.prop w (hk.symm.trans hw)

section Exit
variable {s : State} {c : Crew} {i : Nat} {p : Path} (h : Issuing s c i p) (hf : Free c i p)
include h hf

theorem exec_exit : exec .exit s = .next (s.exitLanes c p p.mask) := by
  change execExit s = _
  rw [execExit, withCur_of h, if_neg (iss_isSome_of hf.iss), markerGate_of h hf.results hf.late, trapGate_of h hf.records]
  cases ht : p.trap with
  | none => rfl
  | some t =>
    have hr : t.running = false := by simpa [Path.isHandler, ht] using hf.handler
    simp only [hr, Bool.false_eq_true, if_false]

/-- Once its lanes have left the crew, an EXIT that meets no condition of the checker keeps every crew (R101, R104). -/
theorem keepsCrews_exitLanes {tm : Team} (ht : s.teamOf c.team = some tm) (hx : tm.exitChecks p.mask (s.barWaits tm) = []) :
    ∃ u : State, u.crews = s.crews ∧ KeepsCrews (u.modCrew c.id (Crew.left i p.mask)) (s.exitLanes c p p.mask) := by
  refine ⟨s.stepEnds c.id i, stepEnds_crews .., ?_⟩
  rw [State.exitLanes, ht]
  simp only [hx, List.foldl_nil, List.isEmpty_nil, Bool.not_true, Bool.false_and, Bool.false_eq_true, if_false, curPath_of h, hf.handler,
    BitVec.and_not_self, if_true]
  have hsame (u : State) : KeepsCrews u (u.modCrew c.id fun c => c) :=
    .modCrew (f := fun c => c) (fun _ => rfl) (fun _ => .of_paths rfl rfl rfl rfl (.inr rfl)) u c.id
  have hteam (u : State) (f : Team → Team) : KeepsCrews u (u.modTeam c.team f) := .of_crews (modTeam_crews ..)
  have htrace (u : State) : KeepsCrews u (u.trace c.id i 3 0 0) := .of_crews (by rw [trace_recs])
  have hdue (u : State) : KeepsCrews u (u.modCrew c.id fun c => { c with due := c.sites }) :=
    .modCrew (f := fun c => { c with due := c.sites }) (fun _ => rfl) (fun _ => .of_paths rfl rfl rfl rfl (.inr rfl)) u c.id
  exact (hsame _).trans ((hteam _ _).trans ((keepsCrews_cancelLatches _ _ _).trans
    ((htrace _).trans ((hdue _).trans (keepsCrews_settleCrew _ _)))))

end Exit

theorem exitFreesTheEntry : Claims.ExitFreesTheEntry := by
  intro s c i p tm h hf hi hlen ht hx
  obtain ⟨u, hu, hkeep⟩ := keepsCrews_exitLanes h hf ht hx
  have hcrew : (u.modCrew c.id (Crew.left i p.mask)).crewOf c.id = some (c.left i p.mask) :=
    crewOf_modCrew_self (left_id i p.mask) (by rw [State.crewOf, hu]; exact h.crew)
  obtain ⟨d, hd, hkd⟩ := hkeep c.id _ hcrew
  obtain ⟨hs, hm, hc, hfree, hothers, hprop⟩ := (exited_left h.entry).keeps hkd
  refine ⟨_, d, exec_exit h hf, hd, hfree, hprop, fun k hk hki => ?_, hs, hm, hc⟩
  simpa [Path.standing] using hothers k hk hki

/-- Settles O7: a JOIN falls through or parks at its site, whose merge is followed entry by entry; an EXIT takes the path's lanes from
its crew, and each step after that keeps the crew's registers, its paths' places and lanes, and its proposal's. -/
theorem joinsAndExits : Obligations.JoinsAndExits := ⟨joinParksAndMerges, exitFreesTheEntry⟩

end Sys2Proof.Machine

end

section
/-! SUPPORT. Barriers (R102, R103) and role signals (R106). -/

namespace Sys2Proof.Machine

/-! ### Teams and crews found after a change -/

theorem teamOf_modTeam_self {f : Team → Team} (hf : ∀ t, (f t).id = t.id) {s : State} {id : Nat} {tm : Team}
    (h : s.teamOf id = some tm) : (s.modTeam id f).teamOf id = some (f tm) := by
  have hid : tm.id = id := by simpa using List.find?_some h
  have hp : ((fun t : Team => t.id == id) ∘ fun t => if t.id == id then f t else t) = fun t => t.id == id := by
    funext t
    simp only [Function.comp_apply]
    split <;> simp [hf]
  rw [State.teamOf, modTeam_teams, List.find?_map, hp, show s.teams.find? _ = some tm from h]
  simp [hid]

theorem path_withPath {c : Crew} {i : Nat} {p : Path} (he : c.paths[i]? = some p) (q : Path) : (c.withPath i q).path i = q := by
  rw [← modPath_eq_withPath he (fun _ => q), path_modPath_self he]

theorem crewOf_map {g : Crew → Crew} (hg : ∀ c, (g c).id = c.id) (s : State) (id : Nat) :
    ({ s with crews := s.crews.map g } : State).crewOf id = (s.crewOf id).map g := by
  have hp : ((fun c : Crew => c.id == id) ∘ g) = fun c => c.id == id := by
    funext c
    simp [hg]
  rw [State.crewOf, List.find?_map, hp]
  rfl

/-! ### The phase of a barrier (R102, R103) -/

theorem bar_modBar_self (t : Team) (b : Nat) (f : Barrier → Barrier) : (t.modBar b f).bar b = f (t.bar b) := smap_get_set_self ..

theorem bar_modBar_ne (t : Team) {b k : Nat} (h : k ≠ b) (f : Barrier → Barrier) : (t.modBar b f).bar k = t.bar k :=
  smap_get_set_ne _ _ _ h

theorem passed_iff (b : Barrier) (t : W32) : b.passed t = true ↔ 1 ≤ (b.phase - t).toNat ∧ (b.phase - t).toNat ≤ 2 ^ 31 := by
  simp [Barrier.passed]

/-- The open phase has not completed. -/
theorem passed_phase {b : Barrier} {t : W32} (h : b.phase = t) : b.passed t = false := by
  rw [Bool.eq_false_iff, ne_eq, passed_iff, h, BitVec.sub_self]
  exact fun hp => absurd hp.1 (by decide)

theorem passed_succ {b : Barrier} {t : W32} (h : b.phase = t + 1) : b.passed t = true := by
  have : t + 1 - t = 1 := by rw [BitVec.add_comm, BitVec.add_sub_cancel]
  rw [passed_iff, h, this]
  decide

theorem barrierPhaseCompletes : Claims.BarrierPhaseCompletes := by
  intro b live ho
  constructor
  · intro hall
    have hs : b.settle live = { b with
        phase := b.phase + 1, arr := 0, opn := false, seen := 0, clk := [], done := SMap.set [] b.done b.phase.toNat b.clk } :=
      if_pos (by simp [ho, hall])
    rw [hs]
    exact ⟨rfl, rfl, rfl, passed_succ rfl⟩
  · intro hsome
    exact if_neg fun hc => hsome (by simpa [ho] using hc)

/-! ### Arrivals (R102, R103) -/

/-- The path parked at a barrier for a token. -/
def Path.atBarrier (p : Path) (b : BitVec 4) (token : W32) : Path :=
  { p with st := .barrier, barB := b, token := token, wait := some stSync }

/-- The crew whose entry i is parked at a barrier. -/
def Crew.parkBarrier (i : Nat) (b : BitVec 4) (token : W32) (c : Crew) : Crew :=
  (c.modPath i fun p => p.atBarrier b token).trapPoint i

section Arrivals
variable {s : State} {c : Crew} {i : Nat} {p : Path} (h : Issuing s c i p) (hf : Free c i p) {tm : Team}
  (ht : s.teamOf c.team = some tm) (b m : BitVec 4)

/-- The team after an arrival of the path (R102). -/
def Team.arrived (t : Team) (c : Crew) (p : Path) (b m : BitVec 4) (next : Nat) : Team :=
  t.modBar b.toNat fun x => x.arrive (c.mget p m) p.m0 (p.clockNow next)

/-- The machine after an arrival of the path. -/
def State.arrived (s : State) (c : Crew) (p : Path) (b m : BitVec 4) : State :=
  s.modTeam c.team fun t => t.arrived c p b m s.nextId

include ht in
theorem teamOf_arrived : (s.arrived c p b m).teamOf c.team = some (tm.arrived c p b m s.nextId) :=
  teamOf_modTeam_self (f := fun t => t.arrived c p b m s.nextId) (fun _ => rfl) ht

include h in
theorem issuing_arrived : Issuing (s.arrived c p b m) c i p := ⟨h.cur, h.crew, h.entry⟩

include ht in
theorem arrive_of (hx : (tm.bar b.toNat).checks (c.mget p m) p.m0 = []) :
    s.arrive c p b m = (s.arrived c p b m, some (tm.bar b.toNat).phase) := by
  rw [State.arrive, ht]
  simp only [hx]
  rfl

/-- The lanes that arrive join those of the phase, which is open from then on; the other barriers are as they were. -/
theorem arrived_bar (next : Nat) :
    let bar := tm.bar b.toNat
    let memb := if bar.opn then bar.memb else c.mget p m
    let tm' := tm.arrived c p b m next
    (tm'.bar b.toNat).phase = bar.phase ∧ (tm'.bar b.toNat).opn = true ∧ (tm'.bar b.toNat).memb = memb
      ∧ (tm'.bar b.toNat).arr = bar.arr ||| (p.m0 &&& memb) ∧ ∀ k, k ≠ b.toNat → tm'.bar k = tm.bar k := by
  intro bar memb tm'
  rw [show tm'.bar b.toNat = _ from bar_modBar_self ..]
  exact ⟨rfl, rfl, rfl, rfl, fun k hk => bar_modBar_ne tm hk _⟩

include h in
theorem awaitBar_parks (ht : s.teamOf c.team = some tm) {token : W32} (hp : (tm.bar b.toNat).passed token = false) :
    s.awaitBar c b token = s.modCrew c.id (Crew.parkBarrier i b token) := by
  rw [State.awaitBar, ht]
  simp only [hp, Bool.false_eq_true, if_false]
  rw [modCur_of h, curPath_of h]
  rfl

theorem awaitBar_passes (ht : s.teamOf c.team = some tm) {token : W32} (hp : (tm.bar b.toNat).passed token = true) :
    s.awaitBar c b token = s.modCurPath fun q => q.passBarrier (tm.bar b.toNat) token s.nextId := by
  rw [State.awaitBar, ht]
  exact if_pos hp

include h hf

theorem barrierGates_of (k : Out) :
    noHandler s c p 0 (if p.iss.isSome then waitIssue s p else trapGate s c k) = k := by
  rw [noHandler_of hf.handler, if_neg (iss_isSome_of hf.iss), trapGate_of h hf.records]

theorem parkBarrier_path (token : W32) : (c.parkBarrier i b token).path i = p.atBarrier b token :=
  trapPoint_modPath_self hf h.entry rfl

theorem exec_arrive (ht : s.teamOf c.team = some tm) {d : BitVec 6} (hd : c.pending [d] = false)
    (hx : (tm.bar b.toNat).checks (c.mget p m) p.m0 = []) :
    exec (.arrive d b m) s = .next ((s.arrived c p b m).modCrew c.id fun e =>
      (e.sset d ((tm.bar b.toNat).phase.setWidth 64)).modPath i fun q => q.past 4) := by
  change execArrive d b m s = _
  rw [execArrive, withCur_of h, hd, if_neg Bool.false_ne_true, barrierGates_of h hf, arrive_of ht b m hx]
  exact congrArg Host.Outcome.next (modCur_advance (issuing_arrived h b m) (by exact fun _ => sset_id _ _ _) 4)

theorem exec_bar (ht : s.teamOf c.team = some tm) (hx : (tm.bar b.toNat).checks (c.mget p m) p.m0 = []) :
    exec (.bar b m) s = .next ((s.arrived c p b m).modCrew c.id (Crew.parkBarrier i b (tm.bar b.toNat).phase)) := by
  change execBar b m s = _
  rw [execBar, withCur_of h, barrierGates_of h hf, arrive_of ht b m hx]
  exact congrArg Host.Outcome.next
    (awaitBar_parks (issuing_arrived h b m) b (teamOf_arrived ht b m) (passed_phase (arrived_bar b m s.nextId).1))

theorem exec_bwait {r : BitVec 6} (hr : c.pending [r] = false) :
    exec (.bwait b r) s = .next (s.awaitBar c b ((c.sget r).setWidth 32)) := by
  change execBwait b r s = _
  rw [execBwait, withCur_of h, noHandler_of hf.handler, hr, if_neg Bool.false_ne_true, trapGate_of h hf.records]

end Arrivals

theorem barriersCountArrivals : Claims.BarriersCountArrivals := by
  intro d r b m s c i p tm h hf hd hr ht bar memb parks arrives
  have harr (f : Crew → Crew) : arrives ((s.arrived c p b m).modCrew c.id f) :=
    ⟨tm.arrived c p b m s.nextId, teamOf_arrived ht b m, arrived_bar b m s.nextId⟩
  have hpark (token : W32) : parks (c.parkBarrier i b token) token := ⟨rfl, parkBarrier_path h hf b token⟩
  have hcrew := (issuing_arrived h b m).crew
  refine ⟨fun hx => ⟨⟨_, exec_arrive h hf b m ht hd hx, ?_, harr _⟩, ⟨_, _, exec_bar h hf b m ht hx, ?_, hpark _, harr _⟩⟩,
    fun hg => ?_, fun hg => ?_⟩
  · rw [← modPath_eq_withPath (f := fun q => q.past 4) (by rw [sset_paths]; exact h.entry)]
    exact crewOf_modCrew_self (by simp) hcrew
  · exact crewOf_modCrew_self (f := Crew.parkBarrier i b _) (fun _ => rfl) hcrew
  · have he := (exec_bwait h hf b hr).trans (congrArg Host.Outcome.next (awaitBar_passes b ht ((passed_iff bar _).mpr hg)))
    obtain ⟨t, ht, honly, hc⟩ := completes_of_modCurPath h he
    refine ⟨t, _, ht, honly, hc, ?_⟩
    rw [path_withPath h.entry, Path.passBarrier, acquire_eq]
    exact ⟨rfl, rfl, rfl⟩
  · have he := (exec_bwait h hf b hr).trans
      (congrArg Host.Outcome.next (awaitBar_parks h b ht (Bool.eq_false_iff.mpr fun hp => hg ((passed_iff bar _).mp hp))))
    obtain ⟨t, ht, honly, hc⟩ := completes_of_modCrew h (f := Crew.parkBarrier i b _) (fun _ => rfl) he
    exact ⟨t, _, ht, honly, hc, hpark _⟩

/-! ### Role signals (R106) -/

/-- The crew after a post to it, where it is the crew of its team with that number. -/
def Crew.posted (team num n : Nat) (k : Clock) (d : Crew) : Crew :=
  if d.team == team && d.num == num && !d.retired then d.post n k else d

theorem posted_id (team num n : Nat) (k : Clock) (d : Crew) : (d.posted team num n k).id = d.id := by
  unfold Crew.posted
  split <;> rfl

theorem posted_eq (team num n : Nat) (k : Clock) (d : Crew) :
    d.posted team num n k = { d with sig := (d.posted team num n k).sig, sigClk := (d.posted team num n k).sigClk } := by
  unfold Crew.posted
  split <;> rfl

/-- A post adds its count up to 2^32 − 1. -/
theorem posted_sig (team num n : Nat) (k : Clock) (d : Crew) : (d.posted team num n k).sig.toNat =
    if d.team = team ∧ d.num = num ∧ d.retired = false then min (d.sig.toNat + n) (2 ^ 32 - 1) else d.sig.toNat := by
  have hc : (d.team == team && d.num == num && !d.retired) = true ↔ d.team = team ∧ d.num = num ∧ d.retired = false := by
    simp [and_assoc]
  unfold Crew.posted
  by_cases h : d.team = team ∧ d.num = num ∧ d.retired = false
  · rw [if_pos (hc.mpr h), if_pos h]
    simp only [Crew.post, BitVec.toNat_ofNat]
    omega
  · rw [if_neg (mt hc.mp h), if_neg h]

/-- The machine after a post. -/
def State.posted (s : State) (team num n : Nat) (k : Clock) : State := { s with crews := s.crews.map (Crew.posted team num n k) }

theorem crewOf_posted (s : State) (team num n : Nat) (k : Clock) (id : Nat) :
    (s.posted team num n k).crewOf id = (s.crewOf id).map (Crew.posted team num n k) := crewOf_map (posted_id team num n k) s id

/-- The path parked at a take. -/
def Path.taking (p : Path) (n : W32) : Path := { p with st := .rolesig, need := n, wait := some stSync }

/-- The crew whose entry i is parked at a take. -/
def Crew.parkTake (i : Nat) (n : W32) (c : Crew) : Crew := (c.modPath i fun p => p.taking n).trapPoint i

section Signals
variable {s : State} {c : Crew} {i : Nat} {p : Path} (h : Issuing s c i p) (hf : Free c i p) {b : BitVec 6}
  (hb : c.pending [b] = false)
include h

theorem exec_rolesigPost_lacks {crew : BitVec 2} (hn : (s.crewsOf c.team).length ≤ crew.toNat) :
    exec (.rolesigPost crew b) s = scalarFault s c p 1 0 := by
  change execRolesigPost crew b s = _
  rw [execRolesigPost, withCur_of h, if_pos hn]
  rfl

theorem issuing_posted (team num n : Nat) (k : Clock) : Issuing (s.posted team num n k) (c.posted team num n k) i p where
  cur := by rw [posted_id]; exact h.cur
  crew := by rw [posted_id, crewOf_posted, h.crew]; rfl
  entry := by rw [posted_eq]; exact h.entry

include hf

theorem parkTake_path (n : W32) : (c.parkTake i n).path i = p.taking n := trapPoint_modPath_self hf h.entry rfl

include hb

theorem signalGates_of (k : Out) :
    noHandler s c p 0 (if p.iss.isSome then waitIssue s p else if c.pending [b] then waitFor s stInterlock else trapGate s c k) = k := by
  rw [noHandler_of hf.handler, if_neg (iss_isSome_of hf.iss), hb, if_neg Bool.false_ne_true, trapGate_of h hf.records]

theorem exec_rolesigPost {crew : BitVec 2} (hn : crew.toNat < (s.crewsOf c.team).length) :
    exec (.rolesigPost crew b) s = .next
      ((s.posted c.team crew.toNat ((c.sget b).toNat % 2 ^ 32) (p.clockNow s.nextId)).modCurPath fun q => q.past 4) := by
  change execRolesigPost crew b s = _
  rw [execRolesigPost, withCur_of h, if_neg (Nat.not_le.mpr hn), signalGates_of h hf hb]
  rfl

theorem exec_rolesigTake_passes (hz : (c.sget b).setWidth 32 = (0 : W32)) :
    exec (.rolesigTake b) s = .next (s.modCurPath fun q => (q.acquire (s.nextId - 1) c.sigClk).past 4) := by
  change execRolesigTake b s = _
  rw [execRolesigTake, withCur_of h, signalGates_of h hf hb]
  simp only [if_pos hz, advance_eq, modCurPath_modCurPath]

theorem exec_rolesigTake_parks (hz : (c.sget b).setWidth 32 ≠ (0 : W32)) :
    exec (.rolesigTake b) s = .next (s.modCrew c.id (Crew.parkTake i ((c.sget b).setWidth 32))) := by
  change execRolesigTake b s = _
  rw [execRolesigTake, withCur_of h, signalGates_of h hf hb]
  simp only [if_neg hz]
  rw [modCur_of h, curPath_of h]
  rfl

/-- A post changes the counts of the crews it names, and passes its word. -/
theorem post_counts {crew : BitVec 2} (hn : crew.toNat < (s.crewsOf c.team).length) :
    ∃ t, exec (.rolesigPost crew b) s = .next t ∧ t = { s with crews := t.crews }
      ∧ (∃ c', t.crewOf c.id = some c' ∧ c'.path i = p.past 4 ∧ c'.s = c.s)
      ∧ ∀ id d, s.crewOf id = some d → ∃ d', t.crewOf id = some d' ∧ d'.sig.toNat =
          if d.team = c.team ∧ d.num = crew.toNat ∧ d.retired = false then min (d.sig.toNat + (c.sget b).toNat % 2 ^ 32) (2 ^ 32 - 1)
          else d.sig.toNat := by
  have hi := issuing_posted h c.team crew.toNat ((c.sget b).toNat % 2 ^ 32) (p.clockNow s.nextId)
  refine ⟨_, exec_rolesigPost h hf hb hn, ?_⟩
  rw [modCurPath_of hi, posted_id]
  let g : Crew → Crew := fun d => d.modPath i fun q => q.past 4
  refine ⟨rfl, ⟨g (c.posted _ _ _ _), ?_, path_modPath_self hi.entry _, by rw [posted_eq]; rfl⟩, fun id d hd => ?_⟩
  · exact crewOf_modCrew_self (f := g) (fun _ => rfl) (by simpa only [posted_id] using hi.crew)
  · refine ⟨_, (crewOf_modCrew (f := g) (fun _ => rfl) _ c.id id).trans (by rw [crewOf_posted, hd]; rfl), ?_⟩
    rw [← posted_sig _ _ _ (p.clockNow s.nextId)]
    exact apply_ite (fun e : Crew => e.sig.toNat) _ _ _ |>.trans (ite_self _)

end Signals

/-- The crew whose entry i has taken its count and goes on. -/
def Crew.served (c : Crew) (next i : Nat) : Crew :=
  ({ c with sig := c.sig - (c.path i).need } : Crew).modPath i fun p => ({ p with spc := p.spc + 4 }).wake.acquire (next - 1) c.sigClk

theorem serveTakes_short {c : Crew} {i : Nat} (hs : (c.path i).st = .rolesig) (hn : c.sig.toNat < (c.path i).need.toNat) (next : Nat)
    (is : List Nat) : c.serveTakes next (i :: is) = c := by
  rw [Crew.serveTakes, if_pos (by rw [hs]; rfl), if_neg (Nat.not_le.mpr hn)]

theorem serveTakes_serves {c : Crew} {i : Nat} (hs : (c.path i).st = .rolesig) (hn : (c.path i).need.toNat ≤ c.sig.toNat) (next : Nat) :
    c.serveTakes next [i] = c.served next i := by
  rw [Crew.serveTakes, if_pos (by rw [hs]; rfl), if_pos hn]
  rfl

theorem served_path {c : Crew} {i : Nat} (hi : i < c.paths.length) (next : Nat) :
    ((c.served next i).path i).st ≠ .rolesig ∧ ((c.served next i).path i).spc = (c.path i).spc + 4 := by
  have hp : (c.served next i).path i = ({ c.path i with spc := (c.path i).spc + 4 }).wake.acquire (next - 1) c.sigClk :=
    path_modPath_of_lt (c := { c with sig := c.sig - (c.path i).need }) hi _
  rw [hp, acquire_eq]
  refine ⟨?_, rfl⟩
  simp only [Path.wake]
  split <;> exact PState.noConfusion

theorem roleSignalsCount : Claims.RoleSignalsCount := by
  refine ⟨fun crew b s c i p h hf hb => ⟨fun hn => ?_, fun hn => ?_, fun hz => ?_, fun hz => ?_⟩,
    fun c next i is hs => ⟨fun hn => ?_, fun hn hi => ?_⟩⟩
  · exact post_counts h hf hb hn
  · exact scalarFault_inPlace h hf.handler rfl rfl rfl (exec_rolesigPost_lacks h hn)
  · have hw : (c.sget b).setWidth 32 = (0 : W32) := BitVec.eq_of_toNat_eq (by simpa using hz)
    obtain ⟨t, ht, honly, hc⟩ := completes_of_modCurPath h (exec_rolesigTake_passes h hf hb hw)
    refine ⟨t, _, ht, honly, hc, rfl, ?_⟩
    rw [path_withPath h.entry, acquire_eq]
    rfl
  · have hw : (c.sget b).setWidth 32 ≠ (0 : W32) := fun hw => hz (by simpa using congrArg BitVec.toNat hw)
    obtain ⟨t, ht, honly, hc⟩ := completes_of_modCrew h (f := Crew.parkTake i _) (fun _ => rfl) (exec_rolesigTake_parks h hf hb hw)
    exact ⟨t, _, ht, honly, hc, rfl, parkTake_path h hf _⟩
  · exact serveTakes_short hs hn next is
  · rw [serveTakes_serves hs hn]
    exact ⟨rfl, served_path hi next⟩

/-- Settles O8: an arrival is one change of its barrier, a wait passes or parks by the phase of its token, and a signal is a count that a
post adds to and a take waits for. -/
theorem barriersAndRoleSignals : Obligations.BarriersAndRoleSignals :=
  ⟨barriersCountArrivals, barrierPhaseCompletes, roleSignalsCount⟩

end Sys2Proof.Machine

end

section
/-! SUPPORT. Evictions (R90), pre-emption (R318), slices (R326) and time limits (R327). -/

namespace Sys2Proof.Machine

/-! ### The greatest team of a list -/

/-- Ranks are ordered by their first part, then their second, then their third. -/
theorem rankLt_iff (a b : Nat × Nat × Nat) :
    rankLt a b = true ↔ a.1 < b.1 ∨ a.1 = b.1 ∧ (a.2.1 < b.2.1 ∨ a.2.1 = b.2.1 ∧ a.2.2 < b.2.2) := by
  simp [rankLt]

theorem rankLt_eq_false (a b : Nat × Nat × Nat) :
    rankLt a b = false ↔ ¬ (a.1 < b.1 ∨ a.1 = b.1 ∧ (a.2.1 < b.2.1 ∨ a.2.1 = b.2.1 ∧ a.2.2 < b.2.2)) := by
  rw [Bool.eq_false_iff, ne_eq, rankLt_iff]

theorem rankLt_self (a : Nat × Nat × Nat) : rankLt a a = false := by
  rw [rankLt_eq_false]
  omega

theorem rankLt_asymm {a b : Nat × Nat × Nat} (h : rankLt a b = true) : rankLt b a = false := by
  rw [rankLt_iff] at h
  rw [rankLt_eq_false]
  omega

/-- A rank before neither of two that are in order is before neither. -/
theorem rankLt_trans_false {a b c : Nat × Nat × Nat} (h : rankLt a b = false) (k : rankLt b c = false) : rankLt a c = false := by
  rw [rankLt_eq_false] at *
  omega

/-- The better of the best so far and one more. -/
def better (key : Team → Nat × Nat × Nat) (best : Option Team) (t : Team) : Option Team :=
  match best with
  | none => some t
  | some b => if rankLt (key b) (key t) then some t else some b

theorem greatest_eq (key : Team → Nat × Nat × Nat) (ts : List Team) : greatest key ts = ts.foldl (better key) none := rfl

theorem better_spec (key : Team → Nat × Nat × Nat) (best : Option Team) (x : Team) : ∃ m, better key best x = some m
    ∧ (x = m ∨ best = some m) ∧ rankLt (key m) (key x) = false ∧ ∀ b, best = some b → rankLt (key m) (key b) = false := by
  cases best with
  | none => exact ⟨x, rfl, .inl rfl, rankLt_self _, fun b hb => nomatch hb⟩
  | some b =>
    cases hlt : rankLt (key b) (key x) with
    | true =>
      refine ⟨x, if_pos hlt, .inl rfl, rankLt_self _, fun b' hb => ?_⟩
      obtain rfl := Option.some.inj hb
      exact rankLt_asymm hlt
    | false =>
      refine ⟨b, if_neg (by simp [hlt]), .inr rfl, hlt, fun b' hb => ?_⟩
      obtain rfl := Option.some.inj hb
      exact rankLt_self _

/-- The best of a list and of what was best before it. -/
theorem foldl_better {key : Team → Nat × Nat × Nat} (ts : List Team) {best : Option Team} {t : Team}
    (h : ts.foldl (better key) best = some t) :
    (t ∈ ts ∨ best = some t) ∧ ∀ u, u ∈ ts ∨ best = some u → rankLt (key t) (key u) = false := by
  induction ts generalizing best with
  | nil =>
    refine ⟨.inr h, fun u hu => ?_⟩
    obtain rfl : t = u := Option.some.inj (h.symm.trans (hu.resolve_left List.not_mem_nil))
    exact rankLt_self _
  | cons x ts ih =>
    obtain ⟨m, hm, hfrom, hx, hbest⟩ := better_spec key best x
    rw [List.foldl_cons, hm] at h
    obtain ⟨hmem, hmax⟩ := ih h
    have htm := hmax m (.inr rfl)
    refine ⟨?_, fun u hu => ?_⟩
    · rcases hmem with ht | ht
      · exact .inl (List.mem_cons_of_mem x ht)
      · obtain rfl := Option.some.inj ht
        exact hfrom.imp_left fun hxm => by rw [hxm]; exact List.mem_cons_self
    · rcases hu with hu | hu
      · rcases List.mem_cons.mp hu with rfl | hu
        · exact rankLt_trans_false htm hx
        · exact hmax u (.inl hu)
      · exact rankLt_trans_false htm (hbest u hu)

/-- The greatest team is one of the list, and no team of the list has a greater key. -/
theorem greatest_spec {key : Team → Nat × Nat × Nat} {ts : List Team} {t : Team} (h : greatest key ts = some t) :
    t ∈ ts ∧ ∀ u ∈ ts, rankLt (key t) (key u) = false := by
  obtain ⟨hmem, hmax⟩ := foldl_better ts ((greatest_eq key ts).symm.trans h)
  exact ⟨hmem.resolve_right (fun hn => nomatch hn), fun u hu => hmax u (.inl hu)⟩

/-! ### Choosing a team (R90, R318, R326) -/

/-- A step that evicts a team chooses it. -/
theorem chooses_of_evict {ins : Instr} {s : State} {t : Team} (he : exec ins s = .next (s.evict t.id)) : Chooses ins s t := by
  rw [Chooses, he, State.evict, State.modTeam]
  simp only [beq_iff_eq]

theorem evictee_index {s : State} {core : Nat} {t : Team} (h : s.evictee core = some t) {u : Team} (hu : u ∈ s.coreTeams core)
    (hc : s.choosable u = true) : u.index ≤ t.index := by
  have hmax := (greatest_spec h).2 u (List.mem_filter.mpr ⟨hu, hc⟩)
  rw [rankLt_eq_false] at hmax
  exact Nat.le_of_not_lt fun hlt => hmax (.inl hlt)

section Evictions
variable {s : State} {core : Nat} {t : Team} (h : s.evictee core = some t)
include h

theorem exec_forwardProgressEviction : exec (.forwardProgressEviction core) s =
    if s.live t.part && (s.coreCrews core).all (fun c => !c.issued && decide (4096 ≤ c.quiet)) && (s.leavers core).isEmpty
        && s.waitsFor t.part core t.id then .next (s.evict t.id) else .next s := by
  change execForwardProgressEviction core s = _
  rw [execForwardProgressEviction, h]

theorem exec_allotmentDeadlockEviction : exec (.allotmentDeadlockEviction core) s =
    if s.live t.part && (s.coreCrews core).all (fun c => s.crewBlocked c && decide (1024 ≤ c.stuck)) && (s.leavers core).isEmpty then
      .next (s.evict t.id) else .next s := by
  change execAllotmentDeadlockEviction core s = _
  rw [execAllotmentDeadlockEviction, h]

end Evictions

theorem evictionsChooseAVictim : Claims.EvictionsChooseAVictim := by
  intro core s t ht hlive hl
  refine ⟨fun u hu hc => evictee_index ht hu hc, fun hq hw => ?_, fun c hc hq => ?_, fun hb => ?_, fun c hc hb => ?_⟩
  · have hall : (s.coreCrews core).all (fun c => !c.issued && decide (4096 ≤ c.quiet)) = true :=
      List.all_eq_true.mpr fun c hc => by simp [hq c hc]
    exact chooses_of_evict ((exec_forwardProgressEviction ht).trans (if_pos (by simp [hlive, hall, hl, hw])))
  · have hall : (s.coreCrews core).all (fun c => !c.issued && decide (4096 ≤ c.quiet)) = false :=
      List.all_eq_false.mpr ⟨c, hc, by simp [hq]⟩
    exact (exec_forwardProgressEviction ht).trans (if_neg (by simp [hall]))
  · have hall : (s.coreCrews core).all (fun c => s.crewBlocked c && decide (1024 ≤ c.stuck)) = true :=
      List.all_eq_true.mpr fun c hc => by simp [hb c hc]
    exact chooses_of_evict ((exec_allotmentDeadlockEviction ht).trans (if_pos (by simp [hlive, hall, hl])))
  · have hall : (s.coreCrews core).all (fun c => s.crewBlocked c && decide (1024 ≤ c.stuck)) = false := by
      refine List.all_eq_false.mpr ⟨c, hc, ?_⟩
      rcases hb with hb | hb <;> simp [hb]
    exact (exec_allotmentDeadlockEviction ht).trans (if_neg (by simp [hall]))

/-! ### Pre-emption (R318) -/

/-- A victim is of a greater priority number than its head. -/
theorem victim_prio {s : State} {cores : List Nat} {prio : Nat} {t : Team} (h : s.victim cores prio = some t) : prio < s.teamPrio t := by
  have hmem := (List.mem_filter.mp (greatest_spec h).1).2
  rw [Bool.and_eq_true, decide_eq_true_eq] at hmem
  exact hmem.2

/-- The head fits once the teams that leave are gone: no victim is taken. -/
theorem takeVictims_of_fits {s : State} {part core : Nat} {h : Head} (hf : s.headFits part core h (s.leavers core) = true) (prio n : Nat) :
    s.takeVictims part core prio h (n + 1) = s := by
  rw [State.takeVictims, if_pos hf]

theorem exec_priorityPreempt {s : State} {part core : Nat} {h : Head} {t : Team} (hp : s.places part = true)
    (hh : (s.heads part).find? (fun h => s.needsVictims part h
      && (s.victim (s.qualify part (s.headPrio part h) h) (s.headPrio part h)).isSome) = some h)
    (hv : s.victim (s.qualify part (s.headPrio part h) h) (s.headPrio part h) = some t) (hc : t.core = some core) :
    exec (.priorityPreempt part) s = .next ((s.evict t.id).takeVictims part core (s.headPrio part h) h 16) := by
  change execPriorityPreempt part s = _
  rw [execPriorityPreempt, hp, hh]
  simp only [Bool.not_true, Bool.false_eq_true, if_false, hv, hc]

/-! ### Slices and time limits (R326, R327) -/

theorem exec_sliceExpiry {r : TeamRef} {s : State} {t : Team} {b : Block} (ht : s.teamRef r = some t) (hb : s.teamBlk t = some b)
    (hp : s.parkedTeam t = false) : exec (.sliceExpiry r) s =
      if s.live r.part && b.slice != 0 && s.choosable t && decide (t.placed.toNat + 1000 * b.slice + t.heldNs ≤ s.time.toNat)
        && s.displaced t then .next (s.evict t.id) else .next s := by
  change execSliceExpiry r s = _
  rw [execSliceExpiry, ht]
  simp only [hb, hp, Bool.false_eq_true, if_false]

theorem exec_timeLimit {r : LaunchRef} {s : State} {l : Launch} (hl : s.launchOf r.part r.launch = some l) : exec (.timeLimit r) s =
    if s.live r.part && s.pastLimit l then .next (s.raise r.part (launchCause (s.firstCore r.part) fcTimeLimit r.launch))
    else .next s := by
  change execTimeLimit r s = _
  rw [execTimeLimit, hl]

/-- An unfinished launch with a limit is past it once its time, and that of its held microseconds, has run. -/
theorem pastLimit_iff {s : State} {l : Launch} (ht : l.blk.tlim ≠ 0) (hr : l.retired = false) (hu : s.unfinished l = true) :
    s.pastLimit l = true ↔ l.admitAt.toNat + 1000 * (l.blk.tlim + l.extUs + if l.heldIn then 1 else 0) ≤ s.time.toNat := by
  have hb : b2n l.heldIn = if l.heldIn then 1 else 0 := by cases l.heldIn <;> rfl
  simp [State.pastLimit, bne_iff_ne.mpr ht, hr, hu, hb]

theorem preemptionSlicesAndLimits : Claims.PreemptionSlicesAndLimits := by
  refine ⟨fun part core s h t hp hh hv hc => ⟨victim_prio hv, fun hf => ?_⟩,
    fun r s t b ht hb hlive hs hc hp => ⟨fun htime hd => ?_, fun hno => ?_⟩,
    fun r s l hl hlive ht hr hu => ⟨fun htime => ?_, fun htime => ?_⟩⟩
  · have he := exec_priorityPreempt hp hh hv hc
    rw [takeVictims_of_fits hf] at he
    exact chooses_of_evict he
  · exact chooses_of_evict ((exec_sliceExpiry ht hb hp).trans (if_pos (by simp [hlive, hs, hc, htime, hd])))
  · refine (exec_sliceExpiry ht hb hp).trans (if_neg ?_)
    rcases hno with hno | hno
    · simp [Nat.not_le.mpr hno]
    · simp [hno]
  · refine ⟨launchCause (s.firstCore r.part) fcTimeLimit r.launch, rfl, rfl, (exec_timeLimit hl).trans (if_pos ?_)⟩
    rw [hlive, Bool.true_and, pastLimit_iff ht hr hu]
    exact htime
  · refine (exec_timeLimit hl).trans (if_neg ?_)
    rw [hlive, Bool.true_and, pastLimit_iff ht hr hu]
    exact Nat.not_le.mpr htime

/-- Settles O35: each step has one equation with its conditions in one test; a victim and an evictee are the greatest of their
candidates. -/
theorem evictionsAndPreemption : Obligations.EvictionsAndPreemption := ⟨evictionsChooseAVictim, preemptionSlicesAndLimits⟩

end Sys2Proof.Machine

end

section
/-! SUPPORT. The words of the register store: REGGROW, REGSHRINK, TAGOF and ROTSET (R113, R117, R119, R120, R122, R123). -/

namespace Sys2Proof.Machine

/-! ### Entries left out of a sparse map, and sums over registers and groups -/

theorem smap_get_filter {α : Type} (d : α) (m : SMap α) (keep : Nat → Bool) (k : Nat) :
    SMap.get d (m.filter fun e => keep e.1) k = if keep k then SMap.get d m k else d := by
  induction m with
  | nil => simp
  | cons e r ih =>
    obtain ⟨i, v⟩ := e
    cases hi : keep i with
    | true =>
      by_cases hk : i = k
      · subst hk
        simp [hi, SMap.get]
      · simp [hi, SMap.get, hk, ih]
    | false =>
      by_cases hk : i = k
      · subst hk
        simp [hi, ih]
      · simp [hi, SMap.get, hk, ih]

/-- A live group-register once those that fail a test have become uniform zero (R110, R117). -/
theorem liveReg_of_filter {c d : Crew} {keep : Nat → Bool} (h : d.v = c.v.filter fun e => keep (e.1 / 32)) (v : Nat) {g : Nat}
    (hg : g < 32) : d.liveReg v g = if keep v then c.liveReg v g else .uni 0 := by
  have hk : (32 * v + g) / 32 = v := by omega
  rw [Crew.liveReg, h, smap_get_filter (.uni 0) c.v (fun k => keep (k / 32)) (32 * v + g), hk]
  rfl

/-- A sum over pairs that a quotient and a remainder name. -/
theorem sum_range_divMod (f : Nat → Nat → Nat) (m n : Nat) :
    ∑ k ∈ Finset.range (m * n), f (k / n) (k % n) = ∑ i ∈ Finset.range m, ∑ j ∈ Finset.range n, f i j := by
  induction m with
  | zero => simp
  | succ m ih =>
    rw [Nat.succ_mul, Finset.sum_range_add, ih, Finset.sum_range_succ]
    refine congrArg _ (Finset.sum_congr rfl fun j hj => ?_)
    have hj : j < n := Finset.mem_range.mp hj
    rw [Nat.mul_comm m n, Nat.mul_add_div (by omega), Nat.mul_add_mod, Nat.div_eq_of_lt hj, Nat.mod_eq_of_lt hj, Nat.add_zero]

theorem unitsFrom_eq_sum (c : Crew) (target : Nat) : c.unitsFrom target
    = ((List.range c.groups).map fun g => ((List.range (c.nRegs - target)).map fun k => (c.liveReg (target + k) g).cost).sum).sum := by
  have hf : ∀ (f : Nat → Nat) (n : Nat), (List.range n).foldl (fun a k => a + f k) 0 = ∑ k ∈ Finset.range n, f k := by
    intro f n
    rw [← List.foldl_map, ← List.sum_eq_foldl]
    rfl
  rw [Crew.unitsFrom, hf, sum_range_divMod fun k g => (c.liveReg (target + k) g).cost, Finset.sum_comm]
  rfl

/-! ### A scalar word that answers, waits for a grant, or grows the registers -/

@[simp] theorem sset_nRegs (c : Crew) (d : BitVec 6) (x : W64) : (c.sset d x).nRegs = c.nRegs := by unfold Crew.sset; split <;> rfl
@[simp] theorem sset_v (c : Crew) (d : BitVec 6) (x : W64) : (c.sset d x).v = c.v := by unfold Crew.sset; split <;> rfl

/-- A scalar register that is written reads the same whatever else of the crew has changed. -/
theorem sset_s_congr {c e : Crew} (h : e.s = c.s) (d : BitVec 6) (x : W64) : (e.sset d x).s = (c.sset d x).s := by
  unfold Crew.sset
  split
  · exact h
  · simp only [h]

@[simp] theorem grow_id (c : Crew) (d : BitVec 6) (n : Nat) : (c.grow d n).id = c.id := sset_id ..
@[simp] theorem grow_paths (c : Crew) (d : BitVec 6) (n : Nat) : (c.grow d n).paths = c.paths := sset_paths ..
@[simp] theorem grow_nRegs (c : Crew) (d : BitVec 6) (n : Nat) : (c.grow d n).nRegs = n := sset_nRegs ..
theorem grow_s (c : Crew) (d : BitVec 6) (n : Nat) : (c.grow d n).s = (c.sset d 0).s := by
  exact sset_s_congr (by rfl) d 0

/-- The registers that REGGROW adds are uniform zero, and the others stay (R117). -/
theorem liveReg_grow (c : Crew) (d : BitVec 6) (n v : Nat) {g : Nat} (hg : g < 32) :
    (c.grow d n).liveReg v g = if v < c.nRegs ∨ n ≤ v then c.liveReg v g else .uni 0 := by
  rw [liveReg_of_filter (c := c) (keep := fun k => decide (k < c.nRegs) || decide (n ≤ k)) (sset_v ..) v hg]
  simp

section Words
variable {s : State} {c : Crew} {i : Nat} {p : Path} {ins : Instr}

/-- A word that changes its crew but for the path table, and goes on. -/
theorem completes_of_modCur_advance (h : Issuing s c i p) {f : Crew → Crew} (hf : ∀ c, (f c).id = c.id) (hp : (f c).paths = c.paths)
    {n : Nat} (he : exec ins s = .next ((s.modCur f).advance n)) : Completes ins s c ((f c).withPath i (p.past n)) := by
  rw [modCur_advance h hf] at he
  rw [← modPath_eq_withPath (c := f c) (by rw [hp]; exact h.entry) fun q => q.past n]
  exact completes_of_modCrew h (f := fun d => (f d).modPath i fun q => q.past n) (by exact hf) he

/-- A word that answers a value of its crew in a scalar register. -/
theorem completes_of_answer (h : Issuing s c i p) {d : BitVec 6} {x : Crew → W64}
    (he : exec ins s = .next ((s.modCur fun c => c.sset d (x c)).advance 4)) :
    Completes ins s c ((c.sset d (x c)).withPath i (p.past 4)) :=
  completes_of_modCur_advance h (fun _ => sset_id ..) (sset_paths ..) he

/-! ### REGGROW (R117) -/

theorem exec_reggrow (h : Issuing s c i p) {d : BitVec 6} (hd : c.pending [d] = false) (wait : Bool) (target : BitVec 9) :
    exec (.reggrow d wait target) s =
      if target.toNat ≤ c.nRegs then .next ((s.modCur fun c => c.sset d 0).advance 4)
      else if c.growNeed target.toNat ≤ s.crewFree c then .next ((s.modCur fun c => c.grow d target.toNat).advance 4)
      else if wait then waitWant s stRegs (.grow d target.toNat)
      else .next ((s.modCur fun c => c.sset d 1).advance 4) := by
  change execReggrow d wait target s = _
  rw [execReggrow, withCur_of h, if_neg (by simp [hd])]

/-! ### REGSHRINK (R119) -/

/-- The target would cut into the rotating region or the open window (R119). -/
def Crew.shrinkBarred (c : Crew) (t : Nat) : Bool :=
  (decide (0 < c.rot) && decide (t < 128 + c.rot)) || (match c.prop with | some w => decide (t < w.base + w.len) | none => false)

theorem shrinkBarred_iff (c : Crew) (t : Nat) :
    c.shrinkBarred t = true ↔ (0 < c.rot ∧ t < 128 + c.rot) ∨ ∃ w, c.prop = some w ∧ t < w.base + w.len := by
  rw [Crew.shrinkBarred, Bool.or_eq_true, Bool.and_eq_true, decide_eq_true_iff, decide_eq_true_iff]
  cases c.prop with
  | none => simp
  | some w => simp

/-- The crew with the registers from a target on removed, and the units they held in d (R119). -/
def Crew.shrink (c : Crew) (d : BitVec 6) (t : Nat) : Crew :=
  { c with nRegs := t, v := c.v.filter fun e => decide (e.1 / 32 < t) || decide (248 ≤ e.1 / 32) }.sset d (w64 (c.unitsFrom t))

theorem shrink_s (c : Crew) (d : BitVec 6) (t : Nat) : (c.shrink d t).s = (c.sset d (w64 (c.unitsFrom t))).s := by
  exact sset_s_congr (by rfl) d _

/-- REGSHRINK leaves the registers below its target and the reserved ones (R119, R126). -/
theorem liveReg_shrink (c : Crew) (d : BitVec 6) (t v : Nat) {g : Nat} (hg : g < 32) :
    (c.shrink d t).liveReg v g = if v < t ∨ 248 ≤ v then c.liveReg v g else .uni 0 := by
  rw [liveReg_of_filter (c := c) (keep := fun k => decide (k < t) || decide (248 ≤ k)) (sset_v ..) v hg]
  simp

theorem exec_regshrink (h : Issuing s c i p) {d : BitVec 6} (hd : c.pending [d] = false) {target : BitVec 9}
    (hb : c.busyRegs ((List.range (c.nRegs - target.toNat)).map (· + target.toNat)) = false) :
    exec (.regshrink d target) s =
      if c.shrinkBarred target.toNat then scalarFault s c p 1 0
      else if c.nRegs ≤ target.toNat then .next ((s.modCur fun c => c.sset d 0).advance 4)
      else .next ((s.modCur fun c => c.shrink d target.toNat).advance 4) := by
  change execRegshrink d target s = _
  rw [execRegshrink, withCur_of h]
  simp only [hb, hd, Bool.false_eq_true, if_false]
  rfl

/-! ### TAGOF and ROTSET (R120, R122, R123) -/

theorem exec_tagof (h : Issuing s c i p) (hn : p.iss = none) {d a : BitVec 6} {v : BitVec 8} (hd : c.pending [d, a] = false)
    (ho : c.owesWrite i (c.physical v.toNat) = false) :
    exec (.tagof d a v) s = .next ((s.modCur fun e => e.sset d (
      let r := c.liveReg (c.physical v.toNat) (c.sget a).toNat
      if e.groups ≤ (c.sget a).toNat ∨ e.present (c.physical v.toNat) = false then 0
      else w64 (r.tag + 4 * r.cls + 16 * r.cost))).advance 4) := by
  change execTagof d a v s = _
  rw [execTagof, withCur_of h]
  simp only [if_neg (iss_isSome_of hn), curPath_of h, ho, hd, Bool.false_eq_true, if_false, Nat.mul_comm 4, Nat.mul_comm 16]

theorem exec_rotset (h : Issuing s c i p) (hn : p.iss = none) (size : BitVec 7) :
    exec (.rotset size) s =
      if c.rotOverlaps c.rot || c.rotOverlaps size.toNat then scalarFault s c p 1 0
      else if c.nRegs < 128 + size.toNat then scalarFault s c p 5 0
      else .next ((s.modCur fun c => { c with rot := size.toNat, rotb := 0 }).advance 4) := by
  change execRotset size s = _
  rw [execRotset, withCur_of h, if_neg (iss_isSome_of hn)]
  rfl

end Words

/-! ### The words -/

theorem reggrowAsksForUnits : Claims.ReggrowAsksForUnits := by
  intro d target wait s c i p h hd need
  have key := exec_reggrow h hd wait target
  have hneed : c.growNeed target.toNat = need := rfl
  refine ⟨fun ht => ?_, fun ht hn => ?_, fun ht hn => ?_⟩
  · rw [if_pos ht] at key
    exact completes_of_answer h key
  · rw [if_neg (Nat.not_le.mpr ht), hneed, if_pos hn] at key
    refine ⟨_, completes_of_modCur_advance h (fun _ => grow_id ..) (grow_paths ..) key, grow_nRegs .., grow_s ..,
      path_withPath (by rw [grow_paths]; exact h.entry) _, fun v g hg hv => ?_, fun v g hg hlo hhi => ?_⟩
    · exact (liveReg_grow c d _ v hg).trans (if_pos hv)
    · exact (liveReg_grow c d _ v hg).trans (if_neg (by omega))
  · rw [if_neg (Nat.not_le.mpr ht), hneed, if_neg (Nat.not_le.mpr hn)] at key
    cases wait with
    | true => exact completes_of_modCurPath h key
    | false => exact completes_of_answer h key

theorem regshrinkReturnsUnits : Claims.RegshrinkReturnsUnits := by
  intro d target s c i p h hd hb barred
  have key := exec_regshrink h hd hb
  have hbar : c.shrinkBarred target.toNat = true ↔ barred := shrinkBarred_iff c target.toNat
  refine ⟨fun hx hp => ?_, fun hx ht => ?_, fun hx ht => ?_⟩
  · rw [if_pos (hbar.mpr hx)] at key
    exact scalarFault_inPlace h hp rfl rfl rfl key
  · rw [if_neg (mt hbar.mp hx), if_pos ht] at key
    exact completes_of_answer h key
  · rw [if_neg (mt hbar.mp hx), if_neg (Nat.not_le.mpr ht)] at key
    have hpaths : (c.shrink d target.toNat).paths = c.paths := sset_paths ..
    refine ⟨_, completes_of_modCur_advance h (f := fun c => c.shrink d target.toNat) (fun _ => sset_id ..) hpaths key, sset_nRegs ..,
      path_withPath (by rw [hpaths]; exact h.entry) _, ?_, fun v g hg hv => ?_⟩
    · rw [← unitsFrom_eq_sum]
      exact shrink_s c d _
    · exact (liveReg_shrink c d _ v hg).trans (if_pos hv)

theorem tagofAndRotset : Claims.TagofAndRotset := by
  intro d a v size s c i p h hn
  refine ⟨fun hd ho => ?_, ?_⟩
  · exact completes_of_answer h (exec_tagof h hn hd ho)
  · intro hits
    have key := exec_rotset h hn size
    have hh : (c.rotOverlaps c.rot || c.rotOverlaps size.toNat) = true ↔ hits := Bool.or_eq_true_iff
    refine ⟨fun hx hp => ?_, fun hx hr hp => ?_, fun hx hr => ?_⟩
    · rw [if_pos (hh.mpr hx)] at key
      exact scalarFault_inPlace h hp rfl rfl rfl key
    · rw [if_neg (mt hh.mp hx), if_pos hr] at key
      exact scalarFault_inPlace h hp rfl rfl rfl key
    · rw [if_neg (mt hh.mp hx), if_neg (Nat.not_lt.mpr hr)] at key
      exact completes_of_modCur_advance h (f := fun c => { c with rot := size.toNat, rotb := 0 }) (fun _ => rfl) rfl key

/-- Settles O14: each word has one equation that names its checks in their order; the registers that REGGROW adds and REGSHRINK removes
are the entries that a filter leaves out of the register store. -/
theorem registerUnitWords : Obligations.RegisterUnitWords := ⟨reggrowAsksForUnits, regshrinkReturnsUnits, tagofAndRotset⟩

end Sys2Proof.Machine

end

section
/-! SUPPORT. Grants of registers, reservations and bank units to waiting words (R84, R89, R90, R117, R118, R293): the first of the two
claims that O34 joins, which holds as it is stated. -/

namespace Sys2Proof.Machine

/-! ### A word that issues on a core (R84, R89, R90) -/

theorem teamOf_modTeam_ne {f : Team → Team} (hf : ∀ t, (f t).id = t.id) (s : State) {id j : Nat} (h : j ≠ id) :
    (s.modTeam id f).teamOf j = s.teamOf j := by
  have hp : ((fun t : Team => t.id == j) ∘ fun t => if t.id == id then f t else t) = fun t => t.id == j := by
    funext t
    simp only [Function.comp_apply]
    split <;> simp [hf]
  rw [State.teamOf, modTeam_teams, List.find?_map, hp]
  change Option.map _ (s.teamOf j) = _
  cases hj : s.teamOf j with
  | none => rfl
  | some t =>
    have hid : t.id = j := by simpa using List.find?_some hj
    simp [hid, h]

/-- A core once a word of a path has taken its slots. -/
def Core.issued (k : Core) (cid i : Nat) (lane : Bool) (engine slots : Nat) : Core := { k with
  idle := setAt k.idle engine 0
  laneUsed := k.laneUsed + slots
  laneBy := if lane then k.laneBy ++ [(cid, i)] else k.laneBy
  scalBy := if lane then k.scalBy else k.scalBy ++ [(cid, i)] }

theorem noteSlots_eq {s : State} {c : Crew} (h : s.crewOf c.id = some c) (core i : Nat) (lane : Bool) (engine slots : Nat) :
    s.noteSlots core c.id i lane engine slots = ((s.modCore core fun k => k.issued c.id i lane engine slots).modTeam c.team
      fun m => { m with slotsUsed := m.slotsUsed + slots }).modCrew c.id fun e => { e with issued := true } := by
  simp only [State.noteSlots, h]
  rfl

section Issues
variable {s t : State} {core path engine slots : Nat} {lane : Bool} {c c' : Crew}

theorem issuesOn_noteSlots (h : s.crewOf c.id = some c) (core path : Nat) (lane : Bool) (engine slots : Nat) :
    IssuesOn s (s.noteSlots core c.id path lane engine slots) core path lane engine slots c c := by
  rw [noteSlots_eq h]
  let f : Crew → Crew := fun e => { e with issued := true }
  let g : Team → Team := fun m => { m with slotsUsed := m.slotsUsed + slots }
  have hg : ∀ m, (g m).id = m.id := fun _ => rfl
  obtain ⟨-, hcrews⟩ := onlyCrew_modCrew (f := f) (fun _ => rfl) s c.id
  refine ⟨rfl, crewOf_modCrew_self (f := f) (fun _ => rfl) h, hcrews, fun k hk => ?_, fun j hj => ?_, fun m hm => ?_, fun j hj => ?_⟩
  · simp only [modCrew_cores, modTeam_cores, modCore_cores, modAt_getElem?, hk, if_true, Option.map_some]
    rfl
  · simp only [modCrew_cores, modTeam_cores, modCore_cores, modAt_getElem?, if_neg hj.symm]
  · exact teamOf_modTeam_self (s := s) (f := g) hg hm
  · exact teamOf_modTeam_ne (f := g) hg s hj

/-- A word that has changed its crew, and then issues. -/
theorem IssuesOn.after_modCrew {f : Crew → Crew} (hf : ∀ e, (f e).id = e.id) (ht : (f c).team = c.team)
    (h : IssuesOn (s.modCrew c.id f) t core path lane engine slots (f c) c') : IssuesOn s t core path lane engine slots c c' := by
  obtain ⟨hrest, hcrew, hcrews, hhere, hthere, hteam, hteams⟩ := h
  obtain ⟨-, hv⟩ := onlyCrew_modCrew hf s c.id
  rw [hf] at hcrew hcrews hhere
  rw [ht] at hteam hteams
  exact ⟨hrest, hcrew, hcrews.trans hv, hhere, hthere, hteam, hteams⟩

/-- A word that issues, and then changes its crew. -/
theorem IssuesOn.modCrew {g : Crew → Crew} (hg : ∀ e, (g e).id = e.id)
    (hi : g { c' with issued := true } = { g c' with issued := true }) (h : IssuesOn s t core path lane engine slots c c') :
    IssuesOn s (t.modCrew c.id g) core path lane engine slots c (g c') := by
  obtain ⟨hrest, hcrew, hcrews, hhere, hthere, hteam, hteams⟩ := h
  obtain ⟨-, hv⟩ := onlyCrew_modCrew hg t c.id
  refine ⟨?_, ?_, hv.trans hcrews, hhere, hthere, hteam, hteams⟩
  · rw [hrest]
    rfl
  · rw [crewOf_modCrew_self hg hcrew, hi]

/-- A granted scalar word issues in a slot, and its path goes on past it (R89, R90). -/
theorem issuesOn_grantWord {f : Crew → Crew} (h : s.crewOf c.id = some c) (hf : ∀ e, (f e).id = e.id) (ht : (f c).team = c.team)
    (core path : Nat) :
    IssuesOn s ((s.modCrew c.id f).grantWord core c.id path 0) core path false 0 0 c ((f c).modPath path Path.pastWord) := by
  have hn := issuesOn_noteSlots (s := s.modCrew c.id f) (c := f c) (by rw [hf]; exact crewOf_modCrew_self hf h) core path false 0 0
  rw [hf] at hn
  exact (hn.after_modCrew hf ht).modCrew (fun _ => rfl) rfl

end Issues

@[simp] theorem sset_team (c : Crew) (d : BitVec 6) (x : W64) : (c.sset d x).team = c.team := by unfold Crew.sset; split <;> rfl
@[simp] theorem sset_resv (c : Crew) (d : BitVec 6) (x : W64) : (c.sset d x).resv = c.resv := by unfold Crew.sset; split <;> rfl

/-! ### The first waiter -/

theorem find?_of_head? {α : Type} {xs : List α} {x : α} {p : α → Bool} (h : xs.head? = some x) (hp : p x = true) :
    xs.find? p = some x := by
  obtain ⟨ys, rfl⟩ := List.head?_eq_some_iff.mp h
  exact List.find?_cons_of_pos hp

/-- The want of a REGGROW, and that of an OBRES. -/
def Want.isGrow (w : Want) : Bool := match w with | .grow .. => true | _ => false
def Want.isObres (w : Want) : Bool := match w with | .obres .. => true | _ => false

section Grants
variable {s : State} {r : PathRef} {c : Crew} {p : Path}

theorem Named.path (h : Named s r c p) : c.path r.path = p := path_of_entry h.entry

/-! ### REGGROW_GRANT (R117) -/

theorem reggrowGrant_noSlot (h : Named s r c p) {d : BitVec 6} {n : Nat} (hw : p.want = some (.grow d n))
    (hr : s.scalRoom r.core c.id r.path = false) : exec (.reggrowGrant r) s = .next s := by
  change execReggrowGrant r s = _
  simp only [execReggrowGrant, h.at_, hw, hr, Bool.false_and, Bool.false_eq_true, if_false]

theorem reggrowGrant_grants (h : Named s r c p) {d : BitVec 6} {n : Nat} (hw : p.want = some (.grow d n))
    (hf : (s.waiters (· == r.core) Want.isGrow).head? = some (c.id, r.path)) (hr : s.scalRoom r.core c.id r.path = true)
    (hn : c.growNeed n ≤ s.freeUnits r.core) :
    exec (.reggrowGrant r) s = .next ((s.modCrew c.id fun c => c.grow d (max n c.nRegs)).grantWord r.core c.id r.path 0) := by
  change execReggrowGrant r s = _
  simp only [execReggrowGrant, h.at_, hw]
  refine if_pos (Bool.and_eq_true_iff.mpr ⟨hr, beq_iff_eq.mpr (find?_of_head? hf ?_)⟩)
  simp only [h.crew, h.path, hw, decide_eq_true hn]

/-! ### OBRES_GRANT (R293) -/

/-- The crew with a reservation, and OBRES answered 0 (R293). -/
def Crew.reservedFor (c : Crew) (d : BitVec 6) (res : Nat) (v : Resv) : Crew :=
  ({ c with resv := SMap.set none c.resv res (some v) }).sset d 0

theorem reservedFor_s (c : Crew) (d : BitVec 6) (res : Nat) (v : Resv) : (c.reservedFor d res v).s = (c.sset d 0).s := by
  exact sset_s_congr (by rfl) d 0

theorem reservedFor_resv (c : Crew) (d : BitVec 6) (res : Nat) (v : Resv) : SMap.get none (c.reservedFor d res v).resv res = some v := by
  rw [Crew.reservedFor, sset_resv, smap_get_set_self]

theorem obresGrant_noSlot (h : Named s r c p) {d : BitVec 6} {res : Nat} {rc : W64} (hw : p.want = some (.obres d res rc))
    (hr : s.scalRoom r.core c.id r.path = false) : exec (.obresGrant r) s = .next s := by
  change execObresGrant r s = _
  simp only [execObresGrant, h.at_, hw, hr, Bool.and_false, Bool.false_eq_true, if_false]
  cases s.obufFit r.core (recSize rc / 1024) <;> rfl

theorem obresGrant_noRoom (h : Named s r c p) {d : BitVec 6} {res : Nat} {rc : W64} (hw : p.want = some (.obres d res rc))
    (hx : s.obufFit r.core (recSize rc / 1024) = none) : exec (.obresGrant r) s = .next s := by
  change execObresGrant r s = _
  simp only [execObresGrant, h.at_, hw, hx]

theorem obresGrant_grants (h : Named s r c p) {d : BitVec 6} {res : Nat} {rc : W64} (hw : p.want = some (.obres d res rc))
    (hv : SMap.get none c.resv res = none) (hf : (s.waiters (· == r.core) Want.isObres).head? = some (c.id, r.path))
    (hr : s.scalRoom r.core c.id r.path = true) {x : Nat} (hx : s.obufFit r.core (recSize rc / 1024) = some x) :
    exec (.obresGrant r) s = .next ((({ s with free := s.free + 1 } : State).modCrew c.id fun c =>
      c.reservedFor d res ⟨x, recSize rc / 1024, rc, [], s.free⟩).grantWord r.core c.id r.path 0) := by
  change execObresGrant r s = _
  simp only [execObresGrant, h.at_, hw, hx, hv, Option.isSome_none, Bool.false_eq_true, if_false]
  refine (if_pos (Bool.and_eq_true_iff.mpr ⟨beq_iff_eq.mpr (find?_of_head? hf ?_), hr⟩)).trans ?_
  · simp only [h.crew, h.path, hw, hx, Option.isSome_some]
  · rw [State.takeResv]
    let f : Crew → Crew := fun c => { c with resv := SMap.set none c.resv res (some ⟨x, recSize rc / 1024, rc, [], s.free⟩) }
    exact congrArg (fun u => Host.Outcome.next (State.grantWord u r.core c.id r.path 0))
      (modCrew_modCrew (f := f) (g := fun c => c.sset d 0) (fun _ => rfl) { s with free := s.free + 1 } c.id)

/-! ### WRITE_RESERVATION_GRANT (R84, R118) -/

theorem writePasses_waits {free : Nat} {q : PassOut} (h : free < c.passNeed q) (qs : List PassOut) :
    c.writePasses free c.held (q :: qs) = (c, q :: qs) := if_pos (by omega)

theorem writePasses_fits {free : Nat} {q : PassOut} (h : c.passNeed q ≤ free) (qs : List PassOut) :
    c.writePasses free c.held (q :: qs)
      = (q.outs.foldl (fun e o => e.writePass (e.propWord q.g) q.act o.1 q.g o.2) c).writePasses free c.held qs := if_neg (by omega)

theorem writePasses_length (free held : Nat) (c : Crew) (qs : List PassOut) : (c.writePasses free held qs).2.length ≤ qs.length := by
  induction qs generalizing c with
  | nil => exact Nat.le_refl _
  | cons q qs ih =>
    rw [Crew.writePasses]
    split
    · exact Nat.le_refl _
    · exact (ih _).trans (Nat.le_succ _)

/-- A core has a lane issue slot (R89). -/
def State.laneSlot (s : State) (core : Nat) : Bool := match s.cores[core]? with | some k => k.laneRoom | none => false

theorem laneSlot_eq {k : Core} {core : Nat} (h : s.cores[core]? = some k) : s.laneSlot core = decide (k.laneUsed < 4) := by
  simp only [State.laneSlot, h, Core.laneRoom]

/-- The crew and its path once some passes have been made. -/
def Crew.passesMade (d : Crew) (i size engine : Nat) (x : Crew × List PassOut) : Crew :=
  ({ d with v := x.1.v, prop := x.1.prop }).modPath i fun p =>
    if x.2.isEmpty then p.pastLane size else { p with want := some (.passes size engine x.2) }

theorem exec_writeReservationGrant_units (h : Named s r c p) {n : Nat} (hw : p.want = some (.units n)) :
    exec (.writeReservationGrant r) s = if n ≤ s.freeUnits r.core then
      .next (s.modCrew c.id fun c => c.modPath r.path fun p => { p with want := none, wait := none }) else .next s := by
  change execWriteReservationGrant r s = _
  simp only [execWriteReservationGrant, h.at_, hw]
  rfl

theorem exec_writeReservationGrant_passes (h : Named s r c p) {size e : Nat} {qs : List PassOut}
    (hw : p.want = some (.passes size e qs)) :
    let x := c.writePasses (s.freeUnits r.core) c.held qs
    exec (.writeReservationGrant r) s =
      if qs.length - x.2.length = 0 || !s.laneSlot r.core then .next s
      else .next ((s.modCrew c.id fun d => d.passesMade r.path size e x).noteSlots r.core c.id r.path true e
        (qs.length - x.2.length)) := by
  intro x
  change execWriteReservationGrant r s = _
  simp only [execWriteReservationGrant, h.at_, hw]
  rfl

theorem passesMade_eq {i : Nat} (hp : c.paths[i]? = some p) (size e : Nat) (x : Crew × List PassOut) :
    c.passesMade i size e x = { c with v := x.1.v, prop := x.1.prop }.withPath i
      (if x.2 = [] then p.pastLane size else { p with want := some (.passes size e x.2) }) :=
  (modPath_eq_withPath (c := { c with v := x.1.v, prop := x.1.prop }) hp _).trans (by simp only [List.isEmpty_iff])

/-- The next pass writes, then those after it that fit, each in a lane slot of its own (R84, R118). -/
theorem writeReservationGrant_makes (h : Named s r c p) {size e : Nat} {q : PassOut} {rest : List PassOut}
    (hw : p.want = some (.passes size e (q :: rest))) {k : Core} (hk : s.cores[r.core]? = some k) (hl : k.laneUsed < 4)
    (hn : c.passNeed q ≤ s.freeUnits r.core) :
    let d := q.outs.foldl (fun e o => e.writePass (e.propWord q.g) q.act o.1 q.g o.2) c
    let x := d.writePasses (s.freeUnits r.core) c.held rest
    ∃ t, exec (.writeReservationGrant r) s = .next t
      ∧ IssuesOn s t r.core r.path true e (rest.length + 1 - x.2.length) c (c.passesMade r.path size e x) := by
  intro d x
  have hx : c.writePasses (s.freeUnits r.core) c.held (q :: rest) = x := writePasses_fits hn rest
  have hmade : rest.length + 1 - x.2.length ≠ 0 := by
    have hlen : x.2.length ≤ rest.length := writePasses_length ..
    omega
  have key := exec_writeReservationGrant_passes h hw
  rw [hx, laneSlot_eq hk, decide_eq_true hl] at key
  let f : Crew → Crew := fun d => d.passesMade r.path size e x
  have hfind : (s.modCrew c.id f).crewOf c.id = some (f c) := crewOf_modCrew_self (f := f) (fun _ => rfl) h.crew
  exact ⟨_, key.trans (if_neg (by simpa using hmade)),
    (issuesOn_noteSlots (c := f c) hfind r.core r.path true e _).after_modCrew (f := f) (fun _ => rfl) rfl⟩

end Grants

theorem grantsServeTheFirstWaiter : Claims.GrantsServeTheFirstWaiter := by
  intro r s c p h goes
  refine ⟨fun d n hw hf => ⟨fun hr => reggrowGrant_noSlot h hw hr, fun hr hn => ?_⟩,
    fun d res rc hw hv hf => ⟨fun hr => obresGrant_noSlot h hw hr, fun x hr hx => ?_, fun hx => obresGrant_noRoom h hw hx⟩,
    fun n hw => ?_, fun size e q rest hw => ?_⟩
  · have hent : (c.grow d (max n c.nRegs)).paths[r.path]? = some p := by rw [grow_paths]; exact h.entry
    refine ⟨_, _, reggrowGrant_grants h hw hf hr hn,
      issuesOn_grantWord (f := fun c => c.grow d (max n c.nRegs)) h.crew (fun _ => grow_id ..) (sset_team ..) .., grow_nRegs ..,
      grow_s .., path_modPath_self hent _, fun v g hg hv => ?_, fun v g hg hlo hhi => ?_⟩
    · exact (liveReg_grow c d _ v hg).trans (if_pos (.inl hv))
    · exact (liveReg_grow c d _ v hg).trans (if_neg (by omega))
  · let v : Resv := ⟨x, recSize rc / 1024, rc, [], s.free⟩
    have hent : (c.reservedFor d res v).paths[r.path]? = some p := by rw [Crew.reservedFor, sset_paths]; exact h.entry
    exact ⟨_, _, v, obresGrant_grants h hw hv hf hr hx,
      issuesOn_grantWord (s := { s with free := s.free + 1 }) (f := fun c => c.reservedFor d res v) h.crew (fun _ => sset_id ..)
        (sset_team ..) .., reservedFor_resv .., rfl, rfl, rfl, reservedFor_s .., path_modPath_self hent _⟩
  · have key := exec_writeReservationGrant_units h hw
    refine ⟨fun hn => ?_, fun hn => key.trans (if_neg (Nat.not_le.mpr hn))⟩
    rw [if_pos hn] at key
    let f : Crew → Crew := fun c => c.modPath r.path fun p => { p with want := none, wait := none }
    rw [← modPath_eq_withPath h.entry fun p => { p with want := none, wait := none }]
    exact ⟨_, key, onlyCrew_modCrew (f := f) (fun _ => rfl) s c.id, crewOf_modCrew_self (f := f) (fun _ => rfl) h.crew⟩
  · have key := exec_writeReservationGrant_passes h hw
    refine ⟨fun hn => ?_, fun k hk hl => ?_, fun k hk hl hn => ?_⟩
    · rw [writePasses_waits hn] at key
      exact key.trans (if_pos (by simp))
    · rw [laneSlot_eq hk, decide_eq_false (Nat.not_lt.mpr hl)] at key
      exact key.trans (if_pos (by simp))
    · obtain ⟨t, ht, hon⟩ := writeReservationGrant_makes h hw hk hl hn
      rw [passesMade_eq h.entry] at hon
      exact ⟨t, ht, hon⟩

end Sys2Proof.Machine

end

section
/-! SUPPORT. Grants of a stand: pages, tiles and drained banks (R221, R223, R226, R230, R231): the clauses of the second claim that O34
joins, the one of TILE_ALLOTMENT for a path that waits for the tile. -/

namespace Sys2Proof.Machine

/-! ### Pages (R226) -/

/-- A team has pinned these pages, and keeps its scratchpad and the pins it had. -/
structure Team.PinsAll (gs : List Nat) (tm m : Team) : Prop where
  scr   : m.scr = tm.scr
  pages : ∀ g ∈ gs, (m.pins.any fun q => q.page == g) = true
  keeps : ∀ q ∈ tm.pins, q ∈ m.pins

/-- Pin the pages of a team one after another (R226). -/
def State.pinPages (s : State) (k team : Nat) (gs : List Nat) : Option State :=
  gs.foldl (fun o g => match o with | some u => State.pinPage u k team g | none => none) (some s)

theorem pinPages_nil (s : State) (k team : Nat) : s.pinPages k team [] = some s := rfl

theorem pinPages_cons (s : State) (k team g : Nat) (gs : List Nat) :
    s.pinPages k team (g :: gs) = (s.pinPage k team g).bind fun u => u.pinPages k team gs := by
  rw [State.pinPages, List.foldl_cons]
  cases hu : s.pinPage k team g with
  | some u => simp only [hu]; rfl
  | none =>
    simp only [hu, Option.bind_none]
    exact List.foldlRecOn (motive := (· = none)) gs _ rfl fun o ho g _ => by rw [ho]

theorem pinPage_pins {s u : State} {k team g : Nat} {tm : Team} (ht : s.teamOf team = some tm) (h : s.pinPage k team g = some u) :
    u = { s with teams := u.teams } ∧ ∃ m, u.teamOf team = some m ∧ tm.PinsAll [g] m := by
  simp only [State.pinPage, ht] at h
  split at h
  · rename_i hp
    obtain rfl := Option.some.inj h
    exact ⟨rfl, tm, ht, rfl, by simpa using hp, fun q hq => hq⟩
  · split at h
    · rename_i f hf
      obtain rfl := Option.some.inj h
      let add : Team → Team := fun t => { t with pins := t.pins ++ [⟨g, f, false⟩], bytes := t.bytes + 4096 }
      exact ⟨rfl, add tm, teamOf_modTeam_self (f := add) (fun _ => rfl) ht, rfl, by simp [add], fun q hq => List.mem_append_left _ hq⟩
    · cases h

theorem pinPages_pins {s u : State} {k team : Nat} {gs : List Nat} {tm : Team} (ht : s.teamOf team = some tm)
    (h : s.pinPages k team gs = some u) : u = { s with teams := u.teams } ∧ ∃ m, u.teamOf team = some m ∧ tm.PinsAll gs m := by
  induction gs generalizing s tm with
  | nil =>
    obtain rfl := Option.some.inj h
    exact ⟨rfl, tm, ht, rfl, fun g hg => absurd hg List.not_mem_nil, fun q hq => hq⟩
  | cons g gs ih =>
    rw [pinPages_cons, Option.bind_eq_some_iff] at h
    obtain ⟨v, hv, h⟩ := h
    obtain ⟨hs, mv, hm, hscr, hpage, hkeep⟩ := pinPage_pins ht hv
    obtain ⟨hu, m, hmu, hscr', hpages, hkeep'⟩ := ih hm h
    refine ⟨by rw [hu, hs], m, hmu, hscr'.trans hscr, fun x hx => ?_, fun q hq => hkeep' q (hkeep q hq)⟩
    rcases List.mem_cons.mp hx with rfl | hx
    · obtain ⟨q, hq, hqx⟩ := List.any_eq_true.mp (hpage x (List.mem_singleton.mpr rfl))
      exact List.any_eq_true.mpr ⟨q, hkeep' q hq, hqx⟩
    · exact hpages x hx

section Stand
variable {s : State} {r : PathRef} {c : Crew} {p : Path} {tm : Team}

theorem exec_scratchRefillDone (h : Named s r c p) (hr : p.refill ≠ []) :
    exec (.scratchRefillDone r) s = match s.pinPages (standOfCore r.core) c.team p.refill with
      | some u => .next (u.modCrew c.id fun c => c.modPath r.path fun p => { p with refill := [], want := none, wait := none })
      | none => .next s := by
  change execScratchRefillDone r s = _
  have he : p.refill.isEmpty = false := by simpa using hr
  simp only [execScratchRefillDone, h.at_, he, Bool.false_eq_true, if_false]
  rfl

/-- SCRATCH_REFILL_DONE pins every page that the path waits for, and its word runs again, or it has no effect (R226). -/
theorem scratchRefillDone_pins (h : Named s r c p) (ht : s.teamOf c.team = some tm) (hr : p.refill ≠ []) :
    (∀ u, s.pinPages (standOfCore r.core) c.team p.refill = some u → ∃ t m, exec (.scratchRefillDone r) s = .next t
      ∧ t.crewOf c.id = some (c.withPath r.path { p with refill := [], want := none, wait := none }) ∧ SameMemory s t
      ∧ t.teamOf c.team = some m ∧ tm.PinsAll p.refill m)
    ∧ (s.pinPages (standOfCore r.core) c.team p.refill = none → Idle (.scratchRefillDone r) s) := by
  have key := exec_scratchRefillDone h hr
  refine ⟨fun u hu => ?_, fun hu => ?_⟩
  · rw [hu] at key
    obtain ⟨hs, m, hm, hpins⟩ := pinPages_pins ht hu
    let f : Crew → Crew := fun c => c.modPath r.path fun p => { p with refill := [], want := none, wait := none }
    have hcrew : u.crewOf c.id = some c := by rw [hs]; exact h.crew
    refine ⟨_, m, key, ?_, fun a => by rw [hs]; rfl, hm, hpins⟩
    rw [← modPath_eq_withPath h.entry fun p => { p with refill := [], want := none, wait := none }]
    exact crewOf_modCrew_self (f := f) (fun _ => rfl) hcrew
  · rw [hu] at key
    exact key

/-! ### Tiles (R230, R231) -/

theorem tile_modTile_self {n : Nat} (hn : n < tm.tiles.length) (f : Tile → Tile) : (tm.modTile n f).tile n = f (tm.tile n) := by
  rw [Team.tile, Team.tile, Team.modTile, List.getD_eq_getElem?_getD, List.getD_eq_getElem?_getD, modAt_getElem?, if_pos rfl,
    List.getElem?_eq_getElem hn]
  rfl

theorem tile_modTile_ne {n j : Nat} (h : j ≠ n) (f : Tile → Tile) : (tm.modTile n f).tile j = tm.tile j := by
  simp [Team.tile, Team.modTile, List.getD_eq_getElem?_getD, modAt_getElem?, h.symm]

/-- A tile that has been allotted: empty, in some frames (R230). -/
def Tile.fresh (frames : List Nat) : Tile := ⟨true, false, 0, 0, [], frames⟩

/-- Allotting a tile changes no crew and no memory, and of its team that tile alone (R230). -/
theorem allotTile_allots (ht : s.teamOf c.team = some tm) (k : Nat) {n : Nat} (hn : n < tm.tiles.length) :
    ∃ m frames, (s.allotTile k c.team n).teamOf c.team = some m ∧ m.tile n = Tile.fresh frames ∧ ∀ j, j ≠ n → m.tile j = tm.tile j := by
  let empty : Team → Team := fun m => m.modTile n fun _ => ⟨true, false, 0, 0, [], []⟩
  let before := s.lentBanks k
  let u := (s.modTeam c.team empty).reclaim k before
  let place : Team → Team := fun m => m.modTile n fun x => { x with frames := (u.freeFrames k).take 64 }
  have he : u.teamOf c.team = some (empty tm) := teamOf_modTeam_self (f := empty) (fun _ => rfl) ht
  refine ⟨place (empty tm), (u.freeFrames k).take 64, teamOf_modTeam_self (f := place) (fun _ => rfl) he, ?_, fun j hj => ?_⟩
  · rw [tile_modTile_self (by simpa [empty, Team.modTile] using hn), tile_modTile_self hn]
    rfl
  · rw [tile_modTile_ne hj, tile_modTile_ne hj]

/-- A path that waited for its tile runs its word again. -/
def Path.gotTile (p : Path) : Path := match p.want with | some (.tile _) => { p with want := none, wait := none } | _ => p

theorem exec_tileAllotment (h : Named s r c p) (ht : s.teamOf c.team = some tm) (hj : tm.joints = []) {n : Nat}
    {rest : List (Nat × Nat × Nat)} (hw : s.tileWaits (standOfCore r.core) = (c.id, r.path, n) :: rest)
    (hroom : s.tileRoom (standOfCore r.core) = true) :
    exec (.tileAllotment r) s = .next ((if (tm.tile n).allot then s else s.allotTile (standOfCore r.core) c.team n).modCrew c.id
      fun c => c.modPath r.path Path.gotTile) := by
  change execTileAllotment r s = _
  have hnext : s.nextTileWait (standOfCore r.core) = some (c.id, r.path, n) := by
    rw [State.nextTileWait, hw, hroom]
    exact List.find?_cons_of_pos (by simp)
  have hheld : s.tileHeld (c.id, r.path, n) = (tm.tile n).allot := by simp only [State.tileHeld, h.crew, ht]
  simp only [execTileAllotment, h.at_, hnext, hheld, ht, hj, beq_self_eq_true, Bool.and_self, if_true, List.filter_nil, List.foldl_nil]
  rfl

/-- TILE_ALLOTMENT gives the first waiter of a stand its tile, empty where it was not allotted before, and the word that waits for it
runs again (R230, R231). -/
theorem tileAllotment_allots (h : Named s r c p) (ht : s.teamOf c.team = some tm) (hj : tm.joints = []) {n : Nat}
    (hp : p.want = some (.tile n)) {rest : List (Nat × Nat × Nat)}
    (hw : s.tileWaits (standOfCore r.core) = (c.id, r.path, n) :: rest) (hroom : s.tileRoom (standOfCore r.core) = true)
    (hn : n < tm.tiles.length) : ∃ t m, exec (.tileAllotment r) s = .next t
      ∧ t.crewOf c.id = some (c.withPath r.path { p with want := none, wait := none }) ∧ SameMemory s t ∧ t.teamOf c.team = some m
      ∧ (m.tile n).allot = true
      ∧ ((tm.tile n).allot = false → (m.tile n).bound = false ∧ (m.tile n).flags = 0 ∧ ∀ e, (m.tile n).elem e = 0)
      ∧ ∀ j, j ≠ n → m.tile j = tm.tile j := by
  have key := exec_tileAllotment h ht hj hw hroom
  have hgot : p.gotTile = { p with want := none, wait := none } := by simp only [Path.gotTile, hp]
  let f : Crew → Crew := fun c => c.modPath r.path Path.gotTile
  have hcrew : f c = c.withPath r.path { p with want := none, wait := none } := by rw [← hgot]; exact modPath_eq_withPath h.entry _
  rw [← hcrew]
  cases ha : (tm.tile n).allot with
  | true =>
    rw [ha] at key
    exact ⟨_, tm, key, crewOf_modCrew_self (f := f) (fun _ => rfl) h.crew, fun _ => rfl, ht, ha, fun hx => absurd hx (by decide),
      fun _ _ => rfl⟩
  | false =>
    rw [ha] at key
    obtain ⟨m, frames, hm, hfresh, hothers⟩ := allotTile_allots ht (standOfCore r.core) hn
    refine ⟨_, m, key, crewOf_modCrew_self (f := f) (fun _ => rfl) h.crew, fun _ => rfl, hm, ?_, fun _ => ?_, hothers⟩
    · rw [hfresh]
      rfl
    · rw [hfresh]
      exact ⟨rfl, rfl, fun _ => rfl⟩

end Stand

/-! ### Drained banks (R221, R223) -/

section Banks
variable {s : State} {stand bank : Nat}

theorem draining_setModes (s : State) (k : Nat) (bs : List Nat) (mode j b : Nat) :
    (s.setModes k bs mode).draining j b = s.draining j b := by
  simp only [State.draining, State.setModes, modStand_stands, modAt_getElem?]
  by_cases hk : k = j
  · rw [if_pos hk]
    cases s.stands[j]? <;> rfl
  · rw [if_neg hk]

theorem draining_endBankset (s : State) (k : Nat) (w : BankWait) (j b : Nat) : (s.endBankset k w).draining j b = s.draining j b := by
  unfold State.endBankset
  split
  · rfl
  · exact draining_setModes ..

theorem sameMemory_endBankset (s : State) (k : Nat) (w : BankWait) : SameMemory s (s.endBankset k w) := by
  unfold State.endBankset
  split
  · exact fun _ => rfl
  · exact fun _ => rfl

/-- The state in which a bank is drained no more, and jobs that wait for a frame go on. -/
def State.drainEnded (s : State) (stand bank : Nat) : State :=
  (s.modStand stand fun d => { d with drains := d.drains.filter fun b => b != bank }).wakeStand stand

theorem draining_drainEnded (s : State) (stand bank b : Nat) :
    (s.drainEnded stand bank).draining stand b = (s.draining stand b && b != bank) := by
  change State.draining (s.modStand stand _) stand b = _
  simp only [State.draining, modStand_stands, modAt_getElem?, if_true]
  cases s.stands[stand]? with
  | none => rfl
  | some d => simp [List.contains_eq_mem, Bool.decide_and, bne, beq_eq_decide]

/-- A drain's end leaves the banks their modes. -/
theorem modes_drainEnded (s : State) (stand bank : Nat) :
    ((s.drainEnded stand bank).stands[stand]?).map (·.modes) = (s.stands[stand]?).map (·.modes) := by
  change (State.stands (s.modStand stand _))[stand]?.map _ = _
  rw [modStand_stands, modAt_getElem?, if_pos rfl, Option.map_map]
  rfl

theorem bankMode_eq (s : State) (k b : Nat) : s.bankMode k b = (((s.stands[k]?).map (·.modes)).getD []).getD b 0 := by
  rw [State.bankMode]
  cases s.stands[k]? <;> rfl

theorem exec_bankDrainDone (hd : s.draining stand bank = true) : exec (.bankDrainDone stand bank) s
    = .next (((s.drainEnded stand bank).bankWaits stand).foldl (fun s w => s.endBankset stand w) (s.drainEnded stand bank)) := by
  change execBankDrainDone stand bank s = _
  exact if_pos hd

/-- BANK_DRAIN_DONE ends the drain of its bank alone (R221, R223). -/
theorem bankDrainDone_ends_drain (hd : s.draining stand bank = true) : ∃ t, exec (.bankDrainDone stand bank) s = .next t
    ∧ SameMemory s t ∧ t.draining stand bank = false ∧ ∀ b, b ≠ bank → t.draining stand b = s.draining stand b := by
  have inv : ∀ (ws : List BankWait) (u : State), let t := ws.foldl (fun s w => s.endBankset stand w) u
      SameMemory u t ∧ ∀ b, t.draining stand b = u.draining stand b := by
    intro ws u
    refine List.foldlRecOn (motive := fun t => SameMemory u t ∧ ∀ b, t.draining stand b = u.draining stand b) ws _
      ⟨fun _ => rfl, fun _ => rfl⟩ fun t ⟨hm, ht⟩ w _ => ⟨fun a => ?_, fun b => ?_⟩
    · rw [sameMemory_endBankset, hm]
    · rw [draining_endBankset, ht]
  obtain ⟨hm, hdr⟩ := inv ((s.drainEnded stand bank).bankWaits stand) (s.drainEnded stand bank)
  refine ⟨_, exec_bankDrainDone hd, hm, ?_, fun b hb => ?_⟩
  · rw [hdr, draining_drainEnded]
    simp
  · rw [hdr, draining_drainEnded]
    simp [hb]

/-- What the filter of zipped entries leaves where one entry alone passes. -/
theorem filterMap_zipIdx_single {α β : Type} {f : α × Nat → Option β} {xs : List α} {i n : Nat} {x : α} {y : β} (hx : xs[i]? = some x)
    (hy : f (x, n + i) = some y) (ho : ∀ k z, xs[k]? = some z → k ≠ i → f (z, n + k) = none) :
    (xs.zipIdx n).filterMap f = [y] := by
  induction xs generalizing i n with
  | nil => cases hx
  | cons z zs ih =>
    have hshift : ∀ k, n + 1 + k = n + (k + 1) := by omega
    rw [List.zipIdx_cons, List.filterMap_cons]
    cases i with
    | zero =>
      obtain rfl := Option.some.inj hx
      have hnone : (zs.zipIdx (n + 1)).filterMap f = [] := by
        rw [List.filterMap_eq_nil_iff]
        rintro ⟨w, m⟩ hm
        obtain ⟨hle, hlt, hw⟩ := List.mem_zipIdx hm
        have := ho (m - n) w (by
          rw [show m - n = (m - (n + 1)) + 1 by omega, List.getElem?_cons_succ, List.getElem?_eq_getElem (by omega), hw]) (by omega)
        rwa [show n + (m - n) = m by omega] at this
      rw [show f (z, n) = some y from hy, hnone]
    | succ i =>
      rw [show f (z, n) = none from ho 0 z rfl (by omega)]
      exact ih hx (by rw [hshift]; exact hy) fun k w hk hne => by rw [hshift]; exact ho (k + 1) w hk (by omega)

/-- Elements that give nothing may be left out. -/
theorem flatMap_eq_of_filter {α β : Type} {p : α → Bool} {f : α → List β} {xs : List α} (h : ∀ x ∈ xs, p x = false → f x = []) :
    xs.flatMap f = (xs.filter p).flatMap f := by
  induction xs with
  | nil => rfl
  | cons x xs ih =>
    have hxs := ih fun y hy => h y (List.mem_cons_of_mem _ hy)
    cases hp : p x with
    | true => rw [List.flatMap_cons, List.filter_cons_of_pos hp, List.flatMap_cons, hxs]
    | false => rw [List.flatMap_cons, List.filter_cons_of_neg (by simp [hp]), h x List.mem_cons_self hp, hxs, List.nil_append]

theorem bankMode_setModes {modes : List Nat} (hs : (s.stands[stand]?).map (·.modes) = some modes) (bs : List Nat) (mode : Nat) {b : Nat}
    (hb : b < modes.length) : (s.setModes stand bs mode).bankMode stand b = if b ∈ bs then mode else s.bankMode stand b := by
  obtain ⟨d, hd, rfl⟩ := Option.map_eq_some_iff.mp hs
  simp [State.bankMode, State.setModes, modStand_stands, modAt_getElem?, hd, List.getD_eq_getElem?_getD, hb]

/-- The wait of a path of a crew for banks, if it has one. -/
def bankWait? (cid : Nat) (e : Path × Nat) : Option BankWait := match e.1.want with
  | some (.banks no d ms mode) => some ⟨no, cid, e.2, d, ms, mode⟩
  | _ => none

theorem bankWait?_eq_none {q : Path} (h : ∀ w x y z, q.want ≠ some (.banks w x y z)) (cid k : Nat) : bankWait? cid (q, k) = none := by
  unfold bankWait?
  split
  · rename_i w x y z hq
    exact absurd hq (h w x y z)
  · rfl

/-- The waits for banks of a crew that is on a stand. -/
def State.bankWaitsOf (s : State) (k : Nat) (c : Crew) : List BankWait := match s.coreOf c.team with
  | some core => if standOfCore core == k then c.paths.zipIdx.filterMap (bankWait? c.id) else []
  | none => []

theorem bankWaits_eq (s : State) (k : Nat) : s.bankWaits k = sortBy (·.no) (s.crews.flatMap (s.bankWaitsOf k)) := rfl

section Bankset
variable {c : Crew} {i no mode core : Nat} {p : Path} {d : BitVec 6} {ms : List Nat}

/-- The one path that waits for banks is the only wait of its stand. -/
theorem bankWaits_single (hu : s.crews.filter (fun e => e.id == c.id) = [c]) (he : c.paths[i]? = some p)
    (hp : p.want = some (.banks no d ms mode)) (hc : s.coreOf c.team = some core) (hk : standOfCore core = stand)
    (ho : ∀ e ∈ s.crews, ∀ k q, e.paths[k]? = some q → (e.id, k) ≠ (c.id, i) → ∀ w x y z, q.want ≠ some (.banks w x y z)) :
    s.bankWaits stand = [⟨no, c.id, i, d, ms, mode⟩] := by
  have hother : ∀ e ∈ s.crews, (e.id == c.id) = false → s.bankWaitsOf stand e = [] := by
    intro e hmem hid
    have hne : e.id ≠ c.id := by simpa using hid
    have hnil : e.paths.zipIdx.filterMap (bankWait? e.id) = [] := by
      rw [List.filterMap_eq_nil_iff]
      rintro ⟨q, k⟩ hq
      exact bankWait?_eq_none (ho e hmem k q (List.mem_zipIdx_iff_getElem?.mp hq) fun hx => hne (congrArg Prod.fst hx)) e.id k
    rw [State.bankWaitsOf, hnil]
    cases s.coreOf e.team with
    | none => rfl
    | some _ => exact ite_self _
  have hmem : c ∈ s.crews := (List.mem_filter.mp (by rw [hu]; exact List.mem_singleton.mpr rfl)).1
  have hmine : s.bankWaitsOf stand c = [⟨no, c.id, i, d, ms, mode⟩] := by
    simp only [State.bankWaitsOf, hc, hk, beq_self_eq_true, if_true]
    refine filterMap_zipIdx_single he ?_ fun k q hq hne =>
      bankWait?_eq_none (ho c hmem k q hq fun hx => hne (congrArg Prod.snd hx)) c.id _
    simp only [bankWait?, hp, Nat.zero_add]
  rw [bankWaits_eq, flatMap_eq_of_filter hother, hu, List.flatMap_cons, hmine]
  rfl

/-- The crew and its path once a BANKSET has ended: it answers 0 and goes on (R221). -/
def Crew.banksetEnded (c : Crew) (i : Nat) (d : BitVec 6) : Crew := (c.modPath i Path.pastWord).sset d 0

/-- A BANKSET that no draining bank holds back, and that is the only one, gives its banks their mode and goes on (R221). -/
theorem endBankset_ends (hw : s.bankWaits stand = [⟨no, c.id, i, d, ms, mode⟩]) (hms : ∀ b ∈ ms, s.draining stand b = false) :
    s.endBankset stand ⟨no, c.id, i, d, ms, mode⟩ = (s.setModes stand ms mode).modCrew c.id fun c => c.banksetEnded i d := by
  have hdr : (ms.any fun b => s.draining stand b) = false := List.any_eq_false.mpr fun b hb => by simp [hms b hb]
  simp only [State.endBankset, hw, hdr, List.any_cons, List.any_nil, Nat.lt_irrefl, decide_false, Bool.false_and, Bool.or_self,
    Bool.false_eq_true, if_false]
  rfl

/-- With the last drain that a BANKSET waits for its banks have their mode, it answers 0 and its path goes on (R221, log 47). -/
theorem bankDrainDone_ends_bankset (hd : s.draining stand bank = true) (hf : s.crewOf c.id = some c)
    (hu : s.crews.filter (fun e => e.id == c.id) = [c]) (he : c.paths[i]? = some p) (hp : p.want = some (.banks no d ms mode))
    (hc : s.coreOf c.team = some core) (hk : standOfCore core = stand)
    (ho : ∀ e ∈ s.crews, ∀ k q, e.paths[k]? = some q → (e.id, k) ≠ (c.id, i) → ∀ w x y z, q.want ≠ some (.banks w x y z))
    (hlen : ∀ k, s.stands[stand]? = some k → k.modes.length = 32) (hms : ∀ b ∈ ms, s.draining stand b = true → b = bank) :
    ∃ t c', exec (.bankDrainDone stand bank) s = .next t ∧ t.crewOf c.id = some c' ∧ c'.s = (c.sset d 0).s
      ∧ c'.path i = p.pastWord ∧ ∀ b, b < 32 → t.bankMode stand b = if b ∈ ms then mode else s.bankMode stand b := by
  let u := s.drainEnded stand bank
  have hw : u.bankWaits stand = [⟨no, c.id, i, d, ms, mode⟩] := bankWaits_single (s := u) hu he hp hc hk ho
  have hfree : ∀ b ∈ ms, u.draining stand b = false := by
    intro b hb
    rw [draining_drainEnded]
    cases hx : s.draining stand b with
    | false => rfl
    | true => simp [hms b hb hx]
  have key := exec_bankDrainDone hd
  rw [hw, List.foldl_cons, List.foldl_nil, endBankset_ends hw hfree] at key
  let f : Crew → Crew := fun c => c.banksetEnded i d
  have hmodes : ∃ modes, (s.stands[stand]?).map (·.modes) = some modes ∧ modes.length = 32 := by
    unfold State.draining at hd
    cases hs : s.stands[stand]? with
    | none =>
      rw [hs] at hd
      cases hd
    | some k => exact ⟨k.modes, rfl, hlen k hs⟩
  obtain ⟨modes, hmodes, hl⟩ := hmodes
  refine ⟨_, f c, key, crewOf_modCrew_self (f := f) (fun _ => sset_id ..) hf, sset_s_congr (by rfl) d 0,
    (sset_path ..).trans (path_modPath_self he _), fun b hb => ?_⟩
  have hb' : b < modes.length := hl.symm ▸ hb
  have hset := bankMode_setModes (s := u) ((modes_drainEnded s stand bank).trans hmodes) ms mode hb'
  rwa [bankMode_eq u, modes_drainEnded, ← bankMode_eq] at hset

end Bankset

end Banks

end Sys2Proof.Machine

end

section

/-! SUPPORT. A joint of one team that names the path of another team's crew: TILE_ALLOTMENT gives the crew's team the tile, and does not
touch the path, which asks for none (R231, R301). So the path that waits for something else waits on, which the statement of the
grants denies. -/

namespace Sys2Proof.Machine

/-- A path that waits for a free dependence slot, and asks to be granted nothing. -/
def slotWaiter : Path := { twoGroupPath with wait := some stSlots }

/-- A crew with this path in entry 0. -/
def slotWaiterCrew : Crew := { twoGroupCrew with paths := slotWaiter :: List.replicate 8 Path.empty, words := [] }

/-- An arrival of crew 3 at entry 0 that names tile 1. -/
def strayArrival : Arrival where
  pos := 0
  group := 0
  crew := 3
  path := 0
  wid := 9
  lanes := 1
  tile := 1
  res := 0
  slab := 0
  fmt := 0
  regs := []
  shadow := 0
  acc := 0
  thr := 0
  clk := []
  latched := none

/-- A team of the same core with a joint that waits for its tile, and whose first arrival is not of its crews. -/
def strayTeam : Team := { newTeam 5 frameLaunch 0 0 with joints := [⟨0, 0, [strayArrival], [], 0, true⟩] }

/-- The crew's own team, which has no joint. -/
def slotWaiterTeam : Team := newTeam 2 frameLaunch 0 0

/-- The machine with both teams on core 0, and this crew of the first. -/
def strayJointState : State := { twoGroupState with teams := [slotWaiterTeam, strayTeam], crews := [slotWaiterCrew] }

theorem strayJointState_named : Named strayJointState ⟨0, 0, 0⟩ slotWaiterCrew slotWaiter := by
  constructor <;> decide +kernel

theorem strayJointState_waits : strayJointState.tileWaits (standOfCore 0) = [(slotWaiterCrew.id, 0, 1)]
    ∧ strayJointState.tileRoom (standOfCore 0) = true := by
  constructor <;> decide +kernel

/-- The path waits on for its dependence slot. -/
theorem strayJoint_leaves_wait :
    ((nextState? (exec (.tileAllotment ⟨0, 0, 0⟩) strayJointState)).bind fun t => t.crewOf 3).map (fun c => (c.path 0).wait)
      = some (some stSlots) := by
  decide +kernel

/-- Refutes O34: the first wait for a tile may be that of another team's joint whose arrival names the path, and TILE_ALLOTMENT then
leaves the path at what it waits for. The clause lacks the premise of `tileAllotment_allots` that the path itself waits for the tile. -/
theorem not_grantsLetWordsRunAgain : ¬ Obligations.GrantsLetWordsRunAgain := by
  rintro ⟨-, stand, -⟩
  obtain ⟨waits, room⟩ := strayJointState_waits
  obtain ⟨-, tile⟩ := stand ⟨0, 0, 0⟩ strayJointState slotWaiterCrew slotWaiter slotWaiterTeam strayJointState_named rfl
  obtain ⟨t, -, ht, hc, -⟩ := tile 1 [] waits room rfl (by decide)
  have left := strayJoint_leaves_wait
  rw [ht, nextState?, Option.bind_some, show t.crewOf 3 = _ from hc] at left
  exact absurd left (by decide +kernel)

end Sys2Proof.Machine

end

section
/-! SUPPORT. Closing lanes of a proposal (R137): what `Crew.close` leaves in each lane's counters, in the proposal, and in the live
registers of its window; and the shadow that PROPOSE copies (R136), which is stored in the same order. -/

namespace Sys2Proof.Machine

/-! ### Changing many keys of a sparse map -/

section Keys
variable {α β : Type} [DecidableEq α] (d : α) (key : β → Nat) (f : β → α → α)

/-- Change the entries at the keys of a list, one after another. -/
def SMap.updates (xs : List β) (m : SMap α) : SMap α := xs.foldl (fun m x => SMap.set d m (key x) (f x (SMap.get d m (key x)))) m

theorem smap_get_updates_of_notMem {xs : List β} (m : SMap α) {k : Nat} (hk : k ∉ xs.map key) :
    SMap.get d (SMap.updates d key f xs m) k = SMap.get d m k := by
  refine List.foldlRecOn (motive := fun n => SMap.get d n k = SMap.get d m k) xs _ rfl fun n hn x hx => ?_
  have hne : k ≠ key x := fun h => hk (List.mem_map.mpr ⟨x, hx, h.symm⟩)
  rw [smap_get_set_ne d n _ hne, hn]

/-- Where the keys differ, each is changed once. -/
theorem smap_get_updates {xs : List β} (hx : (xs.map key).Nodup) (m : SMap α) {x : β} (hm : x ∈ xs) :
    SMap.get d (SMap.updates d key f xs m) (key x) = f x (SMap.get d m (key x)) := by
  induction xs generalizing m with
  | nil => cases hm
  | cons y ys ih =>
    obtain ⟨hy, hys⟩ := List.nodup_cons.mp hx
    rw [SMap.updates, List.foldl_cons]
    rcases List.mem_cons.mp hm with rfl | hm
    · exact (smap_get_updates_of_notMem d key f _ hy).trans (smap_get_set_self ..)
    · refine (ih hys _ hm).trans ?_
      rw [smap_get_set_ne]
      exact fun h => hy (h ▸ List.mem_map_of_mem hm)

/-- A map whose entries at some lanes are changed alike. -/
theorem smap_get_updates_lanes (f : α → α) {ls : List Nat} (hl : ls.Nodup) (m : SMap α) (l : Nat) :
    SMap.get d (SMap.updates d id (fun _ => f) ls m) l = if l ∈ ls then f (SMap.get d m l) else SMap.get d m l := by
  rw [← List.map_id ls] at hl
  split
  next h => exact smap_get_updates d id (fun _ => f) hl m h
  next h => exact smap_get_updates_of_notMem d id (fun _ => f) m (by rwa [List.map_id])

end Keys

theorem mem_maskLanes {n : Nat} {m : Mask} {l : Nat} : l ∈ maskLanes n m ↔ l < n ∧ m.getLsbD l = true := by simp [maskLanes]

theorem nodup_maskLanes (n : Nat) (m : Mask) : (maskLanes n m).Nodup := List.nodup_range.filter _

/-! ### The group-registers of a window, register by register and group by group (R132) -/

/-- The key of place k of a walk through registers and groups, the registers counted from a base. -/
def windowKey (base groups k : Nat) : Nat := 32 * (base + k / groups) + k % groups

theorem windowKey_injective (base : Nat) {groups : Nat} (hg : groups ≤ 32) : Function.Injective (windowKey base groups) := by
  intro x y h
  unfold windowKey at h
  rcases Nat.eq_zero_or_pos groups with rfl | hpos
  · simpa using h
  · have hx := Nat.mod_lt x hpos
    have hy := Nat.mod_lt y hpos
    rw [← Nat.div_add_mod x groups, ← Nat.div_add_mod y groups, show x / groups = y / groups by omega,
      show x % groups = y % groups by omega]

theorem place_div {groups g : Nat} (hg : g < groups) (i : Nat) : (groups * i + g) / groups = i := by
  rw [Nat.mul_add_div (by omega), Nat.div_eq_of_lt hg, Nat.add_zero]

theorem place_mod {groups g : Nat} (hg : g < groups) (i : Nat) : (groups * i + g) % groups = g := by
  rw [Nat.mul_add_mod, Nat.mod_eq_of_lt hg]

theorem windowKey_place (base : Nat) {groups g : Nat} (hg : g < groups) (i : Nat) :
    windowKey base groups (groups * i + g) = 32 * (base + i) + g := by rw [windowKey, place_div hg, place_mod hg]

theorem place_lt {groups g len i : Nat} (hg : g < groups) (hi : i < len) : groups * i + g < len * groups := by
  have := Nat.mul_le_mul_left groups (Nat.succ_le_of_lt hi)
  rw [Nat.mul_succ] at this
  rw [Nat.mul_comm len]
  omega

/-- The shadow of a proposal that opens is a copy of the live window (R136). -/
theorem shadowReg_openProp {c : Crew} {base len : Nat} {m0 : Mask} {w : Proposal} (hw : (c.openProp base len m0).prop = some w)
    (hc : c.groups ≤ 32) {k g : Nat} (hk : k < len) (hg : g < c.groups) : w.shadowReg k g = c.liveReg (base + k) g := by
  obtain rfl := Option.some.inj hw
  have hnd : ((List.range (len * c.groups)).map (windowKey 0 c.groups)).Nodup := List.nodup_range.map (windowKey_injective 0 hc)
  have hget := smap_get_updates (.uni 0) (windowKey 0 c.groups) (fun k _ => c.liveReg (base + k / c.groups) (k % c.groups)) hnd []
    (List.mem_range.mpr (place_lt hg hk))
  rw [windowKey_place 0 hg, Nat.zero_add, place_div hg, place_mod hg] at hget
  rw [← hget]
  simp only [Proposal.shadowReg, SMap.updates, windowKey, Nat.zero_add]

/-! ### A mixture of two group-registers -/

theorem mixRegs_val (sel : W32) (a b : GReg) {j : Nat} (hj : j < 32) :
    (mixRegs sel a b).val j = if sel.getLsbD j then b.val j else a.val j := by simp [mixRegs, hj]

theorem mixRegs_tag (sel : W32) (a b : GReg) : (mixRegs sel a b).tag = 3 := rfl

/-- A lane of a part is a lane of the whole. -/
theorem getLsbD_left_of_and {m n : Mask} {l : Nat} (h : (m &&& n).getLsbD l = true) : m.getLsbD l = true :=
  (Bool.and_eq_true_iff.mp (BitVec.getLsbD_and ▸ h)).1

theorem groupWord_and (c : Crew) (m n : Mask) (g : Nat) : c.groupWord (m &&& n) g = c.groupWord m g &&& c.groupWord n g :=
  BitVec.extractLsb'_and

/-- A group with a lane of a part has a lane of the whole. -/
theorem groupWord_ne_zero_of_and {c : Crew} {m n : Mask} {g j : Nat} (h : (c.groupWord (m &&& n) g).getLsbD j = true) :
    c.groupWord m g ≠ 0 := by
  intro h0
  rw [groupWord_and, h0] at h
  simp at h

/-! ### Closing (R137) -/

/-- The counters once these lanes have counted once more. -/
def countLanes (ls : List Nat) (m : SMap W32) : SMap W32 := SMap.updates 0 id (fun _ => satInc) ls m

/-- The place of a walk through the window names a touched group-register with a lane among those closed. -/
def Crew.closes (c : Crew) (w : Proposal) (ls : Mask) (k : Nat) : Bool :=
  decide (c.groupWord ls (k % c.groups) ≠ 0 ∧ w.touched.contains (32 * (k / c.groups) + k % c.groups) = true)

/-- The group-register at a place of that walk, with the shadow in the lanes kept. -/
def Crew.keptReg (c : Crew) (w : Proposal) (kp : Mask) (k : Nat) (r : GReg) : GReg :=
  mixRegs (c.groupWord kp (k % c.groups)) r (w.shadowReg (k / c.groups) (k % c.groups))

/-- The live registers once the lanes kept have the shadow at those of some places that close. -/
def Crew.keptRegs (c : Crew) (w : Proposal) (ls kp : Mask) (ks : List Nat) : SMap GReg :=
  SMap.updates (.uni 0) (windowKey w.base c.groups) (c.keptReg w kp) (ks.filter (c.closes w ls)) c.v

/-- One place of that walk closes, or stays as it is. -/
def Crew.keepPlace (w : Proposal) (ls kp : Mask) (c : Crew) (k : Nat) : Crew :=
  if c.groupWord ls (k % c.groups) ≠ 0 ∧ w.touched.contains (32 * (k / c.groups) + k % c.groups) then
    c.setLive (w.base + k / c.groups) (k % c.groups) (c.keptReg w kp k (c.liveReg (w.base + k / c.groups) (k % c.groups)))
  else c

/-- What is left of a proposal once lanes of it are closed. -/
def Proposal.without (w : Proposal) (ls : Mask) : Option Proposal :=
  if w.lanes &&& ~~~ls = 0 then none else some { w with lanes := w.lanes &&& ~~~ls, defer := w.defer &&& ~~~ls }

theorem foldl_counted (kp : Mask) (ls : List Nat) (c : Crew) :
    ls.foldl (fun c l => { c with
      propd := SMap.set 0 c.propd l (satInc (SMap.get 0 c.propd l))
      acpt := if kp.getLsbD l then SMap.set 0 c.acpt l (satInc (SMap.get 0 c.acpt l)) else c.acpt }) c
    = { c with propd := countLanes ls c.propd, acpt := countLanes (ls.filter kp.getLsbD) c.acpt } := by
  induction ls generalizing c with
  | nil => rfl
  | cons l ls ih =>
    rw [List.foldl_cons, ih]
    cases hk : kp.getLsbD l with
    | true => simp [countLanes, SMap.updates, hk]
    | false => simp [countLanes, SMap.updates, hk]

theorem foldl_keepPlace (w : Proposal) (ls kp : Mask) (ks : List Nat) (c : Crew) :
    ks.foldl (Crew.keepPlace w ls kp) c = { c with v := c.keptRegs w ls kp ks } := by
  induction ks generalizing c with
  | nil => rfl
  | cons k ks ih =>
    rw [List.foldl_cons, ih]
    by_cases hk : c.groupWord ls (k % c.groups) ≠ 0 ∧ w.touched.contains (32 * (k / c.groups) + k % c.groups) = true
    · have hc : c.closes w ls k = true := decide_eq_true hk
      rw [Crew.keepPlace, if_pos hk, Crew.keptRegs, Crew.keptRegs, List.filter_cons_of_pos hc]
      rfl
    · have hc : ¬ c.closes w ls k = true := fun h => hk (of_decide_eq_true h)
      rw [Crew.keepPlace, if_neg hk, Crew.keptRegs, Crew.keptRegs, List.filter_cons_of_neg hc]

/-- The live registers after lanes have closed, where a test keeps some of them or where none is kept by rule. -/
def Crew.closedRegs (c : Crew) (w : Proposal) (ls : Mask) (keep : Option Mask) : SMap GReg :=
  if keep = none then c.v else c.keptRegs w ls (ls &&& keep.getD 0) (List.range (w.len * c.groups))

/-- What closing does to a crew with an open proposal: each lane counts, those kept count again, and the registers and the proposal
follow (R137). -/
theorem close_eq {c : Crew} {w : Proposal} (hw : c.prop = some w) (lanes : Mask) (keep : Option Mask) :
    c.close lanes keep = { c with
      propd := countLanes (maskLanes 1024 (lanes &&& w.lanes)) c.propd
      acpt := countLanes ((maskLanes 1024 (lanes &&& w.lanes)).filter (lanes &&& w.lanes &&& keep.getD 0).getLsbD) c.acpt
      v := c.closedRegs w (lanes &&& w.lanes) keep
      prop := w.without (lanes &&& w.lanes) } := by
  generalize hls : maskLanes 1024 (lanes &&& w.lanes) = ls
  rw [Crew.close, hw]
  simp only [hls, foldl_counted]
  cases keep with
  | none => simp only [if_true]; rfl
  | some kept =>
    simp only [reduceCtorEq, if_false]
    exact congrArg (fun e : Crew => { e with prop := w.without (lanes &&& w.lanes) })
      (foldl_keepPlace w (lanes &&& w.lanes) (lanes &&& w.lanes &&& kept) (List.range (w.len * c.groups)) _)

section Closed
variable {c : Crew} {w : Proposal} (hw : c.prop = some w) (lanes : Mask) (keep : Option Mask)
include hw

theorem close_prop : (c.close lanes keep).prop = w.without (lanes &&& w.lanes) := by rw [close_eq hw]
theorem close_v : (c.close lanes keep).v = c.closedRegs w (lanes &&& w.lanes) keep := by rw [close_eq hw]
theorem close_propd : (c.close lanes keep).propd = countLanes (maskLanes 1024 (lanes &&& w.lanes)) c.propd := by rw [close_eq hw]
theorem close_acpt : (c.close lanes keep).acpt
    = countLanes ((maskLanes 1024 (lanes &&& w.lanes)).filter (lanes &&& w.lanes &&& keep.getD 0).getLsbD) c.acpt := by
  rw [close_eq hw]

end Closed

theorem close_of_none {c : Crew} (h : c.prop = none) (lanes : Mask) (keep : Option Mask) : c.close lanes keep = c := by
  rw [Crew.close, h]

@[simp] theorem close_id (c : Crew) (lanes : Mask) (keep : Option Mask) : (c.close lanes keep).id = c.id := by
  cases h : c.prop with
  | none => rw [close_of_none h]
  | some w => rw [close_eq h]

@[simp] theorem close_paths (c : Crew) (lanes : Mask) (keep : Option Mask) : (c.close lanes keep).paths = c.paths := by
  cases h : c.prop with
  | none => rw [close_of_none h]
  | some w => rw [close_eq h]

theorem closedRegs_with (c : Crew) (ps : List Path) (x : SMap W32) (w : Proposal) (ls : Mask) (keep : Option Mask) :
    ({ c with paths := ps, draw := x } : Crew).closedRegs w ls keep = c.closedRegs w ls keep := rfl

/-- Closing neither reads nor changes the path table and the counts of draws. -/
theorem close_with (c : Crew) (ps : List Path) (x : SMap W32) (lanes : Mask) (keep : Option Mask) :
    ({ c with paths := ps, draw := x } : Crew).close lanes keep = { c.close lanes keep with paths := ps, draw := x } := by
  obtain h | ⟨w, h⟩ := Option.eq_none_or_eq_some c.prop
  · rw [close_of_none h, close_of_none (c := { c with paths := ps, draw := x }) h]
  · rw [close_eq h, close_eq (c := { c with paths := ps, draw := x }) h, closedRegs_with]

theorem close_s (c : Crew) (lanes : Mask) (keep : Option Mask) : (c.close lanes keep).s = c.s := by
  obtain h | ⟨w, h⟩ := Option.eq_none_or_eq_some c.prop
  · rw [close_of_none h]
  · rw [close_eq h]

/-- Lanes that are not of P do not close. -/
theorem close_inter {c : Crew} {w : Proposal} (hw : c.prop = some w) (lanes : Mask) (keep : Option Mask) :
    c.close (lanes &&& w.lanes) keep = c.close lanes keep := by
  rw [close_eq hw, close_eq hw, BitVec.and_assoc, BitVec.and_self]

theorem get_countLanes {ls : List Nat} (hl : ls.Nodup) (m : SMap W32) (l : Nat) :
    SMap.get 0 (countLanes ls m) l = if l ∈ ls then satInc (SMap.get 0 m l) else SMap.get 0 m l :=
  smap_get_updates_lanes 0 satInc hl m l

/-- A group-register of the window after lanes have closed under a test: mixed with its shadow where it was touched and has a lane
among them. -/
theorem get_keptRegs {c : Crew} (w : Proposal) (ls kp : Mask) (hc : c.groups ≤ 32) {k g : Nat} (hk : k < w.len) (hg : g < c.groups) :
    SMap.get (.uni 0) (c.keptRegs w ls kp (List.range (w.len * c.groups))) (32 * (w.base + k) + g) =
      if c.groupWord ls g ≠ 0 ∧ 32 * k + g ∈ w.touched then mixRegs (c.groupWord kp g) (c.liveReg (w.base + k) g) (w.shadowReg k g)
      else c.liveReg (w.base + k) g := by
  have hin : c.closes w ls (c.groups * k + g) = true ↔ c.groupWord ls g ≠ 0 ∧ 32 * k + g ∈ w.touched := by
    rw [Crew.closes, place_div hg, place_mod hg, decide_eq_true_iff, List.contains_iff_mem]
  have hinj := windowKey_injective w.base hc
  rw [Crew.liveReg, Crew.keptRegs, ← windowKey_place w.base hg k]
  split
  next h =>
    rw [smap_get_updates (.uni 0) _ _ ((List.nodup_range.filter (c.closes w ls)).map hinj) c.v
      (List.mem_filter.mpr ⟨List.mem_range.mpr (place_lt hg hk), hin.mpr h⟩), Crew.keptReg, place_div hg, place_mod hg]
  next h =>
    refine smap_get_updates_of_notMem (.uni 0) _ _ c.v fun hmem => h ?_
    obtain ⟨x, hx, hxk⟩ := List.mem_map.mp hmem
    rw [hinj hxk] at hx
    exact hin.mp (List.mem_filter.mp hx).2

theorem liveReg_close_none {c : Crew} {w : Proposal} (hw : c.prop = some w) (lanes : Mask) (v g : Nat) :
    (c.close lanes none).liveReg v g = c.liveReg v g := by rw [Crew.liveReg, close_v hw]; rfl

theorem liveReg_close_some {c : Crew} {w : Proposal} (hw : c.prop = some w) (lanes kept : Mask) (hc : c.groups ≤ 32) {k g : Nat}
    (hk : k < w.len) (hg : g < c.groups) :
    (c.close lanes (some kept)).liveReg (w.base + k) g =
      if c.groupWord (lanes &&& w.lanes) g ≠ 0 ∧ 32 * k + g ∈ w.touched then
        mixRegs (c.groupWord (lanes &&& w.lanes &&& kept) g) (c.liveReg (w.base + k) g) (w.shadowReg k g)
      else c.liveReg (w.base + k) g := by
  rw [Crew.liveReg, close_v hw]
  exact get_keptRegs w _ _ hc hk hg

theorem closingLanesKeepsTheShadow : Claims.ClosingLanesKeepsTheShadow := by
  intro c w lanes keep hw d ls kp
  have hnd : (maskLanes 1024 ls).Nodup := nodup_maskLanes 1024 ls
  have hprop : d.prop = w.without ls := close_prop hw lanes keep
  refine ⟨fun l hl => ?_, fun l hl => ?_, fun h => ?_, fun h => ?_, fun k g j hk hg hc hj => ?_, fun k g hk hg hc => ?_, fun h => ?_⟩
  · have hd : d.propd = countLanes (maskLanes 1024 ls) c.propd := close_propd hw lanes keep
    rw [hd, get_countLanes hnd]
    simp only [mem_maskLanes, hl, true_and]
  · have hd : d.acpt = countLanes ((maskLanes 1024 ls).filter kp.getLsbD) c.acpt := close_acpt hw lanes keep
    have hsub : ls.getLsbD l = true ∧ kp.getLsbD l = true ↔ kp.getLsbD l = true := and_iff_right_of_imp getLsbD_left_of_and
    rw [hd, get_countLanes (hnd.filter _)]
    simp only [List.mem_filter, mem_maskLanes, hl, true_and, hsub]
  · rw [hprop, Proposal.without, if_pos h]
  · rw [hprop, Proposal.without, if_neg h]
  · cases keep with
    | none =>
      have hkp : kp = 0 := BitVec.and_zero
      have hbit : ¬ (c.groupWord kp g).getLsbD j = true := by simp [hkp, Crew.groupWord]
      rw [if_neg fun h => hbit h.2, liveReg_close_none hw]
    | some kept =>
      rw [liveReg_close_some hw lanes kept hc hk hg]
      by_cases ht : c.groupWord ls g ≠ 0 ∧ 32 * k + g ∈ w.touched
      · rw [if_pos ht, mixRegs_val _ _ _ hj]
        exact if_congr (by simp only [ht.2, true_and]; exact Iff.rfl) rfl rfl
      · rw [if_neg ht, if_neg fun h => ht ⟨groupWord_ne_zero_of_and h.2, h.1⟩]
  · cases keep with
    | none => rw [if_neg fun h => h.1 rfl, liveReg_close_none hw]
    | some kept =>
      rw [liveReg_close_some hw lanes kept hc hk hg, apply_ite GReg.tag, mixRegs_tag]
      exact if_congr ⟨fun h => ⟨nofun, h.2, h.1⟩, fun h => ⟨h.2.2, h.2.1⟩⟩ rfl rfl
  · exact (close_v hw lanes keep).trans (if_pos h)

end Sys2Proof.Machine

end

section
/-! SUPPORT. The words of the proposal bank: PROPOSE (R136), ABANDON (R140), PSTAT (R141) and ACCEPT (R139). -/

namespace Sys2Proof.Machine

section Words
variable {s : State} {c : Crew} {i : Nat} {p : Path}

/-! ### PROPOSE and ABANDON (R136, R140) -/

theorem exec_propose_badWindow (h : Issuing s c i p) {base : BitVec 8} {len : BitVec 4}
    (hb : c.badWindow base.toNat (len.toNat + 1) = true) : exec (.propose base len) s = scalarFault s c p 1 0 := by
  change execPropose base len s = _
  rw [execPropose, withCur_of h]
  exact if_pos hb

/-- A PROPOSE of a legal window for which nothing is outstanding (R136). -/
theorem exec_propose (h : Issuing s c i p) (hn : p.iss = none) (hp : p.isHandler = false) {base : BitVec 8} {len : BitVec 4}
    (hb : c.badWindow base.toNat (len.toNat + 1) = false)
    (hbusy : c.busyRegs ((List.range (len.toNat + 1)).map (· + base.toNat)) = false) :
    exec (.propose base len) s =
      if p.m0 = 0 then .next (s.advance 4)
      else if c.prop.isSome then scalarFault s c p 8 0
      else if c.nRegs < base.toNat + (len.toNat + 1) then scalarFault s c p 5 0
      else if s.crewFree c < c.windowCost base.toNat (len.toNat + 1) then
        waitWant s stRegs (.units (c.windowCost base.toNat (len.toNat + 1)))
      else .next ((s.modCur fun c => c.openProp base.toNat (len.toNat + 1) p.m0).advance 4) := by
  change execPropose base len s = _
  rw [execPropose, withCur_of h]
  simp only [hb, hbusy, Bool.false_eq_true, if_false, noHandler_of hp, if_neg (iss_isSome_of hn)]
  rfl

theorem exec_abandon (h : Issuing s c i p) (hn : p.iss = none) (hw : c.windowBusy = false) :
    exec .abandon s = .next ((s.modCur fun c => c.close p.m0 none).advance 4) := by
  change execAbandon s = _
  rw [execAbandon, withCur_of h, if_neg (iss_isSome_of hn), hw, if_neg Bool.false_ne_true]

theorem proposeAndAbandon : Claims.ProposeAndAbandon := by
  intro base len s c i p h hn hp n
  have hfaulting : p.m0 ≠ 0 → p.m0 = p.faulting := fun hm => (if_neg hm).symm
  refine ⟨fun hb => scalarFault_inPlace h hp rfl rfl rfl (exec_propose_badWindow h hb), fun hb hbusy => ?_, fun hw => ?_⟩
  · have key := exec_propose h hn hp hb hbusy
    refine ⟨fun hm => ?_, fun hm ho => ?_, fun hm ho hr => ?_, fun hm ho hr hfree => ?_⟩
    · rw [if_pos hm] at key
      exact completes_of_modCurPath h key
    · rw [if_neg hm, if_pos (Option.isSome_iff_ne_none.mpr ho)] at key
      rw [hfaulting hm]
      exact scalarFault_inPlace h hp rfl rfl rfl key
    · rw [if_neg hm, if_neg (by simp [ho]), if_pos hr] at key
      rw [hfaulting hm]
      exact scalarFault_inPlace h hp rfl rfl rfl key
    · rw [if_neg hm, if_neg (by simp [ho]), if_neg (Nat.not_lt.mpr hr), if_neg (Nat.not_lt.mpr hfree)] at key
      refine ⟨_, _, completes_of_modCur_advance h (f := fun c => c.openProp base.toNat n p.m0) (fun _ => rfl) rfl key, rfl, rfl, rfl,
        rfl, rfl, rfl, path_withPath (c := c.openProp base.toNat n p.m0) h.entry _, rfl, rfl, fun k g hk hg hc => ?_⟩
      exact shadowReg_openProp (m0 := p.m0) rfl hc hk hg
  · exact completes_of_modCur_advance h (fun _ => close_id ..) (close_paths ..) (exec_abandon h hn hw)

/-! ### PSTAT (R141) -/

theorem popNat_eq_countP (n x : Nat) : popNat n x = (List.range n).countP x.testBit := by
  induction n with
  | zero => rfl
  | succ n ih =>
    rw [popNat, ih, List.range_succ, List.countP_append, List.countP_singleton, Nat.add_comm]
    rfl

/-- The number of lanes of a mask. -/
theorem maskCount_eq_countP (m : Mask) : maskCount m = (List.range 1024).countP fun l => m.getLsbD l := popNat_eq_countP 1024 m.toNat

theorem foldl_add_eq_sum {α : Type} (f : α → Nat) (xs : List α) : xs.foldl (fun n x => n + f x) 0 = (xs.map f).sum := by
  rw [List.sum_eq_foldl, List.foldl_map]

/-- The sum of a counter over the lanes of a mask (R141). -/
def sumLanes (m0 : Mask) (m : SMap W32) : W64 := w64 ((maskLanes 1024 m0).foldl (fun n l => n + (SMap.get 0 m l).toNat) 0)

theorem sumLanes_eq (m0 : Mask) (m : SMap W32) : sumLanes m0 m
    = BitVec.ofNat 64 ((((List.range 1024).filter fun l => m0.getLsbD l).map fun l => (SMap.get 0 m l).toNat).sum) :=
  congrArg (BitVec.ofNat 64) (foldl_add_eq_sum ..)

/-- The state word of PSTAT, field by field (R141). -/
theorem propWord64_eq (c : Crew) : c.propWord64 = match c.prop with
    | some w => BitVec.ofNat 64 (1 + (if w.defer = 0 then 0 else 2) + w.base * 2 ^ 8 + (w.len - 1) * 2 ^ 16
        + ((List.range 1024).countP fun l => w.lanes.getLsbD l) * 2 ^ 32)
    | none => 0 := by
  rw [Crew.propWord64]
  cases c.prop with
  | none => rfl
  | some w =>
    have hdefer : bitAt (w.defer != 0) 1 = if w.defer = 0 then 0 else 2 := by
      by_cases hd : w.defer = 0
      · rw [if_pos hd, bitAt, bne_eq_false_iff_eq.mpr hd]
        rfl
      · rw [if_neg hd, bitAt, if_pos (bne_iff_ne.mpr hd), Nat.pow_one]
    simp only [hdefer, maskCount_eq_countP]

/-- What PSTAT reads (R141). -/
def Crew.pstat (c : Crew) (m0 : Mask) (sel : BitVec 2) : W64 :=
  if sel = 0 then c.propWord64 else if sel = 1 then sumLanes m0 c.propd else sumLanes m0 c.acpt

theorem exec_pstat (h : Issuing s c i p) (hn : p.iss = none) {d : BitVec 6} (hd : c.pending [d] = false) (sel : BitVec 2) :
    exec (.pstat d sel) s = .next ((s.modCur fun c => c.sset d (c.pstat p.m0 sel)).advance 4) := by
  change execPstat d sel s = _
  rw [execPstat, withCur_of h, if_neg (iss_isSome_of hn), scalarWord, withCur_of h, if_neg (by simp [hd])]
  refine congrArg (fun f => Host.Outcome.next ((s.modCur f).advance 4)) (funext fun e => congrArg (e.sset d) ?_)
  dsimp only
  split
  next h0 =>
    obtain rfl : sel = 0 := BitVec.eq_of_toNat_eq h0
    rfl
  next h1 =>
    obtain rfl : sel = 1 := BitVec.eq_of_toNat_eq h1
    rfl
  next h0 h1 => rw [Crew.pstat, if_neg fun h => h0 (congrArg BitVec.toNat h), if_neg fun h => h1 (congrArg BitVec.toNat h), sumLanes]

theorem pstatReads : Claims.PstatReads := by
  intro d sel s c i p h hn hd _
  have key := completes_of_answer h (exec_pstat h hn hd sel)
  rw [Crew.pstat, propWord64_eq, sumLanes_eq, sumLanes_eq] at key
  exact key

/-! ### ACCEPT (R139) -/

/-- A lane word that changes its crew but for the path table, and goes on. -/
theorem completes_of_laneEffect (h : Issuing s c i p) (k : Hdr) {ins : Instr} {f : Crew → Crew} (hf : ∀ e, (f e).id = e.id)
    (hp : ∀ e, (f e).paths = e.paths) {n : Nat} (he : exec ins s = .next (((s.entered k c i p).modCur f).advanceLane n)) :
    ∃ c', Completes ins s c c' ∧ PastLane p (c'.path i) n ∧ c' = { f (c.entered k i p) with paths := c'.paths } := by
  have h1 := issuing_entered h k
  have hentry : (f (c.entered k i p)).paths[i]? = some (p.entered k) := by rw [hp]; exact h1.entry
  let g : Crew → Crew := fun e => (f (e.entered k i p)).modPath i fun q => q.pastLane n
  have key : exec ins s = .next (s.modCrew c.id g) := by
    rw [he, modCur_of h1, advanceLane_of (h1.modCrew hf hentry)]
    refine congrArg Host.Outcome.next ?_
    rw [hf]
    exact (modCrew_modCrew hf (s.entered k c i p) c.id).trans (modCrew_modCrew (f := Crew.entered k i p) (fun _ => rfl) s c.id)
  refine ⟨g c, completes_of_modCrew h (f := g) (fun e => hf (e.entered k i p)) key, ?_, rfl⟩
  rw [show (g c).path i = _ from path_modPath_self hentry _, ← inSegment_entered p k]
  exact pastLane_inSegment p (p.entered k) n

/-- What the wrapper of the lane words sees of an ACCEPT. -/
def acceptInfo (h : Hdr) (d : BitVec 4) (a : BitVec 8) (b : Option (BitVec 8)) : LaneInfo where
  instr := .accept h d a b
  h := h
  late := []
  long := false
  counter := none
  reads := a.toNat :: (match b with | some r => [r.toNat] | none => [])
  writes := if d = 0 then [] else [maskReg d.toNat]

/-- The test of a lane against its register or its draw (R139). -/
def State.passesAccept (s : State) (c : Crew) (a : BitVec 8) (b : Option (BitVec 8)) (l : Nat) : Bool :=
  let r := FFmt.f32.value (c.vget a.toNat l).toNat
  match b with
  | some x => (FFmt.f32.value (c.vget x.toNat l).toNat).lt r
  | none => !r.isNan && drawBelow (s.draw c l 0 / 2 ^ 8 + 1) 24 r

theorem acceptTest_reg (s : State) (c : Crew) (a x : BitVec 8) (l : Nat) :
    acceptTest (c.vget a.toNat l).toNat (c.vget x.toNat l).toNat none = s.passesAccept c a (some x) l := rfl

theorem acceptTest_draw (s : State) (c : Crew) (a : BitVec 8) (y l : Nat) :
    acceptTest (c.vget a.toNat l).toNat y (some (randF32 (s.draw c l 0))) = s.passesAccept c a none l := rfl

/-- The lanes of a mask that pass the test. -/
def State.acceptLanes (s : State) (c : Crew) (a : BitVec 8) (b : Option (BitVec 8)) (lanes : Mask) : Mask :=
  maskOf ((maskLanes 1024 lanes).filter (s.passesAccept c a b))

/-- The bits of the selected lanes written to m[d], where d is not 0 (R139, R162). -/
def Crew.putResult (c : Crew) (d : BitVec 4) (sel t : Mask) : Crew :=
  if d = 0 then c else { c with m := SMap.set 0 c.m d.toNat ((SMap.get 0 c.m d.toNat &&& ~~~sel) ||| (t &&& sel)) }

/-- The crew after an ACCEPT of some of its lanes of P, of which those of t pass: draws are taken, the lanes close, and the results
are written (R139). -/
def Crew.accepted (c : Crew) (d : BitVec 4) (draws : Bool) (sel lanes t : Mask) : Crew :=
  ((if draws then c.drawn lanes 1 else c).close lanes (some t)).putResult d sel t

theorem drawn_id (c : Crew) (lanes : Mask) (k : Nat) : (c.drawn lanes k).id = c.id := by rw [Crew.drawn]

/-- A state in which the crew has accepted is that after its close, and the results written by the operation of the lane words. -/
theorem modCur_accepted (h : Issuing s c i p) (d : BitVec 4) (draws : Bool) (sel lanes t : Mask) :
    (let u := s.modCur fun c => (if draws then c.drawn lanes 1 else c).close lanes (some t)
     if d = 0 then u else u.setMaskBits d sel t) = s.modCur fun c => c.accepted d draws sel lanes t := by
  have hid : ∀ e : Crew, ((if draws then e.drawn lanes 1 else e).close lanes (some t)).id = e.id := fun e => by
    rw [close_id, apply_ite Crew.id, drawn_id, ite_self]
  by_cases hd : d = 0
  · simp only [Crew.accepted, Crew.putResult, if_pos hd]
  · simp only [Crew.accepted, Crew.putResult, State.setMaskBits, if_neg hd, modCur_of h]
    simp only [State.modCur, cur_modCrew, h.cur]
    exact modCrew_modCrew hid s c.id

theorem exec_accept (hdr : Hdr) (d : BitVec 4) (a : BitVec 8) (b : Option (BitVec 8)) (h : LaneReady s c i p (acceptInfo hdr d a b))
    (hw : c.windowBusy = false) : exec (.accept hdr d a b) s =
      let sel := selMask c p hdr
      let ins := Instr.accept hdr d a b
      match c.prop with
      | none => laneFault (s.entered hdr c i p) c (p.entered hdr) ins.size 8 0 sel
      | some w =>
        .next (((s.entered hdr c i p).modCur fun e =>
          e.accepted d b.isNone sel (sel &&& w.lanes) (s.acceptLanes c a b (sel &&& w.lanes))).advanceLane ins.size) := by
  change execAccept hdr d a b s = _
  unfold execAccept
  dsimp only
  rw [withCur_of h.path]
  refine (if_neg (by simp [hw])).trans ((laneWord_ready h rfl).trans ?_)
  cases hp : c.prop with
  | none => rfl
  | some w =>
    have key := fun t => modCur_accepted (issuing_entered h.path hdr) d b.isNone (selMask c p hdr) (selMask c p hdr &&& w.lanes) t
    cases b with
    | none =>
      simp only [acceptTest_draw]
      exact congrArg (fun u => Host.Outcome.next (State.advanceLane u _)) (key _)
    | some x =>
      simp only [acceptTest_reg s]
      exact congrArg (fun u => Host.Outcome.next (State.advanceLane u _)) (key _)

end Words

/-! ### What an ACCEPT leaves (R137, R139) -/

theorem drawn_draw (c : Crew) (lanes : Mask) (k : Nat) {l : Nat} (hl : l < 1024) :
    SMap.get 0 (c.drawn lanes k).draw l = if lanes.getLsbD l then SMap.get 0 c.draw l + w32 k else SMap.get 0 c.draw l := by
  have hdraw : (c.drawn lanes k).draw = SMap.updates 0 id (fun _ x => x + w32 k) (maskLanes 1024 lanes) c.draw := by
    rw [Crew.drawn]
    generalize maskLanes 1024 lanes = ls
    rfl
  rw [hdraw, smap_get_updates_lanes 0 (· + w32 k) (nodup_maskLanes 1024 lanes)]
  simp only [mem_maskLanes, hl, true_and]

theorem drawn_withPaths (c : Crew) (ps : List Path) (lanes : Mask) (k : Nat) :
    ({ c with paths := ps } : Crew).drawn lanes k = { c with paths := ps, draw := (c.drawn lanes k).draw } := by
  rw [Crew.drawn, Crew.drawn]

theorem putResult_with (c : Crew) (ps : List Path) (x : SMap W32) (d : BitVec 4) (sel t : Mask) :
    ({ c with paths := ps, draw := x } : Crew).putResult d sel t
      = { c with paths := ps, draw := x, m := (c.putResult d sel t).m } := by
  unfold Crew.putResult
  split <;> rfl

/-- The crew whose path table is ps accepts: it closes as the crew does, its results are in a mask register, and its draws are
counted. -/
theorem accepted_eq (c : Crew) (ps : List Path) (d : BitVec 4) (draws : Bool) (sel lanes t : Mask) :
    ({ c with paths := ps } : Crew).accepted d draws sel lanes t = { c.close lanes (some t) with
      paths := ps
      m := ((c.close lanes (some t)).putResult d sel t).m
      draw := if draws then (c.drawn lanes 1).draw else c.draw } := by
  cases draws with
  | false =>
    have hclose := close_with c ps c.draw lanes (some t)
    rw [Crew.accepted, if_neg Bool.false_ne_true, hclose, putResult_with, if_neg Bool.false_ne_true]
  | true => rw [Crew.accepted, if_pos rfl, drawn_withPaths, close_with, putResult_with, if_pos rfl]

/-- The bits of the selected lanes are those of the test, and the other bits stay (R139). -/
theorem mget_putResult_self (c : Crew) (p : Path) {d : BitVec 4} (hd : d ≠ 0) (sel t : Mask) {l : Nat} (hl : l < 1024) :
    ((c.putResult d sel t).mget p d).getLsbD l = if sel.getLsbD l then t.getLsbD l else (c.mget p d).getLsbD l := by
  rw [Crew.putResult, if_neg hd, Crew.mget, Crew.mget, if_neg hd, if_neg hd]
  exact (congrArg (fun m : Mask => m.getLsbD l) (smap_get_set_self ..)).trans (mixed_getLsbD _ sel t hl)

theorem mget_putResult_ne (c : Crew) (p : Path) {d k : BitVec 4} (hk : d = 0 ∨ k ≠ d) (sel t : Mask) :
    (c.putResult d sel t).mget p k = c.mget p k := by
  unfold Crew.putResult
  split
  · rfl
  next hd =>
    have hne : k.toNat ≠ d.toNat := fun h => hk.resolve_left hd (BitVec.eq_of_toNat_eq h)
    simp only [Crew.mget, smap_get_set_ne 0 c.m _ hne]

theorem entered_m0 (p : Path) (h : Hdr) : (p.entered h).m0 = p.m0 := by unfold Path.entered; split <;> rfl
theorem entered_isHandler (p : Path) (h : Hdr) : (p.entered h).isHandler = p.isHandler := by unfold Path.entered; split <;> rfl

/-- A record of the point at which the path has entered its segment is one of the point before. -/
theorem recorded_entered {r : TrapRec} {p : Path} {h : Hdr} {code detail : Nat} {f : Mask} {lane inPlace : Bool}
    (hr : Recorded r (p.entered h) code detail f lane inPlace) : Recorded r p code detail f lane inPlace := by
  unfold Path.entered at hr
  split at hr
  · exact ⟨hr.code, hr.detail, hr.spc, hr.lpc, hr.iss, hr.depth, hr.lcnt, hr.lanes, hr.lane, hr.inPlace, hr.running⟩
  · exact hr

section Accept
variable {s : State} {c : Crew} {i : Nat} {p : Path} {h : Hdr} {d : BitVec 4} {a : BitVec 8} {b : Option (BitVec 8)}
  (hr : LaneReady s c i p (acceptInfo h d a b)) (hbusy : c.windowBusy = false)
include hr hbusy

/-- An ACCEPT with no open proposal takes PROPOSAL_STATE in place, where its lanes are all of m0 (R139). -/
theorem accept_faults (hw : c.prop = none) (hsel : selMask c p h = p.m0) (hp : p.isHandler = false) :
    ∃ c' r, Completes (.accept h d a b) s c c' ∧ (c'.path i).st = .fault ∧ (c'.path i).trap = some r
      ∧ Recorded r p 8 0 (selMask c p h) true true ∧ c'.s = c.s ∧ c'.v = c.v := by
  have hi := issuing_entered hr.path h
  let f : Crew → Crew := fun e => (e.entered h i p).parkFault i (p.entered h) 8 0 s.nextId p.m0
  have key : exec (.accept h d a b) s = .next (s.modCrew c.id f) := by
    rw [exec_accept h d a b hr hbusy, hw]
    dsimp only
    rw [laneFault_inPlace ((entered_isHandler p h).trans hp) (by rw [entered_m0, hsel, BitVec.and_not_self]), curPath_of hi, hsel]
    exact congrArg Host.Outcome.next (modCrew_modCrew (f := Crew.entered h i p) (fun _ => rfl) s c.id)
  have hpath : (f c).path i = _ := parkFault_path hi.entry (p.entered h) 8 0 s.nextId p.m0
  rw [hsel]
  exact ⟨f c, _, completes_of_modCrew hr.path (fun _ => rfl) key, congrArg Path.st hpath, congrArg Path.trap hpath,
    recorded_entered ⟨rfl, rfl, rfl, rfl, rfl, rfl, rfl, rfl, rfl, rfl, rfl⟩, rfl, rfl⟩

/-- An ACCEPT with an open proposal closes its selected lanes of P under the test, and its path goes on (R139). -/
theorem accept_closes {w : Proposal} (hw : c.prop = some w) :
    let t := s.acceptLanes c a b (selMask c p h &&& w.lanes)
    ∃ c', Completes (.accept h d a b) s c c' ∧ PastLane p (c'.path i) (Instr.accept h d a b).size
      ∧ c' = { c.close (selMask c p h) (some t) with
          paths := c'.paths
          m := ((c.close (selMask c p h) (some t)).putResult d (selMask c p h) t).m
          draw := if b.isNone then (c.drawn (selMask c p h &&& w.lanes) 1).draw else c.draw } := by
  intro t
  have key := exec_accept h d a b hr hbusy
  rw [hw] at key
  have hid : ∀ e : Crew, (e.accepted d b.isNone (selMask c p h) (selMask c p h &&& w.lanes) t).id = e.id := fun e => by
    rw [accepted_eq e e.paths, close_id]
  obtain ⟨c', hc, hpast, he⟩ := completes_of_laneEffect hr.path h hid (fun e => by rw [accepted_eq e e.paths]) key
  refine ⟨c', hc, hpast, he.trans ?_⟩
  rw [show c.entered h i p = { c with paths := (c.entered h i p).paths } from rfl, accepted_eq, close_inter hw]

end Accept

theorem acceptClosesTheTestedLanes : Claims.AcceptClosesTheTestedLanes := by
  intro h d a b s c i p _ hbusy ins hr sel
  refine ⟨fun w hw => ?_, fun hw hsel hp => ?_⟩
  · intro passes t
    have ht : s.acceptLanes c a b (sel &&& w.lanes) = t := by
      have hpass : s.passesAccept c a b = passes := by cases b <;> rfl
      rw [State.acceptLanes, hpass]
      rfl
    obtain ⟨c', hc, hpast, he⟩ := accept_closes hr hbusy hw
    rw [ht] at he
    have hm : ∀ k, c'.mget p k = ((c.close sel (some t)).putResult d sel t).mget p k := fun k => by rw [he]; rfl
    have hold : ∀ k, (c.close sel (some t)).mget p k = c.mget p k := fun k => by rw [close_eq hw]; rfl
    refine ⟨c', hc, hpast, by rw [he], by rw [he], by rw [he], by rw [he], fun hd l hl => ?_, fun k _ hne => ?_, ?_, fun l hl => ?_⟩
    · rw [hm, mget_putResult_self _ p hd sel t hl, hold]
    · rw [hm, mget_putResult_ne _ p hne, hold]
    · rw [he]
      exact close_s ..
    · rw [he]
      cases b with
      | none => simp only [Option.isNone_none, if_true, true_and]; exact drawn_draw c _ 1 hl
      | some x => simp
  · obtain ⟨c', r, ⟨t, ht, honly, hcrew⟩, hst, htrap, hrec, hs, hv⟩ := accept_faults hr hbusy hw hsel hp
    exact ⟨t, c', r, ht, honly, hcrew, hst, htrap, hrec, hs, hv⟩

/-- Settles O15: PROPOSE copies its window register by register; closing changes each counter and each touched group-register of the
window once; ACCEPT is such a close under the wrapper of the lane words; PSTAT's counts and sums are those of the lanes. -/
theorem proposalsOpenTestAndClose : Obligations.ProposalsOpenTestAndClose :=
  ⟨proposeAndAbandon, closingLanesKeepsTheShadow, acceptClosesTheTestedLanes, pstatReads⟩

end Sys2Proof.Machine

end

section
/-! SUPPORT. The scalar arithmetic words (R149 to R157): what the operations of `Alu` compute, in the integers and natural numbers of the
rules, and the words as scalar words of these values. -/

namespace Sys2Proof.Machine

/-! ### Values (R150 to R157) -/

theorem mulhS_eq (x y : W64) : mulhS x y = BitVec.ofInt 64 (x.toInt * y.toInt / 2 ^ 64) := by
  rw [mulhS, Nat.cast_pow, Nat.cast_ofNat]

theorem mulhN_eq (x y : W64) : mulhN x y = BitVec.ofNat 64 (x.toNat * y.toNat / 2 ^ 64) := rfl

theorem mul_eq_ofNat (x y : W64) : x * y = BitVec.ofNat 64 (x.toNat * y.toNat) :=
  BitVec.eq_of_toNat_eq (by rw [BitVec.toNat_mul, BitVec.toNat_ofNat])

/-- A left shift by the width or more leaves nothing, as does the power of two reduced to the width (R150). -/
theorem shl64_eq (x y : W64) : shl64 x y = BitVec.ofNat 64 (x.toNat * 2 ^ y.toNat) := by
  apply BitVec.eq_of_toNat_eq
  rw [shl64, BitVec.toNat_ofNat]
  split
  · rw [BitVec.toNat_shiftLeft, Nat.shiftLeft_eq]
  next h =>
    obtain ⟨k, hk⟩ := Nat.exists_eq_add_of_le (Nat.not_lt.mp h)
    rw [hk, Nat.pow_add, Nat.mul_left_comm, Nat.mul_mod_right]
    rfl

theorem shr64_eq (x y : W64) : shr64 x y = BitVec.ofNat 64 (x.toNat / 2 ^ y.toNat) := by
  apply BitVec.eq_of_toNat_eq
  have hle : x.toNat / 2 ^ y.toNat < 2 ^ 64 := Nat.lt_of_le_of_lt (Nat.div_le_self ..) x.isLt
  rw [shr64, BitVec.toNat_ofNat, Nat.mod_eq_of_lt hle]
  split
  · rw [BitVec.toNat_ushiftRight, Nat.shiftRight_eq_div_pow]
  next h =>
    have hpow : x.toNat < 2 ^ y.toNat := Nat.lt_of_lt_of_le x.isLt (Nat.pow_le_pow_right (by decide) (Nat.not_lt.mp h))
    rw [Nat.div_eq_of_lt hpow]
    rfl

/-- An arithmetic right shift by the width or more leaves the sign, as does the quotient rounded down (R150). -/
theorem sar64_eq (x y : W64) : sar64 x y = BitVec.ofInt 64 (x.toInt / 2 ^ y.toNat) := by
  rw [sar64]
  split
  · rw [← BitVec.ofInt_toInt (x := x.sshiftRight y.toNat), BitVec.toInt_sshiftRight, Int.shiftRight_eq_div_pow, Nat.cast_pow,
      Nat.cast_ofNat]
  next h =>
    have hpow : (2 : ℤ) ^ 64 ≤ 2 ^ y.toNat := pow_le_pow_right₀ (by decide) (Nat.not_lt.mp h)
    have hlow := BitVec.le_toInt x
    have hhigh := BitVec.toInt_lt (x := x)
    split
    next hn =>
      have hneg : x.toInt < 0 := by simpa using BitVec.slt_iff_toInt_lt.mp hn
      rw [Int.ediv_eq_neg_one_of_neg_of_le hneg (by omega)]
      rfl
    next hn =>
      have hpos : 0 ≤ x.toInt := by
        have := mt BitVec.slt_iff_toInt_lt.mpr hn
        simpa using this
      rw [Int.ediv_eq_zero_of_lt hpos (by omega)]
      rfl

theorem minS_eq (x y : W64) : minS x y = BitVec.ofInt 64 (min x.toInt y.toInt) := by
  rw [minS]
  split
  next h => rw [min_eq_right (BitVec.slt_iff_toInt_lt.mp h).le, BitVec.ofInt_toInt]
  next h => rw [min_eq_left (not_lt.mp (mt BitVec.slt_iff_toInt_lt.mpr h)), BitVec.ofInt_toInt]

theorem maxS_eq (x y : W64) : maxS x y = BitVec.ofInt 64 (max x.toInt y.toInt) := by
  rw [maxS]
  split
  next h => rw [max_eq_right (BitVec.slt_iff_toInt_lt.mp h).le, BitVec.ofInt_toInt]
  next h => rw [max_eq_left (not_lt.mp (mt BitVec.slt_iff_toInt_lt.mpr h)), BitVec.ofInt_toInt]

theorem minN_eq (x y : W64) : minN x y = BitVec.ofNat 64 (min x.toNat y.toNat) := by
  rw [minN]
  split
  next h => rw [min_eq_right (BitVec.ult_iff_lt.mp h).le, BitVec.ofNat_toNat, BitVec.setWidth_eq]
  next h => rw [min_eq_left (not_lt.mp (mt BitVec.ult_iff_lt.mpr h)), BitVec.ofNat_toNat, BitVec.setWidth_eq]

theorem maxN_eq (x y : W64) : maxN x y = BitVec.ofNat 64 (max x.toNat y.toNat) := by
  rw [maxN]
  split
  next h => rw [max_eq_right (BitVec.ult_iff_lt.mp h).le, BitVec.ofNat_toNat, BitVec.setWidth_eq]
  next h => rw [max_eq_left (not_lt.mp (mt BitVec.ult_iff_lt.mpr h)), BitVec.ofNat_toNat, BitVec.setWidth_eq]

/-- The sign bit of a w-bit pattern (R57). -/
theorem testBit_top {w x : Nat} (hw : w ≠ 0) (hx : x < 2 ^ w) : x.testBit (w - 1) = decide (2 ^ (w - 1) ≤ x) := by
  obtain ⟨n, rfl⟩ := Nat.exists_eq_succ_of_ne_zero hw
  rw [Nat.succ_sub_one, Nat.testBit_eq_decide_div_mod_eq]
  by_cases h : 2 ^ n ≤ x
  · have hdiv : x / 2 ^ n = 1 := Nat.div_eq_of_lt_le (by omega) (by rw [Nat.pow_succ] at hx; omega)
    simp [hdiv, h]
  · simp [Nat.div_eq_of_lt (Nat.not_le.mp h), h]

/-- A w-bit pattern as a two's-complement number, by its sign bit (R57). -/
theorem sextNat_eq {w x : Nat} (hw : w ≠ 0) (hx : x < 2 ^ w) : sextNat w x = if x.testBit (w - 1) then (x : ℤ) - 2 ^ w else x := by
  rw [sextNat, Nat.mod_eq_of_lt hx, testBit_top hw hx]
  by_cases h : 2 ^ (w - 1) ≤ x
  · simp [h, hw]
  · simp [h]

/-- The field of SBFE, its sign carried where it has all its bits (R154). -/
theorem bfe64_eq (sgn : Bool) (x y : W64) : bfe64 sgn x y =
    let pos := y.toNat % 64
    let w := min (y.toNat / 2 ^ 8 % 2 ^ 7) 64
    let f := x.toNat / 2 ^ pos % 2 ^ min w (64 - pos)
    if w = 0 then 0
    else if sgn ∧ f.testBit (w - 1) then BitVec.ofInt 64 ((f : Int) - 2 ^ w)
    else BitVec.ofNat 64 f := by
  rw [bfe64]
  extract_lets pos w f
  have hf : f < 2 ^ w := Nat.lt_of_lt_of_le (Nat.mod_lt _ (Nat.two_pow_pos _)) (Nat.pow_le_pow_right (by decide) (Nat.min_le_left ..))
  change (if w = 0 then 0 else if sgn then BitVec.ofInt 64 (sextNat w f) else BitVec.ofNat 64 f) = _
  by_cases hw : w = 0
  · rw [if_pos hw, if_pos hw]
  · rw [if_neg hw, if_neg hw, sextNat_eq hw hf]
    cases sgn <;> cases f.testBit (w - 1) <;> simp

/-! ### The two-source words (R149, R150, R153, R154) -/

/-- A two-source word of the value f, whose literal is sign-extended. -/
theorem setsScalar_alu {ins : Instr} {d a : BitVec 6} {b : SSrc} {f v : W64 → W64 → W64} (he : ∀ s, exec ins s = scalarAlu s d a b f)
    (hv : ∀ x y, f x y = v x y) :
    SetsScalar ins (d :: a :: SSrc.regs b) d (SSrc.size b) fun c => v (c.sget a) (c.given false b) :=
  setsScalar_of he fun c => by rw [srcS_given, hv]

/-- A two-source word of the value f, whose literal is zero-extended. -/
theorem setsScalar_aluN {ins : Instr} {d a : BitVec 6} {b : SSrc} {f v : W64 → W64 → W64} (he : ∀ s, exec ins s = scalarAluN s d a b f)
    (hv : ∀ x y, f x y = v x y) :
    SetsScalar ins (d :: a :: SSrc.regs b) d (SSrc.size b) fun c => v (c.sget a) (c.given true b) :=
  setsScalar_of he fun c => by rw [srcN_given, hv]

theorem ssel_setsScalar (d a : BitVec 6) (b : SSrc) (k : BitVec 3) :
    SetsScalar (.ssel d a b k) (d :: a :: SSrc.regs b) d (SSrc.size b)
      fun c => if (c.cget k).getLsbD 0 then c.sget a else c.given false b :=
  setsScalar_of (fun _ => rfl) fun c => by rw [srcS_given]

/-- Settles O1: each word is a scalar word of its operation, which has the value of its rule. -/
theorem scalarTwoSourceResults : Obligations.ScalarTwoSourceResults := by
  intro d a b k sgn sets
  exact ⟨setsScalar_alu (fun _ => rfl) fun _ _ => rfl,
    setsScalar_alu (fun _ => rfl) fun _ _ => rfl,
    setsScalar_alu (fun _ => rfl) mul_eq_ofNat,
    setsScalar_alu (fun _ => rfl) mulhS_eq,
    setsScalar_aluN (fun _ => rfl) mulhN_eq,
    setsScalar_alu (fun _ => rfl) fun _ _ => rfl,
    setsScalar_alu (fun _ => rfl) fun _ _ => rfl,
    setsScalar_alu (fun _ => rfl) fun _ _ => rfl,
    setsScalar_alu (fun _ => rfl) shl64_eq,
    setsScalar_alu (fun _ => rfl) shr64_eq,
    setsScalar_alu (fun _ => rfl) sar64_eq,
    setsScalar_alu (fun _ => rfl) minS_eq,
    setsScalar_alu (fun _ => rfl) maxS_eq,
    setsScalar_aluN (fun _ => rfl) minN_eq,
    setsScalar_aluN (fun _ => rfl) maxN_eq,
    setsScalar_alu (fun _ => rfl) (bfe64_eq sgn),
    ssel_setsScalar d a b k⟩

/-! ### The one-source and immediate words (R155 to R157) -/

theorem popNat_toNat (x : W64) : w64 (popNat 64 x.toNat) = BitVec.ofNat 64 ((List.range 64).countP fun j => x.getLsbD j) := by
  rw [popNat_eq_countP]
  rfl

/-- The leading zeros of an n-bit pattern, by the place of its highest one (R155). -/
theorem clzNat_eq {n x : Nat} (hx : x < 2 ^ n) : clzNat n x = if x = 0 then n else n - 1 - x.log2 := by
  induction n with
  | zero =>
    obtain rfl : x = 0 := by omega
    rfl
  | succ n ih =>
    have htop : x.testBit n = decide (2 ^ n ≤ x) := testBit_top n.succ_ne_zero hx
    rw [clzNat, htop, Nat.add_sub_cancel]
    by_cases h : 2 ^ n ≤ x
    · have hlog : x.log2 = n := Nat.log2_eq_iff (Nat.ne_of_gt (Nat.lt_of_lt_of_le (Nat.two_pow_pos n) h)) |>.mpr ⟨h, hx⟩
      have hne : x ≠ 0 := Nat.ne_of_gt (Nat.lt_of_lt_of_le (Nat.two_pow_pos n) h)
      simp [h, hlog, hne]
    · rw [ih (Nat.not_le.mp h)]
      by_cases h0 : x = 0
      · subst h0
        simp [Nat.add_comm]
      · have := (Nat.log2_lt h0).mpr (Nat.not_le.mp h)
        simp only [h, h0, decide_false, if_false, Bool.false_eq_true]
        omega

theorem clzNat_toNat (x : W64) : w64 (clzNat 64 x.toNat) = if x = 0 then 64 else BitVec.ofNat 64 (63 - x.toNat.log2) := by
  rw [clzNat_eq x.isLt]
  by_cases h : x = 0
  · subst h
    rfl
  · have : x.toNat ≠ 0 := fun e => h (BitVec.eq_of_toNat_eq e)
    rw [if_neg this, if_neg h]

theorem litHi_eq (lit : W32) (x : W64) : litHi lit x = BitVec.ofNat 64 (lit.toNat * 2 ^ 32 + x.toNat % 2 ^ 32) := by
  apply BitVec.eq_of_toNat_eq
  have h1 := lit.isLt
  have h2 : x.toNat % 2 ^ 32 < 2 ^ 32 := Nat.mod_lt _ (by decide)
  rw [litHi, BitVec.toNat_append, BitVec.extractLsb'_toNat, Nat.shiftRight_zero, ← Nat.shiftLeft_add_eq_or_of_lt h2,
    Nat.shiftLeft_eq, BitVec.toNat_ofNat]
  omega

theorem toNat_setWidth_shift (k : BitVec 6) : (k.setWidth 64 : W64).toNat = k.toNat :=
  BitVec.toNat_setWidth_of_le (by decide)

/-- A word of one source register, whose value v is computed as f. -/
theorem setsScalar_one {ins : Instr} {d a : BitVec 6} {n : Nat} {f v : W64 → W64}
    (he : ∀ s, exec ins s = scalarWord s d [a] n fun c => f (c.sget a)) (hv : ∀ x, f x = v x) :
    SetsScalar ins [d, a] d n fun c => v (c.sget a) :=
  setsScalar_of he fun _ => hv _

theorem scalarImmediateResults : Claims.ScalarImmediateResults := by
  intro d a k imm long lit one
  exact ⟨setsScalar_one (fun _ => rfl) popNat_toNat,
    setsScalar_one (fun _ => rfl) clzNat_toNat,
    setsScalar_of (fun _ => rfl) fun _ => rfl,
    setsScalar_of (fun _ => rfl) fun _ => rfl,
    setsScalar_of (fun _ => rfl) fun _ => rfl,
    setsScalar_of (fun _ => rfl) fun _ => rfl,
    setsScalar_one (fun _ => rfl) fun x => (shl64_eq x _).trans (by rw [toNat_setWidth_shift]),
    setsScalar_one (fun _ => rfl) fun x => (shr64_eq x _).trans (by rw [toNat_setWidth_shift]),
    setsScalar_one (fun _ => rfl) (litHi_eq lit),
    setsScalar_of (fun _ => rfl) fun _ => rfl,
    setsScalar_of (fun _ => rfl) fun _ => rfl⟩

/-! ### SCMP (R152) -/

/-- The relation of a code, in the integers and natural numbers that the patterns stand for (R152). -/
theorem scmpHolds_eq (x y : W64) : ∀ cc, scmpHolds cc x y = match cc with
    | 0 => decide (x = y)
    | 1 => decide (x ≠ y)
    | 2 => decide (x.toInt < y.toInt)
    | 3 => decide (x.toInt ≤ y.toInt)
    | 4 => decide (x.toInt > y.toInt)
    | 5 => decide (x.toInt ≥ y.toInt)
    | 6 => decide (x.toNat < y.toNat)
    | 7 => decide (x.toNat ≤ y.toNat)
    | 8 => decide (x.toNat > y.toNat)
    | _ => decide (x.toNat ≥ y.toNat)
  | 0 => rfl
  | 1 => by
    rw [Bool.eq_iff_iff]
    exact bne_iff_ne.trans decide_eq_true_iff.symm
  | 2 => BitVec.slt_eq_decide
  | 3 => BitVec.sle_eq_decide
  | 4 => BitVec.slt_eq_decide
  | 5 => BitVec.sle_eq_decide
  | 6 | 7 | 8 => rfl
  | _ + 9 => rfl

theorem exec_scmp {s : State} {c : Crew} {i : Nat} {p : Path} (h : Issuing s c i p) (cc : BitVec 4) (d : BitVec 3) {a : BitVec 6}
    {b : SSrc} (hp : c.pending (a :: SSrc.regs b) = false) : exec (.scmp cc d a b) s = .next
      ((s.modCur fun e => e.cset d (condValue (scmpHolds cc.toNat (e.sget a) (e.given false b)))).advance (SSrc.size b)) := by
  change execScmp cc d a b s = _
  rw [execScmp, withCur_of h, if_neg (by simp [hp])]
  simp only [srcS_given]

theorem scmpWritesRelation : Claims.ScmpWritesRelation := by
  intro cc d a b s c i p h _ hp x y
  have key := completes_of_modCur_advance h (f := fun e => e.cset d (condValue (scmpHolds cc.toNat (e.sget a) (e.given false b))))
    (fun _ => rfl) rfl (exec_scmp h cc d hp)
  rw [scmpHolds_eq] at key
  exact key

/-- Settles O2: each word is a scalar word of its operation, and SCMP's relation is that of its code. -/
theorem scalarImmediatesAndComparisons : Obligations.ScalarImmediatesAndComparisons := ⟨scalarImmediateResults, scmpWritesRelation⟩

/-! ### Division (R151) -/

section Division
variable {s : State} {c : Crew} {i : Nat} {p : Path} {ins : Instr} {d a : BitVec 6} {b : SSrc} {zero : Bool} {q z : W64 → W64 → W64}

/-- A division goes on with its quotient, or where the divisor is zero and m0 empty with the value z; a zero divisor over lanes of m0
faults (R151, R374, R380). -/
theorem divides_of (h : Issuing s c i p) (hp : c.pending (d :: a :: SSrc.regs b) = false) {src : Crew → SSrc → W64} {f : W64 → W64 → W64}
    {g : W64 → W64} (he : exec ins s = scalarDiv s d a b src g f) (hsrc : ∀ c, src c b = c.given zero b) (hf : ∀ x y, f x y = q x y)
    (hg : ∀ x, g x = z x 0) :
    let x := c.sget a
    let y := c.given zero b
    (y ≠ 0 → Completes ins s c ((c.sset d (q x y)).withPath i (p.past (SSrc.size b))))
    ∧ (y = 0 → p.m0 = 0 → Completes ins s c ((c.sset d (z x y)).withPath i (p.past (SSrc.size b))))
    ∧ (y = 0 → p.m0 ≠ 0 → p.isHandler = false → FaultsInPlace ins s c i p p 9 0 p.m0 false)
    ∧ (y = 0 → p.m0 ≠ 0 → p.isHandler = true → Halts ins s c p false 39 9 0) := by
  intro x y
  rw [scalarDiv, withCur_of h, if_neg (by simp [hp])] at he
  simp only [hsrc] at he
  have goes : (y = 0 → p.m0 = 0) → Completes ins s c
      ((c.sset d (if y = 0 then g x else f x y)).withPath i (p.past (SSrc.size b))) := fun hy => by
    rw [if_neg fun h => h.2 (hy h.1)] at he
    exact completes_of_modCur_advance h
      (f := fun e => e.sset d (if e.given zero b = 0 then g (e.sget a) else f (e.sget a) (e.given zero b)))
      (fun _ => sset_id ..) (sset_paths ..) he
  have faults : y = 0 → p.m0 ≠ 0 → exec ins s = scalarFault s c p fcDivide 0 := fun hy hm => by
    rw [he, if_pos ⟨hy, hm⟩]
  refine ⟨fun hy => ?_, fun hy hm => ?_, fun hy hm hh => ?_, fun hy hm hh => scalarFault_handler hh (faults hy hm)⟩
  · have := goes fun e => absurd e hy
    rwa [if_neg hy, hf] at this
  · have := goes fun _ => hm
    rwa [if_pos hy, hg, ← hy] at this
  · have := scalarFault_inPlace h hh rfl rfl rfl (faults hy hm)
    rwa [show p.faulting = p.m0 from if_neg hm] at this

end Division

theorem divS_eq (x y : W64) : divS x y = BitVec.ofInt 64 (x.toInt.tdiv y.toInt) := rfl
theorem divN_eq (x y : W64) : divN x y = BitVec.ofNat 64 (x.toNat / y.toNat) := rfl

theorem srem_eq (n : Bool) (x y : W64) : (if n then remN else remS) x y
    = if n then BitVec.ofNat 64 (x.toNat % y.toNat) else BitVec.ofInt 64 (x.toInt.tmod y.toInt) := by
  cases n <;> rfl

/-- Settles O3: the three words are divisions, which fault on a zero divisor over lanes of m0 and else write a register. -/
theorem divisionResultsAndTrap : Obligations.DivisionResultsAndTrap := by
  intro d a b n s c i p h hp divides
  exact ⟨divides_of h hp rfl (fun c => srcS_given c b) divS_eq (z := fun _ _ => 0) (fun _ => rfl),
    divides_of h hp rfl (fun c => srcN_given c b) divN_eq (z := fun _ _ => 0) (fun _ => rfl),
    divides_of h hp rfl (fun c => srcS_given c b) (srem_eq n) (z := fun x _ => x) (fun _ => rfl)⟩

end Sys2Proof.Machine

end

section
/-! SUPPORT. The words that wait for their path's earlier words: the mask words (R161) and the words of the special registers (R158, R160). -/

namespace Sys2Proof.Machine

section Words
variable {s : State} {c : Crew} {i : Nat} {p : Path} {ins : Instr}

/-- A word that finds no pending ISSUE and no earlier scalar word outstanding has its effect (R158). -/
theorem afterEarlier_of (h : Issuing s c i p) (hn : p.iss = none) (hp : c.pathPending i = false) (k : Out) : afterEarlier s c p k = k := by
  rw [afterEarlier, if_neg (iss_isSome_of hn), curPath_of h, if_neg (by simp [hp])]

/-- A word that changes its crew, be it in its own path, and goes on. -/
theorem completes_of_modCur_past (h : Issuing s c i p) {f : Crew → Crew} (hf : ∀ e, (f e).id = e.id) {n : Nat}
    (he : exec ins s = .next ((s.modCur f).advance n)) : Completes ins s c ((f c).modPath i fun q => q.past n) := by
  rw [modCur_advance h hf] at he
  exact completes_of_modCrew h (f := fun d => (f d).modPath i fun q => q.past n) hf he

end Words

/-! ### Writing a mask register (R77, R83, R376) -/

/-- A trap point changes the record of an entry alone. -/
theorem trapPoint_path_eq (c : Crew) (i j : Nat) :
    (c.trapPoint i).path j = { c.path j with trap := ((c.trapPoint i).path j).trap } := by
  unfold Crew.trapPoint Crew.path
  rw [List.getD_eq_getElem?_getD, List.getD_eq_getElem?_getD, List.getElem?_map]
  cases c.paths[j]? with
  | none => rfl
  | some q =>
    simp only [Option.map_some, Option.getD_some]
    split
    · split <;> rfl
    · rfl

@[simp] theorem trapPoint_length (c : Crew) (i : Nat) : (c.trapPoint i).paths.length = c.paths.length := by simp [Crew.trapPoint]

/-- The crew with m written to mask register r by its path i: m0 keeps within the path mask, the others within the lanes given; an m0
that becomes empty is a trap point. -/
def Crew.putMask (i : Nat) (r : BitVec 4) (m lanes : Mask) (c : Crew) : Crew :=
  if r = 0 then
    let d := c.modPath i fun p => { p with m0 := m &&& p.mask }
    if m &&& (c.path i).mask = 0 then d.trapPoint i else d
  else { c with m := SMap.set 0 c.m r.toNat (m &&& lanes) }

theorem setMask_eq {s : State} {c : Crew} {i : Nat} {p : Path} (h : Issuing s c i p) (r : BitVec 4) (m : Mask) :
    s.setMask r m = s.modCur (Crew.putMask i r m (s.teamLanes c.team)) := by
  unfold State.setMask Crew.putMask
  by_cases hr : r = 0
  · simp only [hr, if_true, curPath_of h]
  · simp only [hr, if_false, h.cur, h.crew]

theorem putMask_eq (c : Crew) (i : Nat) (r : BitVec 4) (m lanes : Mask) :
    c.putMask i r m lanes = { c with paths := (c.putMask i r m lanes).paths, m := (c.putMask i r m lanes).m } := by
  unfold Crew.putMask
  split
  · dsimp only
    split <;> rfl
  · rfl

theorem putMask_length (c : Crew) (i : Nat) (r : BitVec 4) (m lanes : Mask) :
    (c.putMask i r m lanes).paths.length = c.paths.length := by
  unfold Crew.putMask
  split
  · dsimp only
    split <;> simp
  · rfl

section Write
variable {c : Crew} {i : Nat} {p : Path} (h : c.paths[i]? = some p) (r : BitVec 4) (m lanes : Mask)
include h

/-- The path that wrote the register: its own mask may have changed, and a record of it may have become due. -/
theorem putMask_path : (c.putMask i r m lanes).path i
    = { p with m0 := if r = 0 then m &&& p.mask else p.m0, trap := ((c.putMask i r m lanes).path i).trap } := by
  unfold Crew.putMask
  split
  · have hown := path_modPath_self h fun p => { p with m0 := m &&& p.mask }
    dsimp only
    split
    · rw [trapPoint_path_eq, hown]
    · rw [hown]
  · rw [show ({ c with m := SMap.set 0 c.m r.toNat (m &&& lanes) } : Crew).path i = p from path_of_entry h]

/-- What the path reads of the mask registers after the write. -/
theorem mget_putMask {q : Path} (hq : q.m0 = ((c.putMask i r m lanes).path i).m0) (k : BitVec 4) :
    (c.putMask i r m lanes).mget q k
      = if k = r then (if r = 0 then m &&& p.mask else m &&& lanes) else c.mget p k := by
  have hown : q.m0 = if r = 0 then m &&& p.mask else p.m0 := by rw [hq, putMask_path h]
  by_cases hr : r = 0
  · have hm : (c.putMask i r m lanes).m = c.m := by
      rw [Crew.putMask, if_pos hr]
      dsimp only
      split <;> rfl
    rw [if_pos hr] at hown ⊢
    rw [Crew.mget, hown, hm, hr]
    split
    next => rfl
    next hk => rw [Crew.mget, if_neg hk]
  · rw [if_neg hr] at hown ⊢
    have hm : (c.putMask i r m lanes).m = SMap.set 0 c.m r.toNat (m &&& lanes) := by rw [Crew.putMask, if_neg hr]
    have hnum : k.toNat = r.toNat ↔ k = r := ⟨BitVec.eq_of_toNat_eq, congrArg _⟩
    rw [Crew.mget, hown, hm, smap_get_set, if_congr hnum rfl rfl, Crew.mget]
    by_cases hk : k = r
    · rw [if_pos hk, if_pos hk, if_neg (fun e => hr (hk.symm.trans e))]
    · rw [if_neg hk, if_neg hk]

end Write

/-! ### The mask words (R161) -/

section MaskWords
variable {s : State} {c : Crew} {i : Nat} {p : Path} {ins : Instr}

/-- A mask word writes its register, and no other mask. -/
theorem maskWord_writes (h : Issuing s c i p) (hn : p.iss = none) (hp : c.pathPending i = false) {d : BitVec 4}
    {f : Crew → Path → Mask} (he : exec ins s = maskWord s d f) :
    ∃ t c', exec ins s = .next t ∧ OnlyCrew c.id s t ∧ t.crewOf c.id = some c'
      ∧ c'.mget (c'.path i) d = (if d = 0 then f c p &&& p.mask else f c p &&& s.teamLanes c.team)
      ∧ (∀ e, e ≠ d → c'.mget (c'.path i) e = c.mget p e)
      ∧ (c'.path i).spc = p.spc + 4 ∧ (c'.path i).mask = p.mask ∧ c'.s = c.s ∧ c'.c = c.c ∧ c'.v = c.v := by
  let g := Crew.putMask i d (f c p) (s.teamLanes c.team)
  rw [maskWord, withCur_of h, afterEarlier_of h hn hp, setMask_eq h] at he
  obtain ⟨t, ht, honly, hcrew⟩ := completes_of_modCur_past h (f := g) (fun e => by rw [show g e = _ from putMask_eq ..]) he
  have hlen : i < (g c).paths.length := by
    rw [putMask_length]
    exact (List.getElem?_eq_some_iff.mp h.entry).1
  have hpath : ((g c).modPath i fun q => q.past 4).path i = ((g c).path i).past 4 := path_modPath_of_lt hlen _
  have hown := putMask_path h.entry d (f c p) (s.teamLanes c.team)
  have hread := mget_putMask h.entry d (f c p) (s.teamLanes c.team) (q := ((g c).path i).past 4) rfl
  have hg : g c = { c with paths := (g c).paths, m := (g c).m } := putMask_eq ..
  have hm : ∀ k q, ((g c).modPath i fun q => q.past 4).mget q k = (g c).mget q k := fun _ _ => rfl
  refine ⟨t, _, ht, honly, hcrew, ?_, fun e hne => ?_, ?_, ?_, ?_, ?_, ?_⟩
  · rw [hpath, hm, hread, if_pos rfl]
  · rw [hpath, hm, hread, if_neg hne]
  · rw [hpath, hown]
    rfl
  · rw [hpath, hown]
    rfl
  · exact (congrArg Crew.s hg :)
  · exact (congrArg Crew.c hg :)
  · exact (congrArg Crew.v hg :)

theorem exec_mpop (h : Issuing s c i p) (hn : p.iss = none) (hp : c.pathPending i = false) {r : BitVec 6} (hr : c.pending [r] = false)
    (a : BitVec 4) :
    exec (.mpop r a) s = .next (s.modCrew c.id fun e => (e.sset r (w64 (maskCount (e.mget p a)))).modPath i fun p => p.past 4) := by
  change execMpop r a s = _
  rw [execMpop, withCur_of h, afterEarlier_of h hn hp, scalarWord_of h, if_neg (by simp [hr])]

theorem mpop_counts (h : Issuing s c i p) (hn : p.iss = none) (hp : c.pathPending i = false) {r : BitVec 6} (hr : c.pending [r] = false)
    (a : BitVec 4) : Completes (.mpop r a) s c ((c.sset r (BitVec.ofNat 64
      ((List.range 1024).countP fun l => (c.mget p a).getLsbD l))).withPath i (p.past 4)) := by
  have key := completes_of_modCrew h (f := fun e => (e.sset r (w64 (maskCount (e.mget p a)))).modPath i fun p => p.past 4)
    (fun _ => sset_id ..) (exec_mpop h hn hp hr a)
  rwa [modPath_eq_withPath (c := c.sset r _) (by rw [sset_paths]; exact h.entry), maskCount_eq_countP] at key

end MaskWords

/-- Settles O13: the mask words write one mask register, within the path mask or the lanes of the team. -/
theorem maskWordResults : Obligations.MaskWordResults := by
  intro d a b r s c i p h hn hp writes
  exact ⟨maskWord_writes h hn hp (f := fun c p => c.mget p a &&& c.mget p b) rfl,
    maskWord_writes h hn hp (f := fun c p => c.mget p a ||| c.mget p b) rfl,
    maskWord_writes h hn hp (f := fun c p => c.mget p a ^^^ c.mget p b) rfl,
    maskWord_writes h hn hp (f := fun c p => ~~~c.mget p a) rfl,
    maskWord_writes h hn hp (d := 0) (f := fun c p => c.mget p a) rfl,
    fun hr => mpop_counts h hn hp hr a⟩

/-! ### Reading special registers (R158, R160, R392) -/

section Reads
variable {s : State} {c : Crew} {i : Nat} {p : Path} {ins : Instr}

theorem readWord_reads (h : Issuing s c i p) (hn : p.iss = none) (hp : c.pathPending i = false) {d : BitVec 6}
    (hd : c.pending [d] = false) {addr : BitVec 12} (ht : addr = 0 → ¬ s.time.ult c.lastT) (he : exec ins s = readWord s d addr) :
    Completes ins s c
      (((if addr = 0 then { c with lastT := s.time } else c).sset d (s.srRead c i addr)).withPath i (p.past 4)) := by
  have hb : s.timeBehind c addr = false := by
    rw [Bool.eq_false_iff]
    intro hb
    obtain ⟨h0, hlt⟩ := Bool.and_eq_true_iff.mp hb
    exact ht (beq_iff_eq.mp h0) hlt
  have hid : ∀ e : Crew, (e.noteTime addr s.time).id = e.id := fun e => by unfold Crew.noteTime; split <;> rfl
  have hpaths : (c.noteTime addr s.time).paths = c.paths := by unfold Crew.noteTime; split <;> rfl
  rw [readWord, withCur_of h, afterEarlier_of h hn hp, if_neg (by simp [hd]), if_neg (by simp [hb]), curPath_of h] at he
  exact completes_of_modCur_advance h (f := fun e => (e.noteTime addr s.time).sset d (s.srRead e i addr))
    (fun e => (sset_id ..).trans (hid e)) ((sset_paths ..).trans hpaths) he

theorem specialRegisterReads : Claims.SpecialRegisterReads := by
  intro d addr s c i p h hn hp hd reads
  exact ⟨fun ht => readWord_reads h hn hp hd ht rfl, fun ht => readWord_reads h hn hp hd ht rfl,
    fun ht => readWord_reads h hn hp hd ht rfl⟩

/-- A per-lane register reads as the lowest lane of m0 sees it, and zero where m0 is empty (R107). -/
theorem srRead_perLane {a : BitVec 12} (ha : (s.srLane c a.toNat 0).isSome = true) (i : Nat) :
    s.srRead c i a = (maskLowest (c.path i).m0).elim 0 fun l => (s.srLane c a.toNat l).getD 0 := by
  obtain ⟨x, hx⟩ := Option.isSome_iff_exists.mp ha
  rw [State.srRead]
  simp only [hx]
  cases maskLowest (c.path i).m0 <;> rfl

theorem maskLowest_zero : maskLowest 0 = none :=
  List.find?_eq_none.mpr fun l _ => (BitVec.getLsbD_zero (i := l)).symm ▸ Bool.false_ne_true

theorem srRead_perLane_empty {a : BitVec 12} (ha : (s.srLane c a.toNat 0).isSome = true) (hm : (c.path i).m0 = 0) :
    s.srRead c i a = 0 := by
  rw [srRead_perLane ha, hm, maskLowest_zero, Option.elim_none]

theorem srRead_perLane_lowest {a : BitVec 12} (ha : (s.srLane c a.toNat 0).isSome = true) {l : Nat}
    (hl : maskLowest (c.path i).m0 = some l) : s.srRead c i a = (s.srLane c a.toNat l).getD 0 := by
  rw [srRead_perLane ha, hl, Option.elim_some]

/-- The registers of a path's own record (R395). -/
theorem srRead_record (s : State) (c : Crew) (i : Nat) :
    s.srRead c i 0x004 = ((c.path i).trap.map fun r =>
        w64 (r.code % 2 ^ 16 + r.detail % 2 ^ 16 * 2 ^ 16 + if r.inPlace then 2 ^ 32 else 0)).getD 0
    ∧ s.srRead c i 0x005 = ((c.path i).trap.map (·.spc)).getD 0
    ∧ s.srRead c i 0x006 = ((c.path i).trap.map (·.lpc)).getD 0
    ∧ s.srRead c i 0x007 = ((c.path i).trap.map fun r => (issueCode r.iss).setWidth 64).getD 0 := by
  change s.srTrap c i 0x004 = _ ∧ s.srTrap c i 0x005 = _ ∧ s.srTrap c i 0x006 = _ ∧ s.srTrap c i 0x007 = _
  unfold State.srTrap
  dsimp only
  cases (c.path i).trap with
  | none => exact ⟨rfl, rfl, rfl, rfl⟩
  | some r => exact ⟨rfl, rfl, rfl, rfl⟩

end Reads

/-- The registers that each lane has for itself (R107, R142, R217, R288, R313, R355). -/
theorem srLane_isSome (s : State) (c : Crew) :
    ∀ a ∈ [(0x010 : BitVec 12), 0x011, 0x030, 0x041, 0x042, 0x093, 0x0A4, 0x0D0, 0x0D3], (s.srLane c a.toNat 0).isSome = true := by
  simp only [List.forall_mem_cons]
  exact ⟨rfl, rfl, rfl, rfl, rfl, rfl, rfl, rfl, rfl, nofun⟩

/-- The random stream of a path, whether or not its launch is found. -/
theorem srRead_rstream (s : State) (c : Crew) (i : Nat) : s.srRead c i 0x0D1 = c.rstream.setWidth 64 := by
  change s.srLaunch c 0x0D1 = _
  unfold State.srLaunch
  split
  · rfl
  · rfl

theorem specialRegisterValues : Claims.SpecialRegisterValues := by
  intro s c i p
  obtain ⟨hcode, hspc, hlpc, hiss⟩ := srRead_record s c i
  refine ⟨rfl, rfl, rfl, rfl, rfl, srRead_rstream s c i, rfl, fun r hr => ?_, fun ht => ?_,
    fun hm a ha => srRead_perLane_empty (srLane_isSome s c a ha) hm, fun l hl => ?_⟩
  · rw [hcode, hspc, hlpc, show (c.path i).trap = some r from hr]
    exact ⟨rfl, rfl, rfl⟩
  · rw [hcode, hspc, hlpc, hiss, show (c.path i).trap = none from ht]
    exact ⟨rfl, rfl, rfl, rfl⟩
  · exact ⟨srRead_perLane_lowest rfl hl, srRead_perLane_lowest rfl hl,
      srRead_perLane_lowest rfl hl, srRead_perLane_lowest rfl hl,
      srRead_perLane_lowest rfl hl, srRead_perLane_lowest rfl hl,
      srRead_perLane_lowest rfl hl, srRead_perLane_lowest rfl hl⟩

/-! ### Writing special registers (R158) -/

/-- A register written in every lane of a mask. -/
theorem get_setLanes {α : Type} [DecidableEq α] (d : α) (m : SMap α) (lanes : Mask) (v : α) (l : Nat) :
    SMap.get d (setLanes d m lanes v) l = if l < 1024 ∧ lanes.getLsbD l = true then v else SMap.get d m l := by
  have hset : setLanes d m lanes v = SMap.updates d id (fun _ _ => v) (maskLanes 1024 lanes) m := by
    rw [setLanes]
    generalize maskLanes 1024 lanes = ls
    rfl
  rw [hset, smap_get_updates_lanes d (fun _ => v) (nodup_maskLanes 1024 lanes)]
  simp only [mem_maskLanes]

/-- The crew after a write of a special register has its general registers, and its path at entry i its place and its lanes. -/
structure SrFrame (b d : Crew) (i : Nat) (p : Path) : Prop where
  id   : d.id = b.id
  s    : d.s = b.s
  c    : d.c = b.c
  m    : d.m = b.m
  v    : d.v = b.v
  path : ∃ q, d.paths[i]? = some q ∧ q.spc = p.spc ∧ q.m0 = p.m0

section Frame
variable {c d : Crew} {i : Nat} {p : Path} (h : c.paths[i]? = some p)
include h

theorem srFrame_of_paths (hid : d.id = c.id) (hs : d.s = c.s) (hc : d.c = c.c) (hm : d.m = c.m) (hv : d.v = c.v)
    (hp : d.paths = c.paths) : SrFrame c d i p := ⟨hid, hs, hc, hm, hv, p, by rw [hp, h], rfl, rfl⟩

theorem srFrame_modPath {f : Path → Path} (hspc : (f p).spc = p.spc) (hm : (f p).m0 = p.m0) : SrFrame c (c.modPath i f) i p :=
  ⟨rfl, rfl, rfl, rfl, rfl, f p, by simp [Crew.modPath, modAt_getElem?, h], hspc, hm⟩

theorem srFrame_srWrite (addr : BitVec 12) (v : W64) : SrFrame c (c.srWrite i addr v) i p := by
  unfold Crew.srWrite
  dsimp only
  split
  case h_2 | h_3 | h_4 | h_5 => exact srFrame_modPath h rfl rfl
  all_goals exact srFrame_of_paths h rfl rfl rfl rfl rfl rfl

end Frame

/-! What a write of each per-lane register is (R107, R142, R217, R288, R313, R355). -/

section Lanes
variable (c : Crew) (i : Nat) (v : W64)

theorem srWrite_counts : c.srWrite i 0x030 v = { c with
    propd := setLanes 0 c.propd (c.path i).m0 (v.extractLsb' 32 32)
    acpt := setLanes 0 c.acpt (c.path i).m0 (v.extractLsb' 0 32) } := rfl
theorem srWrite_mcause : c.srWrite i 0x042 v = { c with mcause := setLanes 0 c.mcause (c.path i).m0 (v.extractLsb' 0 7) } := rfl
theorem srWrite_qcause : c.srWrite i 0x093 v = { c with qcause := setLanes 0 c.qcause (c.path i).m0 (v.extractLsb' 0 7) } := rfl
theorem srWrite_mxcause : c.srWrite i 0x0A4 v = { c with mxcause := setLanes 0 c.mxcause (c.path i).m0 (v.extractLsb' 0 4) } := rfl
theorem srWrite_draw : c.srWrite i 0x0D0 v = { c with draw := setLanes 0 c.draw (c.path i).m0 (v.extractLsb' 0 32) } := rfl
theorem srWrite_ecause : c.srWrite i 0x0D3 v = { c with ecause := setLanes 0 c.ecause (c.path i).m0 (v.extractLsb' 0 3) } := rfl

end Lanes

/-- The proposal and draw counters of a lane outside m0 stay. -/
theorem srWrite_counters (c : Crew) (i : Nat) (addr : BitVec 12) (v : W64) {l : Nat} (hl : (c.path i).m0.getLsbD l = false) :
    SMap.get 0 (c.srWrite i addr v).propd l = SMap.get 0 c.propd l
      ∧ SMap.get 0 (c.srWrite i addr v).draw l = SMap.get 0 c.draw l := by
  have out : ¬ (l < 1024 ∧ (c.path i).m0.getLsbD l = true) := by simp [hl]
  unfold Crew.srWrite
  dsimp only
  split
  case h_8 => exact ⟨by rw [get_setLanes, if_neg out], rfl⟩
  case h_12 => exact ⟨rfl, by rw [get_setLanes, if_neg out]⟩
  all_goals exact ⟨rfl, rfl⟩

section Write
variable {s : State} {c : Crew} {i : Nat} {p : Path} (h : Issuing s c i p)
include h

theorem exec_swr (hn : p.iss = none) (hp : c.pathPending i = false) (addr : BitVec 12) {r : BitVec 6} (hr : c.pending [r] = false) :
    exec (.swr addr r) s = .next ((s.modCur fun e => e.srWrite i addr (e.sget r)).advance 4) := by
  change execSwr addr r s = _
  rw [execSwr, withCur_of h, afterEarlier_of h hn hp, if_neg (by simp [hr]), curPath_of h]

/-- A write of a register that the path itself holds, and then the word is past. -/
theorem path_modPath_past (f : Path → Path) : ((c.modPath i f).modPath i fun q => q.past 4).path i = (f p).past 4 := by
  rw [modPath_modPath, path_modPath_self h.entry]

end Write

theorem srWrite_id (c : Crew) (i : Nat) (addr : BitVec 12) (v : W64) : (c.srWrite i addr v).id = c.id := by
  unfold Crew.srWrite
  dsimp only
  split <;> rfl

/-- A 32-bit field at the low end of a written value. -/
theorem low_eq_setWidth (v : W64) {n : Nat} (hn : n ≤ 64) : v.extractLsb' 0 n = v.setWidth n := (BitVec.setWidth_eq_extractLsb' hn).symm

theorem specialRegisterWrites : Claims.SpecialRegisterWrites := by
  intro addr r s c i p h hn hp hr v
  obtain ⟨d, hd⟩ : ∃ d, c.srWrite i addr v = d := ⟨_, rfl⟩
  have frame : SrFrame c d i p := hd ▸ srFrame_srWrite h.entry addr v
  obtain ⟨q, hq, hspc, hm0⟩ := frame.path
  have key : Completes (.swr addr r) s c (d.modPath i fun q => q.past 4) := hd ▸ completes_of_modCur_past h
    (f := fun e => e.srWrite i addr (e.sget r)) (fun e => srWrite_id ..) (exec_swr h hn hp addr hr)
  obtain ⟨t, ht, honly, hcrew⟩ := key
  have hpath : (d.modPath i fun q => q.past 4).path i = q.past 4 := path_modPath_self hq _
  have own : c.path i = p := path_of_entry h.entry
  refine ⟨t, _, ht, honly, hcrew, frame.s, frame.c, frame.m, frame.v, ?_, ?_, ?_, ?_, ?_, ?_, ?_, ?_, fun l hl hm => ?_, fun l hl => ?_,
    fun rec_ hrec => ?_, fun rec_ hrec => ?_⟩
  · rw [hpath, ← hspc]
    rfl
  · rw [hpath, ← hm0]
    rfl
  · rintro rfl
    rw [← hd]
    rfl
  · rintro rfl
    rw [← hd]
    exact (congrArg Path.lcnt (path_modPath_past h _)).trans (low_eq_setWidth v (by decide))
  · rintro rfl
    rw [← hd]
    exact low_eq_setWidth v (by decide)
  · rintro rfl
    rw [← hd]
    exact low_eq_setWidth v (by decide)
  · rintro rfl hrot
    rw [← hd]
    exact if_neg hrot
  · rintro rfl
    rw [← hd]
    rfl
  · have lanes : ∀ {α : Type} [DecidableEq α] (d : α) (m : SMap α) (x : α), SMap.get d (setLanes d m (c.path i).m0 x) l = x :=
      fun d m x => by rw [get_setLanes, if_pos ⟨hl, by rw [own, hm]⟩]
    have low : ∀ n, n ≤ 64 → v.extractLsb' 0 n = v.setWidth n := fun n hn => low_eq_setWidth v hn
    change (addr = 0x030 → SMap.get 0 d.propd l = _ ∧ SMap.get 0 d.acpt l = _) ∧ (addr = 0x042 → SMap.get 0 d.mcause l = _)
      ∧ (addr = 0x093 → SMap.get 0 d.qcause l = _) ∧ (addr = 0x0A4 → SMap.get 0 d.mxcause l = _)
      ∧ (addr = 0x0D0 → SMap.get 0 d.draw l = _) ∧ (addr = 0x0D3 → SMap.get 0 d.ecause l = _)
    rw [← hd]
    refine ⟨?_, ?_, ?_, ?_, ?_, ?_⟩
    · rintro rfl
      rw [srWrite_counts]
      exact ⟨by rw [lanes], by rw [lanes, low 32 (by decide)]⟩
    · rintro rfl
      rw [srWrite_mcause, lanes, low 7 (by decide)]
    · rintro rfl
      rw [srWrite_qcause, lanes, low 7 (by decide)]
    · rintro rfl
      rw [srWrite_mxcause, lanes, low 4 (by decide)]
    · rintro rfl
      rw [srWrite_draw, lanes, low 32 (by decide)]
    · rintro rfl
      rw [srWrite_ecause, lanes, low 3 (by decide)]
  · have := srWrite_counters c i addr v (l := l) (by rw [own, hl])
    rwa [hd] at this
  · rintro rfl
    rw [← hd]
    refine (congrArg Path.trap (path_modPath_past h _)).trans ?_
    change p.trap.map _ = _
    rw [hrec]
    rfl
  · rintro rfl
    rw [← hd]
    refine (congrArg Path.trap (path_modPath_past h _)).trans ?_
    change p.trap.map _ = _
    rw [hrec]
    rfl

/-- Settles O12: reads and writes under the waits of R158; a per-lane register is that of the lowest lane of m0, or of its every lane. -/
theorem specialRegistersReadAndWrite : Obligations.SpecialRegistersReadAndWrite :=
  ⟨specialRegisterReads, specialRegisterValues, specialRegisterWrites⟩

end Sys2Proof.Machine

end

section
/-! SUPPORT. A lane word of two passes of which only the first has bank units, as a word that is ready: the pass that is made takes an issue
slot of its team (R84, R118), so the word that waits does not change its crew alone, which the statement of the fixed words claims. -/

namespace Sys2Proof.Machine

/-- `vadd.i32 v5, v6, v7` as a word that computes lane by lane. -/
def twoPassElem : Elementwise := ⟨.vadd, twoPassWord, .linear, valVadd twoPassWord⟩

/-- The passes of the word in the two groups. -/
def twoPasses : List PassOut :=
  let e := twoPassElem
  elemPasses twoGroupCrew twoGroupPath e.o e.w e.cls (decide ((OpA.writes e.o e.w).length = 2))
    (selMask twoGroupCrew twoGroupPath e.w.h) e.val

theorem twoPassWord_ready : LaneReady twoGroupState twoGroupCrew 0 twoGroupPath (twoPassElem.info (.vadd twoPassWord)) where
  path := twoGroupState_issuing
  groups := by decide
  marker := nofun
  active := by decide +kernel
  present := by decide +kernel
  hazard := .inr (.inl rfl)
  slot := nofun
  counter := nofun

/-- The crew after the passes that are made, and those that wait. -/
def twoPassesMade : Crew × List PassOut :=
  twoGroupCrew.writePasses (twoGroupState.crewFree twoGroupCrew) twoGroupCrew.held twoPasses

theorem twoPasses_wait : twoPassesMade.2 ≠ [] := by decide +kernel

/-- Refutes O21: `vadd.i32 v5, v6, v7` of two passes, the first of which is made while the second waits for bank units, adds an issue
slot to its team, so its crew is not all that changes. -/
theorem not_elementwiseWordsSetTheirLanes : ¬ Obligations.ElementwiseWordsSetTheirLanes := by
  rintro ⟨fixed, -⟩
  obtain ⟨after, before⟩ := twoPassWord_takes_slot
  obtain ⟨-, waits⟩ := fixed (.vadd twoPassWord) twoPassElem twoGroupState twoGroupCrew 0 twoGroupPath rfl rfl twoPassWord_ready
  obtain ⟨_, ⟨t, ht, ⟨rest, -⟩, -⟩, -⟩ := waits twoPassesMade.1 twoPassesMade.2 Prod.mk.eta.symm twoPasses_wait
  have teams : t.teams = twoGroupState.teams := by rw [rest]
  rw [ht, nextState?, Option.map_some, teams, before] at after
  exact absurd after (by decide)

end Sys2Proof.Machine

end

section
/-! SUPPORT. Fixed-latency results (R84, R111, R112, R118, R133): the units that the passes of a word can take, what they leave in each
lane, and a word of such passes under the wrapper of the lane words. -/

namespace Sys2Proof.Machine

/-! ### The units that a pass can take (R113, R114, R118) -/

theorem one_le_cost (r : GReg) : 1 ≤ r.cost := by unfold GReg.cost; split <;> decide

theorem cost_le (r : GReg) : r.cost ≤ 8 := by unfold GReg.cost; split <;> decide

/-- The units beyond a uniform register's that the present ones of these registers hold. -/
def Crew.extraUnits (c : Crew) (m : SMap GReg) : Nat := (m.map fun e => if c.present (e.1 / 32) then e.2.cost - 1 else 0).sum

theorem extraUnits_cons (c : Crew) (e : Nat × GReg) (m : SMap GReg) :
    c.extraUnits (e :: m) = (if c.present (e.1 / 32) then e.2.cost - 1 else 0) + c.extraUnits m := List.sum_cons

theorem foldl_extraUnits (c : Crew) (m : SMap GReg) (n : Nat) :
    m.foldl (fun n e => if c.present (e.1 / 32) then n + (e.2.cost - 1) else n) n = n + c.extraUnits m := by
  induction m generalizing n with
  | nil => rfl
  | cons e m ih =>
    rw [List.foldl_cons, ih, extraUnits_cons]
    split <;> omega

theorem held_eq (c : Crew) : c.held = (c.nRegs + 8) * c.groups + c.extraUnits c.v + c.shadowUnits := by
  rw [Crew.held, foldl_extraUnits]

theorem extraUnits_erase_le (c : Crew) (k : Nat) (m : SMap GReg) : c.extraUnits (SMap.erase k m) ≤ c.extraUnits m := by
  induction m with
  | nil => exact Nat.le_refl _
  | cons e m ih =>
    obtain ⟨j, r⟩ := e
    rw [SMap.erase, extraUnits_cons]
    split
    · omega
    · rw [extraUnits_cons]
      omega

theorem extraUnits_insert_le (c : Crew) (k : Nat) (r : GReg) (m : SMap GReg) : c.extraUnits (SMap.insert k r m) ≤ c.extraUnits m + 7 := by
  have hr := cost_le r
  have hnew : (if c.present (k / 32) then r.cost - 1 else 0) ≤ 7 := by split <;> omega
  induction m with
  | nil =>
    rw [SMap.insert, extraUnits_cons]
    exact Nat.add_comm _ _ ▸ Nat.add_le_add_left hnew _
  | cons e m ih =>
    obtain ⟨j, x⟩ := e
    rw [SMap.insert]
    split
    · rw [extraUnits_cons]
      exact (Nat.add_le_add_right hnew _).trans (Nat.add_comm _ _).le
    · rw [extraUnits_cons, extraUnits_cons]
      omega

/-- Setting one register takes at most seven units. -/
theorem extraUnits_set_le (c : Crew) (m : SMap GReg) (k : Nat) (r : GReg) :
    c.extraUnits (SMap.set (.uni 0) m k r) ≤ c.extraUnits m + 7 := by
  have herase := extraUnits_erase_le c k m
  rw [SMap.set]
  split
  · omega
  · have := extraUnits_insert_le c k r (SMap.erase k m)
    omega

theorem sum_cost_set_le {ks : List Nat} {key : Nat → Nat} (hk : (ks.map key).Nodup) (m : SMap GReg) (j : Nat) (r : GReg) :
    (ks.map fun k => (SMap.get (.uni 0) (SMap.set (.uni 0) m j r) (key k)).cost).sum
      ≤ (ks.map fun k => (SMap.get (.uni 0) m (key k)).cost).sum + 7 := by
  induction ks with
  | nil => exact Nat.zero_le _
  | cons k ks ih =>
    obtain ⟨hnew, hks⟩ := List.nodup_cons.mp hk
    rw [List.map_cons, List.map_cons, List.sum_cons, List.sum_cons]
    by_cases h : key k = j
    · have hrest : (ks.map fun k => (SMap.get (.uni 0) (SMap.set (.uni 0) m j r) (key k)).cost)
          = ks.map fun k => (SMap.get (.uni 0) m (key k)).cost := by
        refine List.map_congr_left fun x hx => ?_
        rw [smap_get_set_ne]
        exact fun e => hnew (h ▸ e ▸ List.mem_map_of_mem hx)
      have hold := one_le_cost (SMap.get (.uni 0) m (key k))
      have hr := cost_le (SMap.get (.uni 0) (SMap.set (.uni 0) m j r) (key k))
      rw [hrest]
      omega
    · have := ih hks
      rw [smap_get_set_ne _ _ _ h]
      omega

theorem shadowUnits_some {c : Crew} {w : Proposal} (hw : c.prop = some w) : c.shadowUnits
    = ((List.range (w.len * c.groups)).map fun k => (SMap.get (.uni 0) w.shadow (windowKey 0 c.groups k)).cost).sum := by
  rw [Crew.shadowUnits, hw]
  dsimp only
  rw [foldl_add_eq_sum]
  simp only [Proposal.shadowReg, windowKey, Nat.zero_add]

theorem held_setLive_le (c : Crew) (p g : Nat) (r : GReg) : (c.setLive p g r).held ≤ c.held + 7 := by
  have := extraUnits_set_le c c.v (32 * p + g) r
  have hv : (c.setLive p g r).held
      = (c.nRegs + 8) * c.groups + c.extraUnits (SMap.set (.uni 0) c.v (32 * p + g) r) + c.shadowUnits := held_eq _
  rw [hv, held_eq]
  omega

theorem held_setShadow_le {c : Crew} (hg : c.groups ≤ 32) (i g : Nat) (r : GReg) : (c.setShadow i g r).held ≤ c.held + 7 := by
  cases hw : c.prop with
  | none => simp [Crew.setShadow, hw]
  | some w =>
    have hset : (c.setShadow i g r).shadowUnits = ((List.range (w.len * c.groups)).map fun k =>
        (SMap.get (.uni 0) (SMap.set (.uni 0) w.shadow (32 * i + g) r) (windowKey 0 c.groups k)).cost).sum := by
      obtain ⟨u, hp, hshadow, hlen⟩ : ∃ u, (c.setShadow i g r).prop = some u
          ∧ u.shadow = SMap.set (.uni 0) w.shadow (32 * i + g) r ∧ u.len = w.len :=
          by simp only [Crew.setShadow, hw]; exact ⟨_, rfl, rfl, rfl⟩
      have hgroups : (c.setShadow i g r).groups = c.groups := by simp only [Crew.setShadow, hw]
      rw [shadowUnits_some hp, hgroups, hshadow, hlen]
    have hrest : (c.setShadow i g r).held = (c.nRegs + 8) * c.groups + c.extraUnits c.v + (c.setShadow i g r).shadowUnits := by
      rw [held_eq]
      simp only [Crew.setShadow, hw]
      rfl
    have := sum_cost_set_le (List.nodup_range.map (windowKey_injective 0 hg)) w.shadow (32 * i + g) r (ks := List.range (w.len * c.groups))
    rw [hrest, hset, held_eq, shadowUnits_some hw]
    omega

/-- A pass takes at most seven units in each bank. -/
theorem held_writePass_le {c : Crew} (hg : c.groups ≤ 32) (sh act : W32) (p g : Nat) (shape : GReg) :
    (c.writePass sh act p g shape).held ≤ c.held + 14 := by
  by_cases hp : c.present p = true
  · cases hi : c.place p with
    | none =>
      have := held_setLive_le c p g ((c.liveReg p g).merge shape act)
      rw [writePass_outside hp hi]
      omega
    | some i =>
      obtain ⟨w, hw, -, -⟩ := place_some hi
      have hshadow : (c.shadowPass w (act &&& sh) i g shape).held ≤ c.held + 7 := by
        unfold Crew.shadowPass
        split
        · omega
        · exact held_setShadow_le hg ..
      have hlive : ∀ d : Crew, (d.livePass (act &&& ~~~sh) p g shape).held ≤ d.held + 7 := by
        intro d
        unfold Crew.livePass
        split
        · omega
        · exact held_setLive_le ..
      rw [writePass_inside hp hw hi]
      exact (hlive _).trans (Nat.add_le_add_right hshadow 7)
  · have : c.writePass sh act p g shape = c := if_pos (by simpa using hp)
    rw [this]
    omega

theorem reserve_le (c : Crew) (act : W32) (p g : Nat) : c.reserve act p g ≤ 14 := by
  have hcost := one_le_cost
  have hlive := hcost (c.liveReg p g)
  unfold Crew.reserve
  split
  next w i _ _ =>
    have hshadow := hcost (w.shadowReg i g)
    split <;> split <;> omega
  next => omega

theorem passNeed_le (c : Crew) (q : PassOut) : c.passNeed q ≤ 14 * q.outs.length := by
  rw [Crew.passNeed, foldl_add_eq_sum, Nat.mul_comm]
  have := List.sum_le_card_nsmul (q.outs.map fun o => c.reserve q.act o.1 q.g) 14 fun x hx => by
    obtain ⟨o, -, rfl⟩ := List.mem_map.mp hx
    exact reserve_le ..
  simpa using this

/-! ### Making every pass (R118) -/

/-- The crew with one pass made. -/
def Crew.makePass (c : Crew) (q : PassOut) : Crew := q.outs.foldl (fun c o => c.writePass (c.propWord q.g) q.act o.1 q.g o.2) c

theorem sameBank_makePass (c : Crew) (q : PassOut) : SameBank c (c.makePass q) :=
  List.foldlRecOn (motive := SameBank c) q.outs _ (SameBank.refl c) fun _ hd _ _ => hd.trans (sameBank_writePass _ _ _ _ _ _)

theorem held_makePass_le {c : Crew} (hg : c.groups ≤ 32) (q : PassOut) : (c.makePass q).held ≤ c.held + 14 * q.outs.length := by
  rw [Crew.makePass]
  generalize q.outs = os
  induction os generalizing c with
  | nil => exact Nat.le_refl _
  | cons o os ih =>
    have same := sameBank_writePass c (c.propWord q.g) q.act o.1 q.g o.2
    have h1 := held_writePass_le hg (c.propWord q.g) q.act o.1 q.g o.2
    have h2 := ih (c := c.writePass (c.propWord q.g) q.act o.1 q.g o.2) (by rw [same.rest]; exact hg)
    rw [List.foldl_cons, List.length_cons]
    omega

/-- Where the free units suffice for passes of up to two registers each, all are made. -/
theorem writePasses_all {c : Crew} {qs : List PassOut} {free held : Nat} (hg : c.groups ≤ 32) (ho : ∀ q ∈ qs, q.outs.length ≤ 2)
    (hf : 28 * qs.length + c.held ≤ free + held) : c.writePasses free held qs = (qs.foldl Crew.makePass c, []) := by
  induction qs generalizing c with
  | nil => rfl
  | cons q qs ih =>
    have hq := ho q List.mem_cons_self
    have hneed := passNeed_le c q
    have hheld := held_makePass_le hg q
    rw [List.length_cons] at hf
    rw [Crew.writePasses, if_neg (by omega)]
    exact ih (c := c.makePass q) (by rw [(sameBank_makePass c q).rest]; exact hg) (fun x hx => ho x (List.mem_cons_of_mem _ hx))
      (by omega)

/-! ### What the passes of a word leave in each lane -/

section Lanes
variable {g k j r : Nat}

/-- A pass writes its registers, each with its shape. -/
theorem foldl_outs {c : Crew} {act sh : W32} {shape : Nat → GReg} {os : List (Nat × GReg)} {n : Nat} (hsh : c.propWord g = sh)
    (hs : ∀ h o, os[h]? = some o → shape (n + h) = o.2) :
    os.foldl (fun c o => c.writePass (c.propWord g) act o.1 g o.2) c = c.writeDests sh act g shape ((os.map (·.1)).zipIdx n) := by
  induction os generalizing c n with
  | nil => rfl
  | cons o os ih =>
    have same := sameBank_writePass c sh act o.1 g o.2
    have hrest := ih (c := c.writePass sh act o.1 g o.2) (n := n + 1) ((same.propWord g).trans hsh) fun h x hx => by
      rw [Nat.add_assoc, Nat.add_comm 1]
      exact hs (h + 1) x hx
    have hshape : shape n = o.2 := hs 0 o rfl
    rw [List.foldl_cons, hsh, hrest, ← hshape]
    rfl

/-- The shape that a pass writes in its register h. -/
def PassOut.shape (q : PassOut) (h : Nat) : GReg := (q.outs[h]?.map (·.2)).getD (.uni 0)

theorem makePass_eq (c : Crew) (q : PassOut) :
    c.makePass q = c.writeDests (c.propWord q.g) q.act q.g q.shape ((q.outs.map (·.1)).zipIdx) :=
  foldl_outs rfl fun h o ho => by rw [Nat.zero_add, PassOut.shape, ho]; rfl

/-- The registers of the pass are present, and none is written twice. -/
structure PassOut.Ok (q : PassOut) (c : Crew) : Prop where
  group   : q.g < 32
  present : ∀ o ∈ q.outs, c.present o.1 = true
  nodup   : (q.outs.map (·.1)).Nodup

theorem PassOut.Ok.of_same {q : PassOut} {c d : Crew} (h : q.Ok c) (same : SameBank c d) : q.Ok d :=
  ⟨h.group, fun o ho => (same.present o.1).trans (h.present o ho), h.nodup⟩

theorem PassOut.Ok.dests_present {q : PassOut} {c : Crew} (h : q.Ok c) : ∀ d ∈ (q.outs.map (·.1)).zipIdx, c.present d.1 = true := by
  intro d hd
  obtain ⟨o, ho, he⟩ := List.mem_map.mp (List.fst_mem_of_mem_zipIdx hd)
  exact he ▸ h.present o ho

theorem readLane_makePass_ne {c : Crew} {q : PassOut} (hq : q.Ok c) (hk : k < 32) (hj : j < 32)
    (hne : r ∉ q.outs.map (·.1) ∨ k ≠ q.g ∨ q.act.getLsbD j = false) : (c.makePass q).readLane r k j = c.readLane r k j := by
  rw [makePass_eq]
  exact readLane_writeDests_ne hq.dests_present (.inr rfl) hq.group hk hj (by simpa [List.zipIdx_map_fst] using hne)

theorem readLane_makePass {c : Crew} {q : PassOut} (hq : q.Ok c) (hact : q.act.getLsbD j = true) {h : Nat} {o : Nat × GReg}
    (ho : q.outs[h]? = some o) : (c.makePass q).readLane o.1 q.g j = o.2.val j := by
  have hmem : (o.1, h) ∈ (q.outs.map (·.1)).zipIdx := List.mem_zipIdx_iff_getElem?.mpr (by simp [ho])
  have hshape : q.shape h = o.2 := by rw [PassOut.shape, ho]; rfl
  rw [makePass_eq, ← hshape]
  exact readLane_writeDests hq.dests_present (by simpa [List.zipIdx_map_fst] using hq.nodup) (.inr rfl) hq.group
    (BitVec.lt_of_getLsbD hact) hact hmem

theorem sameBank_passes (c : Crew) (qs : List PassOut) : SameBank c (qs.foldl Crew.makePass c) :=
  List.foldlRecOn (motive := SameBank c) qs _ (SameBank.refl c) fun _ hd _ _ => hd.trans (sameBank_makePass _ _)

/-- The lanes that no pass writes keep their values. -/
theorem readLane_passes_ne {c : Crew} {qs : List PassOut} (hqs : ∀ q ∈ qs, q.Ok c) (hk : k < 32) (hj : j < 32)
    (hne : ∀ q ∈ qs, r ∉ q.outs.map (·.1) ∨ k ≠ q.g ∨ q.act.getLsbD j = false) :
    (qs.foldl Crew.makePass c).readLane r k j = c.readLane r k j := by
  induction qs generalizing c with
  | nil => rfl
  | cons q qs ih =>
    have same := sameBank_makePass c q
    rw [List.foldl_cons, ih (fun x hx => (hqs x (List.mem_cons_of_mem _ hx)).of_same same)
      (fun x hx => hne x (List.mem_cons_of_mem _ hx))]
    exact readLane_makePass_ne (hqs q List.mem_cons_self) hk hj (hne q List.mem_cons_self)

/-- The lanes that a pass writes hold its values, the passes being of different groups. -/
theorem readLane_passes {c : Crew} {qs : List PassOut} (hqs : ∀ q ∈ qs, q.Ok c) (hnd : (qs.map (·.g)).Nodup) {q : PassOut}
    (hq : q ∈ qs) (hact : q.act.getLsbD j = true) {h : Nat} {o : Nat × GReg} (ho : q.outs[h]? = some o) :
    (qs.foldl Crew.makePass c).readLane o.1 q.g j = o.2.val j := by
  induction qs generalizing c with
  | nil => exact absurd hq List.not_mem_nil
  | cons x qs ih =>
    obtain ⟨hx, hnd⟩ := List.nodup_cons.mp hnd
    have same := sameBank_makePass c x
    have hqs' : ∀ y ∈ qs, y.Ok (c.makePass x) := fun y hy => (hqs y (List.mem_cons_of_mem _ hy)).of_same same
    rw [List.foldl_cons]
    rcases List.mem_cons.mp hq with rfl | hq
    · have hne : ∀ y ∈ qs, o.1 ∉ y.outs.map (·.1) ∨ q.g ≠ y.g ∨ y.act.getLsbD j = false :=
        fun y hy => .inr (.inl fun e => hx (List.mem_map.mpr ⟨y, hy, e.symm⟩))
      rw [readLane_passes_ne hqs' (hqs q List.mem_cons_self).group (BitVec.lt_of_getLsbD hact) hne]
      exact readLane_makePass (hqs q List.mem_cons_self) hact ho
    · exact ih hqs' hnd hq

end Lanes

end Sys2Proof.Machine

end

section
/-! SUPPORT. A fixed-latency lane word whose passes all find their units (R84, R111, R112, R118): what it sets, from the shapes or the
lane values of its passes. -/

namespace Sys2Proof.Machine

/-! ### Names of registers (R122) -/

/-- Rotation permutes the registers of its window. -/
theorem physical_injective (c : Crew) : Function.Injective c.physical := by
  intro a b h
  have hmod : ∀ n, 0 < c.rot → n % c.rot < c.rot := fun n hr => Nat.mod_lt n hr
  unfold Crew.physical at h
  split at h
  next ha =>
    have hma := hmod (a - 128 + c.rotb) ha.1
    split at h
    next hb =>
      have hcong : a - 128 ≡ b - 128 [MOD c.rot] := Nat.ModEq.add_right_cancel' c.rotb (Nat.add_left_cancel h)
      have := Nat.ModEq.eq_of_lt_of_lt hcong (by omega) (by omega)
      omega
    next hb => omega
  next ha =>
    split at h
    next hb =>
      have hmb := hmod (b - 128 + c.rotb) hb.1
      omega
    next => exact h

theorem regPair_length (wide : Bool) (v : BitVec 8) : (regPair wide v).length = if wide then 2 else 1 := by cases wide <;> rfl

theorem regPair_nodup (wide : Bool) (v : BitVec 8) : (regPair wide v).Nodup := by cases wide <;> simp [regPair]

theorem lt_of_mem_regPair {wide : Bool} {v : BitVec 8} {x : Nat} (h : x ∈ regPair wide v) : x < 1024 := by
  have := v.isLt
  cases wide <;> simp [regPair] at h <;> omega

/-! ### The whole word -/

/-- The crew with the register banks of another. -/
def Crew.withBank (x d : Crew) : Crew := { d with v := x.v, prop := x.prop }

section Word
variable {s : State} {c : Crew} {i : Nat} {p : Path} {ins : Instr} {k : Hdr} {qs : List PassOut}

/-- With room, every pass is made and the path goes on (R118). -/
theorem writeFixed_all (hg : c.groups ≤ 32) (hroom : Room s c) (hl : qs.length ≤ 32) (ho : ∀ q ∈ qs, q.outs.length ≤ 2) :
    writeFixed (s.entered k c i p) c ins qs
      = .next (((s.entered k c i p).modCrew c.id (Crew.withBank (qs.foldl Crew.makePass c))).advanceLane ins.size) := by
  have hfree : 28 * qs.length + c.held ≤ s.crewFree c + c.held := by
    have : 2048 ≤ s.crewFree c := hroom
    omega
  rw [writeFixed, crewFree_entered, writePasses_all hg ho hfree]
  rfl

/-- A word whose passes are all made sets what they set, and its path alone goes on. -/
theorem completes_of_passes (h : Issuing s c i p) (hg : c.groups ≤ 32) (hroom : Room s c) (hl : qs.length ≤ 32)
    (ho : ∀ q ∈ qs, q.outs.length ≤ 2) (he : exec ins s = writeFixed (s.entered k c i p) c ins qs) :
    ∃ c', Completes ins s c c' ∧ c' = { c with v := c'.v, prop := c'.prop, paths := c'.paths } ∧ PastLane p (c'.path i) ins.size
      ∧ (∀ n, n ≠ i → c'.path n = c.path n) ∧ ∀ r g j, c'.readLane r g j = (qs.foldl Crew.makePass c).readLane r g j := by
  obtain ⟨x, hx⟩ : ∃ x, qs.foldl Crew.makePass c = x := ⟨_, rfl⟩
  have same : SameBank c x := hx ▸ sameBank_passes c qs
  rw [writeFixed_all hg hroom hl ho, hx] at he
  have h1 := issuing_entered h k
  have h2 : Issuing ((s.entered k c i p).modCrew c.id x.withBank) (x.withBank (c.entered k i p)) i (p.entered k) :=
    h1.modCrew (fun _ => rfl) h1.entry
  let f : Crew → Crew := fun d => (x.withBank (d.entered k i p)).modPath i fun q => q.pastLane ins.size
  have key : exec ins s = .next (s.modCrew c.id f) := by
    rw [he, advanceLane_of h2]
    refine congrArg Host.Outcome.next ?_
    refine (modCrew_modCrew (f := Crew.withBank x) (fun _ => rfl) (s.entered k c i p) c.id).trans ?_
    exact modCrew_modCrew (f := Crew.entered k i p) (fun _ => rfl) s c.id
  have hpath : ∀ n, n ≠ i → (f c).path n = c.path n := fun n hn =>
    (path_modPath_ne (c := x.withBank (c.entered k i p)) hn _).trans (path_modPath_ne (c := c) hn _)
  refine ⟨f c, completes_of_modCrew h (f := f) (fun _ => rfl) key, rfl, ?_, hpath, fun r g j => ?_⟩
  · rw [show (f c).path i = _ from path_modPath_self h1.entry _, ← inSegment_entered p k]
    exact pastLane_inSegment p (p.entered k) ins.size
  · rw [hx, same.rest]
    rfl

end Word

/-! ### The shapes of a pass from its lane values -/

theorem shapesOf_length (act : W32) (wide : Bool) (tag : Nat) (xs : List Nat) :
    (shapesOf act wide tag xs).length = if wide then 2 else 1 := by
  unfold shapesOf
  cases wide <;> rfl

/-- The shapes of a pass hold the parts of the values of its active lanes, where a full pass takes the uniform tag for a constant value
or the general tag (R111, R112). -/
theorem shapesOf_val {act : W32} {wide : Bool} {j tag h : Nat} {f : Nat → Nat} (hact : act.getLsbD j = true)
    (ht : act = BitVec.allOnes 32 → (tag = 1 ∧ ∀ a b, f a = f b) ∨ tag = 3) (hh : h < if wide then 2 else 1) :
    ∃ r, (shapesOf act wide tag (lanePats act f))[h]? = some r ∧ r.val j = w32 (f j / 2 ^ (32 * h)) := by
  have hpart : ∀ k : Nat → W32, (GReg.mk (if act = BitVec.allOnes 32 then tag else 3) ((lanePats act f).map k)).val j = k (f j) := by
    intro k
    by_cases hall : act = BitVec.allOnes 32
    · exact passShape_val hact (ht hall) k
    · have := passShape_val (tag := 3) (f := f) hact (.inr rfl) k
      rwa [if_neg hall] at this ⊢
  cases wide with
  | false =>
    obtain rfl : h = 0 := by simpa using hh
    exact ⟨_, rfl, (hpart _).trans (by simp)⟩
  | true =>
    obtain rfl | rfl : h = 0 ∨ h = 1 := by
      have : h < 2 := hh
      omega
    · exact ⟨_, rfl, (hpart _).trans (by simp)⟩
    · exact ⟨_, rfl, hpart _⟩

/-! ### From the passes to the lanes -/

section Shapes
variable {s : State} {c : Crew} {i : Nat} {p : Path} {ins : Instr} {o : OpA} {w : LaneA} {wide : Bool} {val : Nat → Nat → Nat}
  (hready : LaneReady s c i p (infoA ins o w false)) (hroom : Room s c) (hdest : OpA.writes o w = regPair wide w.d)
include hready hroom hdest

/-- A word of one pass for each group that has a selected lane, whose shapes hold the lanes' values, sets these lanes. -/
theorem laneSets_of_shapes {shapes : Nat → List GReg} (hlen : ∀ g, (shapes g).length = (regPair wide w.d).length)
    (hexec : exec ins s = writeFixed (s.entered w.h c i p) c ins ((c.passes (selMask c p w.h)).map fun g =>
      passOut c g (c.groupWord (selMask c p w.h) g) (OpA.writes o w) (shapes g)))
    (hval : ∀ g j h, g < c.groups → c.selects (selMask c p w.h) g j → h < (regPair wide w.d).length →
      ∃ r, (shapes g)[h]? = some r ∧ r.val j = w32 (val g j / 2 ^ (32 * h))) :
    LaneSets ins s c i p (selMask c p w.h) (regPair wide w.d) val := by
  have hgroups : c.groups ≤ 32 := hready.groups
  obtain ⟨sel, hsel⟩ : ∃ sel, selMask c p w.h = sel := ⟨_, rfl⟩
  rw [hdest] at hexec
  rw [hsel] at hexec hval ⊢
  let pass : Nat → PassOut := fun g => passOut c g (c.groupWord sel g) (regPair wide w.d) (shapes g)
  have houts : ∀ g, (pass g).outs.map (·.1) = (regPair wide w.d).map c.physical := fun g =>
    List.map_fst_zip (by rw [List.length_map, hlen])
  have hpresent : ∀ v ∈ regPair wide w.d, c.present (c.physical v) = true := fun v hv =>
    hready.present v (by simp [infoA, hdest, hv]) (lt_of_mem_regPair hv)
  have hok : ∀ q ∈ (c.passes sel).map pass, q.Ok c := by
    intro q hq
    obtain ⟨g, hg, rfl⟩ := List.mem_map.mp hq
    have hlt : g < c.groups := List.mem_range.mp (List.mem_of_mem_filter hg)
    refine ⟨hlt.trans_le hgroups, fun o ho => ?_, ?_⟩
    · obtain ⟨v, hv, he⟩ := List.mem_map.mp (houts g ▸ List.mem_map_of_mem ho)
      exact he ▸ hpresent v hv
    · rw [houts]
      exact (regPair_nodup wide w.d).map (physical_injective c)
  have hcount : ((c.passes sel).map pass).length ≤ 32 := by
    rw [List.length_map]
    exact ((List.length_filter_le _ _).trans_eq List.length_range).trans hgroups
  have htwo : ∀ q ∈ (c.passes sel).map pass, q.outs.length ≤ 2 := by
    intro q hq
    obtain ⟨g, -, rfl⟩ := List.mem_map.mp hq
    have := congrArg List.length (houts g)
    rw [List.length_map, List.length_map, regPair_length] at this
    rw [this]
    split <;> decide
  have hnd : (((c.passes sel).map pass).map (·.g)).Nodup := by
    rw [List.map_map]
    exact (List.map_id _).symm ▸ nodup_passes c sel
  obtain ⟨c', hdone, hrest, hpast, hothers, hread⟩ := completes_of_passes hready.path hgroups hroom hcount htwo hexec
  refine ⟨c', hdone, hrest, hpast, hothers, fun h v g j hv _ hg hj hs => ?_, fun r g j hg hj hne => ?_⟩
  · have hh : h < (regPair wide w.d).length := (List.getElem?_eq_some_iff.mp hv).1
    obtain ⟨x, hx, hxv⟩ := hval g j h hg hs hh
    have hout : (pass g).outs[h]? = some (c.physical v, x) :=
      List.getElem?_zip_eq_some.mpr ⟨by rw [List.getElem?_map, hv]; rfl, hx⟩
    rw [hread, ← hxv]
    exact readLane_passes hok hnd (List.mem_map_of_mem (mem_passes hg hs)) hs hout
  · rw [hread]
    refine readLane_passes_ne hok (hg.trans_le hgroups) hj fun q hq => ?_
    obtain ⟨k, -, rfl⟩ := List.mem_map.mp hq
    rw [houts]
    refine hne.imp_right fun hs => ?_
    by_cases hk : g = k
    · subst hk
      exact .inr (eq_false_of_ne_true hs)
    · exact .inl hk

/-- A word of one pass for each group that has a selected lane, with these values in its lanes, sets these lanes. -/
theorem laneSets_of_values {tag : Nat → Nat} {f : Nat → Nat → Nat}
    (hexec : exec ins s = writeFixed (s.entered w.h c i p) c ins ((c.passes (selMask c p w.h)).map fun g =>
      passOut c g (c.groupWord (selMask c p w.h) g) (OpA.writes o w) (shapesOf (c.groupWord (selMask c p w.h) g) wide (tag g)
        (lanePats (c.groupWord (selMask c p w.h) g) (f g)))))
    (htag : ∀ g, c.groupWord (selMask c p w.h) g = BitVec.allOnes 32 → (tag g = 1 ∧ ∀ a b, f g a = f g b) ∨ tag g = 3)
    (hval : ∀ g j, g < c.groups → c.selects (selMask c p w.h) g j → f g j = val g j) :
    LaneSets ins s c i p (selMask c p w.h) (regPair wide w.d) val := by
  refine laneSets_of_shapes hready hroom hdest (fun g => (shapesOf_length ..).trans (regPair_length ..).symm) hexec
    fun g j h hg hs hh => ?_
  rw [← hval g j hg hs]
  exact shapesOf_val hs (htag g) (regPair_length wide w.d ▸ hh)

end Shapes

end Sys2Proof.Machine

end

section
/-! SUPPORT. The lane words that pick a value for each lane (R171, R173, R180, R182). -/

namespace Sys2Proof.Machine

/-! ### What beginning a segment leaves (R46) -/

theorem mget_entered (c : Crew) (p : Path) (h : Hdr) (r : BitVec 4) : c.mget (p.entered h) r = c.mget p r := by
  rw [Crew.mget, entered_m0, Crew.mget]

theorem laneB_entered (c : Crew) (p : Path) (h : Hdr) (o : OpA) (w : LaneA) (g j : Nat) :
    laneB c (p.entered h) o w g j = laneB c p o w g j := by
  unfold Path.entered
  split <;> rfl

/-! ### Lanes of masks and sources -/

/-- Lane j of a group is a lane of the team. -/
theorem groupWord_getLsbD (c : Crew) (m : Mask) (g : Nat) {j : Nat} (hj : j < 32) :
    (c.groupWord m g).getLsbD j = m.getLsbD (32 * (c.first + g) + j) := by
  rw [Crew.groupWord, BitVec.getLsbD_extractLsb', decide_eq_true hj, Bool.true_and]

theorem low4 (r : BitVec 8) : r.extractLsb' 0 4 = r.setWidth 4 := (BitVec.setWidth_eq_extractLsb' (by decide)).symm

theorem val_eq_lo_add (x : GSrc) (j : Nat) : x.val j = (x.lo.val j).toNat + (x.hi.val j).toNat * 2 ^ 32 := rfl

/-- A source that no lane mask selects from is the same for every mask. -/
theorem srcBG_of_not_reg {w : LaneA} (hb : ∀ r, w.b ≠ .reg r) (c : Crew) (p : Path) (wide : Bool) (a b : W32) (g : Nat) :
    srcBG c p w wide a g = srcBG c p w wide b g := by
  unfold srcBG
  cases h : w.b with
  | reg r => exact absurd h (hb r)
  | _ => rfl

/-- A register whose tag is uniform has one value in all lanes of a full pass. -/
theorem laneSrc_flat {c : Crew} {wide : Bool} {v g : Nat} (ht : c.tagSrc wide (BitVec.allOnes 32) v g = 1) {j k : Nat} (hj : j < 32)
    (hk : k < 32) : c.laneSrc wide v g j = c.laneSrc wide v g k := by
  have hflat : (c.srcReg wide (BitVec.allOnes 32) v g).Flat := flat_of_tag (fun h => by rw [h]; rfl) ht
  have hread : ∀ n, n < 32 → (c.srcReg wide (BitVec.allOnes 32) v g).val n = c.laneSrc wide v g n := fun n hn =>
    srcReg_val (by rw [BitVec.getLsbD_allOnes, decide_eq_true hn]) c wide v g
  rw [← hread j hj, ← hread k hk]
  exact hflat j k

theorem pairTag_cases (wide : Bool) (ts : List Nat) (t : Nat) : pairTag wide ts t = t ∨ pairTag wide ts t = 3 := by
  unfold pairTag
  exact (ite_eq_or_eq ..).symm

/-! ### The words -/

section Words
variable {w : LaneA} {s : State} {c : Crew} {i : Nat} {p : Path}

theorem vsel_sets (hready : LaneReady s c i p (infoA (.vsel w) .vsel w false)) (hroom : Room s c) :
    LaneSets (.vsel w) s c i p (selMask c p w.h) (regPair w.ty.is64 w.d) fun g j =>
      if (c.mget p (w.c.setWidth 4)).getLsbD (32 * (c.first + g) + j) then laneA c .vsel w g j else laneB c p .vsel w g j := by
  let q := p.entered w.h
  let act := c.groupWord (selMask c p w.h)
  refine laneSets_of_values hready hroom rfl (tag := fun _ => 3)
    (f := fun g j => if (c.groupWord (c.mget q (w.c.extractLsb' 0 4)) g).getLsbD j then (sourceA c q .vsel w (act g) g 0).val j
      else (sourceA c q .vsel w (act g) g 1).val j)
    ((show exec (.vsel w) s = execVsel w s from rfl).trans (laneWord_ready hready rfl)) (fun _ _ => .inr rfl) fun g j _ hs => ?_
  have hj : j < 32 := BitVec.lt_of_getLsbD hs
  rw [groupWord_getLsbD _ _ _ hj, mget_entered, low4, sourceA_val_a c q .vsel w g hs, sourceA_val_b c q .vsel w g hs, laneB_entered]

theorem msave_sets (hw : w.ty.is64 = false) (hready : LaneReady s c i p (infoA (.msave w) .msave w false)) (hroom : Room s c) :
    LaneSets (.msave w) s c i p (selMask c p w.h) (regPair w.ty.is64 w.d) fun g j =>
      if (c.mget p (w.a.setWidth 4)).getLsbD (32 * (c.first + g) + j) then 1 else 0 := by
  rw [hw]
  refine laneSets_of_values hready hroom (congrArg (regPair · w.d) hw) (tag := fun _ => 3)
    (f := fun g j => b2n ((c.groupWord (c.mget (p.entered w.h) (w.a.extractLsb' 0 4)) g).getLsbD j))
    ((show exec (.msave w) s = execMsave w s from rfl).trans (laneWord_ready hready rfl)) (fun _ _ => .inr rfl) fun g j _ hs => ?_
  rw [groupWord_getLsbD _ _ _ (BitVec.lt_of_getLsbD hs), mget_entered, low4]
  rfl

/-- A word that takes each lane's value from a lane of its group, which the low half of source b names (R180). -/
theorem shuffle_sets {ins : Instr} {o : OpA} {source : Nat → Nat → Nat} (hexec : exec ins s = shuffle s ins o w source)
    (hb : o.bUse = .src) (hd : o.dUse = .vec) (hlow : ∀ j x y, source j (x + y * 2 ^ 32) = source j x) (hlt : ∀ j x, source j x < 32)
    (hready : LaneReady s c i p (infoA ins o w false)) (hroom : Room s c) :
    LaneSets ins s c i p (selMask c p w.h) (regPair w.ty.is64 w.d) fun g j =>
      c.laneSrc w.ty.is64 w.a.toNat g (source j (laneB c p o w g j)) := by
  let b := fun g => srcBG c (p.entered w.h) w w.ty.is64 (c.groupWord (selMask c p w.h) g) g
  let t := fun g => c.tagSrc w.ty.is64 (c.groupWord (selMask c p w.h) g) w.a.toNat g
  refine laneSets_of_values hready hroom (by rw [OpA.writes, hd])
    (tag := fun g => pairTag w.ty.is64 [t g, (b g).tag w.ty.is64] (if t g = 1 then 1 else 3))
    (f := fun g j => c.laneSrc w.ty.is64 w.a.toNat g (source j ((b g).lo.val j).toNat))
    (hexec.trans (laneWord_ready hready rfl)) (fun g hall => ?_) fun g j _ hs => ?_
  · by_cases ht : t g = 1
    · have hflat : c.tagSrc w.ty.is64 (BitVec.allOnes 32) w.a.toNat g = 1 := hall ▸ ht
      rw [if_pos ht]
      exact (pairTag_cases ..).imp_left fun h => ⟨h, fun x y => laneSrc_flat hflat (hlt ..) (hlt ..)⟩
    · rw [if_neg ht]
      exact .inr ((pairTag_cases ..).elim id id)
  · have hval := srcBG_val hs c (p.entered w.h) o w g (.inl hb)
    rw [← laneB_entered c p w.h, ← hval, val_eq_lo_add, hlow]

theorem vshuf_sets (hready : LaneReady s c i p (infoA (.vshuf w) .vshuf w false)) (hroom : Room s c) :
    LaneSets (.vshuf w) s c i p (selMask c p w.h) (regPair w.ty.is64 w.d) fun g j =>
      c.laneSrc w.ty.is64 w.a.toNat g (laneB c p .vshuf w g j % 32) :=
  shuffle_sets (source := fun _ b => b % 32) rfl rfl rfl (fun _ _ _ => by omega) (fun _ _ => Nat.mod_lt _ (by decide)) hready hroom

theorem vrot_sets (hready : LaneReady s c i p (infoA (.vrot w) .vrot w false)) (hroom : Room s c) :
    LaneSets (.vrot w) s c i p (selMask c p w.h) (regPair w.ty.is64 w.d) fun g j =>
      c.laneSrc w.ty.is64 w.a.toNat g ((j + laneB c p .vrot w g j) % 32) :=
  shuffle_sets (source := fun j b => (j + b) % 32) rfl rfl rfl (fun _ _ _ => by omega) (fun _ _ => Nat.mod_lt _ (by decide)) hready
    hroom

theorem vbcast_sets (hb : ∀ r, w.b ≠ .reg r) (hready : LaneReady s c i p (infoA (.vbcast w) .vbcast w false)) (hroom : Room s c) :
    LaneSets (.vbcast w) s c i p (selMask c p w.h) (regPair w.ty.is64 w.d) fun g _ =>
      c.bcastVal w.ty.is64 w.a.toNat (laneB c p .vbcast w g 0 % 1024) := by
  let b := fun g => srcBG c (p.entered w.h) w w.ty.is64 (c.groupWord (selMask c p w.h) g) g
  let l := fun g => ((b g).lo.val 0).toNat % 1024
  refine laneSets_of_values hready hroom rfl
    (tag := fun g => pairTag w.ty.is64 ((b g).tag w.ty.is64 :: c.bcastTags w.ty.is64 (selMask c p w.h) w.a.toNat (l g)) 1)
    (f := fun g _ => c.bcastVal w.ty.is64 w.a.toNat (l g))
    ((show exec (.vbcast w) s = execVbcast w s from rfl).trans (laneWord_ready hready rfl))
    (fun g _ => (pairTag_cases ..).imp_left fun h => ⟨h, fun _ _ => rfl⟩) fun g j _ _ => ?_
  have hval : (b g).val 0 = laneB c p .vbcast w g 0 := by
    rw [← laneB_entered c p w.h]
    exact (congrArg (GSrc.val · 0) (srcBG_of_not_reg hb ..)).trans
      (srcBG_val (act := BitVec.allOnes 32) (by decide) c (p.entered w.h) .vbcast w g (.inr rfl))
  have hl : l g = laneB c p .vbcast w g 0 % 1024 := by
    rw [← hval, val_eq_lo_add]
    change ((b g).lo.val 0).toNat % 1024 = _
    omega
  rw [hl]

/-! ### VLANE (R173) -/

/-- The per-lane registers (R107, R142, R217, R288, R313, R355). -/
def perLane : List Nat := [0x010, 0x011, 0x030, 0x041, 0x042, 0x093, 0x0A4, 0x0D0, 0x0D3]

theorem srLane_of_mem (s : State) (c : Crew) (l : Nat) : ∀ a ∈ perLane, (s.srLane c a l).isSome = true := by
  simp only [perLane, List.forall_mem_cons, State.srLane, Option.isSome_some, List.not_mem_nil, false_implies, implies_true, and_self]

theorem srLane_of_notMem {a : Nat} (h : a ∉ perLane) (s : State) (c : Crew) (l : Nat) : s.srLane c a l = none := by
  simp only [perLane, List.mem_cons, List.not_mem_nil, or_false, not_or] at h
  obtain ⟨h1, h2, h3, h4, h5, h6, h7, h8, h9⟩ := h
  simp only [State.srLane]

/-- A half of a 64-bit value. -/
theorem half_eq (v : W64) (hi : Bool) :
    v.toNat / (if hi then 2 ^ 32 else 1) % 2 ^ 32 = if hi then v.toNat / 2 ^ 32 else v.toNat % 2 ^ 32 := by
  have := v.isLt
  cases hi with
  | false => simp
  | true => exact Nat.mod_eq_of_lt (by simp only [if_true]; omega)

/-- The shape of VLANE's pass over group g (R173). -/
def State.laneShape (s : State) (c : Crew) (i : Nat) (addr : BitVec 12) (hi : Bool) (g : Nat) : GReg :=
  GReg.mk (s.laneTag c addr) ((List.range 32).map fun j => w32 (s.laneReg c i addr hi (32 * (c.first + g) + j)))

theorem laneShape_val (hspan : c.first + c.groups ≤ 32) (addr : BitVec 12) (hi : Bool) {g j : Nat} (hg : g < c.groups) (hj : j < 32) :
    (s.laneShape c i addr hi g).val j = w32 (s.laneReg c i addr hi (32 * (c.first + g) + j)) := by
  unfold State.laneShape State.laneTag
  split
  next ha =>
    have hread : ∀ l, l < 1024 → s.laneReg c i addr hi l = if hi then 0 else l := by
      intro l hl
      have hsr : s.srLane c addr.toNat l = some (w64 l) := by rw [ha]; rfl
      have hnat : (w64 l).toNat = l := by
        rw [w64, BitVec.toNat_ofNat]
        omega
      rw [State.laneReg, hsr, Option.getD_some, half_eq, hnat]
      cases hi with
      | false => exact Nat.mod_eq_of_lt (by omega)
      | true => exact Nat.div_eq_of_lt (by omega)
    have hlt : 32 * (c.first + g) + 32 ≤ 1024 := by omega
    cases hi with
    | false => simp [GReg.mk, GReg.val, hread (32 * (c.first + g)) (by omega), hread (32 * (c.first + g) + 1) (by omega),
        hread (32 * (c.first + g) + j) (by omega), w32, BitVec.ofNat_add]
    | true => simp [GReg.mk, GReg.val, hread (32 * (c.first + g)) (by omega), hread (32 * (c.first + g) + 1) (by omega),
        hread (32 * (c.first + g) + j) (by omega)]
  next =>
    split
    · simp [GReg.mk, hj]
    next hnone =>
      have hsame : ∀ l, s.laneReg c i addr hi l = s.laneReg c i addr hi (32 * (c.first + g)) := by
        have hn := srLane_of_notMem (fun hm => hnone (srLane_of_mem s c 0 _ hm)) s c
        intro l
        rw [State.laneReg, State.laneReg, hn, hn]
      simp [GReg.mk, hsame (32 * (c.first + g) + j)]

theorem modCrew_id (s : State) (id : Nat) : s.modCrew id (fun c => c) = s := by
  simp [State.modCrew]

/-- A VLANE of a register other than sr.time waits for no time and notes none (R392). -/
theorem exec_vlane (ha : w.x.extractLsb' 0 12 ≠ 0) (hready : LaneReady s c i p (infoA (.vlane w) .vlane w false)) :
    exec (.vlane w) s = writeFixed (s.entered w.h c i p) c (.vlane w) ((c.passes (selMask c p w.h)).map fun g =>
      passOut c g (c.groupWord (selMask c p w.h) g) (OpA.writes .vlane w)
        [s.laneShape c i (w.x.extractLsb' 0 12) (w.x.getLsbD 12) g]) := by
  have hbehind : s.timeBehind c (w.x.extractLsb' 0 12) = false := by
    rw [State.timeBehind, beq_false_of_ne ha, Bool.false_and]
  have hnote : ∀ u : State, (u.modCur fun c => c.noteTime (w.x.extractLsb' 0 12) s.time) = u := by
    intro u
    simp only [Crew.noteTime, if_neg ha, State.modCur]
    split
    · exact modCrew_id ..
    · rfl
  have hcur := curPath_of hready.path
  change execVlane w s = _
  rw [execVlane]
  dsimp only
  rw [laneWord_ready hready rfl]
  simp only [hbehind, Bool.false_and, Bool.false_eq_true, if_false, hnote, hcur]
  rfl

theorem vlane_sets (hspan : c.first + c.groups ≤ 32) (hw : w.ty.is64 = false) (ha : w.x.extractLsb' 0 12 ≠ 0)
    (hready : LaneReady s c i p (infoA (.vlane w) .vlane w false)) (hroom : Room s c) :
    LaneSets (.vlane w) s c i p (selMask c p w.h) (regPair w.ty.is64 w.d) fun g j =>
      let v := (s.srLane c (w.x.extractLsb' 0 12).toNat (32 * (c.first + g) + j)).getD (s.srRead c i (w.x.extractLsb' 0 12))
      if w.x.getLsbD 12 then v.toNat / 2 ^ 32 else v.toNat % 2 ^ 32 := by
  refine laneSets_of_shapes hready hroom rfl (fun g => by rw [hw]; rfl) (exec_vlane ha hready) fun g j h hg hs hh => ?_
  obtain rfl : h = 0 := by
    rw [regPair_length, hw] at hh
    exact Nat.lt_one_iff.mp hh
  refine ⟨_, rfl, ?_⟩
  rw [laneShape_val hspan _ _ hg (BitVec.lt_of_getLsbD hs), State.laneReg, half_eq]
  exact congrArg w32 (Nat.div_one _).symm

theorem pickingWordsSetTheirLanes : Claims.PickingWordsSetTheirLanes := fun _ _ _ _ _ hspan hroom =>
  ⟨fun h => vsel_sets h hroom, fun h => vshuf_sets h hroom, fun h => vrot_sets h hroom, fun hb h => vbcast_sets hb h hroom,
    fun hw h => msave_sets hw h hroom, fun hw ha h => vlane_sets hspan hw ha h hroom⟩

end Words

end Sys2Proof.Machine

end

section
/-! SUPPORT. Scans and reductions (R74 to R76, R180, R181): the present values of a span, and the words over it. -/

namespace Sys2Proof.Machine

/-! ### The span of a group (R181) -/

/-- The mask register that begins segments; m0's number where none does. -/
def segReg (w : LaneA) : BitVec 8 := match w.b with | .reg r => r | _ => 0

/-- The first group of the span of group g, and the groups of the span. -/
def spanFirst (w : LaneA) (g : Nat) : Nat := if w.x.getLsbD 31 then 0 else g
def spanGroups (w : LaneA) (c : Crew) (g : Nat) : List Nat := if w.x.getLsbD 31 then List.range c.groups else [g]

/-- A segment begins at place n of the span of group g. -/
def spanStarts (w : LaneA) (c : Crew) (p : Path) (g n : Nat) : Bool :=
  n == 0 || (decide (segReg w ≠ 0) && (c.mget p ((segReg w).setWidth 4)).getLsbD (32 * (c.first + spanFirst w g) + n))

/-- The values of the span of group g, those of its inactive lanes absent. -/
def spanPresent (w : LaneA) (c : Crew) (sel : Mask) (g : Nat) : List (Option Nat) :=
  (spanGroups w c g).flatMap fun q => (List.range 32).map fun j =>
    if (c.groupWord sel q).getLsbD j then some (c.laneSrc w.ty.is64 w.a.toNat q j % 2 ^ (ecount w.ty * ewidth w.ty)) else none

/-- The values of a type fill 64 bits exactly where its registers are pairs. -/
theorem width_eq_64 (t : Ty) : decide (ecount t * ewidth t = 64) = t.is64 := by cases t <;> rfl

theorem spanVals_eq (w : LaneA) (c : Crew) (sel : Mask) (g : Nat) :
    c.spanVals (ecount w.ty * ewidth w.ty) sel w.a.toNat (spanGroups w c g) = spanPresent w c sel g := by
  unfold Crew.spanVals spanPresent
  rw [width_eq_64]
  refine congrArg (List.flatMap · _) (funext fun q => List.map_congr_left fun j _ => ?_)
  split
  next hact => rw [srcReg_val hact]
  next => rfl

/-- With no mask register of segments, the one segment is the span. -/
theorem segStart_of_none {starts : Nat → Bool} (h : ∀ n, starts (n + 1) = false) (n : Nat) : segStart starts n = 0 := by
  induction n with
  | zero => rfl
  | succ n ih => rw [segStart, h, if_neg Bool.false_ne_true, ih]

/-! ### The words -/

section Words
variable {w : LaneA} {s : State} {c : Crew} {i : Nat} {p : Path}

/-- A word over the span of each group gives its passes the values of their spans (R181). -/
theorem spanWord_ready {ins : Instr} {o : OpA} (tag : Nat) (val : (Nat → Bool) → List (Option Nat) → Nat → Nat)
    (hready : LaneReady s c i p (infoA ins o w false)) :
    spanWord s ins o w tag val = writeFixed (s.entered w.h c i p) c ins ((c.passes (selMask c p w.h)).map fun g =>
      passOut c g (c.groupWord (selMask c p w.h) g) (OpA.writes o w) (shapesOf (c.groupWord (selMask c p w.h) g) w.ty.is64
        (c.spanTag w.ty.is64 tag (selMask c p w.h) w.a.toNat (spanGroups w c g))
        (lanePats (c.groupWord (selMask c p w.h) g) fun j =>
          val (spanStarts w c p g) (spanPresent w c (selMask c p w.h) g) (32 * (g - spanFirst w g) + j)))) := by
  have hstarts : ∀ g, spanStarts w c p g = fun n => n == 0 || (decide (segReg w ≠ 0)
      && (c.mget (p.entered w.h) ((segReg w).extractLsb' 0 4)).getLsbD (32 * (c.first + spanFirst w g) + n)) := by
    intro g
    rw [mget_entered, low4]
    rfl
  refine (laneWord_ready hready rfl).trans ?_
  simp only [hstarts, ← spanVals_eq]
  rfl

/-- Such a word sets in each selected lane its value of the span. It is tagged uniform only where its value is the same in every place
(R112, R181). -/
theorem span_sets {ins : Instr} {o : OpA} {tag : Nat} {val : (Nat → Bool) → List (Option Nat) → Nat → Nat}
    (hexec : exec ins s = spanWord s ins o w tag val) (hd : o.dUse = .vec)
    (htag : (tag = 1 ∧ ∀ g xs m n, val (spanStarts w c p g) xs m = val (spanStarts w c p g) xs n) ∨ tag = 3)
    (hready : LaneReady s c i p (infoA ins o w false)) (hroom : Room s c) :
    LaneSets ins s c i p (selMask c p w.h) (regPair w.ty.is64 w.d) fun g j =>
      val (spanStarts w c p g) (spanPresent w c (selMask c p w.h) g) (32 * (g - spanFirst w g) + j) := by
  refine laneSets_of_values hready hroom (by rw [OpA.writes, hd]) (hexec.trans (spanWord_ready tag val hready)) (fun g _ => ?_)
    fun _ _ _ _ => rfl
  have hpair : ∀ gs, c.spanTag w.ty.is64 tag (selMask c p w.h) w.a.toNat gs = tag
      ∨ c.spanTag w.ty.is64 tag (selMask c p w.h) w.a.toNat gs = 3 := fun _ => (ite_eq_or_eq ..).symm
  rcases htag with ⟨rfl, hconst⟩ | rfl
  · exact (hpair _).imp_left fun h => ⟨h, fun _ _ => hconst ..⟩
  · exact .inr ((hpair _).elim id id)

theorem vscan_sets (hready : LaneReady s c i p (infoA (.vscan w) .vscan w false)) (hroom : Room s c) :
    LaneSets (.vscan w) s c i p (selMask c p w.h) (regPair w.ty.is64 w.d) fun g j =>
      scanAt w (w.x.getLsbD 30) (spanStarts w c p g) (spanPresent w c (selMask c p w.h) g) (32 * (g - spanFirst w g) + j) :=
  span_sets rfl rfl (.inr rfl) hready hroom

theorem vred_sets (hready : LaneReady s c i p (infoA (.vred w) .vred w false)) (hroom : Room s c) :
    LaneSets (.vred w) s c i p (selMask c p w.h) (regPair w.ty.is64 w.d) fun g j =>
      redAt w (spanStarts w c p g) (spanPresent w c (selMask c p w.h) g) (32 * (g - spanFirst w g) + j) := by
  refine span_sets (val := fun st xs n => redAt w st xs n) rfl rfl ?_ hready hroom
  have hnone : segReg w = 0 → ∀ g xs m n, redAt w (spanStarts w c p g) xs m = redAt w (spanStarts w c p g) xs n := by
    intro h0 g xs m n
    have hstart := segStart_of_none (starts := spanStarts w c p g) fun n => by simp [spanStarts, h0]
    rw [redAt, redAt, hstart, hstart]
  cases hb : w.b with
  | reg r =>
    dsimp only
    split
    next h0 => exact .inl ⟨rfl, hnone (by rw [segReg, hb]; exact h0)⟩
    next => exact .inr rfl
  | _ => exact .inl ⟨rfl, hnone (by rw [segReg, hb])⟩

/-- Settles O24: the shapes of the passes hold the values that R75 and R74 combine over the span's present values. -/
theorem scansAndReductionsCombineTheSpan : Obligations.ScansAndReductionsCombineTheSpan := fun _ _ _ _ _ _ hroom =>
  ⟨fun h => vscan_sets h hroom, fun h => vred_sets h hroom⟩

end Words

end Sys2Proof.Machine

end

section
/-! SUPPORT. The lane tests (R38, R162, R172, R175, R182): the bits of a test, and the mask register that they are written to. -/

namespace Sys2Proof.Machine

/-! ### The bits of a test -/

/-- The bit of a selected lane is the test of its sources. -/
theorem testLanes_getLsbD (c : Crew) (p : Path) (o : OpA) (w : LaneA) {sel : Mask} (holds : Nat → Nat → Bool) {g j : Nat}
    (hg : g < c.groups) (hs : c.selects sel g j) :
    (testLanes c p o w sel holds).getLsbD (32 * (c.first + g) + j) = holds (laneA c o w g j) (laneB c p o w g j) := by
  have hj : j < 32 := BitVec.lt_of_getLsbD hs
  have hl : 32 * (c.first + g) + j < 1024 := BitVec.lt_of_getLsbD ((groupWord_getLsbD c sel g hj).symm.trans hs)
  let test : Nat → Nat → Bool := fun q k => (c.groupWord sel q).getLsbD k
    && holds ((sourceA c p o w (c.groupWord sel q) q 0).val k) ((sourceA c p o w (c.groupWord sel q) q 1).val k)
  have htest : test g j = holds (laneA c o w g j) (laneB c p o w g j) := by
    simp only [test]
    rw [show (c.groupWord sel g).getLsbD j = true from hs, Bool.true_and, sourceA_val_a c p o w g hs, sourceA_val_b c p o w g hs]
  have hlanes : testLanes c p o w sel holds = maskOf ((c.passes sel).flatMap fun q =>
      ((List.range 32).filter (test q)).map fun k => 32 * (c.first + q) + k) := rfl
  rw [hlanes, maskOf_getLsbD _ hl, ← htest, Bool.eq_iff_iff, List.any_eq_true]
  constructor
  · rintro ⟨l, hmem, hl⟩
    obtain ⟨q, -, hq⟩ := List.mem_flatMap.mp hmem
    obtain ⟨k, hk, rfl⟩ := List.mem_map.mp hq
    obtain ⟨hk, ht⟩ := List.mem_filter.mp hk
    obtain ⟨hqg, rfl⟩ := teamLane_inj (List.mem_range.mp hk) hj (beq_iff_eq.mp hl)
    rwa [Nat.add_left_cancel hqg] at ht
  · intro ht
    exact ⟨_, List.mem_flatMap.mpr ⟨g, mem_passes hg hs, List.mem_map_of_mem (List.mem_filter.mpr ⟨List.mem_range.mpr hj, ht⟩)⟩,
      beq_self_eq_true _⟩

/-! ### Mask bits of the selected lanes (R83, R162) -/

/-- The crew once its path p, entry i, has the bits of the selected lanes in mask register r. -/
def Crew.putBits (i : Nat) (p : Path) (r : BitVec 4) (sel t lanes : Mask) (c : Crew) : Crew :=
  if r = 0 then c.putMask i 0 ((p.m0 &&& ~~~sel) ||| (t &&& sel)) lanes else c.putResult r sel t

theorem setMaskBits_eq {s : State} {c : Crew} {i : Nat} {p : Path} (h : Issuing s c i p) (r : BitVec 4) (sel t : Mask) :
    s.setMaskBits r sel t = s.modCur (Crew.putBits i p r sel t (s.teamLanes c.team)) := by
  unfold State.setMaskBits Crew.putBits
  by_cases hr : r = 0
  · simp only [hr, if_true, h.cur, h.crew, path_of_entry h.entry]
    exact setMask_eq h 0 _
  · simp only [Crew.putResult, hr, if_false]

section Bits
variable {c : Crew} {i : Nat} {p : Path} {r : BitVec 4} {sel t lanes : Mask}

theorem putBits_eq : c.putBits i p r sel t lanes
    = { c with paths := (c.putBits i p r sel t lanes).paths, m := (c.putBits i p r sel t lanes).m } := by
  unfold Crew.putBits
  split
  · exact putMask_eq ..
  · unfold Crew.putResult
    split <;> rfl

variable (h : c.paths[i]? = some p)
include h

theorem putBits_entry : ∃ m0 trap, (c.putBits i p r sel t lanes).paths[i]? = some { p with m0 := m0, trap := trap } := by
  have hlt : i < c.paths.length := (List.getElem?_eq_some_iff.mp h).1
  unfold Crew.putBits
  split
  · have hlen : i < (c.putMask i 0 ((p.m0 &&& ~~~sel) ||| (t &&& sel)) lanes).paths.length := (putMask_length ..).symm ▸ hlt
    have hpath := putMask_path h 0 ((p.m0 &&& ~~~sel) ||| (t &&& sel)) lanes
    refine ⟨_, _, Eq.trans ?_ (congrArg some hpath)⟩
    rw [List.getElem?_eq_getElem hlen, Crew.path, List.getD_eq_getElem _ _ hlen]
  · refine ⟨p.m0, p.trap, ?_⟩
    unfold Crew.putResult
    split <;> exact h

/-- In the mask register written, the bits of the selected lanes are those of the test, and the others stay; m0 is within the path
mask. -/
theorem mget_putBits_self {q : Path} (hq : q.m0 = ((c.putBits i p r sel t lanes).path i).m0) {l : Nat} (hl : l < 1024)
    (hm : r ≠ 0 ∨ p.mask.getLsbD l = true) :
    ((c.putBits i p r sel t lanes).mget q r).getLsbD l = if sel.getLsbD l then t.getLsbD l else (c.mget p r).getLsbD l := by
  by_cases hr : r = 0
  · have hmask : p.mask.getLsbD l = true := hm.resolve_left (not_not_intro hr)
    subst hr
    rw [Crew.putBits, if_pos rfl] at hq ⊢
    rw [mget_putMask h 0 _ lanes hq, if_pos rfl, if_pos rfl, BitVec.getLsbD_and, mixed_getLsbD _ _ _ hl, hmask, Bool.and_true]
    rfl
  · have hown : (c.putResult r sel t).mget q r = (c.putResult r sel t).mget p r := by
      rw [Crew.mget, Crew.mget, if_neg hr, if_neg hr]
    rw [Crew.putBits, if_neg hr, hown, mget_putResult_self c p hr sel t hl]

theorem mget_putBits_ne {q : Path} (hq : q.m0 = ((c.putBits i p r sel t lanes).path i).m0) {k : BitVec 4} (hk : k ≠ r) :
    (c.putBits i p r sel t lanes).mget q k = c.mget p k := by
  by_cases hr : r = 0
  · subst hr
    rw [Crew.putBits, if_pos rfl] at hq ⊢
    rw [mget_putMask h 0 _ lanes hq, if_neg hk]
  · rw [Crew.putBits, if_neg hr] at hq ⊢
    have hpath : (c.putResult r sel t).path i = p := by
      rw [Crew.putResult, if_neg hr]
      exact path_of_entry h
    have hown : (c.putResult r sel t).mget q k = (c.putResult r sel t).mget p k := by
      rw [Crew.mget, hq, hpath, Crew.mget]
    rw [hown, mget_putResult_ne c p (.inr hk)]

end Bits

/-! ### A lane test that is not long -/

/-- A path past a lane word has the mask registers, and the lane PC, that its place and its pending ISSUE give. -/
theorem pastLane_keeps (p : Path) (m0 : Mask) (trap : Option TrapRec) (sw sb : List Nat) (b : Bool) (n : Nat) :
    ({ p with m0 := m0, trap := trap, segW := sw, segB := sb, newSeg := b } : Path).pastLane n
      = { p.pastLane n with m0 := m0, trap := trap, segW := sw, segB := sb, newSeg := b } := by
  simp only [Path.pastLane, Path.nextIssue]
  split
  · rfl
  · split
    · rfl
    · split <;> rfl

theorem pastLane_mask (p : Path) (n : Nat) : (p.pastLane n).mask = p.mask := by
  simp only [Path.pastLane, Path.nextIssue]
  split
  · rfl
  · split
    · rfl
    · split <;> rfl

/-- The path as it begins its segment differs from the path in its segment alone. -/
theorem entered_segment (p : Path) (k : Hdr) : ∃ sw sb, p.entered k = { p with segW := sw, segB := sb, newSeg := false } := by
  rw [← inSegment_entered]
  exact ⟨_, _, rfl⟩

section Tests
variable {s : State} {c : Crew} {i : Nat} {p : Path} {w : LaneA} {ins : Instr} {o : OpA} {holds : Nat → Nat → Bool}

/-- A word that writes mask bits and goes on leaves its crew with these bits, the path past the word. -/
theorem completes_of_putBits (h : Issuing s c i p) {k : Hdr} {r : BitVec 4} {sel t lanes : Mask} {n : Nat}
    (he : exec ins s = .next (((s.entered k c i p).modCur (Crew.putBits i (p.entered k) r sel t lanes)).advanceLane n)) :
    let e := (c.entered k i p).putBits i (p.entered k) r sel t lanes
    ∃ c', Completes ins s c c' ∧ c'.v = c.v ∧ c'.s = c.s ∧ c'.m = e.m ∧ (c'.path i).m0 = (e.path i).m0
      ∧ (c'.path i).mask = p.mask ∧ (c'.path i).lpc = (p.pastLane n).lpc := by
  intro e
  let f := Crew.putBits i (p.entered k) r sel t lanes
  have hf : ∀ d, (f d).id = d.id := fun d => by rw [show f d = _ from putBits_eq]
  have h1 := issuing_entered h k
  obtain ⟨m0, trap, hentry⟩ := putBits_entry (r := r) (sel := sel) (t := t) (lanes := lanes) h1.entry
  let last : Crew → Crew := fun d => (f (d.entered k i p)).modPath i fun q => q.pastLane n
  have key : exec ins s = .next (s.modCrew c.id last) := by
    rw [he, modCur_of h1, advanceLane_of (h1.modCrew (f := f) hf hentry), hf]
    refine congrArg Host.Outcome.next ?_
    exact (modCrew_modCrew hf (s.entered k c i p) c.id).trans (modCrew_modCrew (f := Crew.entered k i p) (fun _ => rfl) s c.id)
  have hrest : e = { c.entered k i p with paths := e.paths, m := e.m } := putBits_eq
  obtain ⟨sw, sb, hseg⟩ := entered_segment p k
  have hlast : (last c).path i = { p.pastLane n with m0 := m0, trap := trap, segW := sw, segB := sb, newSeg := false } := by
    rw [show (last c).path i = _ from path_modPath_self hentry _, hseg]
    exact pastLane_keeps p m0 trap sw sb false n
  refine ⟨last c, completes_of_modCrew h (f := last) (fun d => hf (d.entered k i p)) key, (congrArg Crew.v hrest :),
    (congrArg Crew.s hrest :), rfl, ?_, ?_, ?_⟩
  · rw [hlast, show e.path i = _ from path_of_entry hentry]
  · rw [hlast]
    exact pastLane_mask p n
  · rw [hlast]

/-- A lane test writes its bits and goes on. -/
theorem laneTest_ready (hready : LaneReady s c i p (infoA ins o w false)) :
    laneTest s ins o w false holds = .next (((s.entered w.h c i p).modCur
      (Crew.putBits i (p.entered w.h) (w.d.setWidth 4) (selMask c p w.h) (testLanes c (p.entered w.h) o w (selMask c p w.h) holds)
        (s.teamLanes c.team))).advanceLane ins.size) := by
  have hbits := setMaskBits_eq (issuing_entered hready.path w.h) (w.d.setWidth 4) (selMask c p w.h)
    (testLanes c (p.entered w.h) o w (selMask c p w.h) holds)
  rw [← low4] at hbits ⊢
  refine (laneWord_ready hready rfl).trans ?_
  exact congrArg (fun u : State => Host.Outcome.next (u.advanceLane ins.size)) hbits

/-- A lane test writes the bit of its test in each selected lane of its mask register, within the path mask for m0, and leaves every
other bit. -/
theorem laneTest_sets (hexec : exec ins s = laneTest s ins o w false holds) (hready : LaneReady s c i p (infoA ins o w false))
    (hspan : c.first + c.groups ≤ 32) :
    ∃ t c', exec ins s = .next t ∧ OnlyCrew c.id s t ∧ t.crewOf c.id = some c'
      ∧ c'.v = c.v ∧ c'.s = c.s ∧ (c'.path i).mask = p.mask ∧ (c'.path i).lpc = (p.pastLane ins.size).lpc
      ∧ (∀ g j, g < c.groups → j < 32 → c.selects (selMask c p w.h) g j →
        (w.d.setWidth 4 ≠ (0 : BitVec 4) ∨ p.mask.getLsbD (32 * (c.first + g) + j)) →
        (c'.mget (c'.path i) (w.d.setWidth 4)).getLsbD (32 * (c.first + g) + j) = holds (laneA c o w g j) (laneB c p o w g j))
      ∧ (∀ l, (selMask c p w.h).getLsbD l = false → (w.d.setWidth 4 ≠ (0 : BitVec 4) ∨ p.mask.getLsbD l) →
        (c'.mget (c'.path i) (w.d.setWidth 4)).getLsbD l = (c.mget p (w.d.setWidth 4)).getLsbD l)
      ∧ ∀ k, k ≠ w.d.setWidth 4 → c'.mget (c'.path i) k = c.mget p k := by
  obtain ⟨bits, hbits⟩ : ∃ bits, testLanes c (p.entered w.h) o w (selMask c p w.h) holds = bits := ⟨_, rfl⟩
  have hwritten := hexec.trans (laneTest_ready hready)
  rw [hbits] at hwritten
  obtain ⟨c', ⟨t, ht, honly, hcrew⟩, hv, hs, hm, hown, hmask, hlpc⟩ := completes_of_putBits hready.path hwritten
  have hentry := (issuing_entered hready.path w.h).entry
  obtain ⟨sw, sb, hseg⟩ := entered_segment p w.h
  have hold : ∀ k, (c.entered w.h i p).mget (p.entered w.h) k = c.mget p k := fun k => mget_entered c p w.h k
  have hread : ∀ q k, c'.mget q k = ((c.entered w.h i p).putBits i (p.entered w.h) (w.d.setWidth 4) (selMask c p w.h) bits
      (s.teamLanes c.team)).mget q k := fun q k => by rw [Crew.mget, hm, Crew.mget]
  have hself : ∀ l, l < 1024 → (w.d.setWidth 4 ≠ (0 : BitVec 4) ∨ p.mask.getLsbD l = true) →
      (c'.mget (c'.path i) (w.d.setWidth 4)).getLsbD l
        = if (selMask c p w.h).getLsbD l then bits.getLsbD l else (c.mget p (w.d.setWidth 4)).getLsbD l := by
    intro l hl hin
    rw [hread, ← hold]
    exact mget_putBits_self hentry hown hl (by rwa [hseg])
  refine ⟨t, c', ht, honly, hcrew, hv, hs, hmask, hlpc, fun g j hg hj hsel hin => ?_, fun l hsel hin => ?_, fun k hk => ?_⟩
  · have hlane : (selMask c p w.h).getLsbD (32 * (c.first + g) + j) = true := (groupWord_getLsbD c _ g hj).symm.trans hsel
    rw [hself _ (by omega) hin, if_pos hlane, ← hbits, testLanes_getLsbD c _ o w holds hg hsel, laneB_entered]
  · by_cases hl : l < 1024
    · rw [hself l hl hin, if_neg (by simp [hsel])]
    · rw [BitVec.getLsbD_of_ge _ _ (Nat.le_of_not_lt hl), BitVec.getLsbD_of_ge _ _ (Nat.le_of_not_lt hl)]
  · rw [hread, ← hold]
    exact mget_putBits_ne hentry hown hk

/-! ### FCMP.f64 (R43, R175) -/

/-- The values by which such a word keeps the lanes in which its test holds. -/
def testVals (bits : Mask) : SMap Nat := (maskLanes 1024 bits).map fun l => (l, 1)

theorem testVals_any (bits : Mask) {l : Nat} (hl : l < 1024) :
    (testVals bits).any (fun e => e.1 == l) = true ↔ bits.getLsbD l = true := by
  rw [testVals, List.any_map, List.any_eq_true]
  constructor
  · rintro ⟨n, hn, he⟩
    rw [← beq_iff_eq.mp he]
    exact (mem_maskLanes.mp hn).2
  · exact fun hb => ⟨l, mem_maskLanes.mpr ⟨hl, hb⟩, beq_self_eq_true _⟩

/-- The word as it goes in flight with the lanes in which its test holds. -/
def testWord (s : State) (p : Path) (c : Crew) (info : LaneInfo) (sel bits : Mask) : Word :=
  { newWord s p c info sel with
    vals := testVals bits
    done := true }

/-- The word in flight of an FCMP of a 64-bit type. -/
def fcmpWord (w : LaneA) (s : State) (c : Crew) (i : Nat) (p : Path) : Word :=
  testWord (s.entered w.h c i p) (p.entered w.h) c (infoA (.fcmp w) .fcmp w true) (selMask c p w.h)
    (testLanes c (p.entered w.h) .fcmp w (selMask c p w.h) (holdsFcmp w))

theorem exec_fcmp_long (hw : w.ty.is64 = true) (hready : LaneReady s c i p (infoA (.fcmp w) .fcmp w true)) :
    exec (.fcmp w) s
      = launchWord (s.entered w.h c i p) c (Instr.fcmp w).size (infoA (.fcmp w) .fcmp w true) (fcmpWord w s c i p) := by
  change execFcmp w s = _
  rw [execFcmp, hw]
  exact laneWord_ready hready rfl

theorem fcmpWord_vals : (fcmpWord w s c i p).vals
    = testVals (testLanes c (p.entered w.h) .fcmp w (selMask c p w.h) (holdsFcmp w)) := by
  rw [fcmpWord, testWord]

theorem reserving_vals (d : Word) (c : Crew) (p : Path) : (d.reserving c p).vals = d.vals := rfl

theorem fcmpWord_dests : (fcmpWord w s c i p).dests = [] := by
  have hfilter : [maskReg w.d.toNat].filter (· < 1024) = [] := by simp [maskReg]
  exact congrArg (List.map c.physical) hfilter

/-- A word with no vector registers to write needs no units. -/
theorem unreserved_none (c : Crew) (p : Path) (sel : Mask) : ((p.unreserved (reservations c sel [])).map (·.2)).sum = 0 := by
  refine List.sum_eq_zero fun n hn => ?_
  obtain ⟨r, hr, rfl⟩ := List.mem_map.mp hn
  obtain ⟨g, -, rfl⟩ := List.mem_map.mp (List.mem_of_mem_filter hr)
  rfl

/-- An FCMP of a 64-bit type goes in flight with the lanes in which its test holds, and its path goes on. -/
theorem fcmp_goes (hw : w.ty.is64 = true) (hready : LaneReady s c i p (infoA (.fcmp w) .fcmp w true)) :
    ∃ t c' d, exec (.fcmp w) s = .next t ∧ t = { s with crews := t.crews, nextId := s.nextId + 1 } ∧ t.crewOf c.id = some c'
      ∧ c' = { c with words := c.words ++ [d], paths := c'.paths } ∧ PastLane p (c'.path i) (Instr.fcmp w).size
      ∧ d.maskDest = some (w.d.setWidth 4) ∧ d.lanes = selMask c p w.h ∧ d.slot = true ∧ d.done = true
      ∧ ∀ g j, g < c.groups → j < 32 → c.selects (selMask c p w.h) g j →
        ((d.vals.any fun e => e.1 == 32 * (c.first + g) + j) = true
          ↔ holdsFcmp w (laneA c .fcmp w g j) (laneB c p .fcmp w g j) = true) := by
  have hi := hready.path
  let info := infoA (.fcmp w) .fcmp w true
  let d := fcmpWord w s c i p
  have hfits : ((p.unreserved (reservations c d.lanes d.dests)).map (·.2)).sum ≤ s.crewFree c := by
    rw [show d.dests = [] from fcmpWord_dests, unreserved_none]
    exact Nat.zero_le _
  let f : Crew → Crew := fun e => (e.withWord (d.reserving c p)).modPath i (p.launched w.h c info (Instr.fcmp w).size)
  have key : exec (.fcmp w) s = .next (s.counted.modCrew c.id f) :=
    (exec_fcmp_long hw hready).trans (launchWord_goes hi _ info d hfits)
  have hpath : (f c).path i = p.launched w.h c info (Instr.fcmp w).size p := path_modPath_self hi.entry _
  refine ⟨_, f c, d.reserving c p, key, rfl, crewOf_modCrew_self (f := f) (fun _ => rfl) (issuing_counted hi).crew, rfl, ?_,
    maskDest_fcmp rfl, rfl, rfl, rfl, fun g j hg hj hs => ?_⟩
  · rw [hpath]
    exact pastLane_launched p w.h c info _
  · have hl : 32 * (c.first + g) + j < 1024 := BitVec.lt_of_getLsbD ((groupWord_getLsbD c _ g hj).symm.trans hs)
    rw [reserving_vals, fcmpWord_vals, testVals_any _ hl,
      testLanes_getLsbD c _ .fcmp w (holdsFcmp w) hg hs, laneB_entered]

end Tests

theorem laneTestsWriteMaskBits : Claims.LaneTestsWriteMaskBits := by
  intro w s c i p
  refine ⟨fun h hspan => ?_, fun hw h hspan => ?_, fun h hspan => ?_, fun hw h _ => ?_⟩
  · exact laneTest_sets (show exec (.vcmp w) s = execVcmp w s from rfl) h hspan
  · exact laneTest_sets (show execFcmp w s = _ by rw [execFcmp, hw]) h hspan
  · exact laneTest_sets (show exec (.mload w) s = execMload w s from rfl) h hspan
  · exact fcmp_goes hw h

/-- Settles O23: the tests by the bits that they put in a mask register, the picking words by the values of their passes. -/
theorem laneTestsAndPicks : Obligations.LaneTestsAndPicks := ⟨laneTestsWriteMaskBits, pickingWordsSetTheirLanes⟩

end Sys2Proof.Machine

end

section
/-! SUPPORT. The state after reset. -/

namespace Sys2Proof.Machine

/-- Each listed register is computed from the reset state, one read of BAR0 at a time. -/
theorem resetRegistersRead : Claims.ResetRegistersRead := by
  refine ⟨?_, ?_⟩
  · simp only [List.forall_mem_cons, List.not_mem_nil, false_imp_iff, implies_true, and_true]
    and_intros <;> rfl
  · and_intros <;> rfl

/-- Settles O55: the registers are evaluated at reset, and memory that lists nothing is canonical. -/
theorem resetStateReadsAsTheMapsSay : Obligations.ResetStateReadsAsTheMapsSay :=
  ⟨resetRegistersRead, canonical_reset⟩

end Sys2Proof.Machine

end

section
/-! SUPPORT. The ring registers, submissions, and the allotting and freeing of estimators. -/

namespace Sys2Proof.Machine

/-! ### Steps that set one partition -/

theorem setsPart_modPart {ins : Instr} {s : State} {part : Nat} {q q' : Part} {f : Part → Part} (hq : s.part? part = some q)
    (hexec : exec ins s = .next (s.modPart part f)) (hf : f q = q') : SetsPart ins s part q' :=
  ⟨_, hexec, onlyPart_modPart s part f, hf ▸ part?_modPart_self hq f⟩

/-- The field of a register's lowest bits is the register under their mask. -/
theorem w64_field_zero (v : W64) (hi : Nat) :
    w64 (field v.toNat hi 0) = v &&& BitVec.ofNat 64 (2 ^ (hi + 1) - 1) := by
  rw [← setWidth_extractLsb'_zero]
  apply BitVec.eq_of_toNat_eq
  simp [w64, field]

theorem w64_field_51_0 (v : W64) : w64 (field v.toNat 51 0) = v &&& 0x000FFFFFFFFFFFFF := w64_field_zero v 51

/-! ### The completion ring (R414) -/

/-- The partition's completion ring has this base, size and head. -/
def State.RingAt (s : State) (part : Nat) (reg : W64) (head : W32) : Prop :=
  ∃ q, s.part? part = some q ∧ q.cring.reg = reg ∧ q.cring.head = head

/-- Moving the tail of the ring leaves its base, size and head. -/
theorem ringAt_of_tail {s t : State} {part : Nat} {reg : W64} {head : W32} (h : s.RingAt part reg head) (tail : W32)
    (ht : t.parts = modAt s.parts part fun q => { q with cring := { q.cring with tail := tail } }) : t.RingAt part reg head := by
  obtain ⟨q, hq, hreg, hhead⟩ := h
  have hq' : s.parts[part]? = some q := hq
  exact ⟨{ q with cring := { q.cring with tail := tail } }, by simp [State.part?, ht, modAt_getElem?, hq'], hreg, hhead⟩

/-- A record that goes to the ring moves the ring's tail alone. -/
theorem ringAt_flushRecords {part : Nat} {reg : W64} {head : W32} (ls : List Launch) :
    ∀ {s : State}, s.RingAt part reg head → (s.flushRecords part ls).RingAt part reg head := by
  induction ls with
  | nil => exact fun h => h
  | cons l ls ih =>
    intro s h
    unfold State.flushRecords
    split
    · exact h
    split
    · exact h
    · rename_i tail _
      exact ih (ringAt_of_tail h (w32 tail) (by simp only [modLaunch_parts, modPart_parts, wrBytes_parts]))

/-- Where no launch of the partition waits for its record, nothing goes to the completion ring. -/
theorem serveRing_of_not_owed {s : State} {part : Nat}
    (h : (s.launches.any fun l => l.part == part && l.recOwed) = false) : s.serveRing part = s := by
  have hnone : (s.launches.filter fun l => l.part == part && l.recOwed) = [] :=
    List.filter_eq_nil_iff.2 (List.any_eq_false.1 h)
  rw [State.serveRing, hnone, State.flushRecords]

/-- A write to LN_CRING, and the driver's head. -/
def Part.setRing (q : Part) (v : W64) : Part := { q with cring := ⟨v &&& 0x000FFFFFFFFFFFFF, 0, 0⟩ }
def Part.setRingHead (q : Part) (v : W64) : Part := { q with cring := { q.cring with head := v.extractLsb' 32 32 } }

theorem exec_completionRingSet (part : Nat) (v : W64) (s : State) :
    exec (.completionRingSet part v) s = .next ((s.modPart part (·.setRing v)).serveRing part) := rfl

theorem exec_completionRingHead (part : Nat) (v : W64) (s : State) :
    exec (.completionRingHead part v) s = .next ((s.modPart part (·.setRingHead v)).serveRing part) := rfl

theorem serveRing_modPart_of_not_owed {s : State} {part : Nat} (h : (s.launches.any fun l => l.part == part && l.recOwed) = false)
    (f : Part → Part) : (s.modPart part f).serveRing part = s.modPart part f := serveRing_of_not_owed h

theorem ringAt_serveRing {s : State} {part : Nat} {q : Part} (hq : s.part? part = some q) (f : Part → Part) :
    ((s.modPart part f).serveRing part).RingAt part (f q).cring.reg (f q).cring.head :=
  ringAt_flushRecords _ ⟨f q, part?_modPart_self hq f, rfl, rfl⟩

/-- Of the steps here only those of the completion ring do more than set registers: they write the records that wait. -/
theorem ringRegistersAndSubmissions : Claims.RingRegistersAndSubmissions := by
  intro part v s q hq
  refine ⟨setsPart_modPart hq rfl ?_, setsPart_modPart hq rfl ?_, setsPart_modPart hq rfl rfl, setsPart_modPart hq rfl rfl,
    setsPart_modPart hq rfl rfl, setsPart_modPart hq rfl rfl, ⟨fun owed => ⟨?_, ?_⟩, fun _ => ⟨?_, ?_⟩⟩, fun hbusy hgo => ?_,
    fun hno => ?_⟩
  · rw [w64_field_51_0]
  · rw [w64_field_51_0]
  · exact setsPart_modPart hq (by rw [exec_completionRingSet, serveRing_modPart_of_not_owed owed]) rfl
  · exact setsPart_modPart hq (by rw [exec_completionRingHead, serveRing_modPart_of_not_owed owed]) rfl
  · obtain ⟨q', hq', hreg, hhead⟩ := ringAt_serveRing hq (·.setRing v)
    exact ⟨_, q', exec_completionRingSet part v s, hq', hreg, hhead⟩
  · obtain ⟨q', hq', hreg, hhead⟩ := ringAt_serveRing hq (·.setRingHead v)
    exact ⟨_, q', exec_completionRingHead part v s, hq', hreg, hhead⟩
  · exact setsPart_modPart hq rfl (by simp [hbusy, hgo])
  · exact setsPart_modPart hq rfl (if_pos (by simpa using hno))

/-! ### Estimators (R333, R356) -/

theorem est_modEst (s : State) (h : Nat) (f : Est → Est) (k : Nat) :
    (s.modEst h f).est k = if k % 2 ^ 14 = h % 2 ^ 14 then f (s.est h) else s.est k :=
  smap_get_set _ _ _ _ _

/-- The free slot found is the lowest. -/
theorem freeEst_spec {s : State} {die k : Nat} (h : s.freeEst die = some k) :
    k < 4096 ∧ (s.est (4096 * die + k)).allot = false ∧ ∀ j < k, (s.est (4096 * die + j)).allot = true := by
  rw [State.freeEst, List.find?_range_eq_some] at h
  obtain ⟨hfree, hmem, hbelow⟩ := h
  exact ⟨by simpa using hmem, by simpa using hfree, fun j hj => by simpa using hbelow j hj⟩

theorem lt_of_estValid {s : State} {part h : Nat} (hv : s.estValid part h = true) : h < 2 ^ 14 := by
  rw [State.estValid, Bool.and_eq_true, Bool.and_eq_true] at hv
  obtain ⟨⟨hlt, -⟩, -⟩ := hv
  exact of_decide_eq_true hlt

theorem exec_estimatorAlloc (part die : Nat) (s : State) : exec (.estimatorAlloc part die) s = .next (s.allotEst part die).2 := rfl

/-- The estimator that a read of LD_ALLOC allots. -/
def Est.allotted : Est := { Est.none.reset f64Inf 1 with allot := true }

theorem allotEst_of_free {s : State} {part die k : Nat} (hdie : die < 4) (hpart : partOfDie s.svc.split die = part)
    (hk : s.freeEst die = some k) :
    s.allotEst part die = (w64 (4096 * die + k), s.modEst (4096 * die + k) fun _ => Est.allotted) := by
  rw [State.allotEst, if_pos ⟨hdie, hpart⟩, hk]
  rfl

theorem allotEst_of_none {s : State} {part die : Nat}
    (h : 4 ≤ die ∨ partOfDie s.svc.split die ≠ part ∨ s.freeEst die = none) : s.allotEst part die = (0xFFFF, s) := by
  unfold State.allotEst
  split
  · rename_i hin
    obtain ⟨hdie, hpart⟩ := hin
    have hnone : s.freeEst die = none := (h.resolve_left (by omega)).resolve_left (not_not_intro hpart)
    rw [hnone]
  · rfl

theorem estimatorFree_of_invalid {s : State} {part : Nat} {v : W64} (h : s.estValid part (v.toNat % 2 ^ 16) = false) :
    exec (.estimatorFree part v) s = .next (s.modPart part fun q => { q with ldRefused := false }) :=
  if_pos (by simpa using h)

theorem estimatorFree_of_held {s : State} {part : Nat} {v : W64} (h : s.estValid part (v.toNat % 2 ^ 16) = true)
    (held : (s.est (v.toNat % 2 ^ 16)).bound ≠ 0 ∨ s.estStop part (v.toNat % 2 ^ 16) = true) :
    exec (.estimatorFree part v) s = .next (s.modPart part fun q => { q with ldRefused := true }) :=
  (if_neg (by simpa using h)).trans (if_pos held)

theorem estimatorFree_of_free {s : State} {part : Nat} {v : W64} (h : s.estValid part (v.toNat % 2 ^ 16) = true)
    (free : ¬ ((s.est (v.toNat % 2 ^ 16)).bound ≠ 0 ∨ s.estStop part (v.toNat % 2 ^ 16) = true)) :
    exec (.estimatorFree part v) s
      = .next ((s.modEst (v.toNat % 2 ^ 16) fun _ => Est.none).modPart part fun q => { q with ldRefused := false }) :=
  (if_neg (by simpa using h)).trans (if_neg free)

theorem estimatorsAreAllottedAndFreed : Claims.EstimatorsAreAllottedAndFreed := by
  refine ⟨fun part die s => ⟨fun hdie hpart k hk => ?_, fun hnone => ?_⟩, fun part v s q hq => ⟨fun hv held => ?_, fun hv free => ?_,
    fun hv => ?_, fun hc => ⟨?_, ?_⟩, fun hc => ⟨if_pos hc, if_pos hc⟩⟩⟩
  · obtain ⟨hlt, hfree, hbelow⟩ := freeEst_spec hk
    have hallot := allotEst_of_free hdie hpart hk
    have hself : (s.modEst (4096 * die + k) fun _ => Est.allotted).est (4096 * die + k) = Est.allotted := by simp [est_modEst]
    refine ⟨s.modEst (4096 * die + k) fun _ => Est.allotted, by rw [exec_estimatorAlloc, hallot], rfl, hlt, hfree, hbelow, ?_, ?_,
      by rw [hallot], fun h hh hne => ?_⟩
    · rw [hself, Est.allotted]
    · rw [hself, Est.allotted, Est.reset]
    · rw [est_modEst, if_neg (by omega)]
  · have hallot := allotEst_of_none hnone
    exact ⟨by rw [Idle, exec_estimatorAlloc, hallot], by rw [hallot]⟩
  · exact setsPart_modPart hq (estimatorFree_of_held hv held) rfl
  · have hlt := lt_of_estValid hv
    refine ⟨_, estimatorFree_of_free hv free, ?_, part?_modPart_self hq _, rfl, fun k hk hne => ?_⟩
    · exact congrArg Est.allot ((est_modEst s (v.toNat % 2 ^ 16) (fun _ => Est.none) _).trans (if_pos rfl))
    · exact (est_modEst s (v.toNat % 2 ^ 16) (fun _ => Est.none) k).trans (if_neg (by omega))
  · exact setsPart_modPart hq (estimatorFree_of_invalid hv) rfl
  · exact setsPart_modPart hq (if_neg (by simp [hc])) rfl
  · exact setsPart_modPart hq (if_neg (by simp [hc])) rfl

/-- Settles O46: each step sets its registers in the partition, and an estimator's slot is read back by its handle. -/
theorem ringsSubmissionsAndEstimatorSlots : Obligations.RingsSubmissionsAndEstimatorSlots :=
  ⟨ringRegistersAndSubmissions, estimatorsAreAllottedAndFreed⟩

end Sys2Proof.Machine

end

section
/-! SUPPORT. The driver's side of fault service: the answer to a record, and the registers of the fault ring. -/

namespace Sys2Proof.Machine

/-! ### The answer to a record (R207) -/

theorem field_31_0 (x : Nat) : field x 31 0 = x % 2 ^ 32 := by simp [field]

theorem path_map {c : Crew} {f : Path → Path} (hf : f Path.empty = Path.empty) (i : Nat) :
    ({ c with paths := c.paths.map f } : Crew).path i = f (c.path i) := by
  simp only [Crew.path, List.getD_eq_getElem?_getD, List.getElem?_map]
  cases c.paths[i]? with
  | none => exact hf.symm
  | some p => rfl

/-- The cause that a reject gives the lanes of the records it answers. -/
def Park.rejected (k : Park) (tag : Nat) : SMap Nat :=
  ((k.tags.filter fun t => t.1 == tag).flatMap fun t => (maskLanes 1024 t.2.1).map fun l => (l, t.2.2.1)).foldl
    (fun m e => SMap.set 0 m e.1 e.2) k.reject

theorem answered_park {p : Path} {k : Park} (h : p.park = some k) (tag : Nat) (reject : Bool) :
    (p.answered tag reject).park = some { k with
      tags := k.tags.filter fun t => t.1 != tag, reject := if reject then k.rejected tag else k.reject } := by
  rw [Path.answered, h]
  rfl

/-- The one record of a tag gives its cause to each of its lanes. -/
theorem rejected_of_single {k : Park} {tag cause vpn : Nat} {ls : Mask}
    (h : (k.tags.filter fun t => t.1 == tag) = [(tag, ls, cause, vpn)]) {l : Nat} (hl : l < 1024) :
    SMap.get 0 (k.rejected tag) l = if ls.getLsbD l then cause else SMap.get 0 k.reject l := by
  have hlanes : k.rejected tag = SMap.updates 0 id (fun _ _ => cause) (maskLanes 1024 ls) k.reject := by
    rw [Park.rejected, h, List.flatMap_singleton, List.foldl_map]
    rfl
  rw [hlanes, smap_get_updates_lanes 0 (fun _ => cause) (nodup_maskLanes 1024 ls)]
  simp only [mem_maskLanes, hl, true_and]

/-- The crew after an answer to a record of a partition. -/
def State.answeredCrew (s : State) (part tag : Nat) (reject : Bool) (c : Crew) : Crew :=
  if s.partOf c == part then { c with paths := c.paths.map (Path.answered tag reject) } else c

theorem answeredCrew_of {s : State} {part : Nat} {c : Crew} (h : s.partOf c = part) (tag : Nat) (reject : Bool) :
    s.answeredCrew part tag reject c = { c with paths := c.paths.map (Path.answered tag reject) } := if_pos (beq_iff_eq.mpr h)

theorem answeredCrew_id (s : State) (part tag : Nat) (reject : Bool) (c : Crew) : (s.answeredCrew part tag reject c).id = c.id := by
  unfold State.answeredCrew
  split <;> rfl

/-- An answer that no job waits for reaches parked paths alone. -/
theorem answer_of_noJob {s : State} {part tag : Nat} (h : ∀ j ∈ s.jobs, j.part = part → j.fault ≠ some (tag + 1)) (reject : Bool) :
    s.answer part tag reject = { s with crews := s.crews.map (s.answeredCrew part tag reject) } := by
  have hnone : s.jobs.find? (fun j => j.part == part && j.fault == some (tag + 1)) = none := by
    rw [List.find?_eq_none]
    intro j hj hit
    rw [Bool.and_eq_true, beq_iff_eq, beq_iff_eq] at hit
    exact h j hj hit.1 hit.2
  simp only [State.answer, hnone]
  rfl

theorem exec_faultAnswer (part : Nat) (v : W64) (s : State) :
    exec (.faultAnswer part v) s = .next (s.answer part (field v.toNat 31 0) (v.getLsbD 32)) := rfl

/-! ### The ring's registers (R208) -/

theorem w64_field_page (v : W64) : w64 (field v.toNat 51 12 * 4096) = v &&& 0x000FFFFFFFFFF000 := by
  have hmask : (0x000FFFFFFFFFF000 : W64) = BitVec.ofNat 64 (2 ^ 12 * (2 ^ 40 - 1)) := by decide
  apply BitVec.eq_of_getLsbD_eq
  intro i hi
  have hfield : field v.toNat 51 12 * 4096 = 2 ^ 12 * (v.toNat / 2 ^ 12 % 2 ^ 40) := Nat.mul_comm _ _
  rw [hmask, w64, hfield, BitVec.getLsbD_and, BitVec.getLsbD_ofNat, BitVec.getLsbD_ofNat, Nat.testBit_two_pow_mul,
    Nat.testBit_two_pow_mul, Nat.testBit_mod_two_pow, Nat.testBit_two_pow_sub_one, Nat.testBit_div_two_pow]
  by_cases h12 : 12 ≤ i
  · simp [hi, h12, BitVec.testBit_toNat, Bool.and_comm]
  · simp [h12]

/-- A write to MC_FQ, and one to MC_FQ_PTRS. -/
def Part.setFqBase (q : Part) (v : W64) : Part := { q with fqBase := v &&& 0x000FFFFFFFFFF000, fqHead := 0, fqTail := 0 }
def Part.setFqPtrs (q : Part) (v : W64) : Part := { q with fqSize := v.extractLsb' 32 16, fqHead := v.extractLsb' 16 16 }

theorem exec_faultQueueBase (part : Nat) (v : W64) (s : State) :
    exec (.faultQueueBase part v) s = .next ((s.modPart part (·.setFqBase v)).serveFq part) := by
  have hbase : exec (.faultQueueBase part v) s
      = .next ((s.modPart part fun q => { q with fqBase := w64 (field v.toNat 51 12 * 4096), fqHead := 0, fqTail := 0 }).serveFq part) :=
    rfl
  rw [hbase, w64_field_page]
  rfl

theorem exec_faultQueueHead (part : Nat) (v : W64) (s : State) :
    exec (.faultQueueHead part v) s = .next ((s.modPart part (·.setFqPtrs v)).serveFq part) := rfl

theorem OnlyPart.trans {part : Nat} {s t u : State} (hst : OnlyPart part s t) (htu : OnlyPart part t u) : OnlyPart part s u := by
  obtain ⟨hs, hlen, hother⟩ := hst
  obtain ⟨ht, hlen', hother'⟩ := htu
  exact ⟨ht.trans (congrArg (fun x : State => { x with parts := u.parts }) hs), hlen'.trans hlen,
    fun k hk => (hother' k hk).trans (hother k hk)⟩

theorem onlyPart_refl (part : Nat) (s : State) : OnlyPart part s s := ⟨rfl, rfl, fun _ _ => rfl⟩

/-- Where no record is held, nothing goes to the ring and nothing is rejected. -/
theorem serveFq_of_noneHeld {s : State} {part : Nat} {q : Part} (hq : s.part? part = some q) (h : q.fqHeld = []) :
    OnlyPart part s (s.serveFq part) ∧ (s.serveFq part).part? part = some q := by
  simp only [State.serveFq, hq, h]
  split
  · refine ⟨onlyPart_modPart s part _, (part?_modPart_self hq _).trans ?_⟩
    rw [← h]
  · exact ⟨onlyPart_refl part s, hq⟩

theorem setsPart_serveFq {ins : Instr} {s : State} {part : Nat} {q : Part} {f : Part → Part} (hq : s.part? part = some q)
    (hexec : exec ins s = .next ((s.modPart part f).serveFq part)) (held : (f q).fqHeld = []) : SetsPart ins s part (f q) := by
  obtain ⟨honly, hpart⟩ := serveFq_of_noneHeld (part?_modPart_self hq f) held
  exact ⟨_, hexec, (onlyPart_modPart s part f).trans honly, hpart⟩

/-- The state after the first held record goes to the ring. -/
def State.recordPosted (s : State) (part : Nat) (q : Part) (r : List Byte) (rest : List (List Byte)) : State :=
  { (s.wrBytes (q.fqBase.toNat % 2 ^ 52 + 32 * q.fqTail.toNat) r).modPart part fun q => { q with
      fqHeld := rest, fqTail := BitVec.ofNat 16 ((q.fqTail.toNat + 1) % q.fqSize.toNat) } with
    msix := s.msix ++ [4 * part + 1] }

theorem flushFq_one {s : State} {part : Nat} {q : Part} {r : List Byte} {rest : List (List Byte)} (hq : s.part? part = some q)
    (held : q.fqHeld = r :: rest) (room : q.fqRoom = true) : s.flushFq part 1 = s.recordPosted part q r rest := by
  simp only [State.flushFq, hq, held, room]
  rfl

theorem rdByte_recordPosted (s : State) (part : Nat) (q : Part) (r : List Byte) (rest : List (List Byte)) (a : Nat) :
    (s.recordPosted part q r rest).rdByte a = (s.wrBytes (q.fqBase.toNat % 2 ^ 52 + 32 * q.fqTail.toNat) r).rdByte a := rfl

theorem part?_recordPosted {s : State} {part : Nat} {q : Part} (hq : s.part? part = some q) (r : List Byte)
    (rest : List (List Byte)) : (s.recordPosted part q r rest).part? part
      = some { q with fqHeld := rest, fqTail := BitVec.ofNat 16 ((q.fqTail.toNat + 1) % q.fqSize.toNat) } := by
  have hq' : s.parts[part]? = some q := hq
  simp [State.recordPosted, State.part?, modAt_getElem?, hq']

/-- The base of the ring is below 2^52. -/
theorem toNat_page_lt (v : W64) : (v &&& 0x000FFFFFFFFFF000).toNat < 2 ^ 52 := by
  rw [BitVec.toNat_and]
  exact lt_of_le_of_lt Nat.and_le_right (by decide)

/-- A ring that has been given its base has room for a record where its size is at least 2. -/
theorem fqRoom_setFqBase {q : Part} (hsize : 2 ≤ q.fqSize.toNat) (v : W64) : (q.setFqBase v).fqRoom = true := by
  have h1 : 1 % q.fqSize.toNat = 1 := Nat.mod_eq_of_lt hsize
  have h0 : q.fqSize.toNat ≠ 0 := by omega
  simp [Part.fqRoom, Part.setFqBase, h0, h1]

/-- A held record goes to the first entry of a ring that has been given its base. -/
theorem faultQueueBase_of_held {s : State} {part : Nat} {q : Part} {r : List Byte} (hq : s.part? part = some q)
    (held : q.fqHeld = [r]) (hsize : 2 ≤ q.fqSize.toNat) (v : W64) :
    exec (.faultQueueBase part v) s = .next ((s.modPart part (·.setFqBase v)).recordPosted part (q.setFqBase v) r []) := by
  have hq1 := part?_modPart_self hq (·.setFqBase v)
  have hheld : (q.setFqBase v).fqHeld = [r] := held
  have hzero : ¬ (q.setFqBase v).fqSize = 0 := fun h => by
    have hsize0 : q.fqSize = 0 := h
    rw [hsize0] at hsize
    exact absurd hsize (by decide)
  rw [exec_faultQueueBase, State.serveFq, hq1]
  simp only [hzero, if_false, hheld]
  rw [List.length_singleton, flushFq_one hq1 hheld (fqRoom_setFqBase hsize v)]

/-- Settles O42: an answer filters the tags of each parked path, and the ring's registers are set before the held records move. -/
theorem faultServiceAnswersRecords : Obligations.FaultServiceAnswersRecords := by
  intro part v s q hq
  refine ⟨fun hjobs => ?_, fun held => ⟨?_, ?_⟩, fun r held hsize hlen => ?_⟩
  · rw [exec_faultAnswer, field_31_0, answer_of_noJob hjobs]
    refine ⟨_, rfl, rfl, fun c i k hc hpart hk => ?_⟩
    have hcrew := crewOf_map (answeredCrew_id s part (v.toNat % 2 ^ 32) (v.getLsbD 32)) s c.id
    rw [hc, Option.map_some, answeredCrew_of hpart] at hcrew
    refine ⟨_, _, hcrew, rfl, (congrArg Path.park (path_map rfl i)).trans (answered_park hk _ _), rfl, fun hv => ?_,
      fun ls cause vpn hv hsingle l hl => ?_⟩
    · rw [hv]; rfl
    · rw [hv]; exact rejected_of_single hsingle hl
  · exact setsPart_serveFq hq (exec_faultQueueBase part v s) held
  · exact setsPart_serveFq hq (exec_faultQueueHead part v s) held
  · have hbase : (q.setFqBase v).fqBase.toNat % 2 ^ 52 + 32 * (q.setFqBase v).fqTail.toNat = (v &&& 0x000FFFFFFFFFF000).toNat :=
      Nat.mod_eq_of_lt (toNat_page_lt v)
    have htail : BitVec.ofNat 16 (((q.setFqBase v).fqTail.toNat + 1) % (q.setFqBase v).fqSize.toNat) = 1 :=
      congrArg (BitVec.ofNat 16) (Nat.mod_eq_of_lt hsize)
    refine ⟨_, _, faultQueueBase_of_held hq held hsize v, part?_recordPosted (part?_modPart_self hq _) r [], rfl, htail, rfl,
      fun a ha => ?_, fun k hk => ?_⟩
    · rw [rdByte_recordPosted, hbase, rdByte_wrBytes, hlen, if_neg (by omega)]
      rfl
    · rw [rdByte_recordPosted, hbase, rdByte_wrBytes, hlen, if_pos (by omega), Nat.add_sub_cancel_left]

end Sys2Proof.Machine

end

section
/-! SUPPORT. A VPFX whose lane brings in a grain: the traffic is the team's (R361, log 7), so the word changes its team beside its
path. -/

namespace Sys2Proof.Machine

/-- `vpfx [s4]` in one lane. -/
def prefetchWord : LaneM := ⟨⟨false, 0⟩, .f32, 0, 2, .sreg 4, 0, 0, 0, false, false, 1, 2, 0, 0⟩

/-- A path with one lane in m0. -/
def prefetchPath : Path := { Path.empty with
  st := .ready, spc := 0x100000, lpc := 0x108000, mask := 1, m0 := 1, thr := 4 }

/-- A crew of one group whose s4 lies in the program's page. -/
def prefetchCrew : Crew := { newCrew 3 2 0 0 0 ⟨0, 0, 248, 0, 0, 0⟩ frameLaunch 4 with
  s := [(4, 0x100100)], paths := prefetchPath :: List.replicate 8 Path.empty }

/-- The machine with this crew and its team, the page's translation in the core's TLB, path 0 of the crew issuing. -/
def prefetchState : State := { State.reset with
  launches := [frameLaunch], teams := [newTeam 2 frameLaunch 0 0], crews := [prefetchCrew], cur := some ⟨3, 0⟩, nextId := 10
  cores := modAt State.reset.cores 0 fun k => { k with tlb := [loadTrans] } }

theorem prefetchState_ready :
    LaneReady prefetchState prefetchCrew 0 prefetchPath (infoM (.vpfx prefetchWord) prefetchWord true true false none) where
  path := ⟨rfl, rfl, rfl⟩
  groups := by decide
  marker := by decide
  active := by decide +kernel
  present := by decide +kernel
  hazard := .inr (.inr (by decide +kernel))
  slot := by decide
  counter := nofun

/-- The grain counts as one access of the team. -/
theorem prefetchWord_counts :
    ((nextState? (exec (.vpfx prefetchWord) prefetchState)).map fun t => t.teams.map (·.touches)) = some [1]
    ∧ prefetchState.teams.map (·.touches) = [0] := by
  constructor <;> decide +kernel

/-- Refutes O27: a VPFX whose lane's address translates adds an access to its team's traffic, so more than its path changes. -/
theorem not_laneMemoryWords : ¬ Obligations.LaneMemoryWords := by
  rintro ⟨-, -, prefetch⟩
  obtain ⟨c', ⟨t, ht, ⟨honly, -⟩, -⟩, -⟩ := prefetch prefetchWord prefetchState prefetchCrew 0 prefetchPath prefetchState_ready
  obtain ⟨after, before⟩ := prefetchWord_counts
  have teams : t.teams = prefetchState.teams := by rw [honly]
  rw [ht, nextState?, Option.map_some, teams, before] at after
  exact absurd after (by decide)

end Sys2Proof.Machine

end

section
/-! SUPPORT. Scalar memory words: the issue of one access whose address passes its checks, and the argument block. -/

namespace Sys2Proof.Machine

/-! ### The issue of one scalar access (R204, R239) -/

/-- The scalar registers that loads are to write after a word of this number has issued. -/
def Crew.pendingAfter (c : Crew) (ins : Instr) (wid : Nat) : List (Nat × Nat) :=
  match ins with
  | .sld d .. => if d != 0 then c.sPend ++ [(d.toNat, wid)] else c.sPend
  | _ => c.sPend

/-- The crew whose path i has put one scalar access in its queue or store buffer, for a word in flight. -/
def Crew.accessing (i : Nat) (w : Word) (x : Acc) (c : Crew) : Crew :=
  { c.modPath i fun p => { p.enqueue [x] with walked := [], walks := [] } with
    words := c.words ++ [{ w with lanes := maskOf [x.lane], owed := maskOf [x.lane], done := false }]
    sPend := c.pendingAfter w.instr w.wid }

theorem classify_nil (s : State) (c : Crew) : s.classify c [] = ([], [], [], s) := rfl

theorem recordPages_nil (s : State) (c : Crew) (i acode : Nat) (lanesOf : List Failed → Mask) :
    s.recordPages c i acode lanesOf [] = ([], s) := rfl

theorem pageFault_nil (s : State) (cid i : Nat) (lane : Bool) (acode : Nat) : s.pageFault cid i lane acode [] = s := rfl

theorem lastPages_nil (c : Crew) : c.lastPages [] = c := rfl

theorem maskOf_nil : maskOf [] = 0#1024 := rfl

theorem maskOf_singleton_ne_zero {l : Nat} (hl : l < 1024) : maskOf [l] ≠ 0 := by
  intro h
  have hbit := maskOf_getLsbD [l] hl
  rw [h] at hbit
  simp at hbit

section Scalar
variable {s : State} {c : Crew} {i : Nat} {p : Path} {w : Word} {o : Operand} {sp : Space} {addr : Nat} {tr : Option Trans}

/-- A scalar access that passes its checks: no page fault, no walk, no far page, only the access. -/
theorem issueMem_scalar (h : Issuing s c i p) (hscalar : (memSpec w.instr).scalar = true)
    (hobld : ∀ size o, obldBad w.instr size (memSpec w.instr) o = false) (hlane : o.lane < 1024)
    (hgo : s.check c p none o.lane o.ea (memSpec w.instr).width
      ((memSpec w.instr).kind == .store || (memSpec w.instr).kind == .comm || (memSpec w.instr).kind == .atomic)
      (memSpec w.instr).privOk = .go sp addr tr)
    (hcruise : s.cruiseFault c w.instr (memSpec w.instr) o.ea (sp != .mem) = none) :
    s.issueMem c.id i w [o] true (fun q => q)
      = ({ s.dropPages c [] with nextId := s.nextId + 2 }.modCrew c.id
          (Crew.accessing i w (mkAcc p w (memSpec w.instr) (s.nextId + 1) o sp addr))).afterIssue c.id i w true false false := by
  have hlanes : (maskOf [o.lane] != 0#1024) = true := bne_iff_ne.mpr (maskOf_singleton_ne_zero hlane)
  have howed : (maskOf [o.lane] == 0#1024) = false := beq_eq_false_iff_ne.mpr (maskOf_singleton_ne_zero hlane)
  simp only [State.issueMem, h.crew, path_of_entry h.entry, hscalar, hgo, hcruise, hobld, List.map_cons, List.map_nil, List.filterMap_cons,
    List.filterMap_nil, distinct, List.foldl_nil, List.isEmpty_nil, Bool.not_true, List.findSome?_cons, List.findSome?_nil, if_true, if_false,
    List.filter_cons, List.filter_nil, Bool.not_false, Bool.false_eq_true, hlanes, howed, List.append_nil, List.flatMap_nil,
    classify_nil, recordPages_nil, pageFault_nil, lastPages_nil, maskOf_nil, BitVec.ofNat_eq_ofNat, BitVec.or_zero, Bool.true_or,
    Bool.true_and, Bool.false_and, ne_eq, not_true_eq_false, false_and, List.zipIdx_singleton, List.length_singleton]
  rfl

/-- The path past a scalar word whose access has entered. -/
def Path.afterAccess (p : Path) (ins : Instr) (x : Acc) : Path :=
  { p.enqueue [x] with walked := [], walks := [], park := none, spc := p.spc + w64 ins.size, wait := none, want := none }

/-- The path of a scalar word after its issue: at the word where the word faulted, else past it. -/
def Path.issuedPast (w : Word) (p : Path) : Path :=
  if p.st == .fault && p.trap.isSome then { p with park := none }
  else { p with park := none, spc := p.spc + w64 w.instr.size, wait := none, want := none }

theorem afterIssue_scalar (t : State) (cid j : Nat) (v : Word) :
    t.afterIssue cid j v true false false = t.modCrew cid fun c => c.modPath j (Path.issuedPast v) := rfl

/-- A sweep keeps a crew but for its last-page registers. -/
theorem crewOf_sweep {id : Nat} (h : s.crewOf id = some c) (hit : Trans → Bool) :
    ∃ l, (s.sweep hit).crewOf id = some { c with lastPg := l } := by
  refine ⟨_, (crewOf_map ?_ s id).trans (congrArg (Option.map _) h)⟩
  exact fun _ => rfl

/-- The crew after the issue of a scalar access. -/
theorem issueMem_scalar_crew (h : Issuing s c i p) (hready : p.st = .ready) (hscalar : (memSpec w.instr).scalar = true)
    (hobld : ∀ size o, obldBad w.instr size (memSpec w.instr) o = false) (hlane : o.lane < 1024)
    (hgo : s.check c p none o.lane o.ea (memSpec w.instr).width
      ((memSpec w.instr).kind == .store || (memSpec w.instr).kind == .comm || (memSpec w.instr).kind == .atomic)
      (memSpec w.instr).privOk = .go sp addr tr)
    (hcruise : s.cruiseFault c w.instr (memSpec w.instr) o.ea (sp != .mem) = none) :
    let x := mkAcc p w (memSpec w.instr) (s.nextId + 1) o sp addr
    let t := s.issueMem c.id i w [o] true fun q => q
    SameMemory s t ∧ ∃ c', t.crewOf c.id = some c' ∧ c'.s = c.s ∧ c'.m = c.m ∧ c'.v = c.v ∧ c'.path i = p.afterAccess w.instr x
      ∧ c'.sPend = c.pendingAfter w.instr w.wid := by
  intro x t
  obtain ⟨l, hl⟩ : ∃ l, (s.dropPages c []).crewOf c.id = some { c with lastPg := l } := crewOf_sweep h.crew _
  have ht : t = _ := (issueMem_scalar h hscalar hobld hlane hgo hcruise).trans (afterIssue_scalar ..)
  have hready' : (p.st == .fault) = false := by rw [hready]; rfl
  have hacc := crewOf_modCrew_self (f := Crew.accessing i w x) (s := { s.dropPages c [] with nextId := s.nextId + 2 }) (fun _ => rfl) hl
  rw [ht]
  refine ⟨fun _ => rfl, _, crewOf_modCrew_self (f := fun c => c.modPath i (Path.issuedPast w)) (fun _ => rfl) hacc,
    rfl, rfl, rfl, ?_, rfl⟩
  have hentry : (Crew.accessing i w x { c with lastPg := l }).paths[i]? = some { p.enqueue [x] with walked := [], walks := [] } := by
    simp [Crew.accessing, Crew.modPath, modAt_getElem?, h.entry]
  rw [path_modPath_self hentry]
  exact if_neg (by simp [Path.enqueue, hready'])

end Scalar

/-! ### SLD and SST -/

theorem maskLowest_lt (m : Mask) : (maskLowest m).getD 0 < 1024 := by
  unfold maskLowest
  cases hfind : (List.range 1024).find? fun l => m.getLsbD l with
  | none => simp
  | some l => simpa using List.mem_of_find?_eq_some hfind

theorem scalarBytes_eq {k : BitVec 3} (hk : k ≠ 7) : scalarBytes k = 2 ^ (k.toNat / 2) := by
  revert hk
  revert k
  decide

/-- The operand of a scalar access. -/
def scalarOperand (p : Path) (ins : Instr) (ea data : W64) : Operand :=
  ⟨p.slotLane, ea, 0, data.toNat % 2 ^ (8 * (memSpec ins).width)⟩

theorem scalarOperand_lane_lt (p : Path) (ins : Instr) (ea data : W64) : (scalarOperand p ins ea data).lane < 1024 := by
  simp only [scalarOperand, Path.slotLane]
  exact maskLowest_lt _

theorem scalarMem_of {s : State} {c : Crew} {i : Nat} {p : Path} (h : Issuing s c i p) {ins : Instr} {regs : List (BitVec 6)}
    (hp : c.pending regs = false) (hn : c.inflight i 0 < 255) {a b : Crew → W64}
    (hroom : (memSpec ins).kind = .store → s.logFull c (memSpec ins).width = false) :
    scalarMem s ins regs a b = .next (s.issueMem c.id i (scalarInFlight s p ins (scalarOperand p ins (a c) (b c)))
      [scalarOperand p ins (a c) (b c)] true fun q => q) := by
  have hwait : ¬ ((memSpec ins).kind == .store && (privOffset (a c)).isNone && s.logFull c (memSpec ins).width) = true := by
    intro hw
    rw [Bool.and_eq_true, Bool.and_eq_true, beq_iff_eq] at hw
    obtain ⟨⟨hkind, -⟩, hfull⟩ := hw
    exact Bool.false_ne_true ((hroom hkind).symm.trans hfull)
  rw [scalarMem, withCur_of h, curPath_of h]
  simp only [hp, Bool.false_eq_true, if_false, if_neg (show ¬ 255 ≤ c.inflight i 0 by omega)]
  exact if_neg hwait

/-- The access of a scalar word. -/
def scalarAcc (s : State) (p : Path) (ins : Instr) (ea data : W64) (sp : Space) (addr : Nat) : Acc :=
  mkAcc p (scalarInFlight s p ins (scalarOperand p ins ea data)) (memSpec ins) (s.nextId + 1) (scalarOperand p ins ea data) sp addr

/-- A scalar word whose address passes its checks enters its access. -/
theorem scalarMem_enters {s : State} {c : Crew} {i : Nat} {p : Path} (h : Issuing s c i p) (hready : p.st = .ready) {ins : Instr}
    {regs : List (BitVec 6)} {a b : Crew → W64} {sp : Space} {addr : Nat} {tr : Option Trans} (hp : c.pending regs = false)
    (hn : c.inflight i 0 < 255) (hroom : (memSpec ins).kind = .store → s.logFull c (memSpec ins).width = false)
    (hscalar : (memSpec ins).scalar = true) (hobld : ∀ size o, obldBad ins size (memSpec ins) o = false)
    (hgo : s.check c p none p.slotLane (a c) (memSpec ins).width
      ((memSpec ins).kind == .store || (memSpec ins).kind == .comm || (memSpec ins).kind == .atomic) (memSpec ins).privOk
      = .go sp addr tr)
    (hcruise : s.cruiseFault c ins (memSpec ins) (a c) (sp != .mem) = none) :
    let x := scalarAcc s p ins (a c) (b c) sp addr
    ∃ t c', scalarMem s ins regs a b = .next t ∧ t.crewOf c.id = some c' ∧ SameMemory s t ∧ c'.s = c.s ∧ c'.m = c.m ∧ c'.v = c.v
      ∧ c'.path i = p.afterAccess ins x ∧ c'.sPend = c.pendingAfter ins x.wid := by
  intro x
  obtain ⟨hmem, c', hc', hs, hm, hv, hpath, hpend⟩ := issueMem_scalar_crew
    (w := scalarInFlight s p ins (scalarOperand p ins (a c) (b c))) (o := scalarOperand p ins (a c) (b c)) h hready hscalar hobld
    (scalarOperand_lane_lt ..) (by simp only [scalarOperand, scalarInFlight]; exact hgo) hcruise
  exact ⟨_, c', scalarMem_of h hp hn hroom, hc', hmem, hs, hm, hv, hpath, hpend⟩

theorem scalarAccessesEnterTheQueues : Claims.ScalarAccessesEnterTheQueues := by
  intro d a k off s c i p sp addr tr h hready _ hp hn hk n ea enters
  have hbytes : scalarBytes k = n := scalarBytes_eq hk
  have hea : scalarEa c a k off = ea := by rw [scalarEa, hbytes, w64]
  refine ⟨fun _ hcheck hcruise => ?_, fun _ hroom hcheck hcruise => ?_⟩
  · have hgo : s.check c p none p.slotLane (scalarEa c a k off) (scalarBytes k) false true = .go sp addr tr := by
      rw [hea, hbytes]; exact hcheck
    rw [← hea] at hcruise ⊢
    obtain ⟨t, c', hexec, hc', hmem, hs, hm, hv, hpath, hpend⟩ := scalarMem_enters (ins := .sld d a k off) (regs := [d, a])
      (a := fun c => scalarEa c a k off) (b := fun _ => 0) h hready hp hn nofun rfl (fun _ _ => rfl) hgo hcruise
    refine ⟨t, c', scalarAcc s p (.sld d a k off) (scalarEa c a k off) 0 sp addr, hexec, hc', hmem, hs, hm, hv, ?_, ?_, ?_, ?_, rfl,
      rfl, rfl, hbytes, Nat.zero_mod _, rfl, rfl, ?_⟩
    · rw [hpath]; rfl
    · rw [hpath]; rfl
    · rw [hpath]; rfl
    · rw [hpath]; exact List.append_nil _
    · rw [hpend, Crew.pendingAfter]
      by_cases hd : d = 0 <;> simp [hd]
  · have hgo : s.check c p none p.slotLane (scalarEa c a k off) (scalarBytes k) true true = .go sp addr tr := by
      rw [hea, hbytes]; exact hcheck
    rw [← hea] at hcruise ⊢
    obtain ⟨t, c', hexec, hc', hmem, hs, hm, hv, hpath, hpend⟩ := scalarMem_enters (ins := .sst d a k off) (regs := [d, a])
      (a := fun c => scalarEa c a k off) (b := fun c => c.sget d) h hready hp hn
      (fun _ => (congrArg (s.logFull c) hbytes).trans (hroom rfl)) rfl (fun _ _ => rfl) hgo hcruise
    refine ⟨t, c', scalarAcc s p (.sst d a k off) (scalarEa c a k off) (c.sget d) sp addr, hexec, hc', hmem, hs, hm, hv, ?_, ?_, ?_,
      ?_, rfl, rfl, rfl, hbytes, ?_, rfl, rfl, ?_⟩
    · rw [hpath]; rfl
    · rw [hpath]; rfl
    · rw [hpath]; exact List.append_nil _
    · rw [hpath]; rfl
    · exact congrArg (fun n => (c.sget d).toNat % 2 ^ (8 * n)) hbytes
    · rw [hpend]; rfl

/-! ### PAGE_FAULT of a scalar word (R204, R374, R375) -/

/-- Entry i parks at its word with the record of a fault at the point of p, over the lanes f. -/
def Crew.parkAt (i : Nat) (p : Path) (lane : Bool) (code detail bound : Nat) (f : Mask) (c : Crew) : Crew :=
  ((c.deferProp f).modPath i fun q => { q with
    m0 := 0, st := .fault, wait := none, want := none, trap := some (trapRec c i p lane code detail bound f true) }).trapPoint i

theorem parkAt_path {c : Crew} {i : Nat} {q : Path} (h : c.paths[i]? = some q) (p : Path) (lane : Bool) (code detail bound : Nat)
    (f : Mask) : (c.parkAt i p lane code detail bound f).path i = { q with
      m0 := 0, st := .fault, wait := none, want := none, trap := some (trapRec c i p lane code detail bound f true) } := by
  have hq : ((c.deferProp f).modPath i fun q => { q with
      m0 := 0, st := .fault, wait := none, want := none, trap := some (trapRec c i p lane code detail bound f true) }).path i
        = { q with
            m0 := 0, st := .fault, wait := none, want := none, trap := some (trapRec c i p lane code detail bound f true) } :=
    path_modPath_self h _
  rw [Crew.parkAt, trapPoint_path_inPlace (by rw [hq]) rfl, hq]

/-- A fault of no handler that covers m0 parks its path in place. -/
theorem defer_inPlace {s : State} {c : Crew} {p : Path} {f : Mask} (hp : p.isHandler = false) (hf : p.m0 &&& ~~~f = 0) (lane : Bool)
    (code detail : Nat) :
    s.defer c p lane code detail f = s.modCrew c.id (Crew.parkAt s.curPath p lane code detail s.nextId f) := by
  have hn : ¬ p.isHandler = true := by simp [hp]
  rw [State.defer, if_neg (by exact hn), if_pos hf]
  rfl

theorem scalarFaults_lanes (p : Path) (cause : Nat) (ea : W64) : maskOf ((scalarFaults p cause ea).map (·.1)) = p.faulting := by
  have hmap : (scalarFaults p cause ea).map (·.1) = maskLanes 1024 p.faulting := by
    rw [scalarFaults, List.map_map]
    exact List.map_id _
  rw [hmap]
  apply BitVec.eq_of_getLsbD_eq
  intro l hl
  rw [maskOf_getLsbD _ hl, Bool.eq_iff_iff, List.any_eq_true]
  constructor
  · rintro ⟨x, hx, heq⟩
    obtain ⟨-, hbit⟩ := mem_maskLanes.1 hx
    rwa [← beq_iff_eq.1 heq]
  · exact fun hbit => ⟨l, mem_maskLanes.2 ⟨hl, hbit⟩, beq_self_eq_true l⟩

/-- The faults of a scalar word: one for each lane, the lowest with the cause. -/
theorem scalarFaults_head {p : Path} (hf : p.faulting ≠ 0) (cause : Nat) (ea : W64) :
    ∃ l rest, scalarFaults p cause ea = (l, cause, ea) :: rest := by
  cases hlanes : maskLanes 1024 p.faultLanes with
  | nil =>
    refine absurd (BitVec.eq_of_getLsbD_eq fun l hl => ?_) hf
    have hnot : l ∉ maskLanes 1024 p.faulting := by rw [← faultLanes_faulting, hlanes]; exact List.not_mem_nil
    rw [mem_maskLanes] at hnot
    simpa [hl] using hnot
  | cons l ls => exact ⟨l, _, by rw [scalarFaults, hlanes, List.map_cons]⟩

theorem noteFault_id (c : Crew) (acode : Nat) (fs : List (Nat × Nat × W64)) : (c.noteFault acode fs).id = c.id := rfl
theorem noteFault_entry {c : Crew} {i : Nat} {p : Path} (h : c.paths[i]? = some p) (acode : Nat) (fs : List (Nat × Nat × W64)) :
    (c.noteFault acode fs).paths[i]? = some p := h

/-- The crew after a PAGE_FAULT of its scalar word, with the lanes' causes and addresses. -/
def Crew.pageFaulted (i : Nat) (p : Path) (cause bound : Nat) (fs : List (Nat × Nat × W64)) (c : Crew) : Crew :=
  (c.noteFault 4 fs).parkAt i p false fcPage cause bound p.faulting

theorem pageFault_inPlace {s : State} {c : Crew} {i : Nat} {p : Path} (h : Issuing s c i p) (hp : p.isHandler = false)
    {l cause : Nat} {ea : W64} {fs rest : List (Nat × Nat × W64)} (hfs : fs = (l, cause, ea) :: rest)
    (hlanes : maskOf (fs.map (·.1)) = p.faulting) :
    s.pageFault c.id i false 4 fs = s.modCrew c.id (Crew.pageFaulted i p cause s.nextId fs) := by
  have hnote := h.modCrew (f := fun c => c.noteFault 4 fs) (fun _ => noteFault_id ..) (noteFault_entry h.entry 4 fs)
  have hcrew : (s.modCrew c.id fun c => c.noteFault 4 fs).crewOf c.id = some (c.noteFault 4 fs) := hnote.crew
  have hpath : (c.noteFault 4 fs).path i = p := path_of_entry (noteFault_entry h.entry 4 fs)
  have hcur : ({ (s.modCrew c.id fun c => c.noteFault 4 fs) with cur := some ⟨c.id, i⟩ } : State)
      = s.modCrew c.id fun c => c.noteFault 4 fs := by rw [← h.cur]; rfl
  have hne : ¬ fs.isEmpty = true := by rw [hfs]; exact Bool.false_ne_true
  unfold State.pageFault
  rw [if_neg hne]
  simp only [hcrew, hlanes, State.asPath, hcur, hpath]
  rw [defer_inPlace hp (faulting_covers p), curPath_of hnote]
  subst hfs
  exact modCrew_modCrew (f := fun c => c.noteFault 4 ((l, cause, ea) :: rest)) (fun _ => noteFault_id ..) s c.id

/-- A word that leaves its crew so faults in place, with the record of the path's point. -/
theorem faults_of_pageFaulted {s : State} {c : Crew} {i : Nat} {p : Path} (h : Issuing s c i p) {ins : Instr} {cause : Nat}
    {fs : List (Nat × Nat × W64)} (hexec : exec ins s = .next (s.modCrew c.id (Crew.pageFaulted i p cause s.nextId fs))) :
    ∃ t c' r, exec ins s = .next t ∧ OnlyCrew c.id s t ∧ t.crewOf c.id = some c' ∧ (c'.path i).st = .fault ∧ (c'.path i).trap = some r
      ∧ Recorded r p 3 cause p.faulting false true ∧ c'.s = c.s := by
  have hid : ∀ e, (Crew.pageFaulted i p cause s.nextId fs e).id = e.id := fun _ => rfl
  have hpath := parkAt_path (noteFault_entry h.entry 4 fs) p false fcPage cause s.nextId p.faulting
  exact ⟨_, _, _, hexec, onlyCrew_modCrew hid s c.id, crewOf_modCrew_self hid h.crew, congrArg Path.st hpath,
    congrArg Path.trap hpath, ⟨rfl, rfl, rfl, rfl, rfl, rfl, rfl, rfl, rfl, rfl, rfl⟩, rfl⟩

theorem scalarPageFault_inPlace {s : State} {c : Crew} {i : Nat} {p : Path} (h : Issuing s c i p) (hp : p.isHandler = false)
    (hf : p.faulting ≠ 0) (cause : Nat) (ea : W64) : scalarPageFault s c p cause ea
      = .next (s.modCrew c.id (Crew.pageFaulted i p cause s.nextId (scalarFaults p cause ea))) := by
  obtain ⟨l, rest, hfs⟩ := scalarFaults_head hf cause ea
  rw [scalarPageFault, curPath_of h, pageFault_inPlace h hp hfs (scalarFaults_lanes p cause ea)]

/-! ### SLDK (R204, R205) -/

/-- What SLDK does with the offset of its word. -/
def sldkAt (s : State) (c : Crew) (p : Path) (d : BitVec 6) (off : W64) : Out :=
  if off.toNat % 8 ≠ 0 then scalarPageFault s c p 5 off
  else match s.kargWord c off.toNat with
    | none => scalarPageFault s c p 1 off
    | some v => .next ((s.modCur fun c => c.sset d v).advance 4)

theorem exec_sldk {s : State} {c : Crew} {i : Nat} {p : Path} (h : Issuing s c i p) {d a : BitVec 6} (hp : c.pending [d, a] = false)
    (k : BitVec 13) : exec (.sldk d a k) s = sldkAt s c p d (c.sget a + 8 * k.setWidth 64) := by
  have hexec : exec (.sldk d a k) s = withCur s fun c p => if c.pending [d, a] then waitFor s stInterlock
      else sldkAt s c p d (c.sget a + 8 * k.setWidth 64) := rfl
  rw [hexec, withCur_of h, hp]
  exact if_neg Bool.false_ne_true

theorem sldkReadsTheArgumentBlock : Claims.SldkReadsTheArgumentBlock := by
  intro d a k s c i p h hp off
  have hexec := exec_sldk h hp k
  refine ⟨fun v haligned hv => ?_, fun hodd hh hf => ?_, fun haligned hnone hh hf => ?_⟩
  · exact completes_of_answer h (x := fun _ => v) (by rw [hexec, sldkAt, if_neg (not_not_intro haligned), hv])
  · exact faults_of_pageFaulted h ((hexec.trans (if_pos hodd)).trans (scalarPageFault_inPlace h hh hf 5 off))
  · exact faults_of_pageFaulted h (by
      rw [hexec, sldkAt, if_neg (not_not_intro haligned), hnone]
      exact scalarPageFault_inPlace h hh hf 1 off)

/-- Settles O16: a scalar access that passes its checks enters its path's queue or store buffer, and SLDK reads or faults in place. -/
theorem scalarMemoryWords : Obligations.ScalarMemoryWords := ⟨scalarAccessesEnterTheQueues, sldkReadsTheArgumentBlock⟩

end Sys2Proof.Machine

end

section
/-! SUPPORT. What the merges of contributions (R246) keep, whatever a conflicting pair among them does (R250): the issuing path, what
each path waits for, and of each partition all but the launches whose teams have left a core. -/

namespace Sys2Proof.Machine

/-! ### The relation -/

/-- A partition without the count of the launches whose teams have left a core (R370). -/
def Part.withoutDeparted (q : Part) : Part := { q with departed := [] }

/-- Crew d stands for crew c: the same name, and each path waits for the same. -/
def Crew.SameWants (c d : Crew) : Prop := d.id = c.id ∧ ∀ i, (d.path i).want = (c.path i).want

structure MergeKeeps (s t : State) : Prop where
  cur   : t.cur = s.cur
  parts : t.parts.map Part.withoutDeparted = s.parts.map Part.withoutDeparted
  wants : ∀ id c, s.crewOf id = some c → ∃ d, t.crewOf id = some d ∧ ∀ i, (d.path i).want = (c.path i).want

theorem MergeKeeps.of_same {s t : State} (hcur : t.cur = s.cur) (hparts : t.parts = s.parts) (hcrews : t.crews = s.crews) :
    MergeKeeps s t where
  cur := hcur
  parts := by rw [hparts]
  wants id c hc := ⟨c, by rw [State.crewOf, hcrews]; exact hc, fun _ => rfl⟩

theorem MergeKeeps.refl (s : State) : MergeKeeps s s := .of_same rfl rfl rfl

theorem MergeKeeps.trans {s t u : State} (h : MergeKeeps s t) (k : MergeKeeps t u) : MergeKeeps s u where
  cur := k.cur.trans h.cur
  parts := k.parts.trans h.parts
  wants id c hc := by
    obtain ⟨d, hd, hcd⟩ := h.wants id c hc
    obtain ⟨e, he, hde⟩ := k.wants id d hd
    exact ⟨e, he, fun i => (hde i).trans (hcd i)⟩

theorem MergeKeeps.foldl {α : Type} {f : State → α → State} (hf : ∀ s x, MergeKeeps s (f s x)) (xs : List α) (s : State) :
    MergeKeeps s (xs.foldl f s) :=
  List.foldlRecOn (motive := MergeKeeps s) xs f (.refl s) fun t ht x _ => ht.trans (hf t x)

theorem MergeKeeps.modCrew {f : Crew → Crew} (hf : ∀ c : Crew, c.SameWants (f c)) (s : State) (id : Nat) :
    MergeKeeps s (s.modCrew id f) where
  cur := rfl
  parts := rfl
  wants j c hc := by
    refine ⟨if c.id == id then f c else c, by rw [crewOf_modCrew fun c => (hf c).1, hc]; rfl, fun i => ?_⟩
    split
    · exact (hf c).2 i
    · rfl

theorem Crew.SameWants.of_paths {c d : Crew} (hid : d.id = c.id) (hp : d.paths = c.paths) : c.SameWants d :=
  ⟨hid, fun i => by rw [Crew.path, Crew.path, hp]⟩

theorem Crew.SameWants.trans {c d e : Crew} (h : c.SameWants d) (k : d.SameWants e) : c.SameWants e :=
  ⟨k.1.trans h.1, fun i => (k.2 i).trans (h.2 i)⟩

/-- Changing each path of an entry in a way that keeps its want. -/
theorem Crew.SameWants.modPath {f : Path → Path} (hf : ∀ p : Path, (f p).want = p.want) (c : Crew) (i : Nat) :
    c.SameWants (c.modPath i f) := by
  refine ⟨rfl, fun j => ?_⟩
  simp only [Crew.path, Crew.modPath, List.getD_eq_getElem?_getD, modAt_getElem?]
  split
  · cases c.paths[j]? with
    | none => rfl
    | some p => exact hf p
  · rfl

theorem MergeKeeps.modPath {f : Path → Path} (hf : ∀ p : Path, (f p).want = p.want) (s : State) (cid i : Nat) :
    MergeKeeps s (s.modPath cid i f) := .modCrew (fun c => .modPath hf c i) s cid

/-! ### A partition's fields -/

theorem MergeKeeps.part {s t : State} (h : MergeKeeps s t) {k : Nat} {q : Part} (hq : s.part? k = some q) :
    ∃ q', t.part? k = some q' ∧ q' = { q with departed := q'.departed } := by
  have hk := congrArg (fun ps : List Part => ps[k]?) h.parts
  simp only [List.getElem?_map, show s.parts[k]? = some q from hq, Option.map_some] at hk
  obtain ⟨q', hq', heq⟩ := Option.map_eq_some_iff.mp hk
  refine ⟨q', hq', ?_⟩
  have hself : q' = { q'.withoutDeparted with departed := q'.departed } := rfl
  rw [hself, heq]
  rfl

/-! ### A crew that can retire, and its team (R82) -/

theorem mergeKeeps_pendFrame (s : State) (part f : Nat) : MergeKeeps s (s.pendFrame part f) := by
  unfold State.pendFrame
  dsimp only
  split
  · exact .of_same rfl rfl rfl
  · exact .of_same rfl rfl rfl

theorem mergeKeeps_departs (s : State) (part lid : Nat) :
    MergeKeeps s (s.modPart part fun q => { q with departed := q.departs lid }) where
  cur := rfl
  parts := by
    refine List.ext_getElem? fun k => ?_
    simp only [modPart_parts, List.getElem?_map, modAt_getElem?]
    split
    · cases s.parts[k]? with
      | none => rfl
      | some q => rfl
    · rfl
  wants id c hc := ⟨c, hc, fun _ => rfl⟩

theorem mergeKeeps_retireTeam (s : State) (team : Nat) : MergeKeeps s (s.retireTeam team) := by
  unfold State.retireTeam
  split
  · exact .refl s
  · split
    · exact .refl s
    · have hstart (u : State) (t : Team) (g : Team → Team) : MergeKeeps u ((u.teamRecord t (t.core.getD 0) false).modTeam team g) :=
        .of_same rfl rfl rfl
      have hlaunch (u : State) (part lid : Nat) (f : Launch → Launch) : MergeKeeps u (u.modLaunch part lid f) := .of_same rfl rfl rfl
      exact (hstart s _ _).trans ((MergeKeeps.foldl (fun u f => mergeKeeps_pendFrame u _ f) _ _).trans
        ((mergeKeeps_departs _ _ _).trans (hlaunch _ _ _ _)))

theorem mergeKeeps_settleCrew (s : State) (cid : Nat) : MergeKeeps s (s.settleCrew cid) := by
  unfold State.settleCrew
  split
  · exact .refl s
  · split
    · have hreleased : MergeKeeps s (s.modCrew cid Crew.released) :=
        .modCrew (f := Crew.released) (fun _ => .of_paths rfl rfl) s cid
      dsimp only
      split
      · exact hreleased.trans (mergeKeeps_retireTeam _ _)
      · exact hreleased
    · exact .refl s

/-! ### Words that return -/

theorem sameWants_trapPoint (c : Crew) (i : Nat) : c.SameWants (c.trapPoint i) :=
  ⟨rfl, fun j => by rw [trapPoint_path_eq]⟩

theorem sameWants_writeMask (c : Crew) (w : Word) : c.SameWants (c.writeMask w) := by
  unfold Crew.writeMask
  split
  · exact .of_paths rfl rfl
  · dsimp only
    split
    · have hm0 (f : Path → Mask) : c.SameWants (c.modPath w.path fun p => { p with m0 := f p }) :=
        .modPath (f := fun p => { p with m0 := f p }) (fun _ => rfl) c w.path
      split
      · exact (hm0 _).trans (sameWants_trapPoint ..)
      · exact hm0 _
    · exact .of_paths rfl rfl

theorem complete_paths (c : Crew) (w : Word) : (c.complete w).paths = c.paths := by
  have hback : (c.writeBack w).paths = c.paths := by rw [(sameBank_writeBack c w).rest]
  unfold Crew.complete
  dsimp only [Crew.purge]
  split <;> simp only [sset_paths, hback]

theorem mergeKeeps_writebackWord (s : State) (c : Crew) (w : Word) : MergeKeeps s (s.writebackWord c w) :=
  (MergeKeeps.modCrew (f := fun c => (c.writeMask w).complete w)
    (fun c => (sameWants_writeMask c w).trans (.of_paths (complete_id _ w) (complete_paths _ w))) s c.id).trans
    (mergeKeeps_settleCrew _ _)

theorem obldStore_id (c : Crew) (w : Word) : (c.obldStore w).id = c.id := by
  unfold Crew.obldStore
  split
  · split <;> rfl
  · rfl

theorem obldStore_paths (c : Crew) (w : Word) : (c.obldStore w).paths = c.paths := by
  unfold Crew.obldStore
  split
  · split <;> rfl
  · rfl

theorem mergeKeeps_finishLane (s : State) (cid : Nat) (x : Acc) (val : Option Nat) : MergeKeeps s (s.finishLane cid x val) := by
  refine .modCrew (fun c => ?_) s cid
  split
  · exact .of_paths rfl rfl
  · next w _ =>
    have hword (d : Crew) (v : Word) : d.SameWants (d.modWord x.wid fun _ => v) := .of_paths rfl rfl
    have hstore (d : Crew) (v : Word) : d.SameWants (if v.done then d.obldStore v else d) := by
      split
      · exact .of_paths (obldStore_id ..) (obldStore_paths ..)
      · exact .of_paths rfl rfl
    exact (hstore c _).trans (hword _ _)

/-! ### Writes at homes (R241, R259) -/

theorem mergeKeeps_wrHome (s : State) (writer : Option Nat) (part lid key n x : Nat) :
    MergeKeeps s (s.wrHome writer part lid key n x) := by
  unfold State.wrHome
  split
  · exact .of_same rfl rfl rfl
  · exact .of_same rfl rfl rfl

theorem mergeKeeps_writeSpace (s : State) (team thr lid : Nat) (sp : Space) (addr n x : Nat) :
    MergeKeeps s (s.writeSpace team thr lid sp addr n x) := by
  cases sp with
  | mem => exact mergeKeeps_wrHome ..
  | scr => exact .of_same rfl rfl rfl
  | priv l => exact .of_same rfl rfl rfl

theorem mergeKeeps_undoWord (s : State) (c : Crew) (wid : Nat) : MergeKeeps s (s.undoWord c wid) := by
  have hlate : MergeKeeps s ((s.undos.filter fun u => u.1 == wid).foldl
      (fun s u => s.writeSpace c.team 0 (s.lidOf c) .mem u.2.1 1 u.2.2.toNat) s) :=
    .foldl (fun _ _ => mergeKeeps_writeSpace ..) _ s
  unfold State.undoWord
  dsimp only
  split
  · exact hlate
  · exact hlate.trans (.foldl (fun _ _ => mergeKeeps_writeSpace ..) _ _)

theorem mergeKeeps_releasedSys (s : State) (c : Crew) (i : Nat) (x : Acc) : MergeKeeps s (s.releasedSys c i x) := by
  unfold State.releasedSys
  split
  · exact .of_same rfl rfl rfl
  · exact .refl s

/-! ### A conflicting pair (R250) -/

theorem mergeKeeps_applyGran (s : State) (g : Nat) : MergeKeeps s (s.applyGran g) := by
  refine MergeKeeps.trans (t := { s with stands := s.stands.map fun k => { k with cbuf := k.cbuf.filter fun e => e.gran != g } })
    (.of_same rfl rfl rfl) (.foldl (fun u it => ?_) _ _)
  split
  · exact mergeKeeps_writeSpace ..
  · exact .refl u

theorem mergeKeeps_completeAcc (s : State) (c : Crew) (p : Path) (i : Nat) (y : Acc) : MergeKeeps s (s.completeAcc c p i y) := by
  have hdrop : MergeKeeps s (s.modPath c.id i fun p => p.drop y.id) :=
    .modPath (f := fun p => p.drop y.id) (fun _ => rfl) s c.id i
  have hgran (u : State) (g : Nat) : MergeKeeps u (if y.space = .mem then u.applyGran g else u) := by
    split
    · exact mergeKeeps_applyGran u g
    · exact .refl u
  unfold State.completeAcc
  dsimp only
  split
  · refine .trans (.trans hdrop ?_) (mergeKeeps_finishLane ..)
    exact .of_same rfl rfl rfl
  · have hread := hdrop.trans (hgran _ (y.addr / 32))
    split
    · exact .trans hread (mergeKeeps_finishLane ..)
    · exact .trans (.trans hread (mergeKeeps_writeSpace ..)) (mergeKeeps_finishLane ..)
    · exact hread
    · exact .trans (.trans hread (mergeKeeps_writeSpace ..)) (mergeKeeps_finishLane ..)

theorem mergeKeeps_completeEarlier (s : State) (cid i thr n : Nat) : MergeKeeps s (s.completeEarlier cid i thr n) := by
  unfold State.completeEarlier
  split
  · exact .refl s
  · refine (MergeKeeps.foldl (fun u y => mergeKeeps_completeAcc u _ _ i y) _ s).trans (.foldl (fun u w => ?_) _ _)
    split
    · split
      · split
        · exact mergeKeeps_writebackWord ..
        · exact .refl u
      · exact .refl u
    · exact .refl u

theorem mergeKeeps_conflict (s : State) (c : Crew) (i : Nat) (x : Acc) : MergeKeeps s (s.conflict c i x) :=
  (mergeKeeps_undoWord s c x.wid).trans (mergeKeeps_completeEarlier ..)

/-! ### Merges (R246) -/

theorem mergeKeeps_mergeItem (s : State) (x : Acc) (loc : Locus) : MergeKeeps s (s.mergeItem x loc) := by
  unfold State.mergeItem
  split
  · exact .refl s
  · dsimp only
    split
    · refine .trans ?_ (mergeKeeps_conflict ..)
      exact .of_same rfl rfl rfl
    · refine .trans (.trans ?_ (mergeKeeps_writeSpace ..)) (mergeKeeps_releasedSys ..)
      exact .of_same rfl rfl rfl

theorem mergeKeeps_mergeItems (stand gran : Nat) (items : List (Acc × Locus)) (s : State) :
    MergeKeeps s (State.mergeItems stand gran items s) := by
  induction items generalizing s with
  | nil => exact .of_same rfl rfl rfl
  | cons it rest ih =>
    unfold State.mergeItems
    split
    · exact .refl s
    · refine .trans (.trans ?_ (mergeKeeps_mergeItem ..)) (ih _)
      exact .of_same rfl rfl rfl

theorem mergeKeeps_mergeWhere (s : State) (ok : CEnt → Bool) : MergeKeeps s (s.mergeWhere ok) :=
  .foldl (f := fun u (k : Stand × Nat) => (k.1.cbuf.filter ok).foldl (fun v e => v.mergeEntry k.2 e) u)
    (fun u k => .foldl (fun v (e : CEnt) => mergeKeeps_mergeItems k.2 e.gran e.items v) _ u) _ s

/-- Where no entry passes the test, nothing merges. -/
theorem mergeWhere_of_none {s : State} {ok : CEnt → Bool} (h : ∀ k ∈ s.stands, ∀ e ∈ k.cbuf, ok e = false) : s.mergeWhere ok = s := by
  refine List.foldlRecOn (motive := fun t => t = s) s.stands.zipIdx _ rfl fun t ht k hk => ?_
  obtain ⟨stand, n⟩ := k
  have hmem : stand ∈ s.stands := by
    obtain ⟨-, -, hget⟩ := List.mem_zipIdx hk
    exact hget ▸ List.getElem_mem _
  have hnone : stand.cbuf.filter ok = [] := List.filter_eq_nil_iff.2 fun e he => by simp [h stand hmem e he]
  rw [ht, hnone, List.foldl_nil]

end Sys2Proof.Machine

end

section
/-! SUPPORT. HANDOVER: a region's pages walked, its device copies moved out or dropped, and the path that waits for the link. -/

namespace Sys2Proof.Machine

/-! ### Sparse maps as lists of entries -/

theorem mem_of_smap_get {α : Type} {d v : α} {m : SMap α} {k : Nat} (h : SMap.get d m k = v) (hv : v ≠ d) : (k, v) ∈ m := by
  induction m with
  | nil => exact absurd h.symm hv
  | cons e r ih =>
    obtain ⟨i, w⟩ := e
    by_cases hi : i = k
    · simp only [SMap.get, hi, if_true] at h
      rw [hi, h]
      exact List.mem_cons_self
    · simp only [SMap.get, hi, if_false] at h
      exact List.mem_cons_of_mem _ (ih h)

/-- In a map of canonical form every entry is what its key reads as. -/
theorem smap_get_of_mem {α : Type} [DecidableEq α] {d v : α} {m : SMap α} (hm : SMap.wf d m = true) {k : Nat} (h : (k, v) ∈ m) :
    SMap.get d m k = v := by
  have hrise := ((smap_wf_iff d m).1 hm).1
  clear hm
  induction m with
  | nil => cases h
  | cons e r ih =>
    obtain ⟨i, w⟩ := e
    obtain ⟨hhead, htail⟩ := List.pairwise_cons.1 hrise
    rcases List.mem_cons.1 h with heq | hr
    · cases heq
      exact if_pos rfl
    · have hne : i ≠ k := (hhead _ hr).ne
      exact (if_neg hne).trans (ih hr htail)

/-- A key at which some values are put, all of them the same, reads as that value. -/
theorem smap_get_updates_of_agree {α β : Type} [DecidableEq α] (d : α) (key : β → Nat) (val : β → α) {xs : List β} {k : Nat} {v : α}
    (hk : k ∈ xs.map key) (agree : ∀ y ∈ xs, key y = k → val y = v) (m : SMap α) :
    SMap.get d (SMap.updates d key (fun y _ => val y) xs m) k = v := by
  induction xs generalizing m with
  | nil => cases hk
  | cons y ys ih =>
    rw [SMap.updates, List.foldl_cons]
    by_cases hlater : k ∈ ys.map key
    · exact ih hlater (fun z hz => agree z (List.mem_cons_of_mem _ hz)) _
    · have hy : key y = k := by
        obtain heq | hin := List.mem_cons.1 hk
        · exact heq.symm
        · exact absurd hin hlater
      refine (smap_get_updates_of_notMem d key (fun z _ => val z) _ hlater).trans ?_
      rw [hy, smap_get_set_self]
      exact agree y List.mem_cons_self hy

/-! ### The device's copies of host bytes (R259) -/

/-- The copies that a test picks, as they move out. -/
def State.movedOut (s : State) (ok : Nat → HByte → Bool) : List (Nat × HByte) :=
  s.host.filterMap fun e => match e.2 with | some h => if ok e.1 h && e.1.testBit 51 then some (e.1, h) else none | none => none

theorem mem_movedOut {s : State} {ok : Nat → HByte → Bool} {k : Nat} {h : HByte} :
    (k, h) ∈ s.movedOut ok ↔ (k, some h) ∈ s.host ∧ ok k h = true ∧ k.testBit 51 = true := by
  simp only [State.movedOut, List.mem_filterMap]
  constructor
  · rintro ⟨⟨i, w⟩, hmem, hpick⟩
    cases w with
    | none => cases hpick
    | some g =>
      simp only [Option.ite_none_right_eq_some, Bool.and_eq_true, Option.some.injEq, Prod.mk.injEq] at hpick
      obtain ⟨hok, rfl, rfl⟩ := hpick
      exact ⟨hmem, hok⟩
  · rintro ⟨hmem, hok, hbit⟩
    exact ⟨(k, some h), hmem, by simp [hok, hbit]⟩

theorem exportHost_mem (s : State) (ok : Nat → HByte → Bool) : (s.exportHost ok).mem
    = SMap.updates 0 (fun e : Nat × HByte => e.1 % 2 ^ 52) (fun e _ => e.2.val) (s.movedOut ok) s.mem := rfl

theorem exportHost_host (s : State) (ok : Nat → HByte → Bool) : (s.exportHost ok).host
    = SMap.updates none (fun e : Nat × HByte => e.1) (fun e _ => some { e.2 with writers := [] }) (s.movedOut ok) s.host := rfl

/-- A copy that moves out stays, no thread's any more. -/
theorem host_exportHost_moved {s : State} (hwf : SMap.wf none s.host = true) {ok : Nat → HByte → Bool} {k : Nat} {h : HByte}
    (hk : (k, h) ∈ s.movedOut ok) : SMap.get none (s.exportHost ok).host k = some { h with writers := [] } := by
  have hget := smap_get_of_mem hwf (mem_movedOut.1 hk).1
  rw [exportHost_host]
  refine smap_get_updates_of_agree none (fun e : Nat × HByte => e.1) (fun e => some { e.2 with writers := [] })
    (List.mem_map.2 ⟨_, hk, rfl⟩) (fun e he hkey => ?_) s.host
  obtain ⟨i, g⟩ := e
  obtain rfl : i = k := hkey
  have hg := smap_get_of_mem hwf (mem_movedOut.1 he).1
  rw [hget] at hg
  cases hg
  rfl

theorem host_exportHost_kept {s : State} {ok : Nat → HByte → Bool} {k : Nat} (hk : ∀ h, (k, h) ∉ s.movedOut ok) :
    SMap.get none (s.exportHost ok).host k = SMap.get none s.host k := by
  rw [exportHost_host]
  refine smap_get_updates_of_notMem none (fun e : Nat × HByte => e.1) _ s.host fun hin => ?_
  obtain ⟨⟨i, h⟩, he, rfl⟩ := List.mem_map.1 hin
  exact hk h he

/-- The byte of a copy that moves out, where no other copy moves to its place. -/
theorem rdByte_exportHost_moved {s : State} (hwf : SMap.wf none s.host = true) {ok : Nat → HByte → Bool} {k : Nat} {h : HByte}
    (hk : (k, h) ∈ s.movedOut ok) (alone : ∀ e ∈ s.movedOut ok, e.1 % 2 ^ 52 = k % 2 ^ 52 → e.1 = k) :
    (s.exportHost ok).rdByte (k % 2 ^ 52) = h.val := by
  have hget := smap_get_of_mem hwf (mem_movedOut.1 hk).1
  rw [State.rdByte, exportHost_mem]
  refine smap_get_updates_of_agree 0 (fun e : Nat × HByte => e.1 % 2 ^ 52) (fun e => e.2.val)
    (List.mem_map.2 ⟨_, hk, rfl⟩) (fun e he hkey => ?_) s.mem
  obtain ⟨i, g⟩ := e
  obtain rfl : i = k := alone _ he hkey
  have hg := smap_get_of_mem hwf (mem_movedOut.1 he).1
  rw [hget] at hg
  cases hg
  rfl

theorem rdByte_exportHost_kept {s : State} {ok : Nat → HByte → Bool} {a : Nat} (ha : ∀ e ∈ s.movedOut ok, e.1 % 2 ^ 52 ≠ a) :
    (s.exportHost ok).rdByte a = s.rdByte a := by
  rw [State.rdByte, exportHost_mem]
  refine smap_get_updates_of_notMem 0 (fun e : Nat × HByte => e.1 % 2 ^ 52) _ s.mem fun hin => ?_
  obtain ⟨e, he, rfl⟩ := List.mem_map.1 hin
  exact ha e he rfl

/-! ### A walk (R190, R193, R212) -/

/-- At most memory, its frames and the device's copies of host bytes differ. -/
def State.Walks (s t : State) : Prop := ∃ mem host past frames, t = { s with mem := mem, host := host, past := past, frames := frames }

theorem State.Walks.refl (s : State) : s.Walks s := ⟨s.mem, s.host, s.past, s.frames, rfl⟩

/-- A walk that succeeds owns the frames of its leaf and sets the leaf's bits. -/
theorem walks_own (s : State) (part : Nat) (fs : List Nat) (at_ raw : Nat) :
    s.Walks ((s.ownFrames part fs).wrHome none part 0 at_ 8 raw) := by
  unfold State.wrHome
  split
  · exact ⟨_, _, _, _, rfl⟩
  · exact ⟨_, _, _, _, rfl⟩

theorem walks_walk (s : State) (part asid root vpn : Nat) (write : Bool) : s.Walks (s.walk part asid root vpn write).2 := by
  unfold State.walk
  split
  · exact .refl s
  split
  · exact .refl s
  dsimp only
  split
  · exact .refl s
  split
  · exact .refl s
  split
  · exact .refl s
  split
  · exact .refl s
  split
  · exact .refl s
  · exact walks_own ..

theorem walks_of_walk {s u : State} {part asid root vpn : Nat} {write : Bool} {r : Walked}
    (h : s.walk part asid root vpn write = (r, u)) : s.Walks u := by
  have hw := walks_walk s part asid root vpn write
  rwa [h] at hw

/-- A walk through a region's pages leaves the issuing path. -/
theorem walkRegion_cur (c : Crew) (p : Path) (parts : List (W64 × Nat)) (out : List (Nat × Nat)) (s : State) :
    (s.walkRegion c p parts out).2.cur = s.cur := by
  induction parts generalizing s out with
  | nil => rfl
  | cons part rest ih =>
    obtain ⟨ea, n⟩ := part
    unfold State.walkRegion
    split
    · rfl
    · exact ih _ s
    · dsimp only
      split
      · next hwalk =>
        obtain ⟨mem, host, past, frames, rfl⟩ := walks_of_walk hwalk
        exact ih _ _
      · next hwalk =>
        obtain ⟨mem, host, past, frames, rfl⟩ := walks_of_walk hwalk
        rfl
      · next hwalk =>
        obtain ⟨mem, host, past, frames, rfl⟩ := walks_of_walk hwalk
        rfl

/-! ### HANDOVER (R214, R259) -/

theorem exec_handoverIn (a b : BitVec 6) (s : State) : exec (.handoverIn a b) s = handoverWord s (.handoverIn a b) false a b := rfl
theorem exec_handoverOut (a b : BitVec 6) (s : State) : exec (.handoverOut a b) s = handoverWord s (.handoverOut a b) true a b := rfl

/-- The page parts of the region of a HANDOVER. -/
def handoverParts (a b : W64) : List (W64 × Nat) := pageParts (a.toNat / 512 * 512) (roundUp (a.toNat + b.toNat) 512)

/-- A key lies in one of a region's ranges. -/
def InRanges (rs : List (Nat × Nat)) (key : Nat) : Prop := ∃ r ∈ rs, r.1 ≤ key ∧ key < r.1 + r.2

/-- The test of a key that `handoverEffect` makes. -/
def inRanges (rs : List (Nat × Nat)) (key : Nat) : Bool := rs.any fun r => decide (r.1 ≤ key) && decide (key < r.1 + r.2)

theorem inRanges_iff (rs : List (Nat × Nat)) (key : Nat) : inRanges rs key = true ↔ InRanges rs key := by
  simp [inRanges, InRanges]

/-- The path that waits for HANDOVER_COMPLETE. -/
def Path.handingOver (p : Path) : Path := { p with wait := some stOther, want := some .handover }

section Word
variable {s : State} {c : Crew} {i : Nat} {p : Path} {a b : BitVec 6} {ins : Instr}

/-- A HANDOVER of no bytes goes on. -/
theorem handoverWord_zero (h : Issuing s c i p) (hiss : p.iss = none) (hwant : p.want = none) (hp : c.pending [a, b] = false) {out : Bool}
    (hcruise : out = true → s.isCruise c = false) (hb : c.sget b = 0) : handoverWord s ins out a b = .next (s.advance 4) := by
  have hno : (out && s.isCruise c) = false := by
    cases out
    · rfl
    · exact hcruise rfl
  rw [handoverWord, withCur_of h]
  simp [hiss, hwant, hp, hno, Path.sources, hb]

theorem handoverWord_cruise (h : Issuing s c i p) (hiss : p.iss = none) (hwant : p.want = none) (hp : c.pending [a, b] = false)
    (hcruise : s.isCruise c = true) :
    handoverWord s ins true a b = .next (s.fatalCruise c p false fcXstore (c.sget a).toNat) := by
  rw [handoverWord, withCur_of h]
  simp [hiss, hwant, hp, hcruise]

theorem handoverWord_in (h : Issuing s c i p) (hiss : p.iss = none) (hwant : p.want = none) (hp : c.pending [a, b] = false)
    (hb : c.sget b ≠ 0) {rs : List (Nat × Nat)} {u : State}
    (hwalk : s.walkRegion c p (handoverParts (c.sget a) (c.sget b)) [] = (.ok rs, u)) :
    handoverWord s ins false a b = waitWant (u.handoverEffect false rs) stOther .handover := by
  rw [handoverParts] at hwalk
  have hsome : p.iss.isSome = false := by rw [hiss]; rfl
  rw [handoverWord, withCur_of h]
  simp only [hwant, hsome, hp, Path.sources, hb, reduceCtorEq, if_false, Bool.false_eq_true, Bool.false_and, hwalk]

theorem handoverWord_out (h : Issuing s c i p) (hiss : p.iss = none) (hwant : p.want = none) (hp : c.pending [a, b] = false)
    (hb : c.sget b ≠ 0) (hcruise : s.isCruise c = false) (hqueue : (p.queue.all fun x => !x.writes) = true) (hsbuf : p.sbuf = [])
    (hdone : s.effectsDone c p = true) (hlive : (s.mergeThreads (p.thr :: p.kin)).stopping (s.partOf c) = false)
    {rs : List (Nat × Nat)} {u : State}
    (hwalk : (s.mergeThreads (p.thr :: p.kin)).walkRegion c p (handoverParts (c.sget a) (c.sget b)) [] = (.ok rs, u)) :
    handoverWord s ins true a b = waitWant (u.handoverEffect true rs) stOther .handover := by
  rw [handoverParts] at hwalk
  have hsome : p.iss.isSome = false := by rw [hiss]; rfl
  rw [handoverWord, withCur_of h]
  simp only [hwant, hsome, hp, hcruise, Path.sources, hb, hdone, hqueue, hsbuf, reduceCtorEq, if_false, Bool.false_eq_true, Bool.and_false,
    Bool.not_true, List.isEmpty_nil, Bool.and_self, if_true, afterMerge, hlive, hwalk]

/-- The state in which the path waits for its link, if it is the issuing path. -/
theorem handover_waits {u : State} (hcur : u.cur = some ⟨c.id, i⟩) : ∃ t, waitWant u stOther .handover = .next t
    ∧ t = u.modCrew c.id (fun e => e.modPath i Path.handingOver)
    ∧ ∀ e, u.crewOf c.id = some e → t.crewOf c.id = some (e.modPath i Path.handingOver) := by
  have ht : u.modCurPath Path.handingOver = u.modCrew c.id fun e => e.modPath i Path.handingOver := by
    rw [State.modCurPath, hcur]
    rfl
  exact ⟨_, congrArg Host.Outcome.next ht, rfl, fun e he => crewOf_modCrew_self (f := fun e => e.modPath i Path.handingOver) (fun _ => rfl) he⟩

end Word

theorem fcXstore_eq : fcXstore = 33 := rfl

/-- A region's test as `dropHost` leaves each copy and each byte not yet shown. -/
theorem get_dropped {α : Type} (rs : List (Nat × Nat)) (m : SMap (Option α)) (key : Nat) :
    SMap.get none (m.filter fun e => !inRanges rs e.1) key = if inRanges rs key then none else SMap.get none m key := by
  rw [smap_get_filter none m (fun k => !inRanges rs k) key]
  cases inRanges rs key <;> rfl

/-- A step that changes one path of one crew. -/
theorem completes_of_modPath {ins : Instr} {s : State} {c : Crew} {i : Nat} {p : Path} (hcrew : s.crewOf c.id = some c)
    (hentry : c.paths[i]? = some p) {f : Path → Path} (hexec : exec ins s = .next (s.modPath c.id i f)) :
    Completes ins s c (c.withPath i (f p)) := by
  rw [← modPath_eq_withPath hentry]
  exact ⟨_, hexec, onlyCrew_modCrew (f := fun d => d.modPath i f) (fun _ => rfl) s c.id,
    crewOf_modCrew_self (f := fun d => d.modPath i f) (fun _ => rfl) hcrew⟩

/-- HANDOVER_COMPLETE for a path that waits for it. -/
theorem handoverComplete_waiting {r : PathRef} {s : State} {c : Crew} {p : Path} (hnamed : s.named r = some (c, p))
    (hwant : p.want = some .handover) : exec (.handoverComplete r) s = .next (s.modPath c.id r.path Path.pastWord) := by
  have hexec : exec (.handoverComplete r) s = execHandoverComplete r s := rfl
  rw [hexec, execHandoverComplete, hnamed]
  exact if_pos hwant

/-- Settles O18: the region's copies move out or go, the path waits, and it goes on with the link's answer. -/
theorem handoverMovesARegion : Obligations.HandoverMovesARegion := by
  constructor
  · intro a b s c i p h hiss hwant hp parts inside waits
    refine ⟨fun hb => ⟨?_, fun hcruise => ?_⟩, fun hcruise => ?_, fun rs u hb hwalk => ?_,
      fun rs u hb hcruise hqueue hsbuf hdone hlive hwalk hwf => ?_⟩
    · have hexec := (exec_handoverIn a b s).trans (handoverWord_zero h hiss hwant hp nofun hb)
      exact completes_of_modPath (f := fun p => p.past 4) h.crew h.entry (by rw [hexec, advance_of h]; rfl)
    · have hexec := (exec_handoverOut a b s).trans (handoverWord_zero h hiss hwant hp (fun _ => hcruise) hb)
      exact completes_of_modPath (f := fun p => p.past 4) h.crew h.entry (by rw [hexec, advance_of h]; rfl)
    · have hexec := (exec_handoverOut a b s).trans (handoverWord_cruise h hiss hwant hp hcruise)
      rw [State.fatalCruise, curPath_of h, fcXstore_eq] at hexec
      exact hexec
    · obtain ⟨t, hexec, ht, hwaits⟩ := handover_waits (c := c) (i := i) (u := u.handoverEffect false rs)
        (by rw [← h.cur, ← walkRegion_cur c p parts [] s, hwalk]; rfl)
      refine ⟨t, ((exec_handoverIn a b s).trans (handoverWord_in h hiss hwant hp hb hwalk)).trans hexec, hwaits, ?_,
        fun key => ⟨fun hin => ?_, fun hout => ?_⟩⟩
      · rw [ht]; exact fun _ => rfl
      · rw [ht]
        have hkey := (inRanges_iff rs key).2 hin
        exact ⟨(get_dropped rs u.host key).trans (if_pos hkey), (get_dropped rs u.unseen key).trans (if_pos hkey)⟩
      · rw [ht]
        have hkey : ¬ inRanges rs key = true := fun hk => hout ((inRanges_iff rs key).1 hk)
        exact ⟨(get_dropped rs u.host key).trans (if_neg hkey), (get_dropped rs u.unseen key).trans (if_neg hkey)⟩
    · have hcur : u.cur = some ⟨c.id, i⟩ := by
        have hmerged := (mergeKeeps_mergeWhere s fun e => e.items.any fun it => (p.thr :: p.kin).contains it.1.thr).cur
        have hwalked := walkRegion_cur c p parts [] (s.mergeThreads (p.thr :: p.kin))
        rw [hwalk] at hwalked
        exact hwalked.trans (hmerged.trans h.cur)
      obtain ⟨t, hexec, ht, hwaits⟩ := handover_waits (c := c) (i := i) (u := u.handoverEffect true rs) hcur
      have hmoved {key : Nat} {g : HByte} : (key, g) ∈ u.movedOut (fun key _ => inRanges rs key)
          ↔ (key, some g) ∈ u.host ∧ inside rs key ∧ key.testBit 51 = true :=
        mem_movedOut.trans (and_congr_right fun _ => and_congr_left fun _ => inRanges_iff rs key)
      refine ⟨t, ((exec_handoverOut a b s).trans (handoverWord_out h hiss hwant hp hb hcruise hqueue hsbuf hdone hlive hwalk)).trans hexec,
        hwaits, fun key g hin hbit hget => ?_, fun key hout => ?_, fun at_ hat => ?_⟩
      · have hmem := hmoved.2 ⟨mem_of_smap_get hget (by simp), hin, hbit⟩
        rw [ht]
        refine ⟨host_exportHost_moved hwf hmem, fun halone => rdByte_exportHost_moved hwf hmem fun e he heq => ?_⟩
        exact halone e.1 (hmoved.1 he).2.1 heq
      · rw [ht]
        exact host_exportHost_kept fun g hg => hout (hmoved.1 hg).2.1
      · rw [ht]
        refine rdByte_exportHost_kept (s := u) (ok := fun key _ => inRanges rs key) fun e he => ?_
        obtain ⟨hmem, hin, -⟩ := hmoved.1 he
        exact hat e.1 hin (by rw [smap_get_of_mem hwf hmem]; simp)
  · intro r s c p hnamed hwant hcrew hentry
    exact completes_of_modPath hcrew hentry (handoverComplete_waiting hnamed hwant)

end Sys2Proof.Machine

end

section
/-! SUPPORT. The end of a walk, the replay of a parked path, and the invalidations of translations. -/

namespace Sys2Proof.Machine

/-! ### One path of a crew after several changes -/

section Paths
variable {s : State} {c : Crew} {id i : Nat} {p : Path}

theorem crewOf_modPath (hcrew : s.crewOf id = some c) (hentry : c.paths[i]? = some p) (f : Path → Path) :
    (s.modPath id i f).crewOf id = some (c.withPath i (f p)) := by
  rw [← modPath_eq_withPath hentry]
  exact crewOf_modCrew_self (f := fun d => d.modPath i f) (fun _ => rfl) hcrew

theorem withPath_entry (hentry : c.paths[i]? = some p) (q : Path) : (c.withPath i q).paths[i]? = some q := by
  simp [Crew.withPath, setAt_getElem?, hentry]

theorem withPath_withPath (c : Crew) (i : Nat) (q r : Path) : (c.withPath i q).withPath i r = c.withPath i r := by
  simp [Crew.withPath]

/-- Two changes of one path in turn. -/
theorem crewOf_modPath_modPath (hcrew : s.crewOf id = some c) (hentry : c.paths[i]? = some p) (f g : Path → Path) :
    ((s.modPath id i f).modPath id i g).crewOf id = some (c.withPath i (g (f p))) := by
  rw [crewOf_modPath (crewOf_modPath hcrew hentry f) (withPath_entry hentry (f p)), withPath_withPath]

end Paths

theorem State.Walks.crews {s t : State} (h : s.Walks t) : t.crews = s.crews := by obtain ⟨_, _, _, _, rfl⟩ := h; rfl
theorem State.Walks.cores {s t : State} (h : s.Walks t) : t.cores = s.cores := by obtain ⟨_, _, _, _, rfl⟩ := h; rfl

theorem State.Walks.crewOf {s t : State} (h : s.Walks t) (id : Nat) : t.crewOf id = s.crewOf id := by
  rw [State.crewOf, State.crewOf, h.crews]

/-! ### The end of one walk (R193, R213) -/

/-- The path without the walk of a page, and the path once it has none. -/
def Path.walkGone (v : Nat) (p : Path) : Path := { p with walks := p.walks.filter fun w => w.1 != v }
def Path.walksSettled (p : Path) : Path := if p.walks.isEmpty then { p with wait := none } else p

/-- The path with the cause that its walk of a page has found. -/
def Path.knowsCause (v cause : Nat) (p : Path) : Path := { p with walked := p.walked ++ [(v, cause)] }

/-- A path parked, without a record, at a word whose walk has met a pending frame. -/
def Path.parkedPending (p : Path) : Path := { p with
  st := .fault
  park := p.park.or (some { word := none, lanes := p.faultLanes, reject := [], tags := [], far := [] }) }

/-- The path's scalar word has read its sources and is not parked. -/
def Path.holdsWord (p : Path) : Bool := p.park.isNone && match p.want with | some (.held ..) => true | _ => false

theorem walkGone_single {p : Path} {v : Nat} {w : Bool} (h : p.walks = [(v, w)]) : p.walkGone v = { p with walks := [] } := by
  simp [Path.walkGone, h]

section Walk
variable {s u : State} {c : Crew} {i : Nat} {p : Path} {v : Nat} {w : Bool} {r : PathRef}

theorem translationWalkDone_single (hn : Named s r c p) (hwalks : p.walks = [(v, w)]) :
    exec (.translationWalkDone r) s = .next ((s.walkOne c r.path (v, w)).modPath c.id r.path Path.walksSettled) := by
  have hexec : exec (.translationWalkDone r) s = execTranslationWalkDone r s := rfl
  rw [hexec, execTranslationWalkDone, hn.at_]
  simp only [hwalks, List.isEmpty_cons, List.foldl_cons, List.foldl_nil]
  rfl

theorem walkOne_ok {tr : Trans} (h : s.walk (s.partOf c) (s.space c).1 (s.space c).2 v w = (.ok tr, u)) :
    s.walkOne c i (v, w) = (u.modCore ((s.coreOf c.team).getD 0) fun k => k.install tr).modPath c.id i (Path.walkGone v) := by
  simp only [State.walkOne, h]
  rfl

theorem walkOne_bad {cause : Nat} (h : s.walk (s.partOf c) (s.space c).1 (s.space c).2 v w = (.bad cause, u)) :
    s.walkOne c i (v, w) = ((u.dropPages c [v]).modPath c.id i (Path.walkGone v)).modPath c.id i (Path.knowsCause v cause) := by
  simp only [State.walkOne, h]
  rfl

theorem walkOne_pending {fs : List Nat} (h : s.walk (s.partOf c) (s.space c).1 (s.space c).2 v w = (.pending fs, u))
    (hcrew : s.crewOf c.id = some c) (hentry : c.paths[i]? = some p) : s.walkOne c i (v, w)
      = if p.st == .fault then u.hurryScrub fs
        else if p.holdsWord then (u.hurryScrub fs).modPath c.id i (Path.walkGone v)
        else (u.hurryScrub fs).modCrew c.id fun c => (c.modPath i Path.parkedPending).trapPoint i := by
  have hcrew' : u.crewOf c.id = some c := ((walks_of_walk h).crewOf c.id).trans hcrew
  simp only [State.walkOne, h, hcrew', path_of_entry hentry]
  rfl

/-- The translation that a walk has found is in the TLB. -/
theorem mem_install (k : Core) (t : Trans) : t ∈ (k.install t).tlb := by
  have hkept : (k.tlb.filter fun u => !u.covers t.asid t.part t.vpn).length + 1 - 4096
      ≤ (k.tlb.filter fun u => !u.covers t.asid t.part t.vpn).length := by omega
  simp only [Core.install, List.length_append, List.length_singleton]
  rw [List.drop_append_of_le_length hkept]
  exact List.mem_append_right _ List.mem_cons_self

/-- The crew after a walk that meets a pending frame, and the path parks. -/
theorem parkedPending_path (hentry : c.paths[i]? = some p) (hwalks : p.walks = [(v, w)]) : ∃ tr,
    (((c.modPath i Path.parkedPending).trapPoint i).modPath i Path.walksSettled).path i = { p.parkedPending with trap := tr } := by
  have hpath := trapPoint_path_eq (c.modPath i Path.parkedPending) i i
  rw [path_modPath_self hentry] at hpath
  have hlt : i < ((c.modPath i Path.parkedPending).trapPoint i).paths.length := by
    have := (List.getElem?_eq_some_iff.1 hentry).1
    simpa [Crew.trapPoint] using this
  have hmeets : (((c.modPath i Path.parkedPending).trapPoint i).path i).walks = p.walks := by
    rw [hpath]
    rfl
  exact ⟨_, (path_modPath_of_lt hlt _).trans ((if_neg (by simp [hmeets, hwalks])).trans hpath)⟩

end Walk

/-! ### WORD_REPLAY (R206) -/

theorem exec_wordReplay_parked {s : State} {c : Crew} {p : Path} {r : PathRef} (hn : Named s r c p) {k : Park} (hk : p.park = some k) :
    exec (.wordReplay r) s = if k.tags.isEmpty && k.far.isEmpty && p.walks.isEmpty && p.refill.isEmpty then
      .next ((s.replay c r.path p k).modPath c.id r.path Path.settleReplay) else .next s := by
  have hexec : exec (.wordReplay r) s = execWordReplay r s := rfl
  rw [hexec, execWordReplay, hn.at_]
  simp only [hk]

theorem settleReplay_of_none {p : Path} (h : p.goOn = none) : p.settleReplay = p := by rw [Path.settleReplay, h]

/-- What a walk that meets a pending frame makes of its path: still parked, at its scalar word again, or parked now. -/
def Path.meetsPending (tr : Option TrapRec) (p : Path) : Path :=
  if p.st = .fault then p else if p.holdsWord then { p with walks := [], wait := none } else { p.parkedPending with trap := tr }

theorem holdsWord_iff (p : Path) : p.holdsWord = true ↔ p.park = none ∧ ∃ a b, p.want = some (.held a b) := by
  rw [Path.holdsWord, Bool.and_eq_true, Option.isNone_iff_eq_none]
  refine and_congr_right fun _ => ⟨fun hwant => ?_, fun ⟨a, b, hwant⟩ => by rw [hwant]⟩
  split at hwant
  · exact ⟨_, _, ‹_›⟩
  · cases hwant

theorem walkDone_pending {s u : State} {c : Crew} {p : Path} {r : PathRef} {v : Nat} {w : Bool} {fs : List Nat} (hn : Named s r c p)
    (hwalks : p.walks = [(v, w)]) (hwalk : s.walk (s.partOf c) (s.space c).1 (s.space c).2 v w = (.pending fs, u)) :
    ∃ t c' tr, exec (.translationWalkDone r) s = .next t ∧ t.crewOf c.id = some c' ∧ SameMemory u t ∧ c'.s = c.s
      ∧ c'.path r.path = p.meetsPending tr := by
  have hexec := translationWalkDone_single hn hwalks
  rw [walkOne_pending hwalk hn.crew hn.entry] at hexec
  have hcrew : (u.hurryScrub fs).crewOf c.id = some c := ((walks_of_walk hwalk).crewOf c.id).trans hn.crew
  by_cases hst : p.st = .fault
  · rw [if_pos (beq_iff_eq.2 hst)] at hexec
    refine ⟨_, _, none, hexec, crewOf_modPath hcrew hn.entry _, fun _ => rfl, rfl, ?_⟩
    rw [path_withPath hn.entry, Path.meetsPending, if_pos hst]
    exact if_neg (by simp [hwalks])
  rw [if_neg (mt beq_iff_eq.1 hst)] at hexec
  by_cases hholds : p.holdsWord = true
  · rw [if_pos hholds] at hexec
    refine ⟨_, _, none, hexec, crewOf_modPath_modPath hcrew hn.entry _ _, fun _ => rfl, rfl, ?_⟩
    rw [path_withPath hn.entry, walkGone_single hwalks, Path.meetsPending, if_neg hst, if_pos hholds]
    rfl
  · rw [if_neg hholds] at hexec
    obtain ⟨tr, hpath⟩ := parkedPending_path hn.entry hwalks
    refine ⟨_, _, tr, hexec, crewOf_modCrew_self (f := fun d => d.modPath r.path Path.walksSettled) (fun _ => rfl)
      (crewOf_modCrew_self (f := fun d => (d.modPath r.path Path.parkedPending).trapPoint r.path) (fun _ => rfl) hcrew), fun _ => rfl, rfl, ?_⟩
    rw [hpath, Path.meetsPending, if_neg hst, if_neg hholds]

theorem walksEndAndWordsReplay : Claims.WalksEndAndWordsReplay := by
  intro r s c p hn hcore
  refine ⟨?walk, fun k hk hopen => ?open_, fun k hk htags hfar hwalks hrefill hreject hgoOn hword => ?replay⟩
  case walk =>
    intro v w hwalks walked
    refine ⟨fun tr u k hwalk hk => ?ok, fun cause u hwalk => ?bad, fun fs u hwalk => ?pending⟩
    case ok =>
      have hexec := translationWalkDone_single hn hwalks
      rw [walkOne_ok hwalk, hcore, Option.getD_some] at hexec
      have hcrew : (u.modCore r.core fun k => k.install tr).crewOf c.id = some c := ((walks_of_walk hwalk).crewOf c.id).trans hn.crew
      refine ⟨_, k.install tr, hexec, ?_, fun _ => rfl, ?_, mem_install k tr⟩
      · rw [crewOf_modPath_modPath hcrew hn.entry, walkGone_single hwalks]
        rfl
      · have hk' : u.cores[r.core]? = some k := by rw [(walks_of_walk hwalk).cores, hk]
        exact (modAt_getElem? u.cores r.core r.core _).trans (by rw [if_pos rfl, hk', Option.map_some])
    case bad =>
      have hexec := translationWalkDone_single hn hwalks
      rw [walkOne_bad hwalk] at hexec
      obtain ⟨l, hl⟩ : ∃ l, (u.dropPages c [v]).crewOf c.id = some { c with lastPg := l } :=
        crewOf_sweep (((walks_of_walk hwalk).crewOf c.id).trans hn.crew) _
      have hentry : ({ c with lastPg := l } : Crew).paths[r.path]? = some p := hn.entry
      have hcause := crewOf_modPath (crewOf_modPath hl hentry (Path.walkGone v)) (withPath_entry hentry _) (Path.knowsCause v cause)
      have hlast := crewOf_modPath hcause (withPath_entry (withPath_entry hentry _) _) Path.walksSettled
      refine ⟨_, _, hexec, hlast, ?_, fun _ => rfl⟩
      rw [path_withPath (withPath_entry (withPath_entry hentry _) _), walkGone_single hwalks]
      rfl
    case pending =>
      obtain ⟨t, c', tr, hexec, hcrew, hmem, hregs, hpath⟩ := walkDone_pending hn hwalks hwalk
      refine ⟨t, c', hexec, hcrew, hmem, ?_, hregs, fun hparks => ?_, fun a b hst hpark hwant => ?_⟩
      · rw [hpath, Path.meetsPending]
        split
        · rfl
        · split <;> rfl
      · rw [hpath, Path.meetsPending]
        by_cases hst : p.st = .fault
        · rw [if_pos hst]
          exact ⟨hst, rfl, fun hne => absurd hst hne⟩
        · have hholds : p.holdsWord ≠ true := fun h => by
            obtain ⟨hpark, a, b, hwant⟩ := (holdsWord_iff p).1 h
            simp [hst, hpark, hwant] at hparks
          rw [if_neg hst, if_neg hholds]
          refine ⟨rfl, rfl, fun _ hpark => ?_⟩
          have hnew : p.parkedPending.park = some { word := none, lanes := p.faultLanes, reject := [], tags := [], far := [] } := by
            rw [Path.parkedPending, hpark]
            rfl
          exact ⟨_, hnew, rfl, rfl⟩
      · rw [hpath, Path.meetsPending, if_neg hst, if_pos ((holdsWord_iff p).2 ⟨hpark, a, b, hwant⟩)]
  case open_ =>
    rw [Idle, exec_wordReplay_parked hn hk]
    refine if_neg fun hall => ?_
    simp only [Bool.and_eq_true, List.isEmpty_iff] at hall
    obtain ⟨⟨⟨htags, hfar⟩, hwalks⟩, hrefill⟩ := hall
    simp [htags, hfar, hwalks, hrefill] at hopen
  case replay =>
    have hexec := exec_wordReplay_parked hn hk
    rw [if_pos (by simp [htags, hfar, hwalks, hrefill])] at hexec
    have hreplay : s.replay c r.path p k = s.modPath c.id r.path fun p => { p with park := none }.wake := by
      rw [State.replay, hword, hreject]
      rfl
    rw [hreplay] at hexec
    have hcrew := crewOf_modPath_modPath hn.crew hn.entry (fun p => { p with park := none }.wake) Path.settleReplay
    rw [settleReplay_of_none (by exact hgoOn)] at hcrew
    exact ⟨_, hexec, (onlyCrew_modCrew (f := fun d => d.modPath r.path fun p => { p with park := none }.wake) (fun _ => rfl) s c.id).trans
      (onlyCrew_modCrew (f := fun d => d.modPath r.path Path.settleReplay) (fun _ => rfl) _ c.id), hcrew⟩

end Sys2Proof.Machine

end

section
/-! SUPPORT. Invalidations (R194, R195): the range that waits, its sweep, and the records that turn stale. -/

namespace Sys2Proof.Machine

/-! ### Stale records (R195) -/

/-- A partition without the records that its fault queue holds. -/
def Part.withoutHeld (q : Part) : Part := { q with fqHeld := [] }

/-- At most memory, what the host has not seen of it, and held records differ. -/
structure MarksStale (s t : State) : Prop where
  crews : t.crews = s.crews
  cores : t.cores = s.cores
  parts : t.parts.map Part.withoutHeld = s.parts.map Part.withoutHeld

theorem MarksStale.refl (s : State) : MarksStale s s := ⟨rfl, rfl, rfl⟩

theorem MarksStale.trans {s t u : State} (h : MarksStale s t) (k : MarksStale t u) : MarksStale s u :=
  ⟨k.crews.trans h.crews, k.cores.trans h.cores, k.parts.trans h.parts⟩

theorem MarksStale.foldl {α : Type} {f : State → α → State} (hf : ∀ s x, MarksStale s (f s x)) (xs : List α) (s : State) :
    MarksStale s (xs.foldl f s) :=
  List.foldlRecOn (motive := MarksStale s) xs f (.refl s) fun t ht x _ => ht.trans (hf t x)

theorem marksStale_modPart {f : Part → Part} (hf : ∀ q, (f q).withoutHeld = q.withoutHeld) (s : State) (part : Nat) :
    MarksStale s (s.modPart part f) := by
  refine ⟨rfl, rfl, List.ext_getElem? fun k => ?_⟩
  simp only [State.modPart, List.getElem?_map, modAt_getElem?]
  split
  · cases s.parts[k]? with
    | none => rfl
    | some q => exact congrArg some (hf q)
  · rfl

theorem marksStale_markStale (s : State) (part tag : Nat) : MarksStale s (s.markStale part tag) := by
  unfold State.markStale
  split
  · exact .refl s
  · refine .trans (.foldl (fun u k => ?_) _ s) (marksStale_modPart (by exact fun _ => rfl) _ part)
    split
    · exact ⟨rfl, rfl, rfl⟩
    · exact .refl u

theorem MarksStale.part {s t : State} (h : MarksStale s t) {k : Nat} {q : Part} (hq : s.part? k = some q) :
    ∃ q', t.part? k = some q' ∧ q' = { q with fqHeld := q'.fqHeld } := by
  have hk := congrArg (fun ps : List Part => ps[k]?) h.parts
  simp only [List.getElem?_map, show s.parts[k]? = some q from hq, Option.map_some] at hk
  obtain ⟨q', hq', heq⟩ := Option.map_eq_some_iff.mp hk
  refine ⟨q', hq', ?_⟩
  have hself : q' = { q'.withoutHeld with fqHeld := q'.fqHeld } := rfl
  rw [hself, heq]
  rfl

/-- A parked path without the records of these tags, and so each path of the crews of an address space. -/
def Path.untagged (tags : List Nat) (p : Path) : Path :=
  match p.park with
  | some k => { p with park := some { k with tags := k.tags.filter fun t => !tags.contains t.1 } }
  | none => p

def State.untaggedCrew (s : State) (part asid : Nat) (tags : List Nat) (c : Crew) : Crew :=
  if s.inSpace part asid c then { c with paths := c.paths.map (Path.untagged tags) } else c

theorem untagged_want (tags : List Nat) (p : Path) : (p.untagged tags).want = p.want := by
  unfold Path.untagged
  split <;> rfl

theorem untaggedCrew_id (s : State) (part asid : Nat) (tags : List Nat) (c : Crew) : (s.untaggedCrew part asid tags c).id = c.id := by
  unfold State.untaggedCrew
  split <;> rfl

theorem untaggedCrew_want (s : State) (part asid : Nat) (tags : List Nat) (c : Crew) (i : Nat) :
    ((s.untaggedCrew part asid tags c).path i).want = (c.path i).want := by
  unfold State.untaggedCrew
  split
  · rw [path_map rfl, untagged_want]
  · rfl

/-- What R195 does to a state: some records turn stale, jobs try again, and parked paths lose tags. -/
theorem staleFaults_eq (s : State) (part asid : Nat) (hit : Nat → Bool) : ∃ u tags jobs, MarksStale s u
    ∧ s.staleFaults part asid hit = { u with jobs := jobs, crews := u.crews.map (s.untaggedCrew part asid tags) } :=
  ⟨_, _, _, .foldl (fun u t => marksStale_markStale u part t) _ s, rfl⟩

/-! ### INVALIDATION_COMPLETE (R194) -/

/-- What a sweep hits is in no TLB. -/
theorem tlb_sweep {s : State} {hit : Trans → Bool} {k : Core} (hk : k ∈ (s.sweep hit).cores) {e : Trans} (he : e ∈ k.tlb) : hit e = false := by
  obtain ⟨k₀, -, rfl⟩ := List.mem_map.1 hk
  have hkept := (List.mem_filter.1 he).2
  simpa using hkept

/-- The entries of commutative buffers, the translations and the pages of a range. -/
def mergesIn (r : W64 × W64 × Nat) (e : CEnt) : Bool := e.items.any fun it => inRange r (it.1.va.toNat % 2 ^ 52) it.1.width
def sweeps (part : Nat) (r : W64 × W64 × Nat) (t : Trans) : Bool :=
  t.part == part && t.asid == r.2.2 && inRange r (t.vpn * 2 ^ 16) (pagesOf t.level * 2 ^ 16)

/-- The oldest invalidation has swept. -/
def Part.swept (rest : List (W64 × W64 × Nat)) (q : Part) : Part := { q with invQ := rest, done := q.done + 1 }

/-- The state after the sweep of a range, before it is counted. -/
def State.invalidated (s : State) (part : Nat) (r : W64 × W64 × Nat) : State :=
  ((s.mergeWhere (mergesIn r)).sweep (sweeps part r)).staleFaults part r.2.2 fun v => inRange r (v * 2 ^ 16) (2 ^ 16)

section Invalidate
variable {s : State} {part : Nat} {q : Part} {r : W64 × W64 × Nat} {rest : List (W64 × W64 × Nat)}

theorem exec_invalidationComplete (hq : s.part? part = some q) (hr : q.invQ = r :: rest) :
    exec (.invalidationComplete part) s = if s.flying part r.2.2 r then .next s
      else .next ((s.invalidated part r).modPart part (Part.swept rest)) := by
  have hexec : exec (.invalidationComplete part) s = execInvalidationComplete part s := rfl
  rw [hexec, execInvalidationComplete, hq]
  simp only [hr]
  rfl

theorem invalidationComplete_idle_of_empty (hq : s.part? part = some q) (hr : q.invQ = []) : Idle (.invalidationComplete part) s := by
  have hexec : exec (.invalidationComplete part) s = execInvalidationComplete part s := rfl
  rw [Idle, hexec, execInvalidationComplete, hq]
  simp only [hr]

theorem part?_invalidated (hq : s.part? part = some q) (r : W64 × W64 × Nat) : ∃ q', (s.invalidated part r).part? part = some q'
    ∧ q'.done = q.done := by
  obtain ⟨u, tags, jobs, hstale, heq⟩ := staleFaults_eq ((s.mergeWhere (mergesIn r)).sweep (sweeps part r)) part r.2.2
    fun v => inRange r (v * 2 ^ 16) (2 ^ 16)
  obtain ⟨qm, hqm, hm⟩ := (mergeKeeps_mergeWhere s (mergesIn r)).part hq
  obtain ⟨qs, hqs, hs⟩ := hstale.part (k := part) (q := qm) hqm
  rw [State.invalidated, heq]
  exact ⟨qs, hqs, by rw [hs, hm]⟩

/-- What a path waits for stands through the sweep. -/
theorem want_invalidated {c : Crew} (hc : s.crewOf c.id = some c) (part : Nat) (r : W64 × W64 × Nat) (i : Nat) :
    ∃ d, (s.invalidated part r).crewOf c.id = some d ∧ (d.path i).want = (c.path i).want := by
  obtain ⟨u, tags, jobs, hstale, heq⟩ := staleFaults_eq ((s.mergeWhere (mergesIn r)).sweep (sweeps part r)) part r.2.2
    fun v => inRange r (v * 2 ^ 16) (2 ^ 16)
  obtain ⟨d, hd, hwant⟩ := (mergeKeeps_mergeWhere s (mergesIn r)).wants _ _ hc
  obtain ⟨l, hl⟩ := crewOf_sweep hd (sweeps part r)
  have hu : u.crewOf c.id = some { d with lastPg := l } := by rw [← hl, State.crewOf, hstale.crews, State.crewOf]
  rw [State.invalidated, heq]
  refine ⟨_, (crewOf_map (fun _ => untaggedCrew_id ..) { u with jobs := jobs } c.id).trans (congrArg (Option.map _) hu), ?_⟩
  exact (untaggedCrew_want ..).trans (hwant i)

/-- No TLB keeps a translation of the range. -/
theorem tlb_invalidated {k : Core} (hk : k ∈ (s.invalidated part r).cores) {e : Trans} (he : e ∈ k.tlb) : sweeps part r e = false := by
  obtain ⟨u, tags, jobs, hstale, heq⟩ := staleFaults_eq ((s.mergeWhere (mergesIn r)).sweep (sweeps part r)) part r.2.2
    fun v => inRange r (v * 2 ^ 16) (2 ^ 16)
  rw [State.invalidated, heq] at hk
  have hswept : k ∈ ((s.mergeWhere (mergesIn r)).sweep (sweeps part r)).cores := hstale.cores ▸ hk
  exact tlb_sweep hswept he

end Invalidate

theorem invalidationsSweepTranslations : Claims.InvalidationsSweepTranslations := by
  intro part v s q hq asid
  have hasid : v.extractLsb' 0 12 = asid := low_eq_setWidth v (by decide)
  refine ⟨fun hgo => setsPart_modPart hq rfl ?_, fun hgo hroom => setsPart_modPart hq rfl ?_, fun hgo hfull => setsPart_modPart hq rfl ?_,
    invalidationComplete_idle_of_empty hq, fun r rest hr => ?_⟩
  · simp only [hgo, hasid, Bool.not_false, if_true]
  · simp only [hgo, hasid, Bool.not_true, Bool.false_eq_true, if_false, if_neg (Nat.not_le.2 hroom)]
  · simp only [hgo, hasid, Bool.not_true, Bool.false_eq_true, if_false, if_pos hfull]
  · intro busy
    have hexec := exec_invalidationComplete hq hr
    refine ⟨fun hbusy => ?_, fun hquiet => ?_⟩
    · rw [Idle, hexec]
      exact if_pos hbusy
    · rw [if_neg (by exact ne_true_of_eq_false hquiet)] at hexec
      obtain ⟨q', hq', hdone⟩ := part?_invalidated hq r
      refine ⟨_, _, hexec, part?_modPart_self hq' _, rfl, congrArg (· + 1) hdone, fun c i pa a b g hc hwant => ?_, fun k hk e he hin => ?_⟩
      · obtain ⟨d, hd, hkeeps⟩ := want_invalidated hc part r i
        exact ⟨d, hd, hkeeps.trans hwant⟩
      · obtain ⟨hpart, hspace, hrange⟩ := hin
        have hnone : sweeps part r e = false := tlb_invalidated hk he
        rw [sweeps, hpart, hspace, hrange, BEq.rfl, BEq.rfl] at hnone
        cases hnone

/-- Settles O40: a walk's end by what the walk finds, and an invalidation's sweep over what merges and parked paths keep. -/
theorem walksAndInvalidations : Obligations.WalksAndInvalidations := ⟨walksEndAndWordsReplay, invalidationsSweepTranslations⟩

end Sys2Proof.Machine

end

section
/-! SUPPORT. Frames (R212, R213): a frame that is freed, and one that is scrubbed. -/

namespace Sys2Proof.Machine

/-! ### FRAME_FREE (R213) -/

section Pend
variable (s : State) (part f : Nat)

theorem pendFrame_frames : (s.pendFrame part f).frames
    = SMap.set ⟨0, 0, 0⟩ s.frames f { s.frame f with state := 3, gen := (s.frame f).gen + 1 } := by
  unfold State.pendFrame
  dsimp only
  split <;> rfl

theorem pendFrame_frame (g : Nat) : (s.pendFrame part f).frame g
    = if g = f then { s.frame f with state := 3, gen := (s.frame f).gen + 1 } else s.frame g := by
  rw [State.frame, pendFrame_frames, smap_get_set]
  rfl

theorem pendFrame_mem : (s.pendFrame part f).mem = s.mem := by
  unfold State.pendFrame
  dsimp only
  split <;> rfl

theorem pendFrame_cores : (s.pendFrame part f).cores = s.cores := by
  unfold State.pendFrame
  dsimp only
  split <;> rfl

end Pend

/-- A frame that was not pending has its scrub queued. -/
theorem pendFrame_jobs_new {s : State} {part f : Nat} (h : (s.frame f).state ≠ 3) :
    ∃ j : Job, (s.pendFrame part f).jobs = s.jobs ++ [j] ∧ j.kind = .scrub f ∧ j.level = 7 ∧ j.at_ = none := by
  rw [State.pendFrame, if_neg h]
  exact ⟨_, rfl, rfl, rfl, rfl⟩

theorem pendFrame_jobs_again {s : State} {part f : Nat} (h : (s.frame f).state = 3) : (s.pendFrame part f).jobs = s.jobs := by
  rw [State.pendFrame, if_pos h]
  rfl

/-- The translation maps to a frame. -/
def mapsFrame (f : Nat) (t : Trans) : Bool :=
  !t.pa.testBit 51 && decide (t.pa / 2 ^ 16 ≤ f) && decide (f < t.pa / 2 ^ 16 + pagesOf t.level)

theorem mapsFrame_iff (f : Nat) (t : Trans) :
    mapsFrame f t = true ↔ t.pa.testBit 51 = false ∧ t.pa / 2 ^ 16 ≤ f ∧ f < t.pa / 2 ^ 16 + pagesOf t.level := by
  simp only [mapsFrame, Bool.and_eq_true, Bool.not_eq_true', decide_eq_true_eq, and_assoc]

theorem freeFrame_eq (s : State) (part f : Nat) : s.freeFrame part f = (s.sweep (mapsFrame f)).pendFrame part f := rfl

theorem field_35_0 (x : Nat) : field x 35 0 = x % 2 ^ 36 := by simp [field]

theorem exec_frameFree (part : Nat) (v : W64) (s : State) : exec (.frameFree part v) s
    = if 4 * 3145728 ≤ v.toNat % 2 ^ 36 then .next s else .next (s.freeFrame part (v.toNat % 2 ^ 36)) := by
  rw [← field_35_0]
  rfl

/-! ### SCRUB_COMPLETE (R213) -/

theorem smap_get_clearRange {α : Type} (d : α) (m : SMap α) (lo n k : Nat) :
    SMap.get d (clearRange m lo n) k = if lo ≤ k ∧ k < lo + n then d else SMap.get d m k := by
  rw [clearRange, smap_get_filter d m (fun i => !(decide (lo ≤ i) && decide (i < lo + n))) k]
  by_cases h : lo ≤ k ∧ k < lo + n
  · simp [h]
  · rw [if_neg h]
    refine if_pos ?_
    simp only [Bool.not_eq_true', Bool.and_eq_false_iff, decide_eq_false_iff_not]
    omega

theorem mem_wakeJobs {js : List Job} {j : Job} (h : j ∈ wakeJobs js) : ∃ i ∈ js, i.kind = j.kind := by
  obtain ⟨i, hi, rfl⟩ := List.mem_map.1 h
  refine ⟨i, hi, ?_⟩
  split <;> rfl

/-- A job that a yarder runs scrubs the frame. -/
def State.scrubs (s : State) (frame : Nat) : Bool := s.jobs.any fun j => j.kind == .scrub frame && j.at_.isSome

/-- The state once every contribution to a frame has merged, and once the frame is scrubbed. -/
def State.mergedFrame (s : State) (frame : Nat) : State := s.mergeWhere fun e => e.gran / 2 ^ 11 == frame

def State.scrubbed (s : State) (frame : Nat) : State :=
  { (s.mergedFrame frame).setFrame frame { s.frame frame with state := 0 } with
    past := (s.mergedFrame frame).past.map fun e => if e.1 / 2 ^ 16 ≤ frame ∧ frame * 2 ^ 16 < e.1 + e.2.length then (e.1, []) else e
    mem := clearRange (s.mergedFrame frame).mem (frame * 2 ^ 16) (2 ^ 16)
    jobs := wakeJobs ((s.mergedFrame frame).jobs.filter fun j => !(j.kind == .scrub frame)) }

theorem exec_scrubComplete (frame : Nat) (s : State) : exec (.scrubComplete frame) s
    = if s.scrubs frame && !s.frameFlying frame then .next (s.scrubbed frame) else .next s := rfl

/-- Where no buffer holds a contribution to the frame, nothing merges. -/
theorem mergedFrame_of_none {s : State} {frame : Nat} (h : ∀ k ∈ s.stands, ∀ e ∈ k.cbuf, e.gran / 2 ^ 11 ≠ frame) :
    s.mergedFrame frame = s := mergeWhere_of_none fun k hk e he => beq_eq_false_iff_ne.2 (h k hk e he)

theorem rdByte_scrubbed (s : State) (frame a : Nat) : (s.scrubbed frame).rdByte a
    = if frame * 2 ^ 16 ≤ a ∧ a < frame * 2 ^ 16 + 2 ^ 16 then 0 else (s.mergedFrame frame).rdByte a :=
  smap_get_clearRange ..

theorem frame_scrubbed (s : State) (frame : Nat) : (s.scrubbed frame).frame frame = { s.frame frame with state := 0 } :=
  smap_get_set_self ..

theorem framesAreFreedAndScrubbed : Claims.FramesAreFreedAndScrubbed := by
  refine ⟨?free, ?scrub⟩
  case free =>
    intro part v s f
    refine ⟨fun hbeyond => (exec_frameFree part v s).trans (if_pos hbeyond), fun hin => ?_⟩
    have hexec : exec (.frameFree part v) s = .next (s.freeFrame part f) := (exec_frameFree part v s).trans (if_neg (Nat.not_le.2 hin))
    rw [freeFrame_eq] at hexec
    refine ⟨_, hexec, fun a => ?_, ?_, fun g hg => ?_, fun k hk e he hmaps => ?_, fun hnew => pendFrame_jobs_new hnew,
      fun hagain => pendFrame_jobs_again hagain⟩
    · rw [State.rdByte, pendFrame_mem]
      rfl
    · rw [pendFrame_frame, if_pos rfl]
      rfl
    · rw [pendFrame_frame, if_neg hg]
      rfl
    · rw [pendFrame_cores] at hk
      exact Bool.false_ne_true ((tlb_sweep hk he).symm.trans ((mapsFrame_iff f e).2 hmaps))
  case scrub =>
    intro frame s runs
    refine ⟨fun hno => (exec_scrubComplete frame s).trans (if_neg ?_), fun hruns hquiet => ?_⟩
    · rintro hall
      obtain ⟨hruns, hquiet⟩ := Bool.and_eq_true_iff.1 hall
      rcases hno with hidle | hfly
      · exact Bool.false_ne_true (hidle.symm.trans hruns)
      · simp [hfly] at hquiet
    · have hexec : exec (.scrubComplete frame) s = .next (s.scrubbed frame) :=
        (exec_scrubComplete frame s).trans (if_pos (Bool.and_eq_true_iff.2 ⟨hruns, by rw [hquiet]; rfl⟩))
      refine ⟨_, hexec, ?_, ?_, fun k hk => ?_, fun j hj hkind => ?_, fun hnone a ha => ?_⟩
      · rw [frame_scrubbed]
      · rw [frame_scrubbed]
      · rw [rdByte_scrubbed, if_pos (by omega)]
      · obtain ⟨i, hi, hsame⟩ := mem_wakeJobs hj
        have hother := (List.mem_filter.1 hi).2
        simp [hsame, hkind] at hother
      · rw [rdByte_scrubbed, if_neg (by omega), mergedFrame_of_none hnone]

end Sys2Proof.Machine

end

section
/-! SUPPORT. The bytes of a page that a migration copies (R211), and bytes at their homes after a write. -/

namespace Sys2Proof.Machine

/-! ### Entries of one sparse map put into another -/

/-- The entries of a map put at moved keys: the copy reads as the map does. -/
theorem smap_get_updates_moved {α : Type} [DecidableEq α] {d : α} {key : Nat → Nat} {xs : SMap α} (hxs : SMap.wf d xs = true) {a : Nat}
    (alone : ∀ e ∈ xs, key e.1 = key a → e.1 = a) {m : SMap α} (hm : SMap.get d m (key a) = d) :
    SMap.get d (SMap.updates d (fun e : Nat × α => key e.1) (fun e _ => e.2) xs m) (key a) = SMap.get d xs a := by
  by_cases hv : SMap.get d xs a = d
  · refine Eq.trans ?_ (hm.trans hv.symm)
    refine smap_get_updates_of_notMem d (fun e : Nat × α => key e.1) _ m fun hin => ?_
    obtain ⟨⟨i, v⟩, he, hkey⟩ := List.mem_map.1 hin
    obtain rfl : i = a := alone _ he hkey
    exact ((smap_wf_iff d xs).1 hxs).2 _ he ((smap_get_of_mem hxs he).symm.trans hv)
  · refine smap_get_updates_of_agree d (fun e : Nat × α => key e.1) (fun e => e.2)
      (List.mem_map.2 ⟨_, mem_of_smap_get rfl hv, rfl⟩) (fun e he hkey => ?_) m
    obtain ⟨i, v⟩ := e
    obtain rfl : i = a := alone _ he hkey
    exact (smap_get_of_mem hxs he).symm

/-- The bytes that the entries of a map hold, put at moved keys. -/
def SMap.shown {β : Type} (val : β → Byte) (key : Nat → Nat) (xs : SMap (Option β)) (m : SMap Byte) : SMap Byte :=
  xs.foldl (fun x e => match e.2 with | some b => SMap.set 0 x (key e.1) (val b) | none => x) m

section Shown
variable {β : Type} (val : β → Byte) (key : Nat → Nat)

theorem foldl_eq_shown {f : SMap Byte → Nat × Option β → SMap Byte} (hsome : ∀ x i b, f x (i, some b) = SMap.set 0 x (key i) (val b))
    (hnone : ∀ x i, f x (i, none) = x) (xs : SMap (Option β)) (m : SMap Byte) : xs.foldl f m = SMap.shown val key xs m := by
  have hf : f = fun x e => match e.2 with | some b => SMap.set 0 x (key e.1) (val b) | none => x := by
    funext x e
    obtain ⟨i, w⟩ := e
    cases w with
    | none => exact hnone x i
    | some b => exact hsome x i b
  rw [hf, SMap.shown]

theorem smap_get_shown_of_notMem {xs : SMap (Option β)} {k : Nat} (hk : ∀ e ∈ xs, key e.1 ≠ k) (m : SMap Byte) :
    SMap.get 0 (SMap.shown val key xs m) k = SMap.get 0 m k := by
  refine List.foldlRecOn (motive := fun n => SMap.get 0 n k = SMap.get 0 m k) xs _ rfl fun n hn e he => ?_
  split
  · rw [smap_get_set_ne 0 n _ (hk e he).symm, hn]
  · exact hn

theorem smap_get_shown [DecidableEq β] {xs : SMap (Option β)} (hxs : SMap.wf none xs = true) {a : Nat}
    (alone : ∀ e ∈ xs, key e.1 = key a → e.1 = a)
    (m : SMap Byte) : SMap.get 0 (SMap.shown val key xs m) (key a)
      = match SMap.get none xs a with | some b => val b | none => SMap.get 0 m (key a) := by
  have hrise := ((smap_wf_iff none xs).1 hxs).1
  clear hxs
  induction xs generalizing m with
  | nil => rfl
  | cons e r ih =>
    obtain ⟨i, w⟩ := e
    obtain ⟨hhead, htail⟩ := List.pairwise_cons.1 hrise
    have hrest : ∀ e ∈ r, key e.1 = key a → e.1 = a := fun e he => alone e (List.mem_cons_of_mem _ he)
    by_cases hi : i = a
    · have hlater : ∀ e ∈ r, key e.1 ≠ key a := fun e he hkey => (hhead e he).ne (hi.trans (hrest e he hkey).symm)
      subst hi
      rw [SMap.shown, List.foldl_cons]
      refine (smap_get_shown_of_notMem val key hlater _).trans ?_
      cases w with
      | none => simp [SMap.get]
      | some b => simp [SMap.get]
    · have hne : key a ≠ key i := fun hkey => hi (alone _ List.mem_cons_self hkey.symm)
      have hskip : SMap.get none ((i, w) :: r) a = SMap.get none r a := if_neg hi
      rw [hskip, SMap.shown, List.foldl_cons]
      refine (ih hrest _ htail).trans ?_
      cases w with
      | none => rfl
      | some b => simp only [smap_get_set_ne 0 m _ hne]

end Shown

/-! ### The copy of a page (R211) -/

/-- The entries of 65,536 keys. -/
def SMap.page {α : Type} (lo : Nat) (xs : SMap α) : SMap α := xs.filter fun e => decide (lo ≤ e.1) && decide (e.1 < lo + 2 ^ 16)

theorem mem_page {α : Type} {lo : Nat} {xs : SMap α} {e : Nat × α} (h : e ∈ SMap.page lo xs) : lo ≤ e.1 ∧ e.1 < lo + 2 ^ 16 := by
  simpa using (List.mem_filter.1 h).2

theorem smap_get_page {α : Type} (d : α) {lo k : Nat} (xs : SMap α) (hlo : lo ≤ k) (hhi : k < lo + 2 ^ 16) :
    SMap.get d (SMap.page lo xs) k = SMap.get d xs k := by
  rw [SMap.page, smap_get_filter d xs (fun i => decide (lo ≤ i) && decide (i < lo + 2 ^ 16)) k]
  exact if_pos (by rw [decide_eq_true hlo, decide_eq_true hhi]; rfl)

theorem smap_wf_page {α : Type} [DecidableEq α] {d : α} {lo : Nat} {xs : SMap α} (h : SMap.wf d xs = true) :
    SMap.wf d (SMap.page lo xs) = true := smap_wf_filter h _

theorem move_add (m : Mig) {a : Nat} (ha : a < 2 ^ 16) : m.move (m.old + a) = m.new_ + a := by
  rw [Mig.move, if_pos (by omega)]
  omega

section Copy
variable (s : State) (m : Mig)

theorem copyPage_mem : (s.copyPage m).mem = SMap.shown (·.val) m.move (SMap.page m.old s.host)
    (SMap.shown id m.move (SMap.page m.old s.unseen) (SMap.updates 0 (fun e : Nat × Byte => m.new_ + (e.1 - m.old % 2 ^ 52)) (fun e _ => e.2)
      (SMap.page (m.old % 2 ^ 52) s.mem) (clearRange s.mem m.new_ (2 ^ 16)))) :=
  (foldl_eq_shown (fun h : HByte => h.val) m.move (fun _ _ _ => rfl) (fun _ _ => rfl) (SMap.page m.old s.host) _).trans
    (congrArg (SMap.shown _ _ _) (foldl_eq_shown id m.move (fun _ _ _ => rfl) (fun _ _ => rfl) (SMap.page m.old s.unseen) _))

theorem page_moves {α : Type} {xs : SMap α} {e : Nat × α} (h : e ∈ SMap.page m.old xs) :
    m.move e.1 = m.new_ + (e.1 - m.old) ∧ e.1 - m.old < 2 ^ 16 := by
  have hin := mem_page h
  exact ⟨if_pos hin, by omega⟩

theorem page_moves_alone {α : Type} {xs : SMap α} {a : Nat} (ha : a < 2 ^ 16) :
    ∀ e ∈ SMap.page m.old xs, m.move e.1 = m.move (m.old + a) → e.1 = m.old + a := by
  intro e he hkey
  have hin := mem_page he
  rw [move_add m ha, (page_moves m he).1] at hkey
  omega

variable {s} in
/-- A byte of the new frame is the old frame's as the device sees it. -/
theorem rdByte_copyPage_new (hs : s.Canonical) {a : Nat} (ha : a < 2 ^ 16) : (s.copyPage m).rdByte (m.new_ + a)
    = match SMap.get none s.host (m.old + a), SMap.get none s.unseen (m.old + a) with
      | some h, _ => h.val
      | none, some b => b
      | none, none => s.rdByte (m.old % 2 ^ 52 + a) := by
  obtain ⟨hmem, hhost, hunseen⟩ := hs
  have hold : m.old ≤ m.old + a ∧ m.old + a < m.old + 2 ^ 16 := by omega
  have hcopied : SMap.get 0 (SMap.updates 0 (fun e : Nat × Byte => m.new_ + (e.1 - m.old % 2 ^ 52)) (fun e _ => e.2)
      (SMap.page (m.old % 2 ^ 52) s.mem) (clearRange s.mem m.new_ (2 ^ 16))) (m.new_ + a) = s.rdByte (m.old % 2 ^ 52 + a) := by
    have hplace : m.new_ + (m.old % 2 ^ 52 + a - m.old % 2 ^ 52) = m.new_ + a := by omega
    have hmoved := smap_get_updates_moved (d := (0 : Byte)) (key := fun i => m.new_ + (i - m.old % 2 ^ 52)) (a := m.old % 2 ^ 52 + a)
      (smap_wf_page (lo := m.old % 2 ^ 52) hmem)
      (fun e he hkey => by have := mem_page he; omega) (m := clearRange s.mem m.new_ (2 ^ 16))
      (by rw [smap_get_clearRange, if_pos (by omega)])
    rw [smap_get_page 0 s.mem (by omega) (by omega)] at hmoved
    rw [← hplace]
    exact hmoved
  rw [State.rdByte, copyPage_mem, ← move_add m ha, smap_get_shown _ _ (smap_wf_page hhost) (page_moves_alone m ha),
    smap_get_page none s.host hold.1 hold.2, smap_get_shown _ _ (smap_wf_page hunseen) (page_moves_alone m ha),
    smap_get_page none s.unseen hold.1 hold.2, move_add m ha, hcopied]
  cases SMap.get none s.host (m.old + a) with
  | some h => rfl
  | none => cases SMap.get none s.unseen (m.old + a) <;> rfl

/-- No other byte of memory changes. -/
theorem rdByte_copyPage_other {a : Nat} (ha : a < m.new_ ∨ m.new_ + 2 ^ 16 ≤ a) : (s.copyPage m).rdByte a = s.rdByte a := by
  have hmoves : ∀ {α : Type} {xs : SMap α}, ∀ e ∈ SMap.page m.old xs, m.move e.1 ≠ a := fun e he hkey => by
    have := page_moves m he
    omega
  rw [State.rdByte, copyPage_mem, smap_get_shown_of_notMem _ _ hmoves, smap_get_shown_of_notMem _ _ hmoves]
  refine (smap_get_updates_of_notMem 0 (fun e : Nat × Byte => m.new_ + (e.1 - m.old % 2 ^ 52)) _ _ fun hin => ?_).trans
    ((smap_get_clearRange ..).trans (if_neg (by omega)))
  obtain ⟨e, he, hkey⟩ := List.mem_map.1 hin
  have := mem_page he
  omega

/-- A byte at its home outside both frames is as it was. -/
theorem homeByte_copyPage {key : Nat} (hold : key < m.old ∨ m.old + 2 ^ 16 ≤ key)
    (hmem : key.testBit 51 = false → key < m.new_ ∨ m.new_ + 2 ^ 16 ≤ key)
    (hhost : key.testBit 51 = true → key % 2 ^ 52 < m.new_ ∨ m.new_ + 2 ^ 16 ≤ key % 2 ^ 52) :
    (s.copyPage m).homeByte key = s.homeByte key := by
  have hout : ¬ (m.old ≤ key ∧ key < m.old + 2 ^ 16) := by omega
  have hcopies : SMap.get none (s.copyPage m).host key = SMap.get none s.host key := (smap_get_clearRange ..).trans (if_neg hout)
  have hshown : SMap.get none (s.copyPage m).unseen key = SMap.get none s.unseen key := (smap_get_clearRange ..).trans (if_neg hout)
  unfold State.homeByte
  cases hbit : key.testBit 51 with
  | false => exact rdByte_copyPage_other s m (hmem hbit)
  | true => simp only [if_true, State.hostByte, hcopies, hshown, rdByte_copyPage_other s m (hhost hbit)]

end Copy

/-! ### Bytes at their homes after a write (R241, R259) -/

theorem bytesOfNat_succ (n x : Nat) : bytesOfNat (n + 1) x = BitVec.ofNat 8 x :: bytesOfNat n (x / 2 ^ 8) := by
  simp only [bytesOfNat, List.range_succ_eq_map, List.map_cons, List.map_map, Nat.mul_zero, pow_zero, Nat.div_one]
  refine congrArg _ (List.map_congr_left fun i _ => ?_)
  rw [Function.comp_apply, Nat.div_div_eq_div_mul, ← pow_add, Nat.mul_succ, Nat.add_comm (8 * i)]

theorem natOfBytes_bytesOfNat (n x : Nat) : natOfBytes (bytesOfNat n x) = x % 2 ^ (8 * n) := by
  induction n generalizing x with
  | zero => simp [bytesOfNat, natOfBytes, Nat.mod_one]
  | succ n ih =>
    have hcons : natOfBytes (bytesOfNat (n + 1) x) = (BitVec.ofNat 8 x).toNat + 256 * natOfBytes (bytesOfNat n (x / 2 ^ 8)) := by
      rw [bytesOfNat_succ]
      rfl
    rw [hcons, ih, BitVec.toNat_ofNat, Nat.mul_succ, Nat.add_comm (8 * n), pow_add, Nat.mod_mul]
    rfl

theorem homePA_of_bytes {s : State} {key n x : Nat} (h : ∀ k, k < n → s.homeByte (key + k) = BitVec.ofNat 8 (x / 2 ^ (8 * k))) :
    s.homePA key n = x % 2 ^ (8 * n) := by
  rw [← natOfBytes_bytesOfNat, State.homePA, bytesOfNat]
  exact congrArg _ (List.map_congr_left fun k hk => h k (List.mem_range.1 hk))

theorem homePA_congr {s t : State} {key n : Nat} (h : ∀ k, k < n → t.homeByte (key + k) = s.homeByte (key + k)) :
    t.homePA key n = s.homePA key n := congrArg _ (List.map_congr_left fun k hk => h k (List.mem_range.1 hk))

theorem rdPA_wrPA (s : State) (pa n x : Nat) : (s.wrPA pa n x).rdPA pa n = x % 2 ^ (8 * n) := by
  rw [← natOfBytes_bytesOfNat, State.rdPA, bytesOfNat]
  refine congrArg _ (List.map_congr_left fun k hk => ?_)
  have hlt := List.mem_range.1 hk
  rw [rdByte_wrPA, if_pos (by omega), Nat.add_sub_cancel_left]

section Home
variable (s : State) (w : Option Nat) (part lid key n x : Nat)

theorem wrHome_host (h : key.testBit 51 = true) : (s.wrHome w part lid key n x).host
    = SMap.updates none (fun b : Byte × Nat => key + b.2) (fun b old => some (HByte.wrote old b.1 (w.getD 0) lid part))
        (bytesOfNat n x).zipIdx s.host := by
  rw [State.wrHome, if_pos h]
  rfl

variable {s w part lid key n x} in
/-- A host-aperture byte that was written is held with its value. -/
theorem host_wrHome (h : key.testBit 51 = true) {k : Nat} (hk : k < n) :
    ∃ b, SMap.get none (s.wrHome w part lid key n x).host (key + k) = some b ∧ b.val = BitVec.ofNat 8 (x / 2 ^ (8 * k)) := by
  have hmem : (BitVec.ofNat 8 (x / 2 ^ (8 * k)), k) ∈ (bytesOfNat n x).zipIdx := by
    rw [List.mk_mem_zipIdx_iff_getElem?]
    simp [bytesOfNat, hk]
  have hdiffer : ((bytesOfNat n x).zipIdx.map fun b : Byte × Nat => key + b.2).Nodup := by
    have hplaces : ((bytesOfNat n x).zipIdx.map fun b : Byte × Nat => key + b.2) = (List.range' 0 (bytesOfNat n x).length).map (key + ·) := by
      rw [← List.zipIdx_map_snd, List.map_map]
      rfl
    rw [hplaces]
    exact List.Nodup.map (add_right_injective key) List.nodup_range'
  rw [wrHome_host _ _ _ _ _ _ _ h]
  exact ⟨_, smap_get_updates none (fun b : Byte × Nat => key + b.2) _ hdiffer s.host hmem, rfl⟩

variable {s w part lid key n x} in
/-- What was written at its home is read there, whatever has been written elsewhere since. -/
theorem homeByte_of_wrHome {t : State} (hhost : t.host = (s.wrHome w part lid key n x).host)
    (hmem : ∀ k, k < n → t.rdByte (key + k) = (s.wrHome w part lid key n x).rdByte (key + k))
    {k : Nat} (hk : k < n) (hbit : (key + k).testBit 51 = key.testBit 51) :
    t.homeByte (key + k) = BitVec.ofNat 8 (x / 2 ^ (8 * k)) := by
  rw [State.homeByte, hbit]
  cases h : key.testBit 51 with
  | true =>
    obtain ⟨b, hb, hval⟩ := host_wrHome (s := s) (w := w) (part := part) (lid := lid) (x := x) h hk
    rw [if_pos rfl, State.hostByte, hhost, hb]
    exact hval
  | false =>
    rw [if_neg Bool.false_ne_true, hmem k hk, State.wrHome, h, if_neg Bool.false_ne_true, rdByte_wrPA, if_pos (by omega), Nat.add_sub_cancel_left]

theorem wrHome_parts : (s.wrHome w part lid key n x).parts = s.parts := by
  unfold State.wrHome
  split <;> rfl

end Home

end Sys2Proof.Machine

end

section
/-! SUPPORT. Migration (R211, R216): the leaf that a migration rewrites, the frame it posts, and its end. -/

namespace Sys2Proof.Machine

/-! ### A leaf with another frame (R189, R211) -/

/-- The number with n bits at a place replaced. -/
def setField (x lo n v : Nat) : Nat := x - x / 2 ^ lo % 2 ^ n * 2 ^ lo + v * 2 ^ lo

theorem setField_eq (x lo n v : Nat) : setField x lo n v = 2 ^ lo * (2 ^ n * (x / 2 ^ lo / 2 ^ n) + v) + x % 2 ^ lo := by
  have hlow := Nat.div_add_mod x (2 ^ lo)
  have hmid := Nat.div_add_mod (x / 2 ^ lo) (2 ^ n)
  have hx : x = 2 ^ lo * (2 ^ n * (x / 2 ^ lo / 2 ^ n)) + x / 2 ^ lo % 2 ^ n * 2 ^ lo + x % 2 ^ lo := by
    calc x = 2 ^ lo * (2 ^ n * (x / 2 ^ lo / 2 ^ n) + x / 2 ^ lo % 2 ^ n) + x % 2 ^ lo := by rw [hmid, hlow]
      _ = _ := by ring
  have hcut : x - x / 2 ^ lo % 2 ^ n * 2 ^ lo = 2 ^ lo * (2 ^ n * (x / 2 ^ lo / 2 ^ n)) + x % 2 ^ lo := by omega
  rw [setField, hcut]
  ring

theorem testBit_setField {v n : Nat} (hv : v < 2 ^ n) (x lo b : Nat) :
    (setField x lo n v).testBit b = if lo ≤ b ∧ b < lo + n then v.testBit (b - lo) else x.testBit b := by
  rw [setField_eq, Nat.testBit_two_pow_mul_add _ (Nat.mod_lt _ (by positivity)), Nat.testBit_two_pow_mul_add _ hv]
  by_cases hb : b < lo
  · rw [if_pos hb, if_neg (by omega), Nat.testBit_mod_two_pow]
    simp [hb]
  · rw [if_neg hb]
    by_cases hin : b - lo < n
    · rw [if_pos hin, if_pos (by omega)]
    · rw [if_neg hin, if_neg (by omega), Nat.testBit_div_two_pow, Nat.testBit_div_two_pow]
      congr 1
      omega

theorem setField_field {v n : Nat} (hv : v < 2 ^ n) (x lo : Nat) : setField x lo n v / 2 ^ lo % 2 ^ n = v := by
  rw [setField_eq, Nat.mul_add_div (by positivity), Nat.div_eq_of_lt (Nat.mod_lt x (by positivity)), Nat.add_zero, Nat.mul_add_mod,
    Nat.mod_eq_of_lt hv]

/-- What a migration writes to its leaf: no far bit, and the new frame's address. -/
def Mig.leafRaw (m : Mig) (raw : Nat) : Nat := raw - bitAt (raw.testBit 5) 5 - field raw 51 12 * 4096 + m.new_

theorem leafRaw_eq {m : Mig} (hnew : m.new_ % 2 ^ 16 = 0) (raw : Nat) :
    m.leafRaw raw = setField (setField raw 5 1 0) 12 40 (m.new_ / 2 ^ 12) := by
  have hbit : bitAt (raw.testBit 5) 5 = raw / 2 ^ 5 % 2 ^ 1 * 2 ^ 5 := by
    rw [Nat.testBit_eq_decide_div_mod_eq, pow_one]
    rcases Nat.mod_two_eq_zero_or_one (raw / 2 ^ 5) with h | h
    · rw [h]
      rfl
    · rw [h]
      rfl
  rw [Mig.leafRaw, hbit, setField, setField, field]
  omega

section Leaf
variable {m : Mig} (hnew : m.new_ % 2 ^ 16 = 0) (hlt : m.new_ + 2 ^ 16 ≤ 2 ^ 51) (raw : Nat)
include hnew hlt

theorem leafRaw_addr : m.leafRaw raw / 2 ^ 12 % 2 ^ 40 = m.new_ / 2 ^ 12 := by
  rw [leafRaw_eq hnew]
  exact setField_field (by omega) _ _

theorem testBit_leafRaw {b : Nat} (hb : b < 12 ∨ 51 < b) : (m.leafRaw raw).testBit b = (decide (b ≠ 5) && raw.testBit b) := by
  rw [leafRaw_eq hnew, testBit_setField (by omega), if_neg (by omega), testBit_setField (by decide)]
  by_cases h5 : b = 5
  · simp [h5]
  · rw [if_neg (by omega)]
    simp [h5]

end Leaf

/-! ### The released-frame ring (R216) -/

/-- The place of the next entry of the released-frame ring. -/
def Part.relAt (q : Part) : Nat := q.relReg.toNat % 2 ^ 52 / 4096 * 4096 + 8 * q.relTail.toNat

/-- The ring with one more entry. -/
def Part.released (q : Part) : Part := { q with relTail := w32 ((q.relTail.toNat + 1) % q.relSize) }

theorem postReleased_of {s : State} {p : Nat} {q : Part} (hq : s.part? p = some q) (entry : Nat) :
    s.postReleased p entry = (s.wrPA q.relAt 8 entry).modPart p Part.released := by
  rw [State.postReleased, hq]
  rfl

/-! ### MIGRATION (R211) -/

/-- The jobs and the accesses of a migration, and the translations that it sweeps. -/
def migrates (part leaf : Nat) (j : Job) : Bool := j.part == part && j.kind == .migrate leaf
def State.migrateRuns (s : State) (part leaf : Nat) : Bool := s.jobs.any fun j => migrates part leaf j && j.at_.isSome
def Mig.flies (m : Mig) (s : State) : Bool := s.inQueues (fun _ => true) fun x => x.addr / 2 ^ 16 == m.old / 2 ^ 16
def Mig.sweeps (m : Mig) (part : Nat) (t : Trans) : Bool :=
  t.part == part && (m.pages.any (fun v => t.covers v.1 part v.2) || t.level == 0 && homeKey part t.pa == m.old)

/-- The state with the page copied, then with its leaf rewritten and its translations swept. -/
def State.pageCopied (s : State) (m : Mig) : State := ((s.mergedFrame (m.old / 2 ^ 16)).copyPage m).follow m
def State.leafWritten (s : State) (part leaf : Nat) (m : Mig) : State :=
  (s.pageCopied m).wrHome none part 0 leaf 8 (m.leafRaw ((s.pageCopied m).homePA leaf 8))
def State.pageSwept (s : State) (part leaf : Nat) (m : Mig) : State := (s.leafWritten part leaf m).sweep (m.sweeps part)

/-- The state after MIGRATION. -/
def State.pagePosted (s : State) (part leaf : Nat) (m : Mig) : State := (s.pageSwept part leaf m).postReleased part (m.old % 2 ^ 51)
def State.migrated (s : State) (part leaf : Nat) (m : Mig) : State :=
  { s.pagePosted part leaf m with
    farCnt := SMap.set 0 (s.pagePosted part leaf m).farCnt leaf 0
    jobs := (s.pagePosted part leaf m).jobs.filter fun j => !migrates part leaf j }

theorem farCnt_migrated (s : State) (part leaf : Nat) (m : Mig) : SMap.get 0 (s.migrated part leaf m).farCnt leaf = 0 :=
  smap_get_set_self 0 (s.pagePosted part leaf m).farCnt leaf 0

section Migration
variable {s : State} {part leaf : Nat} {q : Part} {m : Mig}

theorem exec_migration (hq : s.part? part = some q) (hm : q.migs.find? (fun m => m.leaf == leaf) = some m) :
    exec (.migration part leaf) s = if s.migrateRuns part leaf && !m.flies s && decide (0 < q.relFree) then .next (s.migrated part leaf m)
      else .next s := by
  have hexec : exec (.migration part leaf) s = execMigration part leaf s := rfl
  rw [hexec, execMigration, hq]
  simp only [hm]
  rfl

theorem part?_pageSwept (hq : s.part? part = some q) (leaf : Nat) (m : Mig) : ∃ q', (s.pageSwept part leaf m).part? part = some q'
    ∧ q' = { q with departed := q'.departed } := by
  obtain ⟨q', hq', heq⟩ := (mergeKeeps_mergeWhere s fun e => e.gran / 2 ^ 11 == m.old / 2 ^ 16).part hq
  have hparts : (s.pageSwept part leaf m).parts = (s.mergedFrame (m.old / 2 ^ 16)).parts := wrHome_parts ..
  refine ⟨q', ?_, heq⟩
  rw [State.part?, hparts]
  exact hq'

/-- No TLB keeps a translation of a page that shares the leaf. -/
theorem covers_of_pageSwept {k : Core} (hk : k ∈ (s.pageSwept part leaf m).cores) {e : Trans} (he : e ∈ k.tlb) {v : Nat × Nat}
    (hv : v ∈ m.pages) : e.covers v.1 part v.2 = false := by
  rw [← Bool.not_eq_true]
  intro hcovers
  have hpart : (e.part == part) = true := by
    simp only [Trans.covers, Bool.and_eq_true] at hcovers
    obtain ⟨⟨⟨-, hpart⟩, -⟩, -⟩ := hcovers
    exact hpart
  have hhit : m.sweeps part e = true := by
    have hany : (m.pages.any fun v => e.covers v.1 part v.2) = true := List.any_eq_true.2 ⟨v, hv, hcovers⟩
    rw [Mig.sweeps, hpart, hany]
    rfl
  exact Bool.false_ne_true ((tlb_sweep hk he).symm.trans hhit)

/-- An aligned 8-byte entry lies in one half of the address space. -/
theorem testBit_51_add {leaf k : Nat} (hleaf : leaf % 8 = 0) (hk : k < 8) : (leaf + k).testBit 51 = leaf.testBit 51 := by
  rw [Nat.testBit_eq_decide_div_mod_eq, Nat.testBit_eq_decide_div_mod_eq]
  have hdiv : (leaf + k) / 2 ^ 51 = leaf / 2 ^ 51 := by omega
  rw [hdiv]

/-- The leaf outside both frames reads as before once the page is copied. -/
theorem homePA_pageCopied (hnone : ∀ k ∈ s.stands, ∀ e ∈ k.cbuf, e.gran / 2 ^ 11 ≠ m.old / 2 ^ 16) (hleaf : leaf % 8 = 0)
    (hlt : m.new_ + 2 ^ 16 ≤ 2 ^ 51) (hout : ∀ x ∈ [m.old, m.new_], x + 2 ^ 16 ≤ leaf ∨ leaf + 8 ≤ x) :
    (s.pageCopied m).homePA leaf 8 = s.homePA leaf 8 := by
  have hold := hout m.old (by simp)
  have hnew := hout m.new_ (by simp)
  refine homePA_congr fun k hk => ?_
  rw [State.pageCopied, mergedFrame_of_none hnone]
  refine homeByte_copyPage s m (by omega) (fun _ => by omega) fun hbit => ?_
  rw [Nat.testBit_eq_decide_div_mod_eq, decide_eq_true_eq] at hbit
  omega

/-- The leaf after MIGRATION. -/
theorem homePA_migrated (hq : s.part? part = some q) (hnone : ∀ k ∈ s.stands, ∀ e ∈ k.cbuf, e.gran / 2 ^ 11 ≠ m.old / 2 ^ 16)
    (hleaf : leaf % 8 = 0) (hlt : m.new_ + 2 ^ 16 ≤ 2 ^ 51) (hout : ∀ x ∈ [m.old, m.new_], x + 2 ^ 16 ≤ leaf ∨ leaf + 8 ≤ x)
    (hring : q.relAt + 8 ≤ leaf ∨ leaf + 8 ≤ q.relAt) :
    (s.migrated part leaf m).homePA leaf 8 = m.leafRaw (s.homePA leaf 8) % 2 ^ 64 := by
  obtain ⟨q', hq', heq⟩ := part?_pageSwept hq leaf m
  have hat : q'.relAt = q.relAt := by rw [heq]; rfl
  rw [← homePA_pageCopied hnone hleaf hlt hout]
  refine homePA_of_bytes fun k hk => ?_
  have hposted : s.pagePosted part leaf m = _ := postReleased_of hq' _
  refine homeByte_of_wrHome (s := s.pageCopied m) (w := none) (part := part) (lid := 0) ?_ (fun i hi => ?_) hk (testBit_51_add hleaf hk)
  · change (s.pagePosted part leaf m).host = _
    rw [hposted]
    rfl
  · change (s.pagePosted part leaf m).rdByte (leaf + i) = _
    rw [hposted, hat]
    exact (rdByte_wrPA ..).trans (if_neg (by omega))

end Migration

/-! ### MIGRATION_COMPLETE (R211) -/

/-- A parked path of an address space waits for no page of the migration. -/
def Mig.land (m : Mig) (asid : Nat) (p : Path) : Path :=
  { p with park := p.park.map fun k => { k with far := k.far.filter fun v => !m.pages.contains (asid, v) } }
def State.landCrew (s : State) (part : Nat) (m : Mig) (c : Crew) : Crew :=
  if s.partOf c == part then { c with paths := c.paths.map (m.land (s.space c).1) } else c

/-- The partition without the migration of a leaf. -/
def Part.landed (leaf : Nat) (q : Part) : Part := { q with migs := q.migs.filter fun n => n.leaf != leaf }

theorem landCrew_id (s : State) (part : Nat) (m : Mig) (c : Crew) : (s.landCrew part m c).id = c.id := by
  unfold State.landCrew
  split <;> rfl

theorem exec_migrationComplete {s : State} {part leaf : Nat} {q : Part} {m : Mig} (hq : s.part? part = some q)
    (hm : q.migs.find? (fun m => m.leaf == leaf) = some m) : exec (.migrationComplete part leaf) s
      = if s.jobs.any (migrates part leaf) then .next s else
        .next { s.modPart part (Part.landed leaf) with crews := s.crews.map (s.landCrew part m), jobs := wakeJobs s.jobs } := by
  have hexec : exec (.migrationComplete part leaf) s = execMigrationComplete part leaf s := rfl
  rw [hexec, execMigrationComplete, hq]
  simp only [hm]
  rfl

theorem migrationMovesAPage : Claims.MigrationMovesAPage := by
  refine ⟨fun s m hs _ _ a => ⟨fun ha => rdByte_copyPage_new m hs ha, fun ha => rdByte_copyPage_other s m ha⟩, ?_⟩
  intro part leaf s q m hq hm job flies ring
  refine ⟨fun hno => (exec_migration hq hm).trans (if_neg ?_), fun hruns hquiet hroom => ?move,
    fun hjob => (exec_migrationComplete hq hm).trans (if_pos hjob), fun hjob => ?complete⟩
  · intro hall
    simp only [Bool.and_eq_true, Bool.not_eq_true', decide_eq_true_eq] at hall
    obtain ⟨⟨hruns, hquiet⟩, hroom⟩ := hall
    rcases hno with hidle | hfly | hfull
    · exact Bool.false_ne_true (hidle.symm.trans hruns)
    · exact Bool.false_ne_true (hquiet.symm.trans hfly)
    · omega
  case move =>
    have hexec : exec (.migration part leaf) s = .next (s.migrated part leaf m) :=
      (exec_migration hq hm).trans (if_pos (by
        rw [Bool.and_eq_true, Bool.and_eq_true, Bool.not_eq_true', decide_eq_true_eq]
        exact ⟨⟨hruns, hquiet⟩, hroom⟩))
    obtain ⟨q', hq', heq⟩ := part?_pageSwept hq leaf m
    have hposted : s.pagePosted part leaf m = _ := postReleased_of hq' _
    have hat : q'.relAt = ring := by rw [heq]; rfl
    refine ⟨_, q'.released, hexec, ?_, by rw [heq]; rfl, farCnt_migrated s part leaf m, fun j hj => ?_, by rw [heq]; rfl, ?_,
      fun hnone hleaf hnew hlt hout hring => ?_, fun k hk e he v hv => ?_⟩
    · change (s.pagePosted part leaf m).part? part = _
      rw [hposted]
      exact part?_modPart_self (s := (s.pageSwept part leaf m).wrPA q'.relAt 8 (m.old % 2 ^ 51)) hq' Part.released
    · exact Bool.eq_false_of_not_eq_true' (List.mem_filter.1 hj).2
    · change (s.pagePosted part leaf m).rdPA ring 8 = _
      rw [hposted, hat]
      refine (rdPA_wrPA (s.pageSwept part leaf m) ring 8 (m.old % 2 ^ 51)).trans ?_
      omega
    · have hread := homePA_migrated hq hnone hleaf hlt hout hring
      have hlow : ∀ b, b < 64 → ((s.migrated part leaf m).homePA leaf 8).testBit b = (m.leafRaw (s.homePA leaf 8)).testBit b :=
        fun b hb => by rw [hread, Nat.testBit_mod_two_pow, decide_eq_true hb, Bool.true_and]
      refine ⟨?_, ?_, fun b hb h5 hfield => ?_⟩
      · rw [hread, ← leafRaw_addr hnew hlt (s.homePA leaf 8)]
        omega
      · rw [hlow 5 (by decide), testBit_leafRaw hnew hlt _ (by decide)]
        rfl
      · rw [hlow b hb, testBit_leafRaw hnew hlt _ hfield, decide_eq_true h5, Bool.true_and]
    · have hcores : (s.migrated part leaf m).cores = (s.pageSwept part leaf m).cores := by
        change (s.pagePosted part leaf m).cores = _
        rw [hposted]
        rfl
      exact covers_of_pageSwept (hcores ▸ hk) he hv
  case complete =>
    have hexec := (exec_migrationComplete hq hm).trans (if_neg (by exact ne_true_of_eq_false hjob))
    refine ⟨_, _, hexec, fun _ => rfl, part?_modPart_self hq (Part.landed leaf), rfl,
      fun c hc hpart => ⟨s.landCrew part m c, ?_, fun i k hk => ?_⟩⟩
    · exact (crewOf_map (landCrew_id s part m) { s.modPart part (Part.landed leaf) with jobs := wakeJobs s.jobs } c.id).trans
        (congrArg (Option.map _) hc)
    · refine ⟨{ k with far := k.far.filter fun v => !m.pages.contains ((s.space c).1, v) }, ?_, rfl⟩
      rw [State.landCrew, if_pos (beq_iff_eq.2 hpart), path_map rfl, Mig.land, hk]
      rfl

/-- Settles O41: a frame's state word and its scrub job; and the page's bytes, its leaf and its translations after a migration. -/
theorem framesAndMigration : Obligations.FramesAndMigration := ⟨framesAreFreedAndScrubbed, migrationMovesAPage⟩

end Sys2Proof.Machine

end
